-- ==== Sys2Proof/Word.lean ====
section
/-!
DEFINITION. The words of the machine and their plainest names: 64-bit x registers (Table 5-1), bytes, 32-bit instruction
words (R5), 256-bit vector registers and command words (R19, R57), and the register fields of an instruction word.
-/
namespace Sys2Proof

/-- An x register, a payload word or a CSR (Table 5-1). -/
abbrev Word := BitVec 64

/-- A byte of memory. -/
abbrev Byte := BitVec 8

/-- A vector register, a port entry of `lq` or `sq`, or a command word (R19, R57). -/
abbrev Vec := BitVec 256

/-- A 5-bit register field: an x register, a vector register (0 to 27) or a port (28 to 31, R12). -/
abbrev Reg := BitVec 5

/-- A 3-bit predicate number (R11). -/
abbrev PReg := BitVec 3

end Sys2Proof
end

