-- ==== Sys2Proof/Types.lean ====
section
/-!
DEFINITION. The kinds of thing that an event or a piece of state names: memory scopes (Table 7-1), agents (R126), views
(who a write has become visible to, R129), page-table leaves (Table 19-5), and the requests that reach the device from
outside (a launch, a partition, a work-queue binding, a boot report).
-/
namespace Sys2Proof

/-- A memory scope, in the order of its code in Table 2-10. -/
inductive Scope where
  | core | clu | grp | sgp | fld | part | sys
deriving DecidableEq, Repr

/-- An agent of R126. Clusters are numbered over the whole module (core id div 8); the network and the host mailbox engine
stand once per partition (Table 8-4), named by the partition's id. -/
inductive Agent where
  /-- a thread slot of a core -/
  | slot (core k : Nat)
  /-- the matrix engine of a cluster (path M) -/
  | matrix (cluster : Nat)
  /-- the copy unit of a cluster (path C) -/
  | copy (cluster : Nat)
  /-- the ring of a supergroup (path G) -/
  | ring (sg : Nat)
  /-- the loft bank engines of a core, taken together (path B) -/
  | loft (core : Nat)
  /-- the collective engine of a field (path K) -/
  | coll (field : Nat)
  /-- the Reeve of a field (R216), an agent of the field's instance in Table 7-1 -/
  | reeve (field : Nat)
  /-- the message network of a partition (path N) -/
  | net (part : Nat)
  /-- the host mailbox engine of a partition (path H) -/
  | host (part : Nat)
  /-- the fetch path of a core (R136, R137), which no fence reaches -/
  | fetch (core : Nat)
deriving DecidableEq, Repr

/-- A set of agents that a write has become visible to: one agent, or every agent of a scope instance (R129, R130). -/
inductive View where
  | one (a : Agent)
  | within (sc : Scope) (a : Agent)
  /-- the agents of `a`'s partition whose path has its bit in a mask of `xfence` (R154, Table 2-10) -/
  | classes (a : Agent) (mask : BitVec 8)
  /-- every agent, the fetch paths among them -/
  | all
deriving DecidableEq, Repr

/-- The agent class named by a test injection (R290). -/
inductive InjClass where
  | slot | engine | any
deriving DecidableEq, Repr

/-- The state of a page (Table 19-5). -/
inductive PageState where
  | notPresent | present | discarded | moving
deriving DecidableEq, Repr

/-- The tier of a page (Table 19-5). -/
inductive Tier where
  | silo | second | granary
deriving DecidableEq, Repr

/-- A leaf of the page table (Table 19-5). The frame is the physical address divided by 64 KiB. `lost` marks a page whose data
could not be read when its channel was retired (R284); the bits of Table 19-5 do not hold it. -/
structure Leaf where
  state : PageState
  tier  : Tier
  home  : Nat
  frame : Nat
  big   : Bool
  x     : Bool
  w     : Bool
  r     : Bool
  lost  : Bool
deriving DecidableEq, Repr

/-- The state of a silo channel (R284). -/
inductive ChanState where
  | full | narrowed | retired
deriving DecidableEq, Repr

/-- The target of a work queue (R311, Table 20-7). -/
inductive QTarget where
  | chan (core ch : Nat)
  | node (id : Nat)
  | reward
deriving DecidableEq, Repr

/-- The binding of a work queue (R311, R312): its partition, its local index, its target, and the host memory that its reply
ring and its count occupy. -/
structure QBinding where
  part      : Nat
  localIdx  : Nat
  target    : QTarget
  ringBase  : Nat
  ringSlots : Nat
  countAddr : Nat
deriving DecidableEq, Repr

/-- An entry of a partition's endpoint table (R312): a peer port, a peer module's partition and a core id there. -/
structure Endpoint where
  port : Nat
  part : Nat
  core : Nat
deriving DecidableEq, Repr

/-- A launch request (R303): the partition, the image in paged space, the placement of Table 2-20, the host address of the
16-byte launch status, and whether the host asked (otherwise the controller did). -/
structure LaunchReq where
  part       : Nat
  imageVA    : Nat
  imageLen   : Nat
  placement  : Word
  statusAddr : Nat
  fromHost   : Bool
deriving DecidableEq, Repr

/-- A request of the module's owner for a partition (R300), with the owner's other choices for it: test marking (R290), the
policy that images be signed (R281), reporting of faults at absent pages (R335), and W of the watchdog (R302). -/
structure PartReq where
  fields    : List Nat
  cap       : Word
  guarded   : Bool
  watchdog  : Nat
  routes    : List (Nat × Word)
  binds     : List (Nat × QBinding)
  endpoints : List (Nat × Endpoint)
  askFaults : Bool
  test      : Bool
  signed    : Bool
deriving DecidableEq, Repr

/-- A private key of RSA-4096 (R281, R282): the modulus and the two exponents. -/
structure PrivKey where
  n : Nat
  e : Nat
  d : Nat
deriving DecidableEq, Repr, Inhabited

/-- An image with its signature. -/
structure SignedImage where
  bytes : List Byte
  sig   : List Byte
deriving DecidableEq, Repr

/-- What a cold boot finds (Table 19-1): the root public key and the images that it is to verify; which positions fail; and the state of
the silo channels, elevators and CXL ports. Positions are numbered row × 24 + col, an elevator field × 16 + site. -/
structure BootReport where
  rootKey       : List Byte
  firmware      : SignedImage
  deadRouters   : List Nat
  badColumns    : List Nat
  silo          : List (Nat × ChanState)
  deadElevators : List Nat
  loftFw        : SignedImage
  service       : SignedImage
  cxlDown       : List Nat
deriving DecidableEq, Repr

/-- An agent that keeps a report buffer of its own (R336), or the controller. -/
inductive Reporter where
  /-- the mailbox of a core: NOCHAN, NOEP -/
  | mailbox (core : Nat)
  /-- the host mailbox engine of a partition: NOEP -/
  | hostEngine (part : Nat)
  /-- a copy unit: CPYPAGE -/
  | copyUnit (cluster : Nat)
  /-- a ring: RINGFLT -/
  | ring (sg : Nat)
  /-- a Reeve: GFAULT, GDROP -/
  | reeve (field : Nat)
  /-- the loft bank engines of a core: RWDDIR, RWDERR -/
  | loft (core : Nat)
  /-- a router, by its position: ROUTEERR -/
  | router (pos : Nat)
deriving DecidableEq, Repr

end Sys2Proof
end

