-- ==== Sys2Proof/Config.lean ====
section
/-!
DEFINITION. The values that the spec leaves open, each an opaque constant that no proof can evaluate: the order in which
enabled steps of different agents come, the cycles a step takes, the contents of registers and allocations at entry, the keys and
images that a module is made with, and where its silo sites join its mesh.
-/
namespace Sys2Proof.Config

/-- Which of several enabled steps comes next; the order of agents is open (R48, R126). -/
opaque choose : Nat → Nat

/-- The field clock cycles that a step takes (R2). -/
opaque cycles : Nat → Nat

/-- The correctable errors that the codes of the arrays correct in a step (R101, R156). -/
opaque corrections : Nat → Nat

/-- The bits of an x register, a vector register, a predicate or an allocation that hold unspecified values at the start of an
activation (R59, R61, R75). -/
opaque freeWord : Nat → Word

/-- As `freeWord`, for a vector register. -/
opaque freeVec : Nat → Vec

/-- As `freeWord`, for a byte of memory. -/
opaque freeByte : Nat → Byte

/-- The digest of the root public key in the module's fuses (R281). DESIGN CHOICE (assumption 25). -/
opaque rootDigest : List Byte

/-- The keys that a module is made with (R282): the identity key, 0, and the attestation key, 1. -/
opaque privateKey : Nat → PrivKey

/-- The certificates that vouch for an identity key, by its public half (R282). -/
opaque identityChain : List Byte → List (List Byte)

/-- The controller firmware, the loft firmware and the service image of the boot before the first state (R155, Table 19-3), by their order
in a quote. -/
opaque firmware : Nat → List Byte

/-- The router of a field that joins its mesh to a silo site (R284), as its local position, row × 4 + col, taken modulo 24.
DESIGN CHOICE (assumption 70). -/
opaque elevator : (field site : Nat) → Nat

end Sys2Proof.Config
end

