-- ==== Sys2Proof/Machine/AList.lean ====
section
/-!
DEFINITION. A sparse table by number: a list of pairs, keys strictly rising, one pair a key. State holds its many like things
(cores, channels, clusters, pages, queues) this way, an absent one standing for its reset value.
-/
namespace Sys2Proof.Machine

/-- A sparse table. -/
abbrev AMap (α : Type) := List (Nat × α)

/-- The entry of a key. -/
def AMap.get? {α : Type} : AMap α → Nat → Option α
  | [], _ => none
  | (k, v) :: m, n => if k = n then some v else AMap.get? m n

/-- The entry of a key, or a default. -/
def AMap.getD {α : Type} (m : AMap α) (n : Nat) (d : α) : α := (m.get? n).getD d

/-- The table with an entry set, in key order. -/
def AMap.put {α : Type} : AMap α → Nat → α → AMap α
  | [], n, v => [(n, v)]
  | (k, w) :: m, n, v =>
    if n < k then (n, v) :: (k, w) :: m
    else if k = n then (n, v) :: m
    else (k, w) :: AMap.put m n v

/-- The table without a key. -/
def AMap.del {α : Type} : AMap α → Nat → AMap α
  | [], _ => []
  | (k, w) :: m, n => if k = n then AMap.del m n else (k, w) :: AMap.del m n

/-- The keys of a table. -/
def AMap.keys {α : Type} (m : AMap α) : List Nat := m.map Prod.fst

end Sys2Proof.Machine
end

