-- ==== Sys2Proof/Syntax.lean ====
section
/-!
DEFINITION. The operations and events of the part, one constructor per row of the opcode table, in the table's order.
The first 208 are the 32-bit instruction words of R5 to R18, with the fields of their encodings as operands. An engine
command (R19, R20) is the step in which its engine takes a unit of that command; its operand names the engine, or the core
whose queue it takes from, and the command's own fields stand in the queued command word. The other rows are the events of
the part; an operand names the message, core, ring, node, queue or partition the event is about. Cores are 17-bit core ids
(R50), clusters core id div 8, supergroups logical ids.
-/
namespace Sys2Proof

/-- One row of the opcode table. -/
inductive Instr where
  /-- LUI (R78): Writes the sign-extended upper immediate to rd. -/
  | lui (rd : Reg) (imm : BitVec 20)
  /-- AUIPC (R78): Writes pc plus the sign-extended upper immediate to rd. -/
  | auipc (rd : Reg) (imm : BitVec 20)
  /-- JAL (R78): Links pc+4 and jumps by the offset; a misaligned target traps without linking (R5). -/
  | jal (rd : Reg) (off : BitVec 20)
  /-- JALR (R78): Links pc+4 and jumps to rs1 plus the immediate with bit 0 cleared. -/
  | jalr (rd rs : Reg) (imm : BitVec 12)
  /-- BEQ (R78): Branches when rs1 equals rs2. -/
  | beq (rs rt : Reg) (off : BitVec 12)
  /-- BNE (R78): Branches when rs1 differs from rs2. -/
  | bne (rs rt : Reg) (off : BitVec 12)
  /-- BLT (R78): Branches when rs1 is less than rs2, signed. -/
  | blt (rs rt : Reg) (off : BitVec 12)
  /-- BGE (R78): Branches when rs1 is at least rs2, signed. -/
  | bge (rs rt : Reg) (off : BitVec 12)
  /-- BLTU (R78): Branches when rs1 is less than rs2, cardinal. -/
  | bltu (rs rt : Reg) (off : BitVec 12)
  /-- BGEU (R78): Branches when rs1 is at least rs2, cardinal. -/
  | bgeu (rs rt : Reg) (off : BitVec 12)
  /-- LB (R78): Loads a sign-extended byte on path L. -/
  | lb (rd rs : Reg) (imm : BitVec 12)
  /-- LH (R78): Loads a sign-extended halfword on path L. -/
  | lh (rd rs : Reg) (imm : BitVec 12)
  /-- LW (R78): Loads a sign-extended word on path L. -/
  | lw (rd rs : Reg) (imm : BitVec 12)
  /-- LD (R78): Loads a doubleword on path L. -/
  | ld (rd rs : Reg) (imm : BitVec 12)
  /-- LBU (R78): Loads a zero-extended byte on path L. -/
  | lbu (rd rs : Reg) (imm : BitVec 12)
  /-- LHU (R78): Loads a zero-extended halfword on path L. -/
  | lhu (rd rs : Reg) (imm : BitVec 12)
  /-- LWU (R78): Loads a zero-extended word on path L. -/
  | lwu (rd rs : Reg) (imm : BitVec 12)
  /-- SB (R78): Stores the low byte of rs2 on path L. -/
  | sb (rt rs : Reg) (imm : BitVec 12)
  /-- SH (R78): Stores the low halfword of rs2 on path L. -/
  | sh (rt rs : Reg) (imm : BitVec 12)
  /-- SW (R78): Stores the low word of rs2 on path L. -/
  | sw (rt rs : Reg) (imm : BitVec 12)
  /-- SD (R78): Stores the doubleword of rs2 on path L. -/
  | sd (rt rs : Reg) (imm : BitVec 12)
  /-- ADDI (R78): Adds a sign-extended immediate. -/
  | addi (rd rs : Reg) (imm : BitVec 12)
  /-- SLTI (R78): Sets rd when rs1 is less than the immediate, signed. -/
  | slti (rd rs : Reg) (imm : BitVec 12)
  /-- SLTIU (R78): Sets rd when rs1 is less than the immediate, cardinal. -/
  | sltiu (rd rs : Reg) (imm : BitVec 12)
  /-- XORI (R78): Exclusive-or with an immediate. -/
  | xori (rd rs : Reg) (imm : BitVec 12)
  /-- ORI (R78): Or with an immediate. -/
  | ori (rd rs : Reg) (imm : BitVec 12)
  /-- ANDI (R78): And with an immediate. -/
  | andi (rd rs : Reg) (imm : BitVec 12)
  /-- SLLI (R78): Shifts left by a 6-bit immediate. -/
  | slli (rd rs : Reg) (sh : BitVec 6)
  /-- SRLI (R78): Shifts right logically by a 6-bit immediate. -/
  | srli (rd rs : Reg) (sh : BitVec 6)
  /-- SRAI (R78): Shifts right arithmetically by a 6-bit immediate. -/
  | srai (rd rs : Reg) (sh : BitVec 6)
  /-- ADD (R78): Adds two registers. -/
  | add (rd rs rt : Reg)
  /-- SUB (R78): Subtracts two registers. -/
  | sub (rd rs rt : Reg)
  /-- SLL (R78): Shifts left by rs2[5:0]. -/
  | sll (rd rs rt : Reg)
  /-- SLT (R78): Sets rd when rs1 is less than rs2, signed. -/
  | slt (rd rs rt : Reg)
  /-- SLTU (R78): Sets rd when rs1 is less than rs2, cardinal. -/
  | sltu (rd rs rt : Reg)
  /-- XOR (R78): Exclusive-or of two registers. -/
  | xor_ (rd rs rt : Reg)
  /-- SRL (R78): Shifts right logically by rs2[5:0]. -/
  | srl (rd rs rt : Reg)
  /-- SRA (R78): Shifts right arithmetically by rs2[5:0]. -/
  | sra (rd rs rt : Reg)
  /-- OR (R78): Or of two registers. -/
  | or_ (rd rs rt : Reg)
  /-- AND (R78): And of two registers. -/
  | and_ (rd rs rt : Reg)
  /-- ADDIW (R78): 32-bit add of an immediate, result sign-extended. -/
  | addiw (rd rs : Reg) (imm : BitVec 12)
  /-- SLLIW (R78): 32-bit left shift by immediate, result sign-extended. -/
  | slliw (rd rs : Reg) (sh : BitVec 5)
  /-- SRLIW (R78): 32-bit logical right shift by immediate, result sign-extended. -/
  | srliw (rd rs : Reg) (sh : BitVec 5)
  /-- SRAIW (R78): 32-bit arithmetic right shift by immediate, result sign-extended. -/
  | sraiw (rd rs : Reg) (sh : BitVec 5)
  /-- ADDW (R78): 32-bit add, result sign-extended. -/
  | addw (rd rs rt : Reg)
  /-- SUBW (R78): 32-bit subtract, result sign-extended. -/
  | subw (rd rs rt : Reg)
  /-- SLLW (R78): 32-bit left shift, result sign-extended. -/
  | sllw (rd rs rt : Reg)
  /-- SRLW (R78): 32-bit logical right shift, result sign-extended. -/
  | srlw (rd rs rt : Reg)
  /-- SRAW (R78): 32-bit arithmetic right shift, result sign-extended. -/
  | sraw (rd rs rt : Reg)
  /-- MUL (R78): Low 64 bits of the product. -/
  | mul (rd rs rt : Reg)
  /-- MULH (R78): High 64 bits of the signed product. -/
  | mulh (rd rs rt : Reg)
  /-- MULHSU (R78): High 64 bits of the signed-by-cardinal product. -/
  | mulhsu (rd rs rt : Reg)
  /-- MULHU (R78): High 64 bits of the cardinal product. -/
  | mulhu (rd rs rt : Reg)
  /-- DIV (R78): Signed division with RISC-V results for zero divisor and overflow. -/
  | div (rd rs rt : Reg)
  /-- DIVU (R78): Cardinal division. -/
  | divu (rd rs rt : Reg)
  /-- REM (R78): Signed remainder. -/
  | rem (rd rs rt : Reg)
  /-- REMU (R78): Cardinal remainder. -/
  | remu (rd rs rt : Reg)
  /-- MULW (R78): 32-bit multiply, result sign-extended. -/
  | mulw (rd rs rt : Reg)
  /-- DIVW (R78): 32-bit signed division, result sign-extended. -/
  | divw (rd rs rt : Reg)
  /-- DIVUW (R78): 32-bit cardinal division, result sign-extended. -/
  | divuw (rd rs rt : Reg)
  /-- REMW (R78): 32-bit signed remainder, result sign-extended. -/
  | remw (rd rs rt : Reg)
  /-- REMUW (R78): 32-bit cardinal remainder, result sign-extended. -/
  | remuw (rd rs rt : Reg)
  /-- LR_W (R80): Loads a word and sets the slot's reservation on its granule. -/
  | lrW (aq rl : BitVec 1) (rd rs : Reg)
  /-- LR_D (R80): Loads a doubleword and sets the slot's reservation on its granule. -/
  | lrD (aq rl : BitVec 1) (rd rs : Reg)
  /-- SC_W (R80): Conditionally stores a word if the reservation holds, and clears it. -/
  | scW (aq rl : BitVec 1) (rd rt rs : Reg)
  /-- SC_D (R80): Conditionally stores a doubleword if the reservation holds, and clears it. -/
  | scD (aq rl : BitVec 1) (rd rt rs : Reg)
  /-- AMOSWAP_W (R78): Atomic word swap at partition scope. -/
  | amoswapW (aq rl : BitVec 1) (rd rt rs : Reg)
  /-- AMOSWAP_D (R78): Atomic doubleword swap at partition scope. -/
  | amoswapD (aq rl : BitVec 1) (rd rt rs : Reg)
  /-- AMOADD_W (R78): Atomic word add at partition scope. -/
  | amoaddW (aq rl : BitVec 1) (rd rt rs : Reg)
  /-- AMOADD_D (R78): Atomic doubleword add at partition scope. -/
  | amoaddD (aq rl : BitVec 1) (rd rt rs : Reg)
  /-- AMOXOR_W (R78): Atomic word exclusive-or. -/
  | amoxorW (aq rl : BitVec 1) (rd rt rs : Reg)
  /-- AMOXOR_D (R78): Atomic doubleword exclusive-or. -/
  | amoxorD (aq rl : BitVec 1) (rd rt rs : Reg)
  /-- AMOAND_W (R78): Atomic word and. -/
  | amoandW (aq rl : BitVec 1) (rd rt rs : Reg)
  /-- AMOAND_D (R78): Atomic doubleword and. -/
  | amoandD (aq rl : BitVec 1) (rd rt rs : Reg)
  /-- AMOOR_W (R78): Atomic word or. -/
  | amoorW (aq rl : BitVec 1) (rd rt rs : Reg)
  /-- AMOOR_D (R78): Atomic doubleword or. -/
  | amoorD (aq rl : BitVec 1) (rd rt rs : Reg)
  /-- AMOMIN_W (R78): Atomic signed word minimum. -/
  | amominW (aq rl : BitVec 1) (rd rt rs : Reg)
  /-- AMOMIN_D (R78): Atomic signed doubleword minimum. -/
  | amominD (aq rl : BitVec 1) (rd rt rs : Reg)
  /-- AMOMAX_W (R78): Atomic signed word maximum. -/
  | amomaxW (aq rl : BitVec 1) (rd rt rs : Reg)
  /-- AMOMAX_D (R78): Atomic signed doubleword maximum. -/
  | amomaxD (aq rl : BitVec 1) (rd rt rs : Reg)
  /-- AMOMINU_W (R78): Atomic cardinal word minimum. -/
  | amominuW (aq rl : BitVec 1) (rd rt rs : Reg)
  /-- AMOMINU_D (R78): Atomic cardinal doubleword minimum. -/
  | amominuD (aq rl : BitVec 1) (rd rt rs : Reg)
  /-- AMOMAXU_W (R78): Atomic cardinal word maximum. -/
  | amomaxuW (aq rl : BitVec 1) (rd rt rs : Reg)
  /-- AMOMAXU_D (R78): Atomic cardinal doubleword maximum. -/
  | amomaxuD (aq rl : BitVec 1) (rd rt rs : Reg)
  /-- FENCE (R81): Acts as fence.s.part with its predecessor and successor sets mapped. -/
  | fence (fm p s : BitVec 4) (rs rd : Reg)
  /-- FENCE_TSO (R81): Acts as fence.s.part rw, rw. -/
  | fenceTso (rs rd : Reg)
  /-- FENCE_I (R10): Executes as ifence.s.core. -/
  | fenceI (imm : BitVec 12) (rs rd : Reg)
  /-- ECALL (R82): Queues an unbuffered ECALL service message to channel 62 of the service core and continues. -/
  | ecall
  /-- EBREAK (R78): Traps with EBREAK. -/
  | ebreak
  /-- CSRRW (R77): Reads a CSR and writes rs1 into it as one indivisible step. -/
  | csrrw (rd : Reg) (csr : BitVec 12) (rs : Reg)
  /-- CSRRS (R77): Reads a CSR and sets the bits of rs1; no write when rs1 is x0. -/
  | csrrs (rd : Reg) (csr : BitVec 12) (rs : Reg)
  /-- CSRRC (R77): Reads a CSR and clears the bits of rs1; no write when rs1 is x0. -/
  | csrrc (rd : Reg) (csr : BitVec 12) (rs : Reg)
  /-- CSRRWI (R77): Reads a CSR and writes the zero-extended immediate. -/
  | csrrwi (rd : Reg) (csr : BitVec 12) (z : BitVec 5)
  /-- CSRRSI (R77): Reads a CSR and sets immediate bits; no write for a zero immediate. -/
  | csrrsi (rd : Reg) (csr : BitVec 12) (z : BitVec 5)
  /-- CSRRCI (R77): Reads a CSR and clears immediate bits; no write for a zero immediate. -/
  | csrrci (rd : Reg) (csr : BitVec 12) (z : BitVec 5)
  /-- SEND (R67): Checks a header and buffers a message with x-register payload until exit. -/
  | send (rh rp : Reg) (n : BitVec 3)
  /-- SENDR (R67): Buffers a message with x-register payload on a numbered static route. -/
  | sendr (rh rp : Reg) (n : BitVec 3) (rr : Reg)
  /-- SENDV (R67): Buffers a message whose payload comes from a vector register. -/
  | sendv (rh vs : Reg) (n : BitVec 3)
  /-- EXIT (R69): Releases buffered sends, frees the activation's resources and queue entries, and idles the slot. -/
  | exit
  /-- EXIT_SUCC (R70): Releases sends and continues in the same slot as the handler of another channel. -/
  | exitSucc (rs : Reg)
  /-- SPAWN (R71): Sends an unbuffered request to start a child on a core and waits for the answer. -/
  | spawn (rd rc rpc : Reg)
  /-- WAITM (R72): Waits on a disabled channel for a message not yet taken and loads it into registers. -/
  | waitm (rd rs : Reg)
  /-- CRIT_ON (R74): Sets the slot's crit bit, waiting in a normal slot until slot 3 is idle. -/
  | critOn
  /-- CRIT_OFF (R74): Clears the slot's crit bit. -/
  | critOff
  /-- CHMASK (R73): Returns a channel's state word and sets its enable bit indivisibly. -/
  | chmask (rd rs rv : Reg)
  /-- CHPEND (R73): Returns a channel's state word and sets its pending bit indivisibly. -/
  | chpend (rd rs rv : Reg)
  /-- GTOK (R235): Buffers a token message carrying a count to a Reeve node. -/
  | gtok (rn rc : Reg)
  /-- GLAUNCH (R236): Sends an unbuffered graph launch request to the field's Reeve and waits for the answer. -/
  | glaunch (rd rs : Reg)
  /-- GCANCEL (R237): Sends an unbuffered request to cancel a node's cone without retry. -/
  | gcancel (rs : Reg)
  /-- GSTAT (R238): Requests a node's status word from the Reeve and waits for it. -/
  | gstat (rd rs : Reg)
  /-- GTRIG (R239): In an untriggered graph activation, fences and counts its trigger at once. -/
  | gtrig
  /-- RWD (R264): Buffers a reward broadcast with value, mode, key and token target until exit. -/
  | rwd (rs rl : Reg) (clear : BitVec 1)
  /-- VADD (R110): Lane-wise wrapping add. -/
  | vadd (pg : PReg) (ew : BitVec 2) (vd vs1 vs2 : Reg)
  /-- VADD_SAT (R110): Lane-wise signed saturating add. -/
  | vaddSat (pg : PReg) (ew : BitVec 2) (vd vs1 vs2 : Reg)
  /-- VADD_SATC (R110): Lane-wise cardinal saturating add. -/
  | vaddSatc (pg : PReg) (ew : BitVec 2) (vd vs1 vs2 : Reg)
  /-- VSUB (R110): Lane-wise wrapping subtract. -/
  | vsub (pg : PReg) (ew : BitVec 2) (vd vs1 vs2 : Reg)
  /-- VSUB_SAT (R110): Lane-wise signed saturating subtract. -/
  | vsubSat (pg : PReg) (ew : BitVec 2) (vd vs1 vs2 : Reg)
  /-- VSUB_SATC (R110): Lane-wise cardinal saturating subtract. -/
  | vsubSatc (pg : PReg) (ew : BitVec 2) (vd vs1 vs2 : Reg)
  /-- VMUL (R110): Lane-wise low product. -/
  | vmul (pg : PReg) (ew : BitVec 2) (vd vs1 vs2 : Reg)
  /-- VMULH (R110): Lane-wise high signed product. -/
  | vmulh (pg : PReg) (ew : BitVec 2) (vd vs1 vs2 : Reg)
  /-- VMULH_C (R110): Lane-wise high cardinal product. -/
  | vmulhC (pg : PReg) (ew : BitVec 2) (vd vs1 vs2 : Reg)
  /-- VAND (R110): Lane-wise and. -/
  | vand (pg : PReg) (ew : BitVec 2) (vd vs1 vs2 : Reg)
  /-- VOR (R110): Lane-wise or. -/
  | vor (pg : PReg) (ew : BitVec 2) (vd vs1 vs2 : Reg)
  /-- VXOR (R110): Lane-wise exclusive-or. -/
  | vxor (pg : PReg) (ew : BitVec 2) (vd vs1 vs2 : Reg)
  /-- VSLL (R110): Lane-wise left shift. -/
  | vsll (pg : PReg) (ew : BitVec 2) (vd vs1 vs2 : Reg)
  /-- VSRL (R110): Lane-wise logical right shift. -/
  | vsrl (pg : PReg) (ew : BitVec 2) (vd vs1 vs2 : Reg)
  /-- VSRA (R110): Lane-wise arithmetic right shift. -/
  | vsra (pg : PReg) (ew : BitVec 2) (vd vs1 vs2 : Reg)
  /-- VMIN (R110): Lane-wise signed minimum. -/
  | vmin (pg : PReg) (ew : BitVec 2) (vd vs1 vs2 : Reg)
  /-- VMIN_C (R110): Lane-wise cardinal minimum. -/
  | vminC (pg : PReg) (ew : BitVec 2) (vd vs1 vs2 : Reg)
  /-- VMAX (R110): Lane-wise signed maximum. -/
  | vmax (pg : PReg) (ew : BitVec 2) (vd vs1 vs2 : Reg)
  /-- VMAX_C (R110): Lane-wise cardinal maximum. -/
  | vmaxC (pg : PReg) (ew : BitVec 2) (vd vs1 vs2 : Reg)
  /-- VCMP_EQ (R111): Sets predicate lanes where the lanes are equal. -/
  | vcmpEq (pg : PReg) (ew : BitVec 2) (pd : PReg) (c : BitVec 1) (vs1 vs2 : Reg)
  /-- VCMP_NE (R111): Sets predicate lanes where the lanes differ. -/
  | vcmpNe (pg : PReg) (ew : BitVec 2) (pd : PReg) (c : BitVec 1) (vs1 vs2 : Reg)
  /-- VCMP_LT (R111): Sets predicate lanes where vs1 is less than vs2, signed or cardinal. -/
  | vcmpLt (pg : PReg) (ew : BitVec 2) (pd : PReg) (c : BitVec 1) (vs1 vs2 : Reg)
  /-- VCMP_LE (R111): Sets predicate lanes where vs1 is at most vs2, signed or cardinal. -/
  | vcmpLe (pg : PReg) (ew : BitVec 2) (pd : PReg) (c : BitVec 1) (vs1 vs2 : Reg)
  /-- VSEL (R112): Selects each byte from vs1 or vs2 by a predicate. -/
  | vsel (pk : PReg) (vd vs1 vs2 : Reg)
  /-- VFADD (R113): Lane-wise floating add with one rounding. -/
  | vfadd (pg : PReg) (vd vs1 vs2 : Reg)
  /-- VFSUB (R113): Lane-wise floating subtract. -/
  | vfsub (pg : PReg) (vd vs1 vs2 : Reg)
  /-- VFMUL (R113): Lane-wise floating multiply. -/
  | vfmul (pg : PReg) (vd vs1 vs2 : Reg)
  /-- VFMA (R113): Lane-wise fused multiply-add into vd with one rounding. -/
  | vfma (pg : PReg) (vd vs1 vs2 : Reg)
  /-- VFMIN (R113): Lane-wise floating minimum. -/
  | vfmin (pg : PReg) (vd vs1 vs2 : Reg)
  /-- VFMAX (R113): Lane-wise floating maximum. -/
  | vfmax (pg : PReg) (vd vs1 vs2 : Reg)
  /-- VFRCP (R113): Lane-wise correctly rounded reciprocal. -/
  | vfrcp (pg : PReg) (vd vs : Reg)
  /-- VFCMP_EQ (R114): Sets predicate lanes where floating lanes are equal. -/
  | vfcmpEq (pg : PReg) (pd : PReg) (vs1 vs2 : Reg)
  /-- VFCMP_LT (R114): Sets predicate lanes where vs1 is less than vs2. -/
  | vfcmpLt (pg : PReg) (pd : PReg) (vs1 vs2 : Reg)
  /-- VFCMP_LE (R114): Sets predicate lanes where vs1 is at most vs2. -/
  | vfcmpLe (pg : PReg) (pd : PReg) (vs1 vs2 : Reg)
  /-- VFCMP_UN (R114): Sets predicate lanes where either operand is NaN. -/
  | vfcmpUn (pg : PReg) (pd : PReg) (vs1 vs2 : Reg)
  /-- VCVT (R115): Converts lanes between the prefix formats. -/
  | vcvt (pg : PReg) (vd vs : Reg)
  /-- VENC8 (R116): Encodes lanes to T8, i8 or c8 bytes. -/
  | venc8 (pg : PReg) (vd vs : Reg)
  /-- VDEC8 (R117): Decodes T8, i8 or c8 bytes to floating lanes. -/
  | vdec8 (pg : PReg) (vd vs : Reg)
  /-- VTFADE (R123): Fades and flushes TL16 trace lanes by a fade amount and threshold. -/
  | vtfade (pg : PReg) (vd vs1 vs2 : Reg)
  /-- VTACC (R124): Adds an FP32 amplitude into TL16 trace lanes. -/
  | vtacc (pg : PReg) (vd vs1 vs2 : Reg)
  /-- VTDEC (R125): Decodes TL16 lanes 0 to 7 to FP32. -/
  | vtdec (pg : PReg) (vd vs : Reg)
  /-- VTENC (R125): Encodes FP32 lanes to TL16 lanes 0 to 7. -/
  | vtenc (pg : PReg) (vd vs : Reg)
  /-- VLD (R106): Loads 32 bytes into a vector register or lq after checking every active element. -/
  | vld (pg : PReg) (vd rs : Reg) (off : BitVec 9)
  /-- VST (R106): Stores 32 bytes from a vector register or sq. -/
  | vst (pg : PReg) (vd rs : Reg) (off : BitVec 9)
  /-- VLDS (R106): Strided lane load. -/
  | vlds (pg : PReg) (ew : BitVec 2) (vd rs rt : Reg)
  /-- VSTS (R106): Strided lane store. -/
  | vsts (pg : PReg) (ew : BitVec 2) (vd rs rt : Reg)
  /-- VLDX (R106): Indexed lane load. -/
  | vldx (pg : PReg) (ew : BitVec 2) (vd rs vi : Reg)
  /-- VSTX (R106): Indexed lane store. -/
  | vstx (pg : PReg) (ew : BitVec 2) (vd rs vi : Reg)
  /-- VBC (R109): Broadcasts an x register into active lanes. -/
  | vbc (pg : PReg) (ew : BitVec 2) (vd rs : Reg)
  /-- VMVX (R109): Moves a lane, or a popped bq entry, into an x register. -/
  | vmvx (ew : BitVec 2) (rd vs k : Reg)
  /-- VMXV (R109): Moves an x register into a lane, or pushes it into aq. -/
  | vmxv (ew : BitVec 2) (vd rs k : Reg)
  /-- VPERM (R118): Permutes lanes by an index vector. -/
  | vperm (pg : PReg) (ew : BitVec 2) (vd vs vi : Reg)
  /-- VROT (R118): Rotates lanes by k. -/
  | vrot (pg : PReg) (ew : BitVec 2) (vd vs k : Reg)
  /-- VVOTE (R119): Computes any, all, ballot or uniform over active lanes. -/
  | vvote (pg : PReg) (ew : BitVec 2) (vd vs m : Reg)
  /-- VMATCH (R120): Gives each lane the index of the first active lane holding its value. -/
  | vmatch (pg : PReg) (ew : BitVec 2) (vd vs : Reg)
  /-- VRED_ADD (R121): Wrapping sum of active lanes into every lane or bq. -/
  | vredAdd (pg : PReg) (ew : BitVec 2) (vd vs : Reg)
  /-- VRED_FADD (R46): FP32 sum of active lanes by the fixed pairwise tree. -/
  | vredFadd (pg : PReg) (vd vs : Reg)
  /-- VRED_MIN (R121): Minimum of active lanes, signed or FP32. -/
  | vredMin (pg : PReg) (ew : BitVec 2) (vd vs : Reg)
  /-- VRED_MAX (R121): Maximum of active lanes, signed or FP32. -/
  | vredMax (pg : PReg) (ew : BitVec 2) (vd vs : Reg)
  /-- PAND (R122): And of two predicates. -/
  | pand (pd ps pt : PReg)
  /-- POR (R122): Or of two predicates. -/
  | por (pd ps pt : PReg)
  /-- PNOT (R122): Complement of a predicate. -/
  | pnot (pd ps : PReg)
  /-- PSET (R122): Sets a predicate from x[rs][31:0]. -/
  | pset (pd : PReg) (rs : Reg)
  /-- CRED_ADD (R150): Joins a cluster rendezvous for a wrapping 64-bit sum. -/
  | credAdd (rd rs : Reg)
  /-- CRED_FADD (R150): Joins a cluster rendezvous for an FP32 sum in ascending core order. -/
  | credFadd (rd rs : Reg)
  /-- CRED_MIN (R150): Joins a cluster rendezvous for a signed minimum. -/
  | credMin (rd rs : Reg)
  /-- CRED_MAX (R150): Joins a cluster rendezvous for a signed maximum. -/
  | credMax (rd rs : Reg)
  /-- CBAR (R151): Joins a cluster barrier that orders path L accesses around one point. -/
  | cbar
  /-- CBC (R152): Joins a cluster broadcast of one core's contribution. -/
  | cbc (rd rs rc : Reg)
  /-- CXCH (R152): Joins a cluster exchange taking a partner core's contribution. -/
  | cxch (rd rs rc : Reg)
  /-- CMD (R98): Pushes a command word into the core's engine queue and writes its job id. -/
  | cmd (rd vs : Reg)
  /-- JWAIT (R99): Seals the open job of a class and waits until at most n jobs are outstanding. -/
  | jwait (n : BitVec 7) (cls : BitVec 4)
  /-- JPOLL (R99): Returns a job's status or the count of outstanding jobs. -/
  | jpoll (rd rs : Reg) (cls : BitVec 4)
  /-- FENCE_S (R134): Orders the slot's path L and N accesses at a named scope. -/
  | fenceS (sc : BitVec 3) (pr pw qr qw : BitVec 1)
  /-- IFENCE_S (R137): Waits for visible writes to reach the fetch path and discards the fetch buffer. -/
  | ifenceS (sc : BitVec 3)
  /-- XFENCE (R154): Seals and waits for jobs and orders accesses across named access paths. -/
  | xfence (p s : BitVec 8)
  /-- FMT (R97): Holds formats, table, rounding and scale for the slot's next instruction. -/
  | fmt (fin fout : BitVec 4) (tab rm : BitVec 2) (rs : Reg) (mode : BitVec 2)
  /-- AMO_SC_SWAP_W (R139): Scoped atomic word swap. -/
  | amoScSwapW (sc : BitVec 3) (rd rt rs : Reg)
  /-- AMO_SC_ADD_W (R139): Scoped atomic word add. -/
  | amoScAddW (sc : BitVec 3) (rd rt rs : Reg)
  /-- AMO_SC_XOR_W (R139): Scoped atomic word exclusive-or. -/
  | amoScXorW (sc : BitVec 3) (rd rt rs : Reg)
  /-- AMO_SC_AND_W (R139): Scoped atomic word and. -/
  | amoScAndW (sc : BitVec 3) (rd rt rs : Reg)
  /-- AMO_SC_OR_W (R139): Scoped atomic word or. -/
  | amoScOrW (sc : BitVec 3) (rd rt rs : Reg)
  /-- AMO_SC_MIN_W (R139): Scoped atomic signed word minimum. -/
  | amoScMinW (sc : BitVec 3) (rd rt rs : Reg)
  /-- AMO_SC_MAX_W (R139): Scoped atomic signed word maximum. -/
  | amoScMaxW (sc : BitVec 3) (rd rt rs : Reg)
  /-- AMO_SC_MIN_C_W (R139): Scoped atomic cardinal word minimum. -/
  | amoScMinCW (sc : BitVec 3) (rd rt rs : Reg)
  /-- AMO_SC_MAX_C_W (R139): Scoped atomic cardinal word maximum. -/
  | amoScMaxCW (sc : BitVec 3) (rd rt rs : Reg)
  /-- AMO_SC_FADD_W (R139): Scoped atomic FP32 add rounded to nearest even. -/
  | amoScFaddW (sc : BitVec 3) (rd rt rs : Reg)
  /-- AMO_SC_SWAP_D (R139): Scoped atomic doubleword swap. -/
  | amoScSwapD (sc : BitVec 3) (rd rt rs : Reg)
  /-- AMO_SC_ADD_D (R139): Scoped atomic doubleword add. -/
  | amoScAddD (sc : BitVec 3) (rd rt rs : Reg)
  /-- AMO_SC_XOR_D (R139): Scoped atomic doubleword exclusive-or. -/
  | amoScXorD (sc : BitVec 3) (rd rt rs : Reg)
  /-- AMO_SC_AND_D (R139): Scoped atomic doubleword and. -/
  | amoScAndD (sc : BitVec 3) (rd rt rs : Reg)
  /-- AMO_SC_OR_D (R139): Scoped atomic doubleword or. -/
  | amoScOrD (sc : BitVec 3) (rd rt rs : Reg)
  /-- AMO_SC_MIN_D (R139): Scoped atomic signed doubleword minimum. -/
  | amoScMinD (sc : BitVec 3) (rd rt rs : Reg)
  /-- AMO_SC_MAX_D (R139): Scoped atomic signed doubleword maximum. -/
  | amoScMaxD (sc : BitVec 3) (rd rt rs : Reg)
  /-- AMO_SC_MIN_C_D (R139): Scoped atomic cardinal doubleword minimum. -/
  | amoScMinCD (sc : BitVec 3) (rd rt rs : Reg)
  /-- AMO_SC_MAX_C_D (R139): Scoped atomic cardinal doubleword maximum. -/
  | amoScMaxCD (sc : BitVec 3) (rd rt rs : Reg)
  /-- MESSAGE_ARRIVAL (R54): A message reaching a core channel is queued, held back, dropped or discarded. -/
  | messageArrival (m : Nat)
  /-- FLOW_CONTROL_RETURN (R54): A flow-control return reaches the sender, freeing its outbound entry or resending a held message. -/
  | flowControlReturn (m : Nat)
  /-- EXIT_SEND_RELEASE (R68): An exit waiting for outbound buffer space passes its buffered sends into the buffer. -/
  | exitSendRelease (core k : Nat)
  /-- DISPATCH (R60): Selection logic starts an eligible channel's handler on an idle slot. -/
  | dispatch (core : Nat)
  /-- SUCCESSOR_START (R70): An exit.succ waiting on a busy channel starts the successor in the same slot. -/
  | successorStart (core k : Nat)
  /-- WAITM_TAKE (R72): A waiting waitm takes the oldest untaken message and loads its registers. -/
  | waitmTake (core ch : Nat)
  /-- CRIT_ON_GRANT (R74): A waiting crit.on sets its crit bit once slot 3 is idle. -/
  | critOnGrant (core k : Nat)
  /-- SPAWN_REQUEST (R71): A target core starts a spawned child on an idle normal slot or refuses. -/
  | spawnRequest (m : Nat)
  /-- SPAWN_ANSWER (R71): The spawn answer reaches the caller and writes 1 or 0 to rd. -/
  | spawnAnswer (m : Nat)
  /-- BUDGET (R63): The activation's cycle budget reaches 0 and its instruction or wait traps. -/
  | budget (core k : Nat)
  /-- TLB_WALK_COMPLETE (R91): A page walk completes, filling the TLB and counting hotness at the page's home. -/
  | tlbWalkComplete (core va : Nat) (fetch : Bool)
  /-- FAULT_REPLY (R93): A fault reply resumes the blocked access or traps it with ACCESS or NOEXEC. -/
  | faultReply (m : Nat)
  /-- TLB_INVALIDATION (R95): The controller's invalidation of a core's TLBs completes and new translations take effect. -/
  | tlbInvalidation (core : Nat)
  /-- SCRUB_ERROR (R156): The scrubber finds an uncorrectable error and reports it to the Tolbean controller. -/
  | scrubError (addr : Nat)
  /-- SERVICE_REPORT_SEND (R336): A non-slot agent sends a held report from its report buffer once channel 62 has room. -/
  | serviceReportSend (who : Reporter)
  /-- MLD (R165): Loads a tile register from the bay under its recorded descriptor. -/
  | mld (cluster : Nat)
  /-- MLDT (R166): Loads a tile register transposed from the bay. -/
  | mldt (cluster : Nat)
  /-- MST (R165): Stores a tile register's rows to the bay. -/
  | mst (cluster : Nat)
  /-- MMA (R167): Multiplies tile A by the transpose of tile B into an accumulator. -/
  | mma (cluster : Nat)
  /-- MZERO (R168): Sets all elements of an accumulator to +0. -/
  | mzero (cluster : Nat)
  /-- MACC_ST (R168): Stores an accumulator corner to the bay in a chosen format. -/
  | maccSt (cluster : Nat)
  /-- CPY (R173): Copies a contiguous byte range through the staging buffer. -/
  | cpy (cluster : Nat)
  /-- CPYG (R174): Gathers elements by an index list of byte offsets. -/
  | cpyg (cluster : Nat)
  /-- CPYS (R173): Copies strided rows. -/
  | cpys (cluster : Nat)
  /-- CPYT (R175): Copies the transpose of a source matrix. -/
  | cpyt (cluster : Nat)
  /-- COPY_FAULT_REPLY (R172): A copy fault reply resumes the copy or faults its job with ACCESS. -/
  | copyFaultReply (m : Nat)
  /-- JOB_COMPLETE (R160): A sealed job's last command completes and the job completes. -/
  | jobComplete (core cls job : Nat)
  /-- TASK_RECORD_DELIVERY (R147): A pool record leaves as a message to the eligible core with most idle slots. -/
  | taskRecordDelivery (cluster : Nat)
  /-- STEAL_PROBE (R148): An idle cluster's Gleaner sends a steal request to the next cluster. -/
  | stealProbe (cluster : Nat)
  /-- STEAL_REQUEST (R148): A victim ships up to half its stealable records from the young end. -/
  | stealRequest (m : Nat)
  /-- STEAL_ANSWER (R148): The thief places shipped records in its pool or counts an empty answer. -/
  | stealAnswer (m : Nat)
  /-- STEAL_BACKOFF (R148): After 15 empty answers the Gleaner waits 256 cycles before probing again. -/
  | stealBackoff (cluster : Nat)
  /-- CLUSTER_ROUND_COMPLETE (R149): All eight cores have joined a round and results are written or CLUMIS trapped. -/
  | clusterRoundComplete (cluster : Nat)
  /-- RGIN (R193): Loads a tile into a station's sheaf or swath slot. -/
  | rgin (sg : Nat)
  /-- RGMATCH (R194): Loads and checks a match table and resets the ring counters. -/
  | rgmatch (sg : Nat)
  /-- RGGO (R195): Checks and starts a ring pass at a lap boundary. -/
  | rggo (sg : Nat)
  /-- RGOUT (R197): Stores or clears a station accumulator or slot. -/
  | rgout (sg : Nat)
  /-- RGSAVE (R199): Saves the ring state to an area, at once if idle. -/
  | rgsave (sg : Nat)
  /-- RGREST (R200): Restores a saved ring and resumes its pass. -/
  | rgrest (sg : Nat)
  /-- MOVES_BEGIN (R181): When every station has released its tiles, the step's moves begin. -/
  | movesBegin (sg : Nat)
  /-- MOVE_DONE (R181): The tile moves of an encounter step complete and the ring goes to the next boundary. -/
  | moveDone (sg : Nat)
  /-- HOLD_DONE (R191): The hold step's sheaf moves complete and the next lap begins. -/
  | holdDone (sg : Nat)
  /-- ENCOUNTER_ACCEPT (R184): A station's offered task is accepted, met increases and the entry closes. -/
  | encounterAccept (sg station : Nat)
  /-- PASS_BY (R183): An offered task not accepted within the patience passes by and the entry stays open. -/
  | passBy (sg station : Nat)
  /-- ENCOUNTER_RETIRE (R186): An encounter task completes and retired increases. -/
  | encounterRetire (sg entry : Nat)
  /-- RING_SAVE_AT_BOUNDARY (R199): Once retired equals met, a pending save writes the area and empties the ring. -/
  | ringSaveAtBoundary (sg : Nat)
  /-- RING_CANCEL (R201): A cancelled pass stops at the next boundary and its job faults with CANCEL. -/
  | ringCancel (sg : Nat)
  /-- TOKEN_ARRIVAL (R222): A token reaches a Reeve node, sets arrived or ext and decrements pending. -/
  | tokenArrival (m : Nat)
  /-- ACTIVATION_TRIGGER (R225): A graph activation's gtrig or exit counts toward trig and exited. -/
  | activationTrigger (m : Nat)
  /-- FAULT_REPORT (R228): A fault reaches a node, removing its records, reporting GFAULT and walking its cone. -/
  | faultReport (m : Nat)
  /-- NODE_RETRY (R230): A faulted node with retries left is reset with its cone once nothing is cancel-pending. -/
  | nodeRetry (node : Nat)
  /-- GRAPH_LAUNCH_REQUEST (R236): The Reeve checks a graph and takes slots, or answers with a failure cause. -/
  | graphLaunchRequest (m : Nat)
  /-- GLAUNCH_ANSWER (R236): The launch answer reaches the core and writes rd. -/
  | glaunchAnswer (m : Nat)
  /-- GCANCEL_REQUEST (R237): The Reeve walks the named node's cone without retry. -/
  | gcancelRequest (m : Nat)
  /-- GSTAT_REQUEST (R238): The Reeve answers a node's status word. -/
  | gstatRequest (m : Nat)
  /-- GSTAT_ANSWER (R238): The status answer reaches the core and writes rd. -/
  | gstatAnswer (m : Nat)
  /-- TEAM_RESIDENCY_EXPIRY (R234): A resident team's 65,536 cycles end while another waits; no new activation starts. -/
  | teamResidencyExpiry (cluster : Nat)
  /-- TEAM_SWAP (R234): When the resident team's last activation ends, its region is swapped for the longest waiter's. -/
  | teamSwap (cluster : Nat)
  /-- LASS (R252): Compares and writes every lane of a range of row pairs, optionally counting. -/
  | lass (core : Nat)
  /-- LSWEEP (R252): Runs a pass program or firmware program over a range of row pairs. -/
  | lsweep (core : Nat)
  /-- INTERLOCK_RELEASE (R255): A waiting access to an interlocked row pair proceeds once that row pair is closed. -/
  | interlockRelease (core k : Nat)
  /-- REWARD_ARRIVAL (R266): A reward message queues on channel 63, holding back the sender when full. -/
  | rewardArrival (b core : Nat)
  /-- REWARD_HOLD (R267): A reward at the head with no sweep outstanding holds dispatch on the core. -/
  | rewardHold (core : Nat)
  /-- REWARD_CUT (R267): With no activation running, the core reads its directory, records cut fields and interlocks groups. -/
  | rewardCut (core : Nat)
  /-- SWEEP_START (R271): The reward sweep starts after the class 4 commands queued ahead of it end. -/
  | sweepStart (core : Nat)
  /-- SWEEP_COMPLETE (R270): The sweep closes its last row pair, clears busy and sends its token. -/
  | sweepComplete (core : Nat)
  /-- STATIC_ROUTE (R298): A sendr message follows its legs or detours by table around a dead router. -/
  | staticRoute (m : Nat)
  /-- KRED (R306): Joins a collective reduction instance. -/
  | kred (core : Nat)
  /-- KBC (R307): Joins a collective broadcast instance. -/
  | kbc (core : Nat)
  /-- COLLECTIVE_INSTANCE (R306): Once all participants have joined, the instance combines in logical id order and completes. -/
  | collectiveInstance (inst : Nat)
  /-- KTIME (R308): A partial instance after 2^24 cycles faults present participants and closes. -/
  | ktime (inst : Nat)
  /-- LAUNCH (R26): The loader verifies and checks an image and placement, then holds the placed cores. -/
  | launch (req : LaunchReq)
  /-- LAUNCH_LOAD (R29): Once activations on a placed core end, sections, T8 tables and handler tables load and the hold releases. -/
  | launchLoad (core : Nat)
  /-- PARTITION_CREATE (R300): The controller creates a rectangle partition or refuses the request. -/
  | partitionCreate (req : PartReq)
  /-- PARTITION_RESET (R301): Stops the partition, answers outside requests with errors and restores reset state. -/
  | partitionReset (part : Nat)
  /-- WATCHDOG_EXPIRY (R302): A stuck work queue's watchdog expires and the partition's context is switched out. -/
  | watchdogExpiry (q : Nat)
  /-- WATCHDOG_RESET (R302): A switch unfinished after a further W cycles resets the partition. -/
  | watchdogReset (q : Nat)
  /-- CONTEXT_SWITCH_OUT (R302): The controller switches a context out at its pre-emption points. -/
  | contextSwitchOut (part : Nat)
  /-- CONTEXT_RESTORE (R257): The controller restores a context, loft and engine areas before its slots run. -/
  | contextRestore (part : Nat)
  /-- HOST_DATA_WRITE (R310): A host write through the data window is applied at the ordering point. -/
  | hostDataWrite (part va : Nat) (bytes : List Byte)
  /-- HOST_DATA_READ (R310): A host read through the data window is answered in order. -/
  | hostDataRead (part va size : Nat)
  /-- HOST_POST (R311): A 64-byte write to a queue window enqueues a post or is discarded and counted. -/
  | hostPost (addr : Nat) (bytes : List Byte)
  /-- QUEUE_POST_DELIVERY (R311): A queued post passes to its target as a message, token or reward when the target has room. -/
  | queuePostDelivery (q : Nat)
  /-- REPLY_RING_WRITE (R312): A message to a queue handle is written to the host reply ring and its count increased. -/
  | replyRingWrite (m : Nat)
  /-- COPY_SERVICE_REQUEST (R313): The mailbox engine's copy service starts a device, host or peer copy. -/
  | copyServiceRequest (m : Nat)
  /-- COPY_SERVICE_COMPLETE (R313): The copy finishes and the service sends its token and status message. -/
  | copyServiceComplete (c : Nat)
  /-- PEER_ACK (R314): A peer module acknowledges arrival of a class 10 message for fence.s.sys. -/
  | peerAck (m : Nat)
  /-- STATIC_ROUTE_PROGRAM (R297): The controller programs a static route entry or refuses it. -/
  | staticRouteProgram (part n : Nat) (entry : Word)
  /-- QUEUE_BIND (R311): The controller binds a work queue to a partition and target. -/
  | queueBind (q : Nat) (b : QBinding)
  /-- COLD_BOOT (R279): Runs the boot phases in order, halting in a failing phase. -/
  | coldBoot (rep : BootReport)
  /-- ATTESTATION_REQUEST (R282): The controller returns a signed quote of measurements for a nonce. -/
  | attestationRequest (part : Nat) (nonce : List Byte)
  /-- POLICY_WRITE (R283): A slot-0-signed request sets alarm erasure policy bits. -/
  | policyWrite (bits : BitVec 6) (sig : List Byte)
  /-- VOLTAGE_GLITCH (R283): The voltage glitch detector resets every partition. -/
  | voltageGlitch
  /-- CLOCK_GLITCH (R283): The clock glitch detector resets the field's partition. -/
  | clockGlitch (field : Nat)
  /-- LID_SENSOR_OPENED (R283): An opened lid resets every partition. -/
  | lidSensorOpened
  /-- BOND_INTEGRITY_ALARM (R259): Canary drift is reported and repair is scheduled for the next cold boot. -/
  | bondIntegrityAlarm (pos : Nat)
  /-- CHANNEL_RETIREMENT (R284): The controller retires or narrows a silo channel at run time, migrating its pages. -/
  | channelRetirement (ch : Nat) (dst : ChanState) (lost : List (Nat × Nat))
  /-- ELEVATOR_FAILURE (R284): A run-time elevator failure resets partitions with pages on its site. -/
  | elevatorFailure (site : Nat)
  /-- CXL_PORT_LOSS (R285): A lost CXL port resets partitions with pages behind it. -/
  | cxlPortLoss (port : Nat)
  /-- ROUTER_FAILURE (R299): A run-time router failure resets partitions routed through it. -/
  | routerFailure (pos : Nat)
  /-- HOTNESS_SCAN (R287): Every 1,200,000 cycles the controller reads and clears counters and starts migrations. -/
  | hotnessScan (field : Nat)
  /-- MIGRATION_COMPLETE (R287): A page's bytes are copied, its frame and home rewritten and its state set present. -/
  | migrationComplete (part page : Nat)
  /-- INJECTION_REQUEST (R290): In a test partition, arms an uncorrectable-error injection on a granule. -/
  | injectionRequest (part addr : Nat) (cls : InjClass)
  /-- CONTROLLER_FAULT_ANSWER (R335): The controller answers a page or copy fault from the owner's page table. -/
  | controllerFaultAnswer (f : Nat)
  /-- OWNER_MAP_DECISION (R335): The owner maps or declines a held fault and the controller answers it. -/
  | ownerMapDecision (f : Nat) (leaf : Option Leaf)
  /-- POWER_REVISION (R291): Every 12,000 controller cycles the power manager sets each field's clock. -/
  | powerRevision (ks : List Nat)
  /-- THERMAL_THRESHOLD (R291): A field's temperature crossing a threshold caps its clock, requests migration or resets. -/
  | thermalThreshold (field celsius : Nat)
  /-- THERMAL_CLEAR (R291): After 1,000,000 cycles below a threshold its action is cleared. -/
  | thermalClear (field celsius : Nat)
  /-- THERMAL_MIGRATION (R292): A requested thermal migration pre-empts the field's work at allowed points. -/
  | thermalMigration (field : Nat)
  /-- ILLEGAL_INSTRUCTION (R6): A word that is not an assigned pattern reaches execution and raises the illegal-instruction trap. -/
  | illegalInstruction (w : BitVec 32)
  /-- WRITE_PERFORMED (R129): A write becomes visible to a further agent at a moment of its own. -/
  | writePerformed (w : Nat) (view : View)
  /-- TRANSLATION_CHANGE (R95): The owner changes the partition's page table: it maps or removes a page, changes its permissions or discards it. -/
  | translationChange (part page : Nat) (leaf : Option Leaf)
  /-- KEY_PROVISIONING (R281): The owner provisions image key slots, or re-provisions a module whose keys were erased. -/
  | keyProvisioning (slot : Nat) (key : List Byte)
  /-- PARTITION_REMOVAL (R288): A partition is removed, which frees its fields and drops its silo mappings. -/
  | partitionRemoval (part : Nat)
deriving DecidableEq, Repr

end Sys2Proof
end

