-- ==== Sys2Proof/Machine/State.lean ====
section
/-!
DEFINITION. The state of the module: every core with its slots, mailbox and job queues, every cluster, ring, field, partition
and work queue, the messages under way, the controller, and memory; the reasons a step can stop; and the state after reset.
All of it is plain data. A core, cluster, ring, field, channel or page without an entry in its table stands at its reset value.
-/
namespace Sys2Proof.Machine

/-- The reasons a machine stops with a fault. No meaning of this model faults: every exception of the spec is taken (R65). -/
inductive Fault where
  /-- The state names no core that can run: raised by nothing in this model. Safe: a stop claims nothing. -/
  | stuck
deriving DecidableEq, Repr

/-- The reasons a meaning is refused. -/
inductive Refusal where
  /-- An instruction that has no meaning in the model yet, by its mnemonic: raised by `exec` alone. Safe. -/
  | notModelled (mnemonic : String)
deriving DecidableEq, Repr

/-! ### Memory -/

/-- A write that some agent does not see yet (R128, R129): who made it, the bytes that stood before it, the agents that read
it, the agents it is visible to, and the earlier writes that must be visible wherever it is (R131). -/
structure Hidden where
  id      : Nat
  writer  : Agent
  old     : List (Nat × Byte)
  readers : List Agent
  seen    : List View
  deps    : List Nat
  /-- the scope of the atomic that made it; none for a plain write (R140) -/
  atom    : Option Scope := none
  /-- the reads of slots that returned it, by all the keys that each of them read (R131) -/
  spans   : List (Agent × List Nat) := []
  /-- the jobs that made it, by core, class and number: its own, and those whose pass goes on with the saved one that made it (R153, R154,
  R186) -/
  jobs    : List (Nat × Nat × BitVec 16) := []
  /-- the jobs whose reads returned it (R129, R154) -/
  users   : List (Nat × Nat × BitVec 16) := []
  /-- a pass that has been saved made it (R199) -/
  saved   : Bool := false
deriving DecidableEq, Repr

/-- An armed test injection or a standing uncorrectable error (R290, R156): the keys it covers and the agents that meet it. -/
structure BadGranule where
  key   : Nat
  size  : Nat
  cls   : InjClass
  /-- true: a test injection, which the first read clears; false: an error of the array itself, which stays -/
  armed : Bool
deriving DecidableEq, Repr

/-- A reservation of `lr` (R80): the slot that holds it and its granule, an 8-byte unit of physical memory. -/
structure Reservation where
  core    : Nat
  slot    : Nat
  granule : Nat
deriving DecidableEq, Repr

/-- Memory whose contents a partition reset or a cold boot has left undefined (R293, R259): that of the cores and clusters of some
supergroups, of some granaries, and some ranges of the silos and the second tier, by address and length. `n` tells one such
event from another. -/
structure Lost where
  sgs    : List Nat
  fields : List Nat
  silo   : List (Nat × Nat)
  second : List (Nat × Nat)
  n      : Nat
deriving DecidableEq, Repr

/-! ### Messages -/

/-- What an activation buffers until its exit (R67, R235, R264). -/
inductive Send where
  | msg (hdr : Word) (words : List Word) (cls : BitVec 2) (route : BitVec 12)
  | token (node : BitVec 32) (count : BitVec 16)
  | reward (r : BitVec 32) (clear : Bool) (key : BitVec 8) (tgt : BitVec 32)
deriving DecidableEq, Repr

/-- Where a message comes from. -/
inductive Src where
  /-- a core's outbound buffer (R68) -/
  | core (core : Nat)
  /-- the task pool of a cluster (R147) -/
  | pool (cluster : Nat)
  /-- a station of a ring, by its cluster (R189) -/
  | station (cluster : Nat)
  /-- a work queue (R311) -/
  | queue (q : Nat)
  /-- a report buffer (R336) -/
  | report (who : Reporter)
  /-- an engine, for the tokens and fault reports of its jobs (R162), by the issuing core and the class -/
  | engine (core cls : Nat)
  /-- a Reeve, by its field -/
  | reeve (field : Nat)
  /-- the Gleaner of a cluster (R148) -/
  | gleaner (cluster : Nat)
  /-- the controller -/
  | controller
  /-- a peer module's endpoint, by the handle under which the partition knows it (R314) -/
  | peer (handle : Nat)
  /-- a core of a peer module, for a message that it has sent into a partition (R314) -/
  | peerCore (e : Endpoint)
  /-- the copy service of a partition (R313) -/
  | copyService (part : Nat)
deriving DecidableEq, Repr

/-- A graph activation's record: the node and the graph it belongs to (R220). -/
structure Task where
  node  : Nat
  graph : Nat
deriving DecidableEq, Repr

/-- An unstarted task record (R147, R220). -/
structure TaskRec where
  task   : Task
  hdr    : Word
  words  : List Word
  /-- a level of domain core: the one core it may go to -/
  only   : Option Nat
  /-- pinned to its cluster (a level of domain core or cluster, or a team bay) -/
  pinned : Bool
  /-- the cluster whose pool first received it -/
  home   : Nat
  /-- the team bay of its node, in 4 KiB units -/
  tb     : Nat
deriving DecidableEq, Repr

/-- What travels on the network. -/
inductive Body where
  /-- a message for a channel of a core, its header in the delivered view but for len (R51, R54) -/
  | chan (core ch : Nat) (hdr : Word) (words : List Word) (task : Option Task)
  /-- a `sendr` message that has yet to follow its legs (R298) -/
  | static (core ch : Nat) (hdr : Word) (words : List Word) (route : BitVec 12)
  /-- a message of route class 10 for a work-queue handle (R312) -/
  | queueMsg (part q : Nat) (hdr : Word) (words : List Word)
  /-- a message for the copy service (R313) -/
  | copyReq (part core : Nat) (hdr : Word) (words : List Word)
  /-- a message for a peer endpoint (R314), and the slot whose `fence.s.sys` awaits it -/
  | peerMsg (part handle : Nat) (hdr : Word) (words : List Word) (core slot : Nat)
  /-- a message to a handle that names no endpoint (R312) -/
  | noEndpoint (part handle : Nat) (hdr : Word) (words : List Word)
  /-- a reward for channel 63 of every core of a partition, and the cores that hold it already (R264, R266) -/
  | reward (part : Nat) (r : BitVec 32) (clear : Bool) (key : BitVec 8) (tgt : BitVec 32) (src : Nat) (got : List Nat)
  /-- a flow-control return: the entry is finished, or the held message may be sent again (R54, R68) -/
  | flow (core entry : Nat) (retry : Bool)
  | spawnReq (core slot target : Nat) (pc : BitVec 48) (args : List Word) (regdem : Nat) (budget : BitVec 32)
  | spawnAns (core slot : Nat) (ok : Bool)
  /-- tokens for a node (R222): how many, on which in-edge, and the core whose service core learns of a drop -/
  | token (node : Nat) (count : Nat) (edge : Option Nat) (graph : Option Nat) (report : Option Nat)
  /-- the completion of the job that a node pushed for itself (R222, R225) -/
  | ownJob (task : Task) (core cls job : Nat)
  /-- the token of a restored pass for its saved target (R200) -/
  | passToken (node : Nat)
  /-- a graph activation's trigger, its exit, or both (R225) -/
  | trigger (task : Task) (trig exit : Bool)
  /-- a fault report for a node (R228) -/
  | fault (node : Nat) (graph : Option Nat) (kind cause : Nat)
  | glaunchReq (core slot : Nat) (addr : Word)
  | glaunchAns (core slot : Nat) (val : Word)
  | gcancelReq (node : Nat)
  | gstatReq (core slot node : Nat)
  | gstatAns (core slot : Nat) (val : Word)
  | stealReq (thief victim : Nat)
  | stealAns (thief : Nat) (recs : List TaskRec)
  /-- task records of a fired node on their way from the Reeve to a cluster's pool (R220, R337) -/
  | records (cluster : Nat) (recs : List TaskRec)
deriving DecidableEq, Repr

/-- A message under way. `entry` is the outbound entry it holds (R68); `heldBack` says that its channel refused it and it waits
in the sender's buffer for the flow-control return (R54). -/
structure Msg where
  id       : Nat
  src      : Src
  entry    : Bool
  heldBack : Bool
  body     : Body
deriving DecidableEq, Repr

/-! ### A core -/

/-- Port occupancies declared by an image (R85). -/
structure PortDecl where
  lq : Nat
  sq : Nat
  bq : Nat
  aq : Nat
deriving DecidableEq, Repr

/-- A handler record loaded into a channel (Table 2-16), with what its image declares for the ports. -/
structure HandlerRec where
  rel    : Bool
  qdecl  : Nat
  pc     : BitVec 48
  budget : BitVec 32
  baydem : Nat
  regdem : Nat
  ports  : PortDecl
  compat : Bool
deriving DecidableEq, Repr

/-- A message in a channel's queue; `taken` names the slot whose chain holds it (R55). -/
structure QEntry where
  seq   : BitVec 32
  hdr   : Word
  words : List Word
  task  : Option Task
  taken : Option Nat
deriving DecidableEq, Repr

/-- A channel of a core (R52 to R56): messages it refused, oldest refusal first, and those for which room is reserved. -/
structure Chan where
  hrec     : Option HandlerRec
  en       : Bool
  pend     : Bool
  busy     : Bool
  queue    : List QEntry
  drops    : BitVec 32
  refused  : List Nat
  reserved : List Nat
deriving DecidableEq, Repr

/-- The fields that a `fmt` prefix holds (R97). -/
structure Held where
  fin   : BitVec 4
  fout  : BitVec 4
  tab   : BitVec 2
  rm    : BitVec 2
  mode  : BitVec 2
  scale : BitVec 8
deriving DecidableEq, Repr

/-- The later accesses that a fence holds back (R134, R154): reads and writes of path L, what goes out on path N, and commands. -/
structure Later where
  reads  : Bool
  writes : Bool
  net    : Bool
  cmds   : Bool
deriving DecidableEq, Repr

/-- What a fence that has retired still owes (R134, R154): the accesses of its first set are performed with respect to a view before any
later access of its second set. It holds the writes of that set and those that its reads returned; the instructions of it that have
not taken effect yet, of which the reads, the writes or both are in the set; the messages of it that are under way; and how many
sends were buffered before it (R133). -/
structure Owed where
  id      : Nat
  ids     : List Nat
  flights : List Nat
  reads   : Bool
  writes  : Bool
  msgs    : List Nat
  view    : View
  later   : Later
  sends   : Nat
deriving DecidableEq, Repr

/-- The writes that a slot's values depend on (R131, R132): by x register; those of the vector registers, the predicates, the
prefix and the ports, taken together; those that the branches taken so far depend on; those of the operands of the instruction
that runs; and, for each buffered send, those it carries. -/
structure Flow where
  x     : AMap (List Nat)
  vec   : List Nat
  ctl   : List Nat
  ops   : List Nat
  sends : List (List Nat)
deriving DecidableEq, Repr

/-- What a slot waits for. A slot that waits for a job, a port, a queue or a buffer holds no such mark: its instruction takes
effect once it can. -/
inductive Wait where
  | none
  /-- `exit` or `exit.succ` waiting for outbound buffer space (R68) -/
  | release (succ : Option Nat)
  /-- `exit.succ` waiting for its channel (R70) -/
  | succ (ch : Nat)
  | waitm (rd : Reg) (ch since : Nat)
  | critOn
  | spawn (rd : Reg)
  | glaunch (rd : Reg)
  | gstat (rd : Reg)
  /-- blocked on the reply to a page fault at an address (R92) -/
  | page (va : Word)
  /-- joined a cluster round (R149) -/
  | round (rd : Reg)
  /-- an access that reached an interlocked row pair (R255) -/
  | interlock (rowPair : Nat)
  /-- the service image at work on a message of channel 62 of a service core (R155) -/
  | service
deriving DecidableEq, Repr

/-- The registers of a slot as its program sees them at one place: the pc, the x and vector registers, the predicates, the prefix,
and the writes that the x registers depend on (R131). -/
structure Regs where
  pc  : BitVec 48
  x   : Vector Word 32
  v   : Vector Vec 28
  p   : Vector (BitVec 32) 8
  pfx : Option Held
  fx  : AMap (List Nat)
deriving DecidableEq, Repr

/-- What an instruction names: the x registers, vector registers and predicates that it writes, the ports that it pushes or pops,
whether it accesses memory, whether it pushes a command, seals jobs or acts on what those record, and whether it is a `cbar`; for a
vector memory form, the keys of the bytes that it reaches, and whether its data side is still to come (R83). -/
structure Names where
  xs    : List Reg
  vs    : List Reg
  ps    : List PReg
  ports : List Reg
  mem   : Bool
  jobs  : Bool
  bar   : Bool
  keys  : List Nat := []
  late  : Bool := false
deriving DecidableEq, Repr

/-- An instruction that has retired and has yet to take effect, which no later instruction can tell but by the order of accesses that R131
leaves open: what its slot held at its place, `amoscope` among it, with the values that it still waits for filled in as they come; what
it names, with the keys of its bytes, and whether it reads or writes memory; the earlier ones of its kind that come before it; and the
fences before it. -/
structure Flight where
  id     : Nat
  instr  : Instr
  regs   : Regs
  flow   : Flow
  scope  : BitVec 3
  names  : Names
  reads  : Bool
  writes : Bool
  olds   : List Nat
  fences : List Nat
deriving DecidableEq, Repr

/-- A read of a slot that has taken its value before its instruction is reached (R128, R131): the keys of its bytes, the bytes, the writes
that it returned, and the registers whose values depend on a read that has taken its value since, the vector registers,
predicates, prefix and ports taken together. -/
structure Early where
  keys  : List Nat
  bytes : List Byte
  ids   : List Nat
  xs    : List Reg
  vec   : Bool
deriving DecidableEq, Repr

/-- The registers that an instruction has written, with what it wrote. -/
structure Written where
  xs : List (Reg × Word × List Nat)
  vs : List (Reg × Vec)
  ps : List (PReg × BitVec 32)
deriving DecidableEq, Repr

/-- An instruction from the oldest one on that is not done: one that stands behind, by its pc and its word, or one of the other stream,
done before its turn; `late` marks a load whose access is made and whose data side is in the stream that stalls (R83). -/
inductive Item where
  | todo (pc : BitVec 48) (word : BitVec 32) (names : Names)
  | ran (w : Written) (late : Bool := false)
deriving DecidableEq, Repr

/-- What stands behind in a slot one of whose streams stalls on a port (R83, R84): whether it is the execute stream; the instructions
from the oldest one that stalls on, in program order; the registers of the other place, which are those before that oldest
instruction, or, while it is at work (`old`), those at which the other stream stands; the count of retired instructions when the
instruction at work began, and what that one of the other stream writes. -/
structure Behind where
  exec  : Bool
  items : List Item
  regs  : Regs
  old   : Bool
  mark  : Word
  names : Option Names
deriving DecidableEq, Repr

/-- A thread slot (R57, Table 5-1, Table 5-2): the registers, and what its activation is. -/
structure Slot where
  live     : Bool
  wait     : Wait
  pc       : BitVec 48
  x        : Vector Word 32
  v        : Vector Vec 28
  p        : Vector (BitVec 32) 8
  lq       : List Vec
  sq       : List Vec
  bq       : List Word
  aq       : List Word
  pfx      : Option Held
  /-- the fetch buffer, up to 8 words (R96) -/
  fbuf     : List (BitVec 48 × BitVec 32)
  sel      : BitVec 6
  left     : BitVec 32
  spawnb   : BitVec 32
  amoscope : BitVec 3
  tabsel   : BitVec 11
  instret  : Word
  crit     : Bool
  msgid    : Word
  baywin   : Word
  sends    : List Send
  /-- the channel of the activation, none for a spawned child -/
  chan     : Option Nat
  /-- the first channel of its chain -/
  first    : Option Nat
  /-- the sequence number of the chain's triggering message -/
  trigger  : Option (BitVec 32)
  /-- the messages that the chain took by `waitm`, the most recent first -/
  taken    : List (Nat × BitVec 32)
  /-- the chain was started by a pending bit -/
  pending  : Bool
  regdem   : Nat
  baydem   : Nat
  /-- the first unit of its bay allocation -/
  bay      : Nat
  budget   : BitVec 32
  ports    : PortDecl
  compat   : Bool
  task     : Option Task
  trigd    : Bool
  /-- what a `jwait` or `xfence` in progress recorded when it began: the next job of each class that it waits for (R99, R154) -/
  begun    : Option (List (Nat × BitVec 16))
  /-- the messages of the slot that have left, as long as they are under way (R134, R314) -/
  sent     : List Nat
  /-- what its fences owe (R134, R154) -/
  owed     : List Owed
  /-- what its values depend on (R131) -/
  flow     : Flow
  /-- the granules of its register file that stand in an uncorrectable error, by their offset in it (R101) -/
  bad      : List Nat
  /-- the instructions that stand behind a stream's stall on a port (R84) -/
  behind   : Option Behind
  /-- the instructions that have yet to take effect, in program order (R131) -/
  flights  : List Flight := []
  /-- the reads that have taken their values early, the oldest first (R131) -/
  early    : List Early := []
deriving DecidableEq, Repr

/-- A class 4 command that its engines have taken (R254, R255, R257): the row pairs that it has closed, its count so far, and its program as
it was taken, or taken again at a restore. -/
structure Running where
  closed : List Nat
  count  : Nat
  prog   : List (BitVec 64 × BitVec 64)
deriving DecidableEq, Repr

/-- A queued command: its word, its job, and what `cmd` recorded with it (R98, R159, R192). -/
structure Cmd where
  word  : Vec
  job   : BitVec 16
  desc  : List Word
  rgpat : Option Word
  /-- the node that pushed it (R223) -/
  node  : Option Task
  /-- an interlocking class 4 command: the row pairs it has yet to close (R255) -/
  il    : List Nat
  /-- it has begun, and the node that it names was cancelled since (R163) -/
  dead  : Bool := false
  /-- a copy that has begun and met a refused page (R163, R172) -/
  begun : Bool := false
  /-- how far a class 4 command has come (R252, R257) -/
  run   : Option Running := none
  /-- a class 4 command that has failed before its turn: its job faults with this cause then (R255) -/
  fails : Option Nat := none
deriving DecidableEq, Repr

/-- A job that is not complete (R98): its commands not yet performed, the targets its commands name, in push order. -/
structure Job where
  id      : BitVec 16
  sealed  : Bool
  words   : Nat
  left    : Nat
  targets : List (BitVec 32)
  node    : Option Task
  /-- it has faulted, which counts as complete; it stays here while it is open (R160) -/
  faulted : Bool
  /-- the last command performed is the ring's, whose completion sends no token (R196) -/
  quiet   : Bool
  /-- a cancelled node's command of the job has begun: the job faults with CANCEL when it ends (R163) -/
  doomed  : Bool
  /-- the saved targets of the passes that it has restored, and the targets of the commands that restored them (R200) -/
  carried : List (BitVec 32)
  resumed : List (BitVec 32)
deriving DecidableEq, Repr

/-- The queue, jobs and faults of one engine class of a core (R98, R99). -/
structure ClassQ where
  nextid : BitVec 16
  jobs   : List Job
  faults : List (BitVec 16 × BitVec 8)
  queue  : List Cmd
  /-- a copy that waits for the reply to its page fault, by its address, and whether its message has left (R172) -/
  hold   : Option Word
  /-- the words of fired nodes that wait for room, oldest first (R98, R223) -/
  waiting : List (Vec × Task)
deriving DecidableEq, Repr

/-- A contribution to a cluster round (R149). -/
structure Join where
  slot : Nat
  form : Nat
  val  : Word
  arg  : Word
  word : BitVec 32
deriving DecidableEq, Repr

/-- A reward waiting on channel 63 (R266). -/
structure Reward where
  r     : BitVec 32
  clear : Bool
  key   : BitVec 8
  tgt   : BitVec 32
  src   : Nat
deriving DecidableEq, Repr

/-- A row group of a sweep, with its parameters as read at the cut (R267, R269). -/
structure SweepGroup where
  idx   : Nat
  first : Nat
  count : Nat
  q     : BitVec 32
  amt   : Nat
  lmin  : Int
deriving DecidableEq, Repr

/-- A sweep started or waiting to start (R267, R271): its reward, its groups, the class 4 commands ahead of it, and the row
pairs it has yet to close. -/
structure Sweep where
  rew   : Reward
  grps  : List SweepGroup
  ahead : Nat
  left  : List Nat
deriving DecidableEq, Repr

/-- A core. -/
structure CoreSt where
  slots    : Vector Slot 4
  chans    : AMap Chan
  lastHi   : Nat
  lastLo   : Nat
  seq      : BitVec 32
  tdesc    : Vector Word 4
  engwt    : BitVec 12
  rgpat    : BitVec 20
  fjob     : BitVec 16
  fcause   : BitVec 8
  fclass   : BitVec 4
  fsticky  : BitVec 5
  badc     : Bool
  jobs     : Vector ClassQ 5
  /-- the messages that hold an entry of the outbound buffer, oldest first (R68) -/
  outb     : List Nat
  /-- trap reports and service messages that wait for an entry (R65) -/
  backlog  : List Msg
  itlb     : List (Nat × Leaf)
  dtlb     : List (Nat × Leaf)
  round    : Nat
  join     : Option Join
  ports    : PortDecl
  compat   : Bool
  rewards  : List Reward
  /-- a full reward queue refused these rewards, by message and core, earliest first (R266) -/
  rwdHeld  : List Nat
  /-- dispatch is held for the reward at the head (R267) -/
  cutHold  : Bool
  /-- dispatch is held for a launch, by its number (R29) -/
  loadHold : Option Nat
  sweep    : Option Sweep
  /-- spill blocks granted to the core at launch (R289) -/
  quota    : Nat
  /-- the used entries of the level table last launched on it: domain, scope and units (Table 2-17) -/
  levels   : List (Nat × Nat × Nat)
deriving DecidableEq, Repr

/-! ### A cluster -/

/-- The place of an arbiter in its loop (R146): the requester, the units it may still run, whether the pass ran any, and the
weights of the pass. -/
structure Arb where
  pos  : Nat
  left : Nat
  ran  : Bool
  wts  : List Nat
deriving DecidableEq, Repr

/-- A team's memory in the swap area (R234): its node, and its region once it has been swapped out. -/
structure Team where
  task   : Task
  tb     : Nat
  region : Option (List Byte)
  since  : Nat
deriving DecidableEq, Repr

/-- A cluster. -/
structure ClusterSt where
  matArb   : Arb
  copyArb  : Arb
  pool     : List TaskRec
  probe    : Nat
  empty    : Nat
  /-- a steal request is out (R148) -/
  asking   : Bool
  /-- the Gleaner backs off (R148) -/
  backoff  : Bool
  l2tlb    : List (Nat × Leaf)
  /-- the resident team and the waiting ones, longest first (R234) -/
  teams    : List Team
  /-- the resident team's 65,536 cycles have ended while another waits -/
  expired  : Bool
deriving DecidableEq, Repr

/-! ### A ring -/

/-- A tile of the ring (R179). -/
structure Tile where
  bytes  : List Byte
  tag    : BitVec 8
  desc   : BitVec 32
  src    : BitVec 48
  stride : BitVec 16
  /-- the granules of its bytes that stand in an uncorrectable error, by their offset (R156, R190) -/
  bad    : List Nat := []
deriving DecidableEq, Repr

/-- A match-table entry (Table 11-6) and whether it is open (R183). -/
structure MatchEntry where
  raw  : Word
  isOpen : Bool
deriving DecidableEq, Repr

/-- The state of a pass (Table 11-9). -/
inductive RingPhase where
  | lapBoundary | boundary | move | hold | drain
deriving DecidableEq, Repr

/-- An offered or accepted encounter task (R183, R184): its station and entry, and for an accepted task the tiles it read, the
lap and step it met in. -/
structure Encounter where
  station : Nat
  entry   : Nat
  sheaf   : Option Tile
  swath   : Option Tile
  /-- the elements of its product that a type 1 task has added so far, by row and column (R188) -/
  added   : List (Nat × Nat)
deriving DecidableEq, Repr

/-- A running pass (R185, R186, R195): the core and job of its command, its status record, the command's own token target and the
one that a restored pass carries (R200), the laps run, and the steps run by this command. -/
structure Pass where
  core     : Nat
  job      : BitVec 16
  node     : Option Task
  status   : Nat
  patience : Nat
  limit    : Nat
  target   : BitVec 32
  carried  : Option (BitVec 32)
  lap      : Nat
  step     : Nat
  steps    : Nat
  phase    : RingPhase
  /-- a hold step comes before the next lap (R185, R199) -/
  holdFirst : Bool
  /-- field time at the step boundary, from which the patience counts (R183) -/
  since    : Word
  offers   : List Encounter
  tasks    : List Encounter
  /-- the type 2 messages of accepted tasks: the station, the entry and the message -/
  sending  : List (Nat × Nat × Nat)
  /-- a task has failed, at this address (R190) -/
  fault    : Option Word
  /-- the pass stops at the boundary at which it stands (R190, R201) -/
  cancel   : Bool
  /-- the accumulators that its zacc has yet to clear, each one unit of its engine: the cluster and the accumulator (R195) -/
  zero     : List (Nat × Nat) := []
  /-- a node that it reports to was cancelled (R201) -/
  dead     : Bool := false
  /-- an `rgrest` runs it (R200) -/
  rest     : Bool := false
deriving DecidableEq, Repr

/-- A ring (R179, R180, R186). -/
structure RingSt where
  sheaf   : Vector (Option Tile) 16
  swath   : Vector (Option Tile) 16
  tbl     : Bool
  tblAddr : BitVec 48
  dstride : BitVec 16
  entries : List MatchEntry
  met     : Nat
  retired : Nat
  passby  : Nat
  rr      : Nat
  pass    : Option Pass
deriving DecidableEq, Repr

/-! ### A field and its Reeve -/

/-- The state of a node (Table 14-5). -/
inductive NodeState where
  | idle | armed | fired | running | done | faulted | cancelPending | cancelled
deriving DecidableEq, Repr

/-- A live node (Table 14-2). `succs` are pairs of an index and an in-edge; `job` is the job it pushed for itself; `order` is
when it faulted, for the retries in order (R230); `staged` says that it holds its windows (R223). -/
structure Node where
  graph   : Nat
  idx     : Nat
  typ     : Nat
  commit  : Bool
  indir   : Bool
  limit   : Nat
  used    : Nat
  wmask   : BitVec 8
  init    : Nat
  pending : Nat
  trig    : Nat
  exited  : Nat
  succs   : List (Nat × Nat)
  arrived : List Nat
  ext     : Nat
  pay     : List Word
  state   : NodeState
  count   : Nat
  retired : Bool
  surplus : Bool
  trigd   : Bool
  job     : Option (Nat × Nat × Nat)
  sub     : Option Nat
  staged  : Bool
  order   : Option Nat
deriving DecidableEq, Repr

/-- A launched graph (R216, R217, R233). -/
structure Graph where
  field  : Nat
  base   : Nat
  n      : Nat
  nodes  : Nat
  wins   : List (Nat × Nat)
  result : Nat
  /-- the core that launched the graph, or its parent graph (R228) -/
  launcher : Nat
  parent : Option Task
  first  : Option (Nat × Nat × Nat)
  gcan   : Bool
deriving DecidableEq, Repr

/-- A field (R206 to R212, R216, R291). `above` are the thermal thresholds it is above. -/
structure FieldSt where
  time    : Word
  clock   : Nat
  nodes   : AMap Node
  graphs  : AMap Graph
  /-- spill blocks are granted in the field's granary (R289) -/
  spill   : Bool
  above   : List Nat
  migrate : Bool
  /-- a masked window has held the migration off: k is capped at 4 until it has taken place (R292) -/
  heldOff : Bool
  /-- the commit windows of its graphs, by pair address and size (R231), which a partition reset keeps (R293) -/
  windows : List (Nat × Nat)
  /-- the model's own field: what its Reeve has yet to do of a move that has not brought it to an end, the nodes that are ready to fire
  first -/
  todo    : Option (List Nat) := none
deriving DecidableEq, Repr

/-! ### A partition -/

/-- A page fault that the controller holds (R335): the core, the slot or copy unit, the access and its address. -/
structure HeldFault where
  core   : Nat
  slot   : Nat
  /-- the copy unit's fault of R172, not a slot's of R92 -/
  copy   : Bool
  kind   : Nat
  va     : Word
  /-- it has come before the controller -/
  seen   : Bool
  /-- reported to the owner, whose decision it awaits -/
  asked  : Bool
  /-- its page was moving, so that its answer is 0 once the move is done (R286) -/
  moved  : Bool := false
deriving DecidableEq, Repr

/-- The page table of a partition (R286): the physical address of its level 1 table, and the 8-byte entries of its tables level by level,
those that are not zero, each by the number of the part of paged space that it stands for: VA[47:39], VA[47:30], VA[47:21] and
VA[47:16]. An entry of a level lies in the table that its pointer, one level up, names. `lost` holds the pages whose data could not be
read (R284), which the bits of Table 19-5 do not hold. -/
structure PageTable where
  root : Nat
  l1   : AMap Word
  l2   : AMap Word
  l3   : AMap Word
  l4   : AMap Word
  lost : List Nat
deriving DecidableEq, Repr

/-- A partition (R297, R300 to R302, R286). -/
structure PartSt where
  fields    : List Nat
  cap       : Word
  guarded   : Bool
  watchdog  : Nat
  routes    : AMap Word
  endpoints : AMap Endpoint
  askFaults : Bool
  test      : Bool
  signed    : Bool
  pages     : PageTable
  /-- the measurements of the images loaded, by the number of their launch, which is its order (Table 19-3) -/
  images    : AMap (List Byte)
  /-- the context is switched out (R302) -/
  out       : Bool
  /-- the requesters of a page that moves, from whose centroid its new frame is nearest: how many, and the sums of their rows and columns
  (R287) -/
  moves     : AMap (Nat × Nat × Nat) := []
deriving DecidableEq, Repr

/-- A work queue (R311, Table 20-8): its posts, oldest first. -/
structure QueueSt where
  bind   : Option QBinding
  posts  : List (List Byte)
  acc    : BitVec 16
  bad    : BitVec 16
  wasReset : Bool
  /-- the time of the target's field at the last accepted post (R302) -/
  since  : Nat
  /-- the slots of the reply ring written so far (R312) -/
  ringPos : Nat
  /-- its watchdog has expired, at this time of the target's field (R302) -/
  expired : Option Nat
deriving DecidableEq, Repr

/-- A participant's command of a collective instance (R305). -/
structure Member where
  sg   : Nat
  core : Nat
  job  : BitVec 16
  word : Vec
deriving DecidableEq, Repr

/-- A collective instance that is not complete (R305, R308). -/
structure Inst where
  part    : Nat
  tag     : Nat
  members : List Member
  /-- the time of the root's field when the first participant joined (R308) -/
  since   : Nat
deriving DecidableEq, Repr

/-- A launch that has passed its checks and loads its cores as they become quiet (R28, R29, R303). -/
structure Loading where
  req    : LaunchReq
  image  : List Byte
  placed : List Nat
  /-- the cores whose sections and T8 tables it has yet to load -/
  cores  : List Nat
deriving DecidableEq, Repr

/-- A copy of the copy service under way (R313). -/
structure CopyOp where
  part : Nat
  core : Nat
  words : List Word
deriving DecidableEq, Repr

/-- A context that the controller has switched out (R257, R302): what its cores, clusters, rings and Reeves held, its messages under
way, and the loft context save areas of its cores (Table 16-10). Its memory stays where it is. -/
structure Context where
  cores    : AMap CoreSt
  clusters : AMap ClusterSt
  rings    : AMap RingSt
  nodes    : AMap (AMap Node)
  graphs   : AMap (AMap Graph)
  net      : List Msg
  reports  : List (Reporter × Msg)
  insts    : AMap Inst
  resv     : List Reservation
  loft     : AMap (List Byte)
deriving DecidableEq, Repr

/-- What the controller and the mailbox engine hand to the host or to the owner's management interface. -/
inductive Report where
  | bootFailed (phase : Nat)
  | uncorrectable (key : Nat)
  | canary (pos : Nat)
  | alarm (source : Nat)
  | partition (id : Nat) (ok : Bool)
  | removed (id : Nat)
  | queueBound (q : Nat) (ok : Bool)
  | route (part n : Nat) (ok : Bool)
  | injection (ok : Bool)
  | pageFault (part : Nat) (va : Word)
  /-- a quote: the nonce and the measurements, their signature, and the certificate chain (R282) -/
  | quote (part : Nat) (quoted : List Byte) (sig : List Byte) (chain : List (List Byte))
  | keyless
  | policy (ok : Bool)
  | serviceTrap (core : Nat) (words : List Word)
  /-- a message that the service image of a service core took (R155) -/
  | service (core : Nat) (hdr : Word) (words : List Word)
  | hostRead (part va : Nat) (bytes : List Byte) (ok : Bool)
  | peerOut (port part core : Nat) (hdr : Word) (words : List Word)
  /-- bytes that the copy service writes into a peer's partition (R313) -/
  | peerCopy (port part va : Nat) (bytes : List Byte)
  /-- the completion of a copy request whose partition was reset, at its host or peer end (Table 20-3) -/
  | copyStatus (part core status : Nat)
  /-- a message of a peer module has arrived: the acknowledgement (R314) -/
  | peerAck (e : Endpoint)
  /-- NOEP to the sender of a message of a peer module into a partition that does not take it (Table 20-3) -/
  | peerNoep (e : Endpoint) (handle : Nat)
  /-- the status of a peer's copy into a partition (R313, Table 20-3) -/
  | peerCopyIn (part va status : Nat)
  | resetAnswer (part : Nat)
  /-- the status that the host read from the window of a queue (Table 20-8) -/
  | queueStatus (queue : Nat) (word : Word)
deriving DecidableEq, Repr

/-- The controller (R279 to R284, R335). -/
structure Ctl where
  /-- the boot phase that failed, or 7 once the boot is complete -/
  phase    : Nat
  /-- the positions that are not enabled, in order; true: dead, false: transit (R215) -/
  holes    : AMap Bool
  silo     : AMap ChanState
  badSites : List Nat
  badPorts : List Nat
  /-- the elevators that were dead at boot, field × 16 + site (R284) -/
  deadElevators : List Nat
  /-- the routers that have failed at run time, which a cold boot makes dead (R299) -/
  failed   : List Nat
  /-- the image key slots (R281) -/
  keys     : AMap (List Byte)
  /-- the digest of the root public key, in fuses (R281) -/
  rootDigest : List Byte
  /-- the controller firmware, the loft firmware and the service image that the last boot verified (R281, Table 19-3) -/
  images   : List (List Byte)
  /-- the identity and the attestation key, each until it is erased (R282, R283) -/
  identity : Option PrivKey
  attestation : Option PrivKey
  policy   : BitVec 6
  repair   : List Nat
  faults   : AMap HeldFault
  reports  : List Report
  /-- correctable errors counted (R101, R156) -/
  corrected : Nat
deriving DecidableEq, Repr

/-- A move that no row of the opcode table names. -/
inductive Inner where
  /-- the service image ends its activation (R155) -/
  | serviceEnd (core slot : Nat)
  /-- the controller enables channel 62 of a service core again (R155) -/
  | serviceEnable (core : Nat)
  /-- task records come to a pool (R147, R337) -/
  | recordArrival (m : Nat)
  /-- a core of a peer module has sent a message into a partition (R314) -/
  | peerMessage (part : Nat) (from_ : Endpoint) (core : Nat) (hdr : Word) (words : List Word)
  /-- a type 1 task adds one of the elements of its product that are left (R188) -/
  | elementAdd (sg entry n : Nat)
  /-- the Reeve of a field goes on with what a move has left to do -/
  | reeveRest (f : Nat)
  /-- the loft engines of a core close one row pair (R252, R255) -/
  | rowClose (core p : Nat)
  /-- a peer module's copy service writes bytes into a partition (R313) -/
  | peerCopy (part va : Nat) (bytes : List Byte)
  /-- a load of a slot takes its value before it is reached (R131) -/
  | earlyRead (core slot va n : Nat)
  /-- an instruction of a slot that has retired takes effect (R131) -/
  | flightLand (core slot id : Nat)
  /-- what stands before a fence of a slot is performed (R134, R154) -/
  | fencePaid (core slot id : Nat)
  /-- the partition of a peer module that a message is for is reset (R301, Table 20-3) -/
  | peerRefusal (m : Nat)
  /-- the host reads the status of a queue (R311, Table 20-8) -/
  | queueStatus (queue : Nat)
deriving DecidableEq, Repr

/-- A move of the machine: a core issues an instruction, or issues one that takes effect later if it may (R131), an event of the opcode
table comes, or a move without a row. -/
inductive Turn where
  | issue (core : Nat)
  | late (core : Nat)
  | event (i : Instr)
  | inner (e : Inner)
deriving DecidableEq, Repr

/-- The slot that `exec` acts for. -/
structure Cur where
  core : Nat
  slot : Fin 4
deriving DecidableEq, Repr

/-- The module. -/
structure State where
  cur      : Cur
  cores    : AMap CoreSt
  clusters : AMap ClusterSt
  rings    : AMap RingSt
  fields   : AMap FieldSt
  parts    : AMap PartSt
  queues   : AMap QueueSt
  /-- memory: address keys strictly rising, no entry equal to what an unlisted key reads as -/
  mem      : List Host.Cell
  /-- the memory left undefined, the latest first; a key that neither `mem` nor this covers reads as zero -/
  lost     : List Lost
  hidden   : List Hidden
  bad      : List BadGranule
  resv     : List Reservation
  net      : List Msg
  /-- the writes that a message under way depends on, by its number (R131, R133) -/
  carried  : AMap (List Nat)
  /-- the report buffers of agents other than slots (R336), oldest first -/
  reports  : List (Reporter × Msg)
  insts    : AMap Inst
  loads    : AMap Loading
  copies   : AMap CopyOp
  /-- hotness counters, by home supergroup and page: the miss count and the four quadrants, and, of the requesters counted, how many they
  are and the sums of their rows and columns (R287) -/
  hot      : AMap (AMap (List Nat))
  /-- contexts saved by the controller, by partition (R257, R302) -/
  saved    : AMap Context
  ctl      : Ctl
  /-- what comes next, where that is settled: requests from outside, and moves of the agents, whose order among themselves the
  spec leaves open; any list is a behaviour, and after it the order is that of `Config.choose` -/
  sched    : List Turn
  /-- the slot to be served next by the round robin of R58, by core -/
  turn     : AMap Nat
  /-- the model's own counters: the next number of a message or write, and the next free value -/
  nextId   : Nat
  free     : Nat
deriving DecidableEq, Repr

/-! ### Reset values -/

/-- No ports declared. -/
def PortDecl.none : PortDecl := ⟨0, 0, 0, 0⟩

/-- No dependency. -/
def Flow.none : Flow := ⟨[], [], [], [], []⟩

/-- A slot after reset: idle, every register zero. DESIGN CHOICE (assumption 2). -/
def Slot.reset : Slot where
  live := false
  wait := .none
  pc := 0
  x := Vector.replicate 32 0
  v := Vector.replicate 28 0
  p := Vector.replicate 8 0
  lq := []
  sq := []
  bq := []
  aq := []
  pfx := none
  fbuf := []
  sel := 0
  left := 0
  spawnb := 0
  amoscope := 5
  tabsel := 0
  instret := 0
  crit := false
  msgid := 0
  baywin := 0
  sends := []
  chan := none
  first := none
  trigger := none
  taken := []
  pending := false
  regdem := 0
  baydem := 0
  bay := 0
  budget := 0
  ports := .none
  compat := false
  task := none
  trigd := false
  begun := none
  sent := []
  owed := []
  flow := .none
  bad := []
  behind := none

/-- A channel after reset: unbound and empty. -/
def Chan.reset : Chan := ⟨none, false, false, false, [], 0, [], []⟩

/-- A class after reset (R98). -/
def ClassQ.reset : ClassQ := ⟨0, [], [], [], none, []⟩

/-- A core after partition reset (R60, R100, R159, Table 8-2, Table 11-2). -/
def CoreSt.reset : CoreSt where
  slots := Vector.replicate 4 Slot.reset
  chans := []
  lastHi := 63
  lastLo := 63
  seq := 0
  tdesc := Vector.replicate 4 0x78022040
  engwt := 0x411
  rgpat := 0x40400
  fjob := 0
  fcause := 0
  fclass := 0
  fsticky := 0
  badc := false
  jobs := Vector.replicate 5 ClassQ.reset
  outb := []
  backlog := []
  itlb := []
  dtlb := []
  round := 0
  join := none
  ports := .none
  compat := false
  rewards := []
  rwdHeld := []
  cutHold := false
  loadHold := none
  sweep := none
  quota := 0
  levels := []

/-- An arbiter before its first pass. -/
def Arb.reset : Arb := ⟨0, 0, false, []⟩

/-- A cluster after partition reset (R148). -/
def ClusterSt.reset : ClusterSt := ⟨.reset, .reset, [], 1, 0, false, false, [], [], false⟩

/-- A ring after partition reset (R180, R195). -/
def RingSt.reset : RingSt :=
  ⟨Vector.replicate 16 none, Vector.replicate 16 none, false, 0, 0, [], 0, 0, 0, 0, none⟩

/-- A field after its reset (R208, R291): nominal clock, an empty Reeve. -/
def FieldSt.reset : FieldSt := ⟨0, 16, [], [], false, [], false, false, [], none⟩

/-- A work queue that nothing has bound (R311). -/
def QueueSt.reset : QueueSt := ⟨none, [], 0, 0, false, 0, 0, none⟩

/-- The controller after a cold boot in which every test passed (R279, R280): the first 960 positions enabled, the last two
rows transit, every silo channel full. DESIGN CHOICE (assumption 128). -/
def Ctl.reset : Ctl where
  phase := 7
  holes := (List.range 48).map fun i => (i + 960, false)
  silo := []
  badSites := []
  badPorts := []
  deadElevators := []
  failed := []
  keys := []
  rootDigest := Config.rootDigest
  images := (List.range 3).map Config.firmware
  identity := some (Config.privateKey 0)
  attestation := some (Config.privateKey 1)
  policy := 0
  repair := []
  faults := []
  reports := []
  corrected := 0

/-- The module right after a cold boot: no partition, memory with nothing listed, every counter at zero (R279).
DEDUCED (assumption 3). -/
def State.reset : State where
  cur := ⟨0, 0⟩
  cores := []
  clusters := []
  rings := []
  fields := []
  parts := []
  queues := []
  mem := []
  lost := []
  hidden := []
  bad := []
  resv := []
  net := []
  carried := []
  reports := []
  insts := []
  loads := []
  copies := []
  hot := []
  saved := []
  ctl := .reset
  sched := []
  turn := []
  nextId := 0
  free := 0

end Sys2Proof.Machine
end

