-- ==== Sys2Proof/Machine/Geo.lean ====
section
/-!
DEFINITION. Where things are: core ids (Table 4-2), positions of the mesh and fields (R1, R206, R215), partitions (R300), and
the scope instances of Table 7-1.
-/
namespace Sys2Proof.Machine

/-- A core. -/
def State.core (s : State) (c : Nat) : CoreSt := s.cores.getD c .reset

/-- A slot of a core. -/
def State.slotOf (s : State) (c : Nat) (k : Fin 4) : Slot := (s.core c).slots.get k

/-- A slot number as an index. -/
def slotIx (k : Nat) : Fin 4 := Fin.ofNat 4 k

/-- The cluster of a core, numbered over the module. -/
def clusterOf (core : Nat) : Nat := core / 8

/-- The supergroup of a core. -/
def sgOf (core : Nat) : Nat := core / 128

/-- The service core of a supergroup (R155). -/
def serviceCore (sg : Nat) : Nat := sg * 128

/-- Core 0 of cluster 0 of its supergroup (R155). -/
def isServiceCore (core : Nat) : Bool := core % 128 == 0

/-- The position after as many enabled ones as holes leave: each hole at or before the running position pushes it on. -/
def skipHoles : AMap Bool → Nat → Nat
  | [], p => p
  | (h, _) :: hs, p => if h ≤ p then skipHoles hs (p + 1) else p

/-- The physical position, row × 24 + col, of a logical supergroup id: row-major, holes skipped (R1). -/
def posOf (s : State) (sg : Nat) : Nat := skipHoles s.ctl.holes sg

/-- The logical id of an enabled position. -/
def sgAt (s : State) (pos : Nat) : Option Nat :=
  if (s.ctl.holes.get? pos).isSome || 1008 ≤ pos then none
  else
    let n := pos - (s.ctl.holes.filter fun h => decide (h.1 < pos)).length
    if n < 960 then some n else none

def colOf (pos : Nat) : Nat := pos % 24

def rowOf (pos : Nat) : Nat := pos / 24

/-- The field of a position (R206). -/
def fieldOfPos (pos : Nat) : Nat := 6 * (rowOf pos / 6) + colOf pos / 4

/-- The field of a supergroup. -/
def sgField (s : State) (sg : Nat) : Nat := fieldOfPos (posOf s sg)

/-- The field of a core. -/
def coreField (s : State) (core : Nat) : Nat := sgField s (sgOf core)

/-- The partition that a field belongs to (R300). -/
def fieldPart (s : State) (f : Nat) : Option Nat := (s.parts.find? fun p => p.2.fields.contains f).map Prod.fst

/-- The partition of a core. -/
def corePart (s : State) (core : Nat) : Option Nat := fieldPart s (coreField s core)

/-- A core id that names a core of a partition (R50, R67). -/
def coreIn (s : State) (part : Option Nat) (core : Nat) : Bool :=
  decide (sgOf core < 960) && part.isSome && corePart s core == part

/-- A supergroup of a partition. -/
def sgIn (s : State) (part sg : Nat) : Bool := decide (sg < 960) && fieldPart s (sgField s sg) == some part

/-- The supergroups of a partition, in ascending logical id. -/
def partSgs (s : State) (part : Nat) : List Nat := (List.range 960).filter (sgIn s part)

/-- The cores of a partition. -/
def partCores (s : State) (part : Nat) : List Nat :=
  (partSgs s part).flatMap fun sg => (List.range 128).map (sg * 128 + ·)

/-- A node id that is well formed (R216); `part` is the partition its field must lie in. -/
def nodeIdOk (s : State) (part : Option Nat) (id : Nat) : Bool :=
  let f := id / 65536
  decide (id < 2 ^ 22) && decide (f < 42) && decide (id % 65536 < 4096) && part.isSome && fieldPart s f == part

/-- The field of a node id. -/
def nodeField (id : Nat) : Nat := id / 65536 % 64

/-- The slot of a node id. -/
def nodeSlot (id : Nat) : Nat := id % 65536

/-! ### Scopes -/

/-- The place of an agent at one level of Table 7-1: its core, cluster, group, supergroup, field or partition. -/
def agentAt (s : State) (sc : Scope) : Agent → Option Nat
  | .slot c _ | .loft c => match sc with
    | .core => some c
    | .clu => some (c / 8)
    | .grp => some (c / 32)
    | .sgp => some (c / 128)
    | .fld => some (coreField s c)
    | .part => corePart s c
    | .sys => some 0
  | .matrix cl | .copy cl => match sc with
    | .core => none
    | .clu => some cl
    | .grp => some (cl / 4)
    | .sgp => some (cl / 16)
    | .fld => some (sgField s (cl / 16))
    | .part => fieldPart s (sgField s (cl / 16))
    | .sys => some 0
  | .ring sg => match sc with
    | .core | .clu | .grp => none
    | .sgp => some sg
    | .fld => some (sgField s sg)
    | .part => fieldPart s (sgField s sg)
    | .sys => some 0
  | .coll f | .reeve f => match sc with
    | .core | .clu | .grp | .sgp => none
    | .fld => some f
    | .part => fieldPart s f
    | .sys => some 0
  | .net p | .host p => match sc with
    | .core | .clu | .grp | .sgp | .fld => none
    | .part => some p
    | .sys => some 0
  | .fetch _ => none

/-- `b` is an agent of `a`'s instance at a scope (R130). -/
def inScope (s : State) (sc : Scope) (a b : Agent) : Bool :=
  (agentAt s sc a).isSome && agentAt s sc a == agentAt s sc b

/-- The scopes from the narrowest on (Table 7-1). -/
def Scope.all : List Scope := [.core, .clu, .grp, .sgp, .fld, .part, .sys]

/-- The smallest scope whose instance holds both agents (R129). -/
def smallestScope (s : State) (a b : Agent) : Option Scope := Scope.all.find? fun sc => inScope s sc a b

/-- The scope of a code of Table 2-10; code 7 is not a scope. -/
def scopeOfCode (c : BitVec 3) : Scope :=
  match c.toNat with
  | 0 => .core
  | 1 => .clu
  | 2 => .grp
  | 3 => .sgp
  | 4 => .fld
  | 5 => .part
  | _ => .sys

/-- The partition of an agent. -/
def agentPart (s : State) (a : Agent) : Option Nat := agentAt s .part a

/-- The path of an agent, as a bit of an `xfence` mask (Table 8-4). -/
def pathBit : Agent → Nat
  | .slot .. => 0
  | .copy _ => 1
  | .matrix _ => 2
  | .ring _ => 3
  | .loft _ => 4
  | .coll _ => 5
  | .net _ | .reeve _ => 6
  | .host _ => 7
  | .fetch _ => 8

/-- An agent of another's partition, of one of the classes of an `xfence` mask (R154). -/
def inClasses (s : State) (a : Agent) (mask : BitVec 8) (b : Agent) : Bool :=
  inScope s .part a b && mask.getLsbD (pathBit b)

end Sys2Proof.Machine
end

