-- ==== Sys2Proof/Machine/Memory.lean ====
section
/-!
DEFINITION. Memory: physical places and their keys, reading and writing bytes in canonical form, which writes an agent sees
(R128 to R131), reservations (R80), and uncorrectable errors (R156, R290).
-/
namespace Sys2Proof.Machine

/-- A physical array of the module, or the host's memory. Tile registers are numbered core × 4 + k, accumulators cluster × 8 + c
and T8 tables core × 4 + k (R36, R158). -/
inductive Place where
  | tcm (core : Nat)
  | bay (sg : Nat)
  | granary (field : Nat)
  | loft (core : Nat)
  | silo
  | second
  | host
  | tile (n : Nat)
  | acc (n : Nat)
  | table (n : Nat)
  /-- the register file of a slot, numbered core × 4 + slot (R101) -/
  | regs (n : Nat)
  /-- the tile at a station of a ring, numbered supergroup × 32 + station, a swath 16 on from a sheaf (R190) -/
  | ringTile (n : Nat)
deriving DecidableEq, Repr

/-- The number of a place. -/
def Place.num : Place → Nat
  | .tcm c => c * 16
  | .bay g => g * 16 + 1
  | .granary f => f * 16 + 2
  | .loft c => c * 16 + 3
  | .silo => 4
  | .second => 5
  | .host => 6
  | .tile n => n * 16 + 7
  | .acc n => n * 16 + 8
  | .table n => n * 16 + 9
  | .regs n => n * 16 + 10
  | .ringTile n => n * 16 + 11

/-- The key of a byte of a place. -/
def Place.key (p : Place) (off : Nat) : Nat := p.num * 2 ^ 64 + off

/-! ### Bytes -/

/-- What a key that memory does not list reads as, but for one whose contents a reset has left undefined: zero (a choice of this
model). DESIGN CHOICE (assumption 1). -/
def unlisted : Byte := 0

/-- A partition reset or a cold boot has left the contents of a key undefined (R293, R259, R158). -/
def Lost.has (l : Lost) (key : Nat) : Bool :=
  let n := key / 2 ^ 64
  let m := n / 16
  let off := key % 2 ^ 64
  match n % 16 with
  | 0 => l.sgs.contains (m / 128)
  | 1 => l.sgs.contains m
  | 2 => l.fields.contains m
  | 3 => l.sgs.contains (m / 128)
  | 4 => l.silo.any fun r => decide (r.1 ≤ off) && decide (off < r.1 + r.2)
  | 5 => l.second.any fun r => decide (r.1 ≤ off) && decide (off < r.1 + r.2)
  | 7 | 9 => l.sgs.contains (m / 512)
  | 8 => l.sgs.contains (m / 128)
  | _ => false

/-- What an unlisted key reads as: a free value where a reset has left it undefined, and `unlisted` elsewhere. -/
def baseOf (ls : List Lost) (key : Nat) : Byte :=
  match ls.find? fun l => l.has key with
  | some l => Config.freeByte ((l.n + 1) * 2 ^ 128 + key)
  | none => unlisted

/-- The newest value of a byte. -/
def memGet (base : Nat → Byte) : List Host.Cell → Nat → Byte
  | [], a => base a
  | (k, b) :: m, a => if k = a then b else memGet base m a

/-- A listed value put in its place. -/
def memInsert : List Host.Cell → Nat → Byte → List Host.Cell
  | [], a, b => [(a, b)]
  | (k, c) :: m, a, b =>
    if a < k then (a, b) :: (k, c) :: m
    else if k = a then (a, b) :: m
    else (k, c) :: memInsert m a b

/-- Memory with one byte written, in canonical form. -/
def memSet (base : Nat → Byte) (m : List Host.Cell) (a : Nat) (b : Byte) : List Host.Cell :=
  if b = base a then m.filter (fun c => c.1 ≠ a) else memInsert m a b

/-- Memory with several bytes written, in order. -/
def memWrite (base : Nat → Byte) (m : List Host.Cell) (cs : List (Nat × Byte)) : List Host.Cell :=
  cs.foldl (fun m c => memSet base m c.1 c.2) m

/-- The canonical form: keys strictly rising, no entry equal to what an unlisted key reads as. -/
def memWf (base : Nat → Byte) (m : List Host.Cell) : Bool :=
  decide (m.Pairwise fun a b => a.1 < b.1) && m.all fun c => c.2 != base c.1

/-- What an unlisted key reads as in a state. -/
def State.base (s : State) : Nat → Byte := baseOf s.lost

/-- The memory of a state is in canonical form. -/
def State.wf (s : State) : Bool := memWf s.base s.mem

/-- A byte of memory in its newest value. -/
def State.byte (s : State) (a : Nat) : Byte := memGet s.base s.mem a

/-- The little-endian number of a list of bytes. -/
def natOfBytes : List Byte → Nat
  | [] => 0
  | b :: bs => b.toNat + 256 * natOfBytes bs

/-- The little-endian bytes of a number. -/
def bytesOf : Nat → Nat → List Byte
  | 0, _ => []
  | n + 1, v => BitVec.ofNat 8 v :: bytesOf n (v / 256)

/-- The keys of `n` bytes from a key on. -/
def span (key n : Nat) : List Nat := (List.range n).map (key + ·)

/-- Bytes laid over their keys. -/
def cellsAt (key : Nat) (bs : List Byte) : List (Nat × Byte) := (span key bs.length).zip bs

/-! ### Which writes an agent sees -/

/-- An agent belongs to a view. -/
def viewHas (s : State) (ag : Agent) : View → Bool
  | .one a => a == ag
  | .within sc a => inScope s sc a ag
  | .classes a mask => inClasses s a mask ag
  | .all => true

/-- A write is visible to an agent (R129). -/
def sees (s : State) (ag : Agent) (h : Hidden) : Bool := h.writer == ag || h.seen.any (viewHas s ag)

/-- A byte as an agent sees it: the newest value, less the writes that it does not see yet; `hs` is newest first. -/
def overlay (s : State) (ag : Agent) (a : Nat) : List Hidden → Byte → Byte
  | [], b => b
  | h :: hs, b =>
    match h.old.find? fun c => c.1 == a with
    | none => overlay s ag a hs b
    | some c => if sees s ag h then b else overlay s ag a hs c.2

/-- A byte read by an agent (R128). -/
def State.readByte (s : State) (ag : Agent) (a : Nat) : Byte := overlay s ag a s.hidden (s.byte a)

/-- The write, not yet visible to all, that a read of a byte by an agent returns. -/
def returned (s : State) (ag : Agent) (a : Nat) : List Hidden → Option Nat
  | [] => none
  | h :: hs =>
    if h.old.any (fun c => c.1 == a) && sees s ag h then some h.id else returned s ag a hs

/-- The writes of another agent that a read of some bytes returns. -/
def returnedIds (s : State) (ag : Agent) (keys : List Nat) : List Nat :=
  keys.filterMap fun a => returned s ag a s.hidden

/-- A write touches a byte that another one touches. -/
def overlaps (h g : Hidden) : Bool := h.old.any fun c => g.old.any fun d => c.1 == d.1

/-- Makes the named writes visible to a view, and with each one the older writes of its bytes and those it depends on
(R128, R131); `hs` is newest first. A write visible to all is forgotten. -/
def performIds (v : View) : List Nat → List Hidden → List Hidden
  | _, [] => []
  | ids, h :: hs =>
    if ids.contains h.id then
      let older := (hs.filter (overlaps h)).map Hidden.id
      let rest := performIds v (ids ++ h.deps ++ older) hs
      if v == .all then rest else { h with seen := v :: h.seen } :: rest
    else h :: performIds v ids hs

/-- A write of loft bytes, which the loft controller performs with respect to every agent at once (R245). -/
def inLoft (h : Hidden) : Bool := h.old.any fun c => c.1 / 2 ^ 64 % 16 == 3

/-- The writes that must be visible where some of them are: those named, and with each one the older writes of its bytes and those it
depends on (R128, R131); `hs` is newest first. -/
def withOlder : List Nat → List Hidden → List Hidden
  | _, [] => []
  | ids, h :: hs =>
    if ids.contains h.id then h :: withOlder (ids ++ h.deps ++ (hs.filter (overlaps h)).map Hidden.id) hs
    else withOlder ids hs

/-- Makes some writes visible to a view; those of a loft among them to every agent. -/
def State.perform (s : State) (ids : List Nat) (v : View) : State :=
  if ids.isEmpty then s
  else
    let loft := ((withOlder ids s.hidden).filter inLoft).map Hidden.id
    { s with hidden := performIds v ids (if loft.isEmpty then s.hidden else performIds .all loft s.hidden) }

/-- An agent has read a write of another one: it is visible throughout the smallest instance that holds its writer and the reader
(R129). -/
def State.readBy (s : State) (ag : Agent) (i : Nat) : State :=
  match s.hidden.find? fun h => h.id == i with
  | none => s
  | some h =>
    if h.writer == ag then s
    else match smallestScope s h.writer ag with
      | some sc => s.perform [i] (.within sc ag)
      | none => s.perform [i] (.one ag)

/-- An agent has read some writes: each is visible as R129 has it, and the reader has it, once for each read, among its reads (R131,
R134). -/
def State.noteIds (s : State) (ag : Agent) (ids : List Nat) : State :=
  ids.dedup.foldl (fun s i =>
    let t : State := { s with hidden := s.hidden.map fun (g : Hidden) => if g.id == i then { g with readers := ag :: g.readers } else g }
    t.readBy ag i) s

/-- A read of a slot returned some writes: a later write of the slot that shares a byte with the read comes after each of them
(R131 case 1). -/
def State.noteSpan (s : State) (ag : Agent) (keys ids : List Nat) : State :=
  match ag with
  | .slot .. =>
    { s with hidden := s.hidden.map fun h =>
        if ids.contains h.id && !h.spans.contains (ag, keys) then { h with spans := (ag, keys) :: h.spans } else h }
  | _ => s

/-- An agent has read some ranges of bytes as it sees them, each one an access. -/
def State.noteReads (s : State) (ag : Agent) (reads : List (List Nat)) : State :=
  (reads.foldl (fun t keys => t.noteSpan ag keys (returnedIds s ag keys)) s).noteIds ag (returnedIds s ag reads.flatten)

/-- An agent has read some bytes as it sees them. -/
def State.noteRead (s : State) (ag : Agent) (keys : List Nat) : State := s.noteReads ag [keys]

/-- The read of an atomic takes a write into account (R140): one that its agent sees; a plain write of an agent of its instance; and
the write of another atomic where each one's agent is in the other's instance, so that the two are mutually atomic. -/
def binds (s : State) (ag : Agent) (sc : Scope) (h : Hidden) : Bool :=
  sees s ag h || (inScope s sc ag h.writer && (match h.atom with
    | some sb => inScope s sb h.writer ag
    | none => true))

/-- A byte as the read of an atomic at a scope finds it: the newest value, less the writes that do not bind it. -/
def atomByteOf (s : State) (ag : Agent) (sc : Scope) (a : Nat) : List Hidden → Byte → Byte
  | [], b => b
  | h :: hs, b =>
    match h.old.find? fun c => c.1 == a with
    | none => atomByteOf s ag sc a hs b
    | some c => if binds s ag sc h then b else atomByteOf s ag sc a hs c.2

/-- A byte read by an atomic of an agent at a scope (R140). -/
def State.atomByte (s : State) (ag : Agent) (sc : Scope) (a : Nat) : Byte := atomByteOf s ag sc a s.hidden (s.byte a)

/-- The writes, not yet visible to all, that the read of an atomic returns. -/
def atomIds (s : State) (ag : Agent) (sc : Scope) (keys : List Nat) : List Nat :=
  keys.filterMap fun a => (s.hidden.find? fun h => (h.old.any fun c => c.1 == a) && binds s ag sc h).map Hidden.id

/-- The newest writes, not yet visible to all, of some bytes. -/
def newestIds (s : State) (keys : List Nat) : List Nat :=
  keys.filterMap fun a => (s.hidden.find? fun h => h.old.any fun c => c.1 == a).map Hidden.id

/-- An agent has read some bytes in their newest value. -/
def State.noteNewest (s : State) (ag : Agent) (keys : List Nat) : State := s.noteIds ag (newestIds s keys)

/-- The bytes of some keys as an agent reads them. -/
def State.readKeys (s : State) (ag : Agent) (keys : List Nat) : List Byte := keys.map (s.readByte ag)

/-! ### Writes -/

/-- A granule of 8 bytes. -/
def granuleOf (key : Nat) : Nat := key / 8

/-- The reservations that survive a write of some keys (R80). -/
def keepResv (keys : List Nat) (r : Reservation) : Bool := !keys.any fun k => granuleOf k == r.granule

/-- A bad granule is covered whole by some keys. -/
def coversBad (keys : List Nat) (b : BadGranule) : Bool := (span b.key b.size).all keys.contains

/-- A read of an agent that returned a write shares a byte with some keys (R131 case 1). -/
def Hidden.spanned (h : Hidden) (ag : Agent) (keys : List Nat) : Bool := h.spans.any fun p => p.1 == ag && p.2.any keys.contains

/-- The earlier writes that a new write of an agent must not overtake (R131): of a slot, those that its address, its data and the
branches before it depend on, and all that an earlier read of one of its bytes returned; of another agent, those that it has read.
DESIGN CHOICE (assumption 8). -/
def depsOf (s : State) (ag : Agent) (keys : List Nat) : List Nat :=
  match ag with
  | .slot c k => (s.slotOf c (slotIx k)).flow.ops ++ (s.slotOf c (slotIx k)).flow.ctl ++
      (s.hidden.filter fun h => h.spanned ag keys).map Hidden.id
  | ag => (s.hidden.filter fun h => h.readers.contains ag && h.writer != ag).map Hidden.id

/-- The write of an agent: newest in coherence order, visible to its agent at once (R128, R129). It clears the reservations of its
granules (R80), and clears the error of a granule that it covers (R156, R290). Its later visibility waits for the writes that
it depends on (R131). -/
def State.writeCells (s : State) (ag : Agent) (cs : List (Nat × Byte)) : State :=
  if cs.isEmpty then s
  else
    let keys := cs.map Prod.fst
    { s with
      mem := memWrite s.base s.mem cs
      hidden := { id := s.nextId, writer := ag, old := keys.map fun k => (k, s.byte k), readers := [], seen := []
                  deps := depsOf s ag keys } :: s.hidden
      nextId := s.nextId + 1
      resv := s.resv.filter (keepResv keys)
      bad := s.bad.filter fun b => !coversBad keys b }

/-- The write of an atomic at a scope (R140). -/
def State.writeAtomic (s : State) (ag : Agent) (sc : Scope) (cs : List (Nat × Byte)) : State :=
  let t := s.writeCells ag cs
  { t with hidden := t.hidden.map fun h => if h.id == s.nextId then { h with atom := some sc } else h }

/-- The write of a part that no agent can see half done: performed with respect to all at once. -/
def State.setCells (s : State) (cs : List (Nat × Byte)) : State :=
  let keys := cs.map Prod.fst
  { s with
    mem := memWrite s.base s.mem cs
    hidden := performIds .all ((s.hidden.filter fun h => h.old.any fun c => keys.contains c.1).map Hidden.id) s.hidden
    resv := s.resv.filter (keepResv keys)
    bad := s.bad.filter fun b => !coversBad keys b }

/-- The contents of an allocation become others, without an access: an error or an injection stays, and so do the reservations (R59, R80,
R290). -/
def State.fillCells (s : State) (cs : List (Nat × Byte)) : State := { s.setCells cs with bad := s.bad, resv := s.resv }

/-- The whole of some memory takes new contents that no write of a program gave it: what it holds of the listed keys goes, and
no write of it is under way. `ls` is what has been left undefined, after this. The reservations stay: only a write of an agent of R126 ends
one (R80). DEDUCED (assumption 110). -/
def State.newContents (s : State) (has : Nat → Bool) (ls : List Lost) (keep : List (Nat × Byte)) : State :=
  { s with
    mem := memWrite (baseOf ls) (s.mem.filter fun c => !has c.1) keep
    lost := ls
    hidden := s.hidden.filter fun h => !h.old.any fun c => has c.1 }

/-- A page comes to stand in other memory, at `dst` in place of `src`, and the reservations on it with it (R80, R287). -/
def State.moveResv (s : State) (src dst n : Nat) : State :=
  { s with resv := (s.resv.filter fun r => !(decide (dst ≤ r.granule * 8) && decide (r.granule * 8 < dst + n))).map fun r =>
      if src ≤ r.granule * 8 ∧ r.granule * 8 < src + n then { r with granule := r.granule - src / 8 + dst / 8 } else r }

/-- The writes not yet visible to all that an agent made. -/
def State.ownWrites (s : State) (ag : Agent) : List Nat :=
  (s.hidden.filter fun h => h.writer == ag).map Hidden.id

/-- The writes not yet visible to all that an agent has read. -/
def State.readWrites (s : State) (ag : Agent) : List Nat :=
  (s.hidden.filter fun h => h.readers.contains ag).map Hidden.id

/-! ### Uncorrectable errors -/

/-- The agent is of a class of injection (R290). -/
def injMatches (ag : Agent) : InjClass → Bool
  | .any => true
  | .slot => match ag with
    | .slot .. | .fetch _ => true
    | _ => false
  | .engine => match ag with
    | .slot .. | .fetch _ => false
    | _ => true

/-- The bad granule that a read of some keys by an agent meets. DESIGN CHOICE (assumption 50). -/
def State.badRead (s : State) (ag : Agent) (keys : List Nat) : Option BadGranule :=
  s.bad.find? fun b => injMatches ag b.cls && keys.any fun k => decide (b.key ≤ k) && decide (k < b.key + b.size)

/-- The bad granule that a write of some keys must read first: one it covers in part (R156). -/
def State.badPart (s : State) (ag : Agent) (keys : List Nat) : Option BadGranule :=
  s.bad.find? fun b => injMatches ag b.cls && (keys.any fun k => decide (b.key ≤ k) && decide (k < b.key + b.size)) &&
    !coversBad keys b

/-- The bad granule that several writes must read first, each write taken by itself (R156). -/
def State.badParts (s : State) (ag : Agent) (writes : List (List Nat)) : Option BadGranule := writes.findSome? (s.badPart ag)

/-- The bad granules that a write of some keys by an agent covers in part, and so reads first (R156, R290). -/
def partBads (s : State) (ag : Agent) (keys : List Nat) : List BadGranule :=
  s.bad.filter fun b => injMatches ag b.cls && (keys.any fun k => decide (b.key ≤ k) && decide (k < b.key + b.size)) &&
    !coversBad keys b

/-- What is written of some cells: nothing of a bad granule that they cover in part (R290). -/
def spareBads (s : State) (ag : Agent) (cells : List (Nat × Byte)) : List (Nat × Byte) :=
  cells.filter fun c => !(partBads s ag (cells.map Prod.fst)).any fun b => decide (b.key ≤ c.1) && decide (c.1 < b.key + b.size)

/-- Every byte that `has` names has been written, so that the errors in there are cleared (R156, R290). -/
def State.clearBads (s : State) (has : Nat → Bool) : State :=
  { s with bad := s.bad.filter fun b => !(span b.key b.size).all has }

/-- An error met is reported to the controller, and a test injection clears itself (R156, R290). -/
def State.meetBad (s : State) (b : BadGranule) : State :=
  { s with
    bad := if b.armed then s.bad.erase b else s.bad
    ctl := { s.ctl with reports := s.ctl.reports ++ [.uncorrectable b.key] } }

/-- The errors that a write of some cells by an agent meets are reported (R156, R290). -/
def State.meetParts (s : State) (ag : Agent) (cells : List (Nat × Byte)) : State :=
  (partBads s ag (cells.map Prod.fst)).foldl State.meetBad s

/-- Every error among some keys that a read of an agent meets is reported (R156). -/
def State.meetAll (s : State) (ag : Agent) (keys : List Nat) : State :=
  (s.bad.filter fun b => injMatches ag b.cls && keys.any fun k => decide (b.key ≤ k) && decide (k < b.key + b.size)).foldl
    State.meetBad s

end Sys2Proof.Machine
end

