-- ==== Sys2Proof/Machine/Regs.lean ====
section
/-!
DEFINITION. The parts of the state by number, and every read and write of a register: x registers (x0 reads zero, R75), vector
registers, predicates (p0 reads as all ones, R11), the program counter, and the free values at entry.
-/
namespace Sys2Proof.Machine

def State.modCore (s : State) (c : Nat) (f : CoreSt → CoreSt) : State :=
  { s with cores := s.cores.put c (f (s.core c)) }

def State.modSlotOf (s : State) (c : Nat) (k : Fin 4) (f : Slot → Slot) : State :=
  s.modCore c fun co => { co with slots := co.slots.set k (f (co.slots.get k)) }

/-- The slot that `exec` acts for. -/
def State.slot (s : State) : Slot := s.slotOf s.cur.core s.cur.slot

def State.modSlot (s : State) (f : Slot → Slot) : State := s.modSlotOf s.cur.core s.cur.slot f

/-- The agent that the current slot is. -/
def State.agent (s : State) : Agent := .slot s.cur.core s.cur.slot.val

/-- A channel of a core. -/
def State.chan (s : State) (c ch : Nat) : Chan := (s.core c).chans.getD ch .reset

def State.modChan (s : State) (c ch : Nat) (f : Chan → Chan) : State :=
  s.modCore c fun co => { co with chans := co.chans.put ch (f (co.chans.getD ch .reset)) }

def State.cluster (s : State) (cl : Nat) : ClusterSt := s.clusters.getD cl .reset

def State.modCluster (s : State) (cl : Nat) (f : ClusterSt → ClusterSt) : State :=
  { s with clusters := s.clusters.put cl (f (s.cluster cl)) }

def State.ring (s : State) (sg : Nat) : RingSt := s.rings.getD sg .reset

def State.modRing (s : State) (sg : Nat) (f : RingSt → RingSt) : State :=
  { s with rings := s.rings.put sg (f (s.ring sg)) }

def State.field (s : State) (f : Nat) : FieldSt := s.fields.getD f .reset

def State.modField (s : State) (f : Nat) (g : FieldSt → FieldSt) : State :=
  { s with fields := s.fields.put f (g (s.field f)) }

def State.queue (s : State) (q : Nat) : QueueSt := s.queues.getD q .reset

def State.modQueue (s : State) (q : Nat) (f : QueueSt → QueueSt) : State :=
  { s with queues := s.queues.put q (f (s.queue q)) }

def State.modPart (s : State) (p : Nat) (f : PartSt → PartSt) : State :=
  match s.parts.get? p with
  | some q => { s with parts := s.parts.put p (f q) }
  | none => s

/-- The index of an engine class from 1 to 5. -/
def clsIx (c : Nat) : Fin 5 := Fin.ofNat 5 (c - 1)

/-- The queue and jobs of a class of a core. -/
def State.classQ (s : State) (c cls : Nat) : ClassQ := (s.core c).jobs.get (clsIx cls)

def State.modClassQ (s : State) (c cls : Nat) (f : ClassQ → ClassQ) : State :=
  s.modCore c fun co => { co with jobs := co.jobs.set (clsIx cls) (f (co.jobs.get (clsIx cls))) }

/-! ### x registers, vector registers, predicates -/

/-- An x register of a slot; x0 reads zero. -/
def Slot.rx (sl : Slot) (r : Reg) : Word := if r = 0 then 0 else sl.x.get r.toFin

/-- The offset of an x register in the register file of a slot: 8 bytes each, then 28 vector registers, then 8 predicates. -/
def offX (r : Reg) : Nat := 8 * r.toNat

/-- The offset of a vector register in the register file of a slot. -/
def offV (r : Nat) : Nat := 256 + 32 * r

/-- The offset of the granule that holds a predicate, shared by two of them. DESIGN CHOICE (assumption 88). -/
def offP (p : PReg) : Nat := 1152 + 8 * (p.toNat / 2)

/-- A slot with an x register written, which clears its error (R101); x0 ignores writes. -/
def Slot.wx (sl : Slot) (r : Reg) (v : Word) : Slot :=
  if r = 0 then sl else { sl with x := sl.x.set r.toFin v, bad := sl.bad.filter (· ≠ offX r) }

/-- An x register of the current slot. -/
def State.rx (s : State) (r : Reg) : Word := s.slot.rx r

/-- The current slot's x register written. -/
def State.wx (s : State) (r : Reg) (v : Word) : State := s.modSlot fun sl => sl.wx r v

/-- A predicate; p0 reads as all ones (R11). -/
def Slot.rp (sl : Slot) (p : PReg) : BitVec 32 := if p = 0 then BitVec.allOnes 32 else sl.p.get p.toFin

/-- A slot with a predicate written; p0 ignores writes. -/
def Slot.wp (sl : Slot) (p : PReg) (v : BitVec 32) : Slot := if p = 0 then sl else { sl with p := sl.p.set p.toFin v }

/-- A vector register by number; numbers 28 to 31 are ports and read as nothing here. -/
def Slot.rv (sl : Slot) (r : Nat) : Vec := sl.v.toList.getD r 0

/-- A slot with a vector register written, which clears the errors of its granules (R101). -/
def Slot.wv (sl : Slot) (r : Nat) (v : Vec) : Slot :=
  if h : r < 28 then { sl with v := sl.v.set r v, bad := sl.bad.filter fun b => b < offV r ∨ offV r + 32 ≤ b } else sl

/-- The budget of a slot is spent: its next instruction, or the wait in progress, traps (R63). -/
def Slot.spent (sl : Slot) : Bool := sl.left == 0

/-! ### The two places of a slot with a stalled stream (R84) -/

/-- The registers at the place where a slot stands. -/
def Slot.regs (sl : Slot) : Regs := ⟨sl.pc, sl.x, sl.v, sl.p, sl.pfx, sl.flow.x⟩

/-- A slot that stands at a place. -/
def Slot.withRegs (sl : Slot) (r : Regs) : Slot :=
  { sl with pc := r.pc, x := r.x, v := r.v, p := r.p, pfx := r.pfx, flow := { sl.flow with x := r.fx } }

/-- What the named registers hold. -/
def Regs.written (r : Regs) (n : Names) : Written where
  xs := n.xs.map fun i => (i, r.x.get i.toFin, r.fx.getD i.toNat [])
  vs := n.vs.map fun i => (i, r.v.toList.getD i.toNat 0)
  ps := n.ps.map fun i => (i, r.p.get i.toFin)

/-- Registers that have been written. -/
def Regs.put (r : Regs) (w : Written) : Regs :=
  { r with
    x := w.xs.foldl (fun x e => x.set e.1.toFin e.2.1) r.x
    v := w.vs.foldl (fun v e => if h : e.1.toNat < 28 then v.set e.1.toNat e.2 else v) r.v
    p := w.ps.foldl (fun p e => p.set e.1.toFin e.2) r.p
    fx := w.xs.foldl (fun (m : AMap (List Nat)) e => if e.2.2.isEmpty then m.del e.1.toNat else m.put e.1.toNat e.2.2) r.fx }

/-- What an instruction wrote, less what instructions after it, done already, have written over. -/
def Written.less (w : Written) (later : List Item) : Written :=
  later.foldl (fun w i => match i with
    | .todo .. => w
    | .ran l _ => ⟨w.xs.filter fun e => !(l.xs.map Prod.fst).contains e.1, w.vs.filter fun e => !(l.vs.map Prod.fst).contains e.1,
        w.ps.filter fun e => !(l.ps.map Prod.fst).contains e.1⟩) w

/-- The registers after the instructions at the head of a list that are done, and the rest of it. -/
def passRan (r : Regs) : List Item → Regs × List Item
  | .ran w _ :: l => passRan (r.put w) l
  | l => (r, l)

/-- The oldest instruction is done: what it wrote comes to the place of the other stream, and the next one, at its own pc, is the oldest;
with none left that is not done the slot is whole again, with the prefix of its execute stream. -/
def Slot.oldDone (sl : Slot) (b : Behind) (n : Names) (later : List Item) : Slot :=
  let front := b.regs.put ((sl.regs.written n).less later)
  let p := passRan sl.regs later
  match p.2 with
  | .todo pc _ _ :: _ =>
    { sl.withRegs front with behind := some { b with items := p.2, regs := { p.1 with pc := pc }, old := false, mark := sl.instret } }
  | _ => { sl.withRegs { front with pfx := if b.exec then p.1.pfx else front.pfx } with behind := none }

/-- What has retired since the instruction at work began takes its place among what stands behind. -/
def Slot.catchUp (sl : Slot) : Slot :=
  match sl.behind with
  | none => sl
  | some b =>
    if sl.instret = b.mark then sl
    else match b.old, b.items, b.names with
      | true, .todo _ _ n :: later, _ => sl.oldDone b n later
      | false, items, some n =>
        { sl with behind := some { b with items := items ++ [.ran (sl.regs.written n) n.late], mark := sl.instret, names := none } }
      | _, _, _ => { sl with behind := some { b with mark := sl.instret } }

/-- The slot goes from one of its two places to the other. -/
def Slot.turnBack (sl : Slot) : Slot :=
  match sl.behind with
  | none => sl
  | some b => { sl.withRegs b.regs with behind := some { b with regs := sl.regs, old := !b.old } }

/-- An item stands behind, not done. -/
def Item.isTodo : Item → Bool
  | .todo .. => true
  | .ran .. => false

/-- The instructions that retire before the one at work, in program order (R83): what has retired, with those that stand behind it, or
less those after it that are done before their turn. -/
def Slot.retired (sl : Slot) : Word :=
  match sl.behind with
  | none => sl.instret
  | some b =>
    if b.old then sl.instret - BitVec.ofNat 64 (b.items.countP fun i => !i.isTodo)
    else sl.instret + BitVec.ofNat 64 (b.items.countP Item.isTodo)

/-- The slot stands in its other stream, ahead of instructions that stand behind. -/
def Slot.isAhead (sl : Slot) : Bool := sl.behind.any fun b => !b.old

/-- The slot stands at its oldest instruction that is not done. -/
def Slot.atOldest (sl : Slot) : Slot :=
  let sl := sl.catchUp
  match sl.behind with
  | some b => if b.old then sl else sl.turnBack
  | none => sl

/-- A result that comes after its instruction has begun to wait depends on what the operands of the instruction depended on (R131). -/
def Flow.carried (f : Flow) (rd : Reg) : Flow :=
  { f with
    x := if rd = 0 then f.x else if f.ops.isEmpty then f.x.del rd.toNat else f.x.put rd.toNat f.ops
    ops := [] }

/-- The instruction that the slot waits in writes its result and retires. -/
def Slot.answered (sl : Slot) (rd : Reg) (v : Word) : Slot :=
  { (sl.wx rd v) with pc := sl.pc + 4, instret := sl.instret + 1, wait := .none, flow := sl.flow.carried rd }

/-- The instruction retires: the next one is at pc + 4 (R63, Table 5-2). -/
def Slot.retire (sl : Slot) : Slot := { sl with pc := sl.pc + 4, instret := sl.instret + 1 }

/-- The current instruction retires. -/
def State.retire (s : State) : State := s.modSlot Slot.retire

/-- The current instruction writes rd and retires. -/
def State.done (s : State) (rd : Reg) (v : Word) : State := s.modSlot fun sl => (sl.wx rd v).retire

/-- The program counter as a 64-bit value. -/
def Slot.pcW (sl : Slot) : Word := sl.pc.setWidth 64

/-! ### Free values -/

/-- Thirty-two unspecified x registers from a counter. -/
def freeX (n : Nat) : Vector Word 32 := Vector.ofFn fun i => if i.val = 0 then 0 else Config.freeWord (n + i.val)

/-- Twenty-eight unspecified vector registers. -/
def freeV (n : Nat) : Vector Vec 28 := Vector.ofFn fun i => Config.freeVec (n + i.val)

/-- The predicates, unspecified; predicate 0 is not read. -/
def freeP (n : Nat) : Vector (BitVec 32) 8 := Vector.ofFn fun i => (Config.freeWord (n + 100 + i.val)).setWidth 32

end Sys2Proof.Machine
end

