-- ==== Sys2Proof/Machine/Ops.lean ====
section
/-!
DEFINITION. The shared operations: putting messages on the network and into outbound buffers (R54, R68, R336), service messages
(R66), room in queues (R55), the end of an activation by trap (R65) and by exit (R69), jumps (R5), and fences (R134).
-/
namespace Sys2Proof.Machine

/-! ### Messages -/

/-- A message enters the network with the next number. -/
def State.post (s : State) (src : Src) (entry : Bool) (body : Body) : State :=
  { s with net := s.net ++ [⟨s.nextId, src, entry, false, body⟩], nextId := s.nextId + 1 }

/-- A message queued in a core's outbound buffer: it leaves at once when an entry is free, and otherwise waits for one (R68). -/
def State.queueOut (s : State) (c : Nat) (body : Body) : State :=
  if (s.core c).outb.length < 16 then
    (s.modCore c fun co => { co with outb := co.outb ++ [s.nextId] }).post (.core c) true body
  else
    { s.modCore c fun co => { co with backlog := co.backlog ++ [⟨s.nextId, .core c, true, false, body⟩] } with
      nextId := s.nextId + 1 }

/-- The outbound buffer of a core has a free entry. -/
def State.outRoom (s : State) (c : Nat) : Bool := decide ((s.core c).outb.length < 16)

/-- An outbound entry is finished: it is free, and the oldest report that waits for one takes it (R54, R68). -/
def State.finishEntry (s : State) (c id : Nat) : State :=
  let co := s.core c
  let outb := co.outb.filter (· ≠ id)
  match co.backlog with
  | m :: rest =>
    if outb.length < 16 then
      { s.modCore c fun co => { co with outb := outb ++ [m.id], backlog := rest } with net := s.net ++ [m] }
    else s.modCore c fun co => { co with outb := outb }
  | [] => s.modCore c fun co => { co with outb := outb }

/-- A message by its number. -/
def State.msg? (s : State) (id : Nat) : Option Msg := s.net.find? fun m => m.id == id

/-- The network without a message. -/
def State.dropMsg (s : State) (id : Nat) : State := { s with net := s.net.filter fun m => m.id ≠ id }

/-- The delivered view of a header (R51): the sender's id in bits [31:15], the route class delivered, and len. -/
def delivered (hdr : Word) (sender : Nat) (cls : BitVec 2) (n : Nat) : Word :=
  hdr.extractLsb' 32 32 ++ BitVec.ofNat 17 sender ++ hdr.extractLsb' 8 7 ++ cls ++
    (if 3 < n then 1#1 else 0#1) ++ 0#5

/-- The destination core id or handle of a header (Table 4-1). -/
def hdrDest (h : Word) : Nat := (h.extractLsb' 15 17).toNat

/-- The channel of a header. -/
def hdrChan (h : Word) : Nat := (h.extractLsb' 9 6).toNat

/-- The priority of a header. -/
def hdrPrio (h : Word) : Bool := h.getLsbD 8

/-- The delivered header of a service message: channel 62, high priority, two flits (R66). DEDUCED (assumption 15). -/
def serviceHdr (sender : Nat) : Word := delivered (BitVec.ofNat 64 (62 * 512 + 256)) sender 0 4

/-- Payload word 0 of a service message (R66). -/
def serviceWord0 (cause core slot : Nat) : Word := BitVec.ofNat 64 (cause * 2 ^ 32 + core * 2 ^ 15 + slot)

/-- The four payload words of a service message (R66). -/
def serviceWords (cause core slot : Nat) (w1 w2 w3 : Word) : List Word := [serviceWord0 cause core slot, w1, w2, w3]

/-- A service message to the service core of a supergroup. -/
def serviceBody (sg core : Nat) (words : List Word) : Body :=
  .chan (serviceCore sg) 62 (serviceHdr core) words none

/-- A report of an agent other than a slot waits in that agent's own buffer (R336). -/
def State.report (s : State) (who : Reporter) (sg core : Nat) (words : List Word) : State :=
  { s with
    reports := s.reports ++ [(who, ⟨s.nextId, .report who, false, false, serviceBody sg core words⟩)]
    nextId := s.nextId + 1 }

/-- The controller tells the host or the owner. DEDUCED (assumption 85). -/
def State.tell (s : State) (r : Report) : State := { s with ctl := { s.ctl with reports := s.ctl.reports ++ [r] } }

/-! ### Queues -/

/-- A channel has room for one more message than it holds and has promised (R54). -/
def Chan.room (ch : Chan) : Bool :=
  match ch.hrec with
  | some r => decide (ch.queue.length + ch.reserved.length < r.qdecl)
  | none => false

/-- Freed entries are reserved for the messages refused earliest, and each one's sender gets a flow-control return (R54). -/
def State.grantRoom (s : State) (c ch : Nat) : Nat → State
  | 0 => s
  | n + 1 =>
    let q := s.chan c ch
    match q.refused with
    | m :: rest =>
      if q.room then
        let s := s.modChan c ch fun q => { q with refused := rest, reserved := q.reserved ++ [m] }
        let src := match s.msg? m with
          | some x => match x.src with
            | .core d => d
            | _ => c
          | none => c
        (s.post (.core c) false (.flow src m true)).grantRoom c ch n
      else s
    | [] => s

/-- The queue entries that a slot's chain holds are released (R55, R69). -/
def State.releaseEntries (s : State) (c k : Nat) : State :=
  (s.core c).chans.keys.foldl (fun s ch =>
    if (s.chan c ch).queue.any fun e => e.taken == some k then
      (s.modChan c ch fun q => { q with queue := q.queue.filter fun e => e.taken ≠ some k }).grantRoom c ch
        (s.chan c ch).refused.length
    else s) s

/-- A message goes back to the head of its queue, held by nobody (R65). -/
def Chan.toHead (ch : Chan) (seq : BitVec 32) : Chan :=
  match ch.queue.find? fun e => e.seq == seq with
  | some e => { ch with queue := { e with taken := none } :: ch.queue.filter fun e => e.seq ≠ seq }
  | none => ch

/-! ### The end of an activation -/

/-- A slot after its activation: idle, its sends, ports, prefix, fetch buffer and crit bit gone (R65, R69, R86). Its accesses stay
those of the slot: what has left, and what its fences owe (R134, R154). What its branches depended on is forgotten.
DESIGN CHOICE (assumption 115). -/
def Slot.idle (sl : Slot) : Slot :=
  { sl with
    live := false, wait := .none, lq := [], sq := [], bq := [], aq := [], pfx := none, fbuf := [], crit := false
    sends := [], chan := none, first := none, trigger := none, taken := [], pending := false, regdem := 0, baydem := 0
    task := none, trigd := false, begun := none, flow := .none, behind := none, flights := [], early := []
    owed := sl.owed.map fun o => { o with sends := 0 } }

/-- A slot's reservation is cleared (R80). -/
def State.clearResv (s : State) (c : Nat) (k : Fin 4) : State :=
  { s with resv := s.resv.filter fun r => !(r.core == c && r.slot == k.val) }

/-- A slot withdraws its contribution to a cluster round (R149). -/
def State.withdraw (s : State) (c : Nat) (k : Fin 4) : State :=
  s.modCore c fun co => { co with join := co.join.filter fun j => j.slot ≠ k.val }

/-- The channel of an activation ceases to be busy. -/
def State.unbusy (s : State) (c : Nat) : Option Nat → State
  | some ch => s.modChan c ch fun q => { q with busy := false }
  | none => s

/-- A request of a slot whose activation has ended: no slot waits for its answer any more. -/
def Body.disown (c k : Nat) (b : Body) : Body :=
  match b with
  | .spawnReq d j t pc args rd bu => if d = c ∧ j = k then .spawnReq d 4 t pc args rd bu else b
  | .spawnAns d j ok => if d = c ∧ j = k then .spawnAns d 4 ok else b
  | .glaunchReq d j a => if d = c ∧ j = k then .glaunchReq d 4 a else b
  | .glaunchAns d j v => if d = c ∧ j = k then .glaunchAns d 4 v else b
  | .gstatReq d j n => if d = c ∧ j = k then .gstatReq d 4 n else b
  | .gstatAns d j v => if d = c ∧ j = k then .gstatAns d 4 v else b
  | b => b

/-- The answers to a slot's requests find it gone. DEDUCED (assumption 30). -/
def State.disown (s : State) (c k : Nat) : State :=
  { s with net := s.net.map fun m => { m with body := m.body.disown c k } }

/-- A slot stands at the oldest instruction that is not done, where its budget ends a stall (R63, R85). -/
def State.rejoin (s : State) (c : Nat) (k : Fin 4) : State :=
  match (s.slotOf c k).behind with
  | some _ => s.modSlotOf c k fun sl => { sl.atOldest with behind := none }
  | none => s

/-- Taking a trap (R65): the sends are discarded, the chain's messages return to the heads of their queues (those that a chain of a
spawned child took do not), its first channel is disabled and has its pending bit set again if a pending bit started the chain, the
slot is released, and a service message is queued. A graph activation's record is discarded instead, its channel stays enabled, and its
node faults (R227). A trap of channel 62 on a service core is reported to the controller (R155). -/
def State.trapAt (s : State) (c : Nat) (k : Fin 4) (cause : Nat) (value : Word) : State :=
  let sl := s.slotOf c k
  let words := serviceWords cause c k.val sl.msgid sl.pcW value
  let s : State := match sl.first with
    | some f =>
      let s := sl.taken.foldl (fun (s : State) (t : Nat × BitVec 32) => s.modChan c t.1 fun q => q.toHead t.2) s
      if sl.task.isSome then s
      else
        let s := match sl.trigger with
          | some t => s.modChan c f fun q => q.toHead t
          | none => s
        s.modChan c f fun q => { q with en := false, pend := q.pend || sl.pending }
    | none => s
  let s := ((s.unbusy c sl.chan).releaseEntries c k.val).disown c k.val
  let s := ((s.modSlotOf c k Slot.idle).clearResv c k).withdraw c k
  let s := match sl.task with
    | some t =>
      s.post (.core c) false (.fault t.node (some t.graph) 1 cause)
    | none => s
  if isServiceCore c && sl.chan == some 62 then s.tell (.serviceTrap c words)
  else s.queueOut c (serviceBody (sgOf c) c words)

/-- The current instruction traps. -/
def State.trap (s : State) (cause : Nat) (value : Word) : State := s.trapAt s.cur.core s.cur.slot cause value

/-- An activation ends by exit once its sends have left (R69): the slot is idle, its channel is not busy, the entries of its chain
are released. A graph activation's exit counts at the Reeve (R225), after its stores are performed in the field (R226). -/
def State.endAct (s : State) (c : Nat) (k : Fin 4) : State :=
  let sl := s.slotOf c k
  let ag := Agent.slot c k.val
  let s := if sl.task.isSome then s.perform (s.ownWrites ag) (.within .fld ag) else s
  let s := (s.unbusy c sl.chan).releaseEntries c k.val
  let s := (s.modSlotOf c k Slot.idle).clearResv c k
  match sl.task with
  | some t => s.post (.core c) false (.trigger t (!sl.trigd) true)
  | none => s

/-! ### Trap causes (Tables 4-7, 5-12, 8-8, 14-8) -/

def causeIllegal : Nat := 0x01
def causeMisfetch : Nat := 0x02
def causeMisalign : Nat := 0x03
def causeAccess : Nat := 0x04
def causeNoexec : Nat := 0x05
def causeBudget : Nat := 0x06
def causeSendovf : Nat := 0x07
def causeBadhdr : Nat := 0x08
def causeBadchan : Nat := 0x09
def causeBadcore : Nat := 0x0A
def causeBadroute : Nat := 0x0B
def causeSuccdem : Nat := 0x0C
def causeVreg : Nat := 0x0D
def causeNochan : Nat := 0x0E
def causeEbreak : Nat := 0x0F
def causePage : Nat := 0x10
def causeEcall : Nat := 0x11
def causeUncorr : Nat := 0x12
def causeClumis : Nat := 0x13
def causeCluarg : Nat := 0x14
def causeCpypage : Nat := 0x15
def causeRingflt : Nat := 0x16
def causeGnode : Nat := 0x17
def causeGfault : Nat := 0x18
def causeGdrop : Nat := 0x19
def causeRwddir : Nat := 0x23
def causeRwderr : Nat := 0x24
def causeRouteerr : Nat := 0x25
def causeNoep : Nat := 0x26

/-! ### Jumps -/

/-- A jump or taken branch: a target that is not a multiple of 4 traps with MISFETCH, and nothing is linked (R5).
DEDUCED (assumption 11). -/
def State.jump (s : State) (rd : Reg) (target : Word) : State :=
  if target.extractLsb' 0 2 = 0 then
    s.modSlot fun sl =>
      let sl' := sl.wx rd ((sl.pc + 4).setWidth 64)
      { sl' with pc := target.setWidth 48, instret := sl.instret + 1 }
  else s.trap causeMisfetch target

/-- A conditional branch (R78). -/
def State.branch (s : State) (taken : Bool) (off : BitVec 12) : State :=
  if taken then s.jump 0 (s.slot.pcW + (off ++ 0#1).signExtend 64) else s.retire

/-! ### Fences -/

/-- The earlier accesses of a slot on path L, its reads or its writes, are performed with respect to a view (R134): its own writes,
and the writes that its reads returned. -/
def State.performSlot (s : State) (reads writes : Bool) (v : View) : State :=
  let s := if writes then s.perform (s.ownWrites s.agent) v else s
  if reads then s.perform (s.readWrites s.agent) v else s

/-- The agent that a message is for; a graph request is for the Reeve that serves it (R236, R238). -/
def bodyAgent (s : State) : Body → Option Agent
  | .chan c .. | .static c .. => some (.slot c 0)
  | .spawnReq _ _ c .. => some (.slot c 0)
  | .queueMsg p .. | .copyReq p .. => some (.host p)
  | .token n .. => some (.reeve (nodeField n))
  | .passToken n => some (.reeve (nodeField n))
  | .trigger t .. => some (.reeve (nodeField t.node))
  | .gcancelReq n | .gstatReq _ _ n => some (.reeve (nodeField n))
  | .glaunchReq c _ _ => some (.reeve (coreField s c))
  | _ => none

/-- A message under way is for an agent of a scope instance: a reward, while a core of it lacks it (R264); one for a peer endpoint, at
system scope (R314). DESIGN CHOICE (assumption 123). -/
def msgIn (s : State) (sc : Scope) (m : Msg) : Bool :=
  match m.body with
  | .peerMsg .. => sc == .sys
  | .reward p _ _ _ _ _ got =>
    inScope s sc s.agent (.net p) || (partCores s p).any fun c => !got.contains c && inScope s sc s.agent (.slot c 0)
  | b => match bodyAgent s b with
    | some a => inScope s sc s.agent a
    | none => false

/-- A message of the current slot's chain to an agent of a scope instance has left and has not arrived (R134). -/
def State.sendsOut (s : State) (sc : Scope) : Bool :=
  s.net.any fun m => s.slot.sent.contains m.id && msgIn s sc m

/-- A message of the current slot to a peer endpoint has left and is not acknowledged (R314). -/
def State.peerOut (s : State) : Bool :=
  s.net.any fun m => s.slot.sent.contains m.id && (match m.body with
    | .peerMsg .. => true
    | _ => false)

/-- What a `fence.s` owes: its set P and its set Q, where `reads`, `writes` name the kinds of P and `qr`, `qw` those of Q (R134). Of the
slot's messages, those that have left and have not arrived are in P; each later send, `spawn` and `ecall` counts as a write. -/
def State.fenceOwed (s : State) (sc : Scope) (reads writes qr qw : Bool) : Owed where
  id := s.nextId
  ids := (if writes then s.ownWrites s.agent else []) ++ if reads then s.readWrites s.agent else []
  flights := (s.slot.flights.filter fun f => f.reads && reads || f.writes && writes).map Flight.id
  reads := reads
  writes := writes
  msgs := if writes then (s.net.filter fun m => s.slot.sent.contains m.id && msgIn s sc m).map Msg.id else []
  view := .within sc s.agent
  later := ⟨qr, qw, qw, false⟩
  sends := s.slot.sends.length

/-- Nothing of a fence's first set is left to be performed. -/
def Owed.clear (o : Owed) : Bool := o.ids.isEmpty && o.flights.isEmpty && o.msgs.isEmpty

/-- What a fence of the current slot holds back stays so until its first set is performed; a later read that it holds back has not taken its
value before it (R134, R154). -/
def State.owe (s : State) (o : Owed) : State :=
  let s := if o.later.reads && !s.slot.early.isEmpty then s.modSlot fun sl => { sl with early := [] } else s
  if o.clear then s else { s.modSlot fun sl => { sl with owed := sl.owed ++ [o] } with nextId := s.nextId + 1 }

/-- `fence.s` at a scope (R134): it holds back what it names of the accesses after it until what it names of those before it is performed.
At system scope it waits for the slot's messages to peer endpoints that have left, whatever it names (R314). DESIGN CHOICE
(assumption 22). -/
def State.fence (s : State) (sc : Scope) (reads writes qr qw : Bool) : State :=
  if sc == .sys && s.peerOut then s else (s.owe (s.fenceOwed sc reads writes qr qw)).retire

end Sys2Proof.Machine
end

