-- ==== Sys2Proof/Machine/Route.lean ====
section
/-!
DEFINITION. Routes over the mesh: the moves of a message between live routers and its west-first segments (R294), table routes
(R295), and the legs of static routes (R297).
-/
namespace Sys2Proof.Machine

/-- A direction of the mesh, in the order of its code in Table 20-2. -/
inductive Dir where
  | east | north | west | south
deriving DecidableEq, Repr

/-- The position one hop away; none off the mesh. -/
def hop (pos : Nat) : Dir → Option Nat
  | .east => if colOf pos < 23 then some (pos + 1) else none
  | .north => if 24 ≤ pos then some (pos - 24) else none
  | .west => if 0 < colOf pos then some (pos - 1) else none
  | .south => if pos + 24 < 1008 then some (pos + 24) else none

/-- A router works: its position is enabled or transit (R215). -/
def routerLive (s : State) (pos : Nat) : Bool := decide (pos < 1008) && s.ctl.holes.get? pos != some true

/-- The position at local coordinates of a field (R206). -/
def fieldPos (f x y : Nat) : Nat := (f / 6 * 6 + y) * 24 + f % 6 * 4 + x

/-- The router that serves a slice of a field's granary: its primary one, or its secondary one where that is dead (R212, R215). -/
def sliceRouter (s : State) (f k : Nat) : Nat :=
  let p := fieldPos f (1 + k % 2) (1 + k / 2)
  if routerLive s p then p else fieldPos f (2 - k % 2) (1 + k / 2)

/-- The slice of a granary offset (R212). -/
def sliceOf (off : Nat) : Nat := off / 4096 % 8

/-- The router that a field's Reeve is attached to (R337). -/
def reeveRouter (s : State) (f : Nat) : Nat :=
  if routerLive s (fieldPos f 1 3) then fieldPos f 1 3 else fieldPos f 2 3

/-- Where a message stands on a route: the router, the layer, and whether its segment has made a move other than west (R294). -/
structure Head where
  pos   : Nat
  layer : Nat
  moved : Bool
deriving DecidableEq, Repr

/-- A message before its first move. -/
def Head.start (pos : Nat) : Head := ⟨pos, 0, false⟩

/-- The next place of a message that moves in a direction: a move west after another one starts the next segment, of which there
are four at most (R294). -/
def Head.move (h : Head) (d : Dir) : Option Head :=
  (hop h.pos d).bind fun p =>
    if d = .west then
      if h.moved then (if h.layer < 3 then some ⟨p, h.layer + 1, false⟩ else none) else some ⟨p, h.layer, false⟩
    else some ⟨p, h.layer, true⟩

/-- The places one move from a place, over routers that `ok` admits. -/
def Head.nexts (ok : Nat → Bool) (h : Head) : List Head :=
  ([.east, .west, .north, .south] : List Dir).filterMap fun d => (h.move d).filter fun g => ok g.pos

/-- The routers that a table route between two positions may pass: the live ones, and within a partition's rectangle when both ends
lie in it (R295). -/
def routeOk (s : State) (a b : Nat) (pos : Nat) : Bool :=
  let p := fieldPart s (fieldOfPos a)
  routerLive s pos && (p.isNone || p != fieldPart s (fieldOfPos b) || fieldPart s (fieldOfPos pos) == p)

/-- A search in rings of equal length: the length of a shortest route from some places to an end, and the fewest segments of one
such, as the last layer it uses. -/
def search (ok : Nat → Bool) (goal : Nat) : Nat → Nat → List Head → List Head → Option (Nat × Nat)
  | 0, _, _, _ => none
  | fuel + 1, d, seen, front =>
    match (front.filter fun h => h.pos == goal).map Head.layer with
    | l :: ls => some (d, ls.foldl min l)
    | [] =>
      let seen := front ++ seen
      let next := ((front.flatMap (Head.nexts ok)).filter fun h => !seen.contains h).dedup
      if next.isEmpty then none else search ok goal fuel (d + 1) seen next

/-- The length and the last layer of the table route from a place to a position; none if no route of four segments exists (R294,
R295). -/
def routeCost (ok : Nat → Bool) (h : Head) (goal : Nat) : Option (Nat × Nat) := search ok goal 8065 0 [] [h]

/-- The next hop of a table route (R295): among the moves from which a best route continues, one east or west, then north, then
south. Where both east and west qualify the rule names neither. DESIGN CHOICE (assumption 55). -/
def nextHop (ok : Nat → Bool) (h : Head) (goal : Nat) : Option Head :=
  match routeCost ok h goal with
  | some (d + 1, l) =>
    let good := fun k => (h.move k).filter fun g => ok g.pos && routeCost ok g goal == some (d, l)
    let e := good .east
    let w := good .west
    match e, w with
    | some g, some k => if (Config.freeWord (2 ^ 64 + h.pos * 1024 + goal)).getLsbD 0 then some g else some k
    | some g, none => some g
    | none, some k => some k
    | none, none => (good .north).orElse fun _ => good .south
  | _ => none

/-- The positions that a table route passes, its ends included. -/
def routePath (ok : Nat → Bool) (goal : Nat) : Nat → Head → List Nat
  | 0, h => [h.pos]
  | fuel + 1, h => match nextHop ok h goal with
    | some g => h.pos :: routePath ok goal fuel g
    | none => [h.pos]

/-- Some numbers as one mask, bit by bit. -/
def maskOf (l : List Nat) : Nat := l.foldl (fun m p => m ||| 1 <<< p) 0

/-- The number of a place of a route: eight for each router. -/
def Head.code (h : Head) : Nat := h.pos * 8 + h.layer * 2 + h.moved.toNat

/-- A place that is not in a mask joins it, and is listed. -/
def Head.join (r : Nat × List Head) (h : Head) : Nat × List Head :=
  if r.1.testBit h.code then r else (r.1 ||| 1 <<< h.code, h :: r.2)

/-- Every place that a route comes to, as a mask, given those found and the last ones found: ring after ring. -/
def spread (ok : Nat → Bool) : Nat → Nat × List Head → Nat
  | 0, r => r.1
  | fuel + 1, r =>
    let next := (r.2.flatMap (Head.nexts ok)).foldl Head.join (r.1, [])
    if next.2.isEmpty then next.1 else spread ok fuel next

/-- The routers of a list that a router of the list does not reach over the list by four segments at most (R294). -/
def unreached (live : List Nat) (a : Nat) : List Nat :=
  let ok := maskOf live
  let got := spread ok.testBit 8065 (Head.join (0, []) (Head.start a))
  live.filter fun p => (got >>> (p * 8)) % 256 == 0

/-- Every live router of a list of positions reaches every other one over live routers of the list by four segments at most
(R300). -/
def allJoined (s : State) (ps : List Nat) : Bool :=
  let live := ps.filter (routerLive s)
  live.all fun a => (unreached live a).isEmpty

/-! ### Static routes -/

/-- The direction of a code of Table 20-2. -/
def dirOfCode (c : BitVec 2) : Dir :=
  match c.toNat with
  | 0 => .east
  | 1 => .north
  | 2 => .west
  | _ => .south

/-- The legs of a route entry, in order: the direction and the length (Table 20-2). DEDUCED (assumption 54). -/
def legsOf (e : Word) : List (Dir × Nat) :=
  (List.range (e.extractLsb' 56 3).toNat).map fun i =>
    (dirOfCode (e.extractLsb' (7 * i + 5) 2), (e.extractLsb' (7 * i) 5).toNat)

/-- The entry may be programmed (R297): bits [63:59] zero, every leg used of length 1 to 31, and no west leg after another one. -/
def routeEntryOk (e : Word) : Bool :=
  let legs := legsOf e
  e.extractLsb' 59 5 == 0 && legs.all (fun l => l.2 != 0) &&
    !(legs.dropWhile fun l => l.1 == .west).any fun l => l.1 == .west

/-- A position moved by a leg, holes ignored: column and row, as exact integers. -/
def moveBy (p : Int × Int) (l : Dir × Nat) : Int × Int :=
  match l.1 with
  | .east => (p.1 + l.2, p.2)
  | .north => (p.1, p.2 - l.2)
  | .west => (p.1 - l.2, p.2)
  | .south => (p.1, p.2 + l.2)

/-- Where the legs end, if on the mesh (R298). -/
def legsEnd (pos : Nat) (legs : List (Dir × Nat)) : Option Nat :=
  let e := legs.foldl moveBy ((colOf pos : Int), (rowOf pos : Int))
  if 0 ≤ e.1 ∧ e.1 < 24 ∧ 0 ≤ e.2 ∧ e.2 < 42 then some (e.2.toNat * 24 + e.1.toNat) else none

/-- The directions of the hops of some legs. -/
def legHops (legs : List (Dir × Nat)) : List Dir := legs.flatMap fun l => List.replicate l.2 l.1

/-- How a message on a static path fares. -/
inductive PathEnd where
  | arrives
  /-- it leaves the path at a place, before a dead router -/
  | leaves (h : Head)
deriving DecidableEq, Repr

/-- A message follows the hops of its legs until the next router is dead (R298). DEDUCED (assumption 56). -/
def followLegs (s : State) : List Dir → Head → PathEnd
  | [], _ => .arrives
  | d :: ds, h =>
    match h.move d with
    | some g => if routerLive s g.pos then followLegs s ds g else .leaves h
    | none => .leaves h

end Sys2Proof.Machine
end

