-- ==== Sys2Proof/Machine/Pages.lean ====
section
/-!
DEFINITION. The page table of a partition as the controller keeps it (R286, Table 19-5): a radix tree of 8-byte entries in silo memory
that no program reaches. How an entry is read and written, where the tables stand, and which frames are in use.
-/
namespace Sys2Proof.Machine

/-! ### Entries (Table 19-5) -/

/-- The codes of a page's state and of its tier. -/
def stateCode : PageState → Nat
  | .notPresent => 0
  | .present => 1
  | .discarded => 2
  | .moving => 3
def tierCode : Tier → Nat
  | .silo => 0
  | .second => 1
  | .granary => 2

/-- A leaf entry; a 2 MiB leaf has zero in bits [20:16] of its physical address. -/
def wordOfLeaf (l : Leaf) : Word :=
  BitVec.ofNat 2 (stateCode l.state) ++ BitVec.ofNat 2 (tierCode l.tier) ++ BitVec.ofNat 10 l.home ++
    BitVec.ofNat 36 (if l.big then l.frame - l.frame % 32 else l.frame) ++ 0#8 ++ BitVec.ofBool l.big ++ BitVec.ofBool l.x ++
    BitVec.ofBool l.w ++ BitVec.ofBool l.r ++ 0#2

/-- The leaf of an entry; none in a tier that is invalid, and none where the entry is zero, unless its page is lost. -/
def leafOfWord (e : Word) (lost : Bool) : Option Leaf :=
  let state : PageState := match (e.extractLsb' 62 2).toNat with
    | 0 => .notPresent
    | 1 => .present
    | 2 => .discarded
    | _ => .moving
  let tier : Option Tier := match (e.extractLsb' 60 2).toNat with
    | 0 => some .silo
    | 1 => some .second
    | 2 => some .granary
    | _ => none
  if e = 0 ∧ lost = false then none
  else tier.map fun t =>
    { state := state, tier := t, home := (e.extractLsb' 50 10).toNat, frame := (e.extractLsb' 14 36).toNat, big := e.getLsbD 5
      x := e.getLsbD 4, w := e.getLsbD 3, r := e.getLsbD 2, lost := lost }

/-- A pointer entry, and whether an entry is one. -/
def pointerTo (addr : Nat) : Word := BitVec.ofNat 64 (addr / 4096 % 2 ^ 40 * 4096 + 1)
def isPointer (e : Word) : Bool := e.getLsbD 0

/-- The physical address of the table that a pointer names. -/
def tableOf (e : Word) : Nat := (e.extractLsb' 12 40).toNat * 4096

/-- The fields of Table 19-5 hold a leaf. -/
def leafFits (l : Leaf) : Bool := decide (l.home < 2 ^ 10) && decide (l.frame < 2 ^ 36)

/-! ### The walk -/

/-- A page table with its level 1 table at an address, empty. -/
def PageTable.new (root : Nat) : PageTable := ⟨root, [], [], [], [], []⟩

/-- The entries that a walk reads for a 64 KiB page, level by level; an entry that is not listed is zero. -/
def PageTable.entry1 (pt : PageTable) (pn : Nat) : Word := pt.l1.getD (pn / 2 ^ 23) 0
def PageTable.entry2 (pt : PageTable) (pn : Nat) : Word := pt.l2.getD (pn / 2 ^ 14) 0
def PageTable.entry3 (pt : PageTable) (pn : Nat) : Word := pt.l3.getD (pn / 32) 0
def PageTable.entry4 (pt : PageTable) (pn : Nat) : Word := pt.l4.getD pn 0

/-- The physical addresses of those entries: each level is indexed by its bits of the address, the tables of level 4 having 32 entries
(R286). -/
def PageTable.addr1 (pt : PageTable) (pn : Nat) : Nat := pt.root + 8 * (pn / 2 ^ 23 % 512)
def PageTable.addr2 (pt : PageTable) (pn : Nat) : Nat := tableOf (pt.entry1 pn) + 8 * (pn / 2 ^ 14 % 512)
def PageTable.addr3 (pt : PageTable) (pn : Nat) : Nat := tableOf (pt.entry2 pn) + 8 * (pn / 32 % 512)
def PageTable.addr4 (pt : PageTable) (pn : Nat) : Nat := tableOf (pt.entry3 pn) + 8 * (pn % 32)

/-- The page at which an entry over a page begins is lost (R284). -/
def PageTable.isLost (pt : PageTable) (pn : Nat) : Bool := pt.lost.contains pn

/-- The leaf of a 64 KiB page, by a walk of the tree: its own, or the 2 MiB leaf over it (R286). -/
def leafOf (pt : PageTable) (pn : Nat) : Option Leaf :=
  if !isPointer (pt.entry1 pn) || !isPointer (pt.entry2 pn) then none
  else if isPointer (pt.entry3 pn) then (leafOfWord (pt.entry4 pn) (pt.isLost pn)).filter fun l => !l.big
  else (leafOfWord (pt.entry3 pn) (pt.isLost (pn - pn % 32))).filter Leaf.big

/-- The leaves of a page table, each by its first 64 KiB page. -/
def PageTable.leaves (pt : PageTable) : List (Nat × Leaf) :=
  let those := fun (pns : List Nat) (big : Bool) => pns.filterMap fun pn => ((leafOf pt pn).filter fun l => l.big == big).map fun l => (pn, l)
  those (pt.l3.keys.map (· * 32)) true ++ those pt.l4.keys false

/-! ### Where the tables stand -/

/-- The tables of a page table, by physical address. -/
def PageTable.tables (pt : PageTable) : List Nat :=
  pt.root :: (((pt.l1 ++ pt.l2 ++ pt.l3).map Prod.snd).filter isPointer).map tableOf

/-- The 64 KiB frames of a silo channel of 3 GB; a GB is 2^30 bytes. DESIGN CHOICE (assumption 69). -/
def chanFrames : Nat := 49152

/-- The channel of a silo frame: channels follow one another in the physical addresses. DEDUCED (assumption 69). -/
def frameChan (f : Nat) : Nat := f / chanFrames

/-- The silo frames that a leaf holds. -/
def leafFrames (l : Leaf) : List Nat :=
  if l.tier == .silo && l.state != .notPresent then (List.range (if l.big then 32 else 1)).map (l.frame + ·) else []

/-- The page tables of the module. -/
def pageTables (s : State) : List PageTable := s.parts.map fun p => p.2.pages

/-- The silo frames in which page tables stand. -/
def tableFrames (s : State) : List Nat := ((pageTables s).flatMap fun pt => pt.tables.map (· / 0x10000)).dedup

/-- The silo frames in use: of pages, and of page tables. -/
def usedFrames (s : State) : List Nat :=
  ((pageTables s).flatMap fun pt => pt.leaves.flatMap fun e => leafFrames e.2).dedup ++ tableFrames s

/-- The places for some new tables of 4 KiB: from the top of the silos down, in frames that no page holds. DESIGN CHOICE
(assumption 80). -/
def freshTables (s : State) (n : Nat) : List Nat :=
  let pages := (pageTables s).flatMap fun pt => pt.leaves.flatMap fun e => leafFrames e.2
  let tables := (pageTables s).flatMap PageTable.tables
  (((List.range (pages.length + tables.length + n)).flatMap fun i =>
    let f := 512 * chanFrames - 1 - i
    if pages.contains f then [] else (List.range 16).map fun j => f * 0x10000 + j * 4096).filter fun a => !tables.contains a).take n

/-- A leaf may be mapped: its fields fit, and it names no frame in which a page table stands (R286). -/
def mayMap (s : State) (l : Leaf) : Bool := leafFits l && !(leafFrames l).any (tableFrames s).contains

/-! ### Setting a leaf -/

/-- A pointer at a place of a table, where there is none yet, to a new table. -/
def withPointer (m : AMap Word) (n : Nat) (addr : Nat) : AMap Word := if isPointer (m.getD n 0) then m else m.put n (pointerTo addr)

/-- A leaf of the page table at its place, with new tables, where it needs them, at the addresses given. A level 3 entry is a 2 MiB leaf or a
pointer to a table of 64 KiB leaves (R286): a big leaf takes the place of the small ones, and a small one splits a big leaf, whose
other pages stay mapped as they were. DESIGN CHOICE (assumption 80). -/
def putLeaf (fresh : List Nat) (pt : PageTable) (pn : Nat) (l : Leaf) : PageTable :=
  let l1 := withPointer pt.l1 (pn / 2 ^ 23) (fresh.getD 0 0)
  let l2 := withPointer pt.l2 (pn / 2 ^ 14) (fresh.getD 1 0)
  let first := pn - pn % 32
  if l.big then
    { pt with
      l1 := l1, l2 := l2, l3 := pt.l3.put (pn / 32) (wordOfLeaf l)
      l4 := pt.l4.filter fun e => e.1 / 32 ≠ pn / 32
      lost := (pt.lost.filter fun n => n / 32 ≠ pn / 32) ++ if l.lost then [first] else [] }
  else
    let old := if isPointer (pt.entry3 pn) then none else leafOf pt pn
    let l4 := match old with
      | some b => (List.range 32).foldl (fun t i => AMap.put t (first + i) (wordOfLeaf { b with big := false, frame := b.frame + i })) pt.l4
      | none => pt.l4
    let lost := match old with
      | some b => if b.lost then (List.range 32).map (first + ·) ++ pt.lost else pt.lost
      | none => pt.lost
    { pt with
      l1 := l1, l2 := l2, l3 := withPointer pt.l3 (pn / 32) (fresh.getD 2 0), l4 := l4.put pn (wordOfLeaf l)
      lost := (lost.filter (· ≠ pn)) ++ if l.lost then [pn] else [] }

/-- A page table without a page's leaf, or the 2 MiB leaf over it. -/
def dropLeaf (pt : PageTable) (pn : Nat) : PageTable :=
  if isPointer (pt.entry3 pn) then { pt with l4 := pt.l4.del pn, lost := pt.lost.filter (· ≠ pn) }
  else { pt with l3 := pt.l3.del (pn / 32), lost := pt.lost.filter (· ≠ pn - pn % 32) }

/-- A page table of a partition; one that is no partition's is empty. -/
def State.pageTable (s : State) (part : Option Nat) : PageTable :=
  match part with
  | some p => match s.parts.get? p with
    | some q => q.pages
    | none => .new 0
  | none => .new 0

/-- A leaf of a partition's page table, set at its place. -/
def State.setLeaf (s : State) (part pn : Nat) (l : Leaf) : State :=
  s.modPart part fun p => { p with pages := putLeaf (freshTables s 3) p.pages pn l }

/-! ### Elevators (R284) -/

/-- The elevator of a field and a silo site is a router of that field. -/
def elevatorAt (f site : Nat) : Nat := fieldPos f (Config.elevator f site % 4) (Config.elevator f site / 4 % 6)

/-- An elevator works: it was not dead at boot, nor its router. -/
def elevatorLive (s : State) (f site : Nat) : Bool :=
  routerLive s (elevatorAt f site) && !s.ctl.deadElevators.contains (f * 16 + site)

/-- The router by which the traffic of a field reaches a silo site: its elevator, or, where that was dead at boot, another one of the field
(R284); which one is open. DESIGN CHOICE (assumption 70). -/
def siloRouter (s : State) (f site : Nat) : Nat :=
  if elevatorLive s f site then elevatorAt f site
  else
    let others := (List.range 16).filter (elevatorLive s f)
    match others[(Config.freeWord (2 ^ 65 + f * 16 + site)).toNat % max others.length 1]? with
    | some k => elevatorAt f k
    | none => elevatorAt f site

/-- The hops of the table route between two positions; where there is none, more than any has. -/
def hopsTo (s : State) (a b : Nat) : Nat := ((routeCost (routeOk s a b) (Head.start a) b).map Prod.fst).getD 8065

/-- The supergroup of a list that has the fewest hops, the first of them. -/
def nearestSg (dist : Nat → Nat) (sgs : List Nat) : Option Nat :=
  sgs.foldl (fun b g => match b with
    | some h => if dist g < dist h then some g else b
    | none => some g) none

end Sys2Proof.Machine
end

