-- ==== Sys2Proof/Machine/Access.lean ====
section
/-!
DEFINITION. How an address reaches memory: the windows of Table 5-9, translation through the TLBs and the page table (R91,
Table 19-5), and the checks of an access as a whole (R79, R89).
-/
namespace Sys2Proof.Machine

/-- The window of an address (Table 5-9), with the offset in it. -/
inductive Win where
  | tcm (off : Nat)
  | bay (off : Nat)
  | granary (off : Nat)
  | loft (off : Nat)
  | alias_ (n off : Nat)
  | paged
  | none
deriving DecidableEq, Repr

/-- The window that an address falls in (R88). -/
def winOf (va : Nat) : Win :=
  if va < 0x10000 then .tcm va
  else if 0x01000000 ≤ va ∧ va < 0x01800000 then .bay (va - 0x01000000)
  else if 0x04000000 ≤ va ∧ va < 0x07000000 then .granary (va - 0x04000000)
  else if 0x10000000 ≤ va ∧ va < 0x11000000 then .loft (va - 0x10000000)
  else if 0x100000000 ≤ va ∧ va < 0x100000000000 then .paged
  else
    let n := va / 0x100000000000
    let o := va % 0x100000000000
    if 1 ≤ n ∧ n ≤ 15 ∧ 0x10000000 ≤ o ∧ o < 0x11000000 then .alias_ n (o - 0x10000000) else .none

/-- Two addresses fall in one row of Table 5-9. -/
def sameRow (a b : Nat) : Bool :=
  match winOf a, winOf b with
  | .tcm _, .tcm _ | .bay _, .bay _ | .granary _, .granary _ | .loft _, .loft _ | .paged, .paged => true
  | .alias_ n _, .alias_ m _ => n == m
  | _, _ => false

/-! ### Translation -/

/-- The kinds of an access, by the code of a page-fault message (R92). -/
inductive Acc where
  | load | store | fetch | vload | vstore
  /-- an AMO, which reads and writes (R141) -/
  | amo
deriving DecidableEq, Repr

/-- The kind field of a page-fault message (R92). -/
def Acc.code : Acc → Nat
  | .load => 0
  | .store | .amo => 1
  | .fetch => 2
  | .vload | .vstore => 3

/-- The access writes. -/
def Acc.writes : Acc → Bool
  | .store | .vstore | .amo => true
  | _ => false

/-- The number under which a TLB, or a hotness counter, has a page: that of its first 64 KiB. -/
def pageKey (l : Leaf) (pn : Nat) : Nat := if l.big then pn - pn % 32 else pn

/-- The entry of a TLB for a 64 KiB page. -/
def tlbFind (t : List (Nat × Leaf)) (pn : Nat) : Option Leaf := (t.find? fun e => e.1 == pageKey e.2 pn).map Prod.snd

/-- The leaf that a core's access finds: the translation its TLB holds, or else the one its cluster's TLB holds, or else the page
table's (R91, R95). -/
def State.leafFor (s : State) (c : Nat) (fetch : Bool) (pn : Nat) : Option Leaf :=
  let co := s.core c
  match tlbFind (if fetch then co.itlb else co.dtlb) pn with
  | some l => some l
  | none => match tlbFind (s.cluster (clusterOf c)).l2tlb pn with
    | some l => some l
    | none => leafOf (s.pageTable (corePart s c)) pn

/-- The page permits the access (R92). -/
def leafAllows (l : Leaf) : Acc → Bool
  | .load | .vload => l.r
  | .store | .vstore => l.w
  | .amo => l.r && l.w
  | .fetch => l.x

/-- The key of a byte of a page (Table 19-5). A granary page lies in the granary of its home's field. DEDUCED (assumption 14). -/
def leafKey (s : State) (l : Leaf) (va : Nat) : Nat :=
  let off := l.frame * 0x10000 + va % (if l.big then 0x200000 else 0x10000)
  match l.tier with
  | .silo => Place.silo.key off
  | .second => Place.second.key off
  | .granary => (Place.granary (sgField s l.home)).key off

/-- The entries of a fully associative TLB of a given size with a page's leaf put in, the oldest given up (R91).
DESIGN CHOICE (assumption 13). -/
def tlbAdd (size : Nat) (t : List (Nat × Leaf)) (pn : Nat) (l : Leaf) : List (Nat × Leaf) :=
  if (tlbFind t pn).isSome then t else ((pageKey l pn, l) :: t).take size

/-- The set of an entry of the L2 TLB: 1024 entries in 8 ways are 128 sets. DESIGN CHOICE (assumption 13). -/
def tlbSet (e : Nat × Leaf) : Nat := (if e.2.big then e.1 / 32 else e.1) % 128

/-- The L2 TLB with a page's leaf put in; a full set gives up its oldest entry (R91). -/
def l2Add (t : List (Nat × Leaf)) (pn : Nat) (l : Leaf) : List (Nat × Leaf) :=
  let e := (pageKey l pn, l)
  if (tlbFind t pn).isSome then t
  else (e :: (t.filter fun f => tlbSet f == tlbSet e)).take 8 ++ t.filter fun f => tlbSet f != tlbSet e

/-- A hotness counter pair after a walk from one position to a page homed at another (R287): the miss count and the quadrants
north-east, north-west, south-east, south-west, saturating; and the requesters' number and sums of rows and columns. -/
def bumpHot (cs : List Nat) (from_ home : Nat) : List Nat :=
  let north := rowOf from_ ≤ rowOf home
  let east := colOf home ≤ colOf from_
  let q := if north then (if east then 0 else 1) else (if east then 2 else 3)
  let cs := if cs.length = 8 then cs else List.replicate 8 0
  (cs.zipIdx).map fun p =>
    if p.2 = 0 then min (p.1 + 1) 65535
    else if p.2 = q + 1 then min (p.1 + 1) 4095
    else if p.2 = 5 then p.1 + 1
    else if p.2 = 6 then p.1 + rowOf from_
    else if p.2 = 7 then p.1 + colOf from_
    else p.1

/-- A completed walk is counted at the page's home, once for a page of either size (R91, R287). -/
def State.countWalk (s : State) (c : Nat) (pn : Nat) (l : Leaf) : State :=
  let pages := s.hot.getD l.home []
  let k := pageKey l pn
  { s with hot := s.hot.put l.home (pages.put k (bumpHot (pages.getD k []) (posOf s (sgOf c)) (posOf s l.home))) }

/-- A core's translation of a page: on a miss of its TLB and its cluster's, a walk completes and both are filled (R91). A walk that
ends at a leaf that is not present, moving or discarded is counted as completed, and fills neither. DESIGN CHOICE (assumption 89). -/
def State.touchPage (s : State) (c : Nat) (fetch : Bool) (pn : Nat) : State :=
  let co := s.core c
  if (tlbFind (if fetch then co.itlb else co.dtlb) pn).isSome then s
  else
    match s.leafFor c fetch pn with
    | none => s
    | some l =>
      let s := if (tlbFind (s.cluster (clusterOf c)).l2tlb pn).isSome then s else s.countWalk c pn l
      if l.state == .present then
        let s := s.modCore c fun co =>
          if fetch then { co with itlb := tlbAdd 16 co.itlb pn l } else { co with dtlb := tlbAdd 32 co.dtlb pn l }
        s.modCluster (clusterOf c) fun cl => { cl with l2tlb := l2Add cl.l2tlb pn l }
      else s

/-- The translations of several pages. -/
def State.touchPages (s : State) (c : Nat) (fetch : Bool) (pns : List Nat) : State :=
  pns.foldl (fun s pn => s.touchPage c fetch pn) s

/-! ### An access as a whole -/

/-- What the bytes of an access resolve to: keys of memory (none for a byte of a discarded page, which reads zero, R94), units of
an alias window, or a trap or page fault. -/
inductive Res where
  | keys (ks : List (Option Nat))
  | alias_ (n off : Nat)
  | access
  | fault (va : Nat)
deriving DecidableEq, Repr

/-- One byte of paged space. A page that does not permit the access refuses it, also a load of a discarded one (R92, R94).
DESIGN CHOICE (assumption 112). -/
def resolvePaged (s : State) (c : Nat) (a : Acc) (va : Nat) : Option (Option Nat) :=
  match s.leafFor c (a == .fetch) (va / 0x10000) with
  | none => none
  | some l =>
    if !leafAllows l a then none
    else match l.state with
      | .present => some (some (leafKey s l va))
      | .discarded => if a == .load || a == .vload then some none else none
      | _ => none

/-- A key lies in the granary range that spill blocks take from a field in which they are granted (R289). -/
def spillKey (s : State) (key : Nat) : Bool :=
  key / 2 ^ 64 % 16 == 2 && (s.field (key / 2 ^ 64 / 16)).spill && decide (0x2400000 ≤ key % 2 ^ 64)

/-- A byte of paged space that the access reaches there. -/
def spilledPaged (s : State) (c : Nat) (a : Acc) (va : Nat) : Bool :=
  match resolvePaged s c a va with
  | some (some k) => spillKey s k
  | _ => false

/-- The bytes of an access of `n` bytes at an address of a core's view, checked as a whole (R79, R88, R89). -/
def resolve (s : State) (c : Nat) (a : Acc) (va n : Nat) : Res :=
  if 2 ^ 48 ≤ va + n - 1 ∨ n = 0 ∨ !sameRow va (va + n - 1) then .access
  else match winOf va with
    | .tcm o => .keys ((span ((Place.tcm c).key o) n).map some)
    | .bay o => .keys ((span ((Place.bay (sgOf c)).key o) n).map some)
    | .granary o =>
      let ks := span ((Place.granary (coreField s c)).key o) n
      if ks.any (spillKey s) then .access else .keys (ks.map some)
    | .loft o => .keys ((span ((Place.loft c).key o) n).map some)
    | .alias_ k o => .alias_ k o
    | .paged =>
      match (span va n).find? fun b => (resolvePaged s c a b).isNone with
      | some b => .fault b
      | none =>
        if (span va n).any (spilledPaged s c a) then .access
        else .keys ((span va n).map fun b => (resolvePaged s c a b).getD none)
    | .none => .access

/-- The pages of paged space that an access touches. -/
def pagesOf (va n : Nat) : List Nat :=
  if winOf va == .paged then ((span va n).map (· / 0x10000)).dedup else []

/-- The row pair that a byte of the plain or an alias loft window lies in (R243, R247). -/
def rowPairOf (va : Nat) : Option Nat :=
  match winOf va with
  | .loft o | .alias_ _ o => some (o / 4096)
  | _ => none

/-- A row pair of a core's loft is interlocked, by a class 4 command or by a sweep that has yet to close it (R255, R268). -/
def interlocked (s : State) (c p : Nat) : Bool :=
  ((s.classQ c 4).queue.any fun m => m.il.contains p) ||
    (match (s.core c).sweep with
      | some w => w.left.contains p
      | none => false)

/-- The first interlocked row pair that `n` bytes at an address reach. -/
def firstInterlock (s : State) (c va n : Nat) : Option Nat :=
  ((span va n).filterMap rowPairOf).find? fun p => interlocked s c p

/-- The number of a kind of access as the controller holds it. -/
def Acc.num : Acc → Nat
  | .load => 0
  | .store => 1
  | .fetch => 2
  | .vload => 3
  | .vstore => 4
  | .amo => 5

/-- A fault comes before the controller, which answers it from the page table (R335). -/
def State.holdFault (s : State) (f : HeldFault) : State :=
  { s with ctl := { s.ctl with faults := s.ctl.faults.put s.nextId f }, nextId := s.nextId + 1 }

/-- The page of an address of a core's view is moving. -/
def movingAt (s : State) (c va : Nat) : Bool :=
  (leafOf (s.pageTable (corePart s c)) (va / 0x10000)).any fun l => l.state == .moving

/-- The current slot blocks until the reply to a page fault (R92). `seen` says that the fault stands before the controller. -/
def State.blockPage (s : State) (a : Acc) (va : Nat) (seen : Bool) : State :=
  (s.modSlot fun sl => { sl with wait := .page (BitVec.ofNat 64 va) }).holdFault
    { core := s.cur.core, slot := s.cur.slot.val, copy := false, kind := a.num, va := BitVec.ofNat 64 va, seen := seen
      asked := false, moved := movingAt s s.cur.core va }

/-- A page fault of the current slot (R92): the fault message takes an outbound entry and the slot blocks; with no free entry the
access is tried again. On a service core the controller takes the fault directly in the cases of R93; otherwise it comes before
the controller once the service image has passed the message on (R335). -/
def State.pageFault (s : State) (a : Acc) (va : Nat) : State :=
  let c := s.cur.core
  let direct := isServiceCore c && (s.slot.chan == some 62 || (s.core c).slots.toList.any fun sl => sl.live && sl.crit)
  if direct then s.blockPage a va true
  else if s.outRoom c then
    let w0 := serviceWord0 causePage c (s.cur.slot.val + 4 * a.code)
    (s.queueOut c (serviceBody (sgOf c) c [w0, s.slot.msgid, s.slot.pcW, BitVec.ofNat 64 va])).blockPage a va false
  else s

/-- An access that reaches an interlocked row pair waits (R255). DEDUCED (assumption 20). -/
def State.waitRow (s : State) (p : Nat) : State := s.modSlot fun sl => { sl with wait := .interlock p }

/-- The current slot meets an uncorrectable error: the error is reported and the instruction traps with UNCORR (R101). -/
def State.trapUncorr (s : State) (b : BadGranule) (va : Word) : State := (s.meetBad b).trap causeUncorr va

/-- The bytes that resolved keys read as; a byte of a discarded page reads zero. -/
def State.readRes (s : State) (ag : Agent) (ks : List (Option Nat)) : List Byte :=
  ks.map fun k => match k with
    | some a => s.readByte ag a
    | none => 0

/-- The keys of resolved bytes. -/
def realKeys (ks : List (Option Nat)) : List Nat := ks.filterMap id

end Sys2Proof.Machine
end

