-- ==== Sys2Proof/Machine/Flags.lean ====
section
/-!
DEFINITION. Conditions and status words. The machine has no flag register: no integer operation sets a flag (R30) and there are no
floating-point flags (R32). What a program can test is a comparison, or one of the status words of Tables 4-3 to 5-11.
-/
namespace Sys2Proof.Machine

/-- The truth of a comparison as an x-register value (R78). -/
def ofBool (b : Bool) : Word := if b then 1 else 0

/-- The state word of a channel (Table 4-3). Channel 63 shows the rewards waiting (R266). An unbound channel has no record and reads its
rel bit as 0. DESIGN CHOICE (assumption 101). -/
def chStateWord (s : State) (c ch : Nat) : Word :=
  let sel := BitVec.ofNat 6 ch
  if ch = 63 then
    0#42 ++ sel ++ BitVec.ofNat 8 (s.core c).rewards.length ++ 0#3 ++ 0#1 ++ 0#1 ++ 1#1 ++ 0#1 ++ 0#1
  else
    let q := s.chan c ch
    let rel := match q.hrec with
      | some r => r.rel
      | none => false
    0#42 ++ sel ++ BitVec.ofNat 8 q.queue.length ++ 0#3 ++ BitVec.ofBool q.busy ++ BitVec.ofBool q.hrec.isSome ++
      BitVec.ofBool rel ++ BitVec.ofBool q.pend ++ BitVec.ofBool q.en

/-- A count that saturates at 255 (Table 5-8). -/
def sat255 (n : Nat) : BitVec 8 := BitVec.ofNat 8 (min n 255)

/-- `portst` (Table 5-8). -/
def portstWord (sl : Slot) : Word :=
  0#32 ++ sat255 sl.aq.length ++ sat255 sl.bq.length ++ sat255 sl.sq.length ++ sat255 sl.lq.length

/-- `cstat` (Table 5-3). -/
def cstatWord (sl : Slot) (k : Fin 4) : Word :=
  0#48 ++ BitVec.ofBool sl.compat ++ 0#3 ++ BitVec.ofNat 2 k.val ++ 0#1 ++ BitVec.ofBool sl.crit ++ 0#3 ++
    BitVec.ofBool sl.pfx.isSome ++ 0#4

/-- `coreid` (Table 5-4). -/
def coreidWord (s : State) (c : Nat) : Word :=
  let pos := posOf s (sgOf c)
  0#8 ++ BitVec.ofNat 8 (fieldOfPos pos) ++ 0#3 ++ BitVec.ofNat 5 (colOf pos) ++ 0#2 ++ BitVec.ofNat 6 (rowOf pos) ++
    0#15 ++ BitVec.ofNat 17 c

/-- `jobstat` (Table 5-11). -/
def jobstatWord (co : CoreSt) : Word :=
  co.fjob ++ co.fcause ++ co.fclass ++ 0#30 ++ co.fsticky ++ BitVec.ofBool co.badc

/-- The capability of the partition of a core (R25). -/
def capOf (s : State) (c : Nat) : Word :=
  match corePart s c with
  | some p => match s.parts.get? p with
    | some q => q.cap
    | none => 0
  | none => 0

/-- A byte of a T8 table of a core. -/
def tableImage (s : State) (c t : Nat) : Nat → Byte := fun off => s.byte ((Place.table (c * 4 + t)).key off)

/-- `tabdat` (Table 5-6). -/
def tabdatWord (s : State) (c : Nat) (sel : BitVec 11) : Word :=
  let i := (sel.extractLsb' 0 9).toNat
  let t := (sel.extractLsb' 9 2).toNat
  if 320 < i then 0
  else BitVec.ofNat 64 (natOfBytes ((List.range 4).map fun b => tableImage s c t (4 * i + b)))

end Sys2Proof.Machine
end

