-- ==== Sys2Proof/Machine/Scalar.lean ====
section
/-!
DEFINITION. The integer register forms (R78): one meaning per form of OP-IMM, OP, OP-IMM-32, OP-32, LUI and AUIPC, and the M
extension with its results for a zero divisor and for overflow.
-/
namespace Sys2Proof.Machine

/-- The outcome of a meaning. -/
abbrev Out := Host.Outcome State Fault Refusal

/-- A 12-bit immediate, sign-extended. -/
def sext12 (imm : BitVec 12) : Word := imm.signExtend 64

/-- A 20-bit upper immediate in bits [31:12], sign-extended. -/
def upper (imm : BitVec 20) : Word := (imm ++ 0#12).signExtend 64

/-- The low 32 bits of a register. -/
def lo32 (w : Word) : BitVec 32 := w.setWidth 32

/-- A 32-bit result, sign-extended. -/
def sextW (w : BitVec 32) : Word := w.signExtend 64

/-- A shift amount. -/
def shamt6 (w : Word) : Nat := (w.extractLsb' 0 6).toNat

/-- A shift amount of a W form. -/
def shamt5 (w : Word) : Nat := (w.extractLsb' 0 5).toNat

/-- The high 64 bits of a 128-bit product. -/
def high64 (a b : BitVec 128) : Word := (a * b).extractLsb' 64 64

/-- Signed division of RISC-V: −1 for a zero divisor; the most negative value for overflow. -/
def sdivR {n : Nat} (a b : BitVec n) : BitVec n := if b = 0 then BitVec.allOnes n else a.sdiv b

/-- Cardinal division of RISC-V: all ones for a zero divisor. -/
def udivR {n : Nat} (a b : BitVec n) : BitVec n := if b = 0 then BitVec.allOnes n else a / b

/-- Signed remainder of RISC-V: the dividend for a zero divisor, 0 for overflow. -/
def sremR {n : Nat} (a b : BitVec n) : BitVec n := if b = 0 then a else a.srem b

/-- Cardinal remainder of RISC-V: the dividend for a zero divisor. -/
def uremR {n : Nat} (a b : BitVec n) : BitVec n := if b = 0 then a else a % b

def execLui (rd : Reg) (imm : BitVec 20) (s : State) : Out := .next (s.done rd (upper imm))
def execAuipc (rd : Reg) (imm : BitVec 20) (s : State) : Out := .next (s.done rd (s.slot.pcW + upper imm))

def execAddi (rd rs : Reg) (imm : BitVec 12) (s : State) : Out := .next (s.done rd (s.rx rs + sext12 imm))
def execSlti (rd rs : Reg) (imm : BitVec 12) (s : State) : Out :=
  .next (s.done rd (ofBool ((s.rx rs).slt (sext12 imm))))
def execSltiu (rd rs : Reg) (imm : BitVec 12) (s : State) : Out :=
  .next (s.done rd (ofBool ((s.rx rs).ult (sext12 imm))))
def execXori (rd rs : Reg) (imm : BitVec 12) (s : State) : Out := .next (s.done rd (s.rx rs ^^^ sext12 imm))
def execOri (rd rs : Reg) (imm : BitVec 12) (s : State) : Out := .next (s.done rd (s.rx rs ||| sext12 imm))
def execAndi (rd rs : Reg) (imm : BitVec 12) (s : State) : Out := .next (s.done rd (s.rx rs &&& sext12 imm))
def execSlli (rd rs : Reg) (sh : BitVec 6) (s : State) : Out := .next (s.done rd (s.rx rs <<< sh.toNat))
def execSrli (rd rs : Reg) (sh : BitVec 6) (s : State) : Out := .next (s.done rd (s.rx rs >>> sh.toNat))
def execSrai (rd rs : Reg) (sh : BitVec 6) (s : State) : Out := .next (s.done rd ((s.rx rs).sshiftRight sh.toNat))

def execAdd (rd rs rt : Reg) (s : State) : Out := .next (s.done rd (s.rx rs + s.rx rt))
def execSub (rd rs rt : Reg) (s : State) : Out := .next (s.done rd (s.rx rs - s.rx rt))
def execSll (rd rs rt : Reg) (s : State) : Out := .next (s.done rd (s.rx rs <<< shamt6 (s.rx rt)))
def execSlt (rd rs rt : Reg) (s : State) : Out := .next (s.done rd (ofBool ((s.rx rs).slt (s.rx rt))))
def execSltu (rd rs rt : Reg) (s : State) : Out := .next (s.done rd (ofBool ((s.rx rs).ult (s.rx rt))))
def execXor (rd rs rt : Reg) (s : State) : Out := .next (s.done rd (s.rx rs ^^^ s.rx rt))
def execSrl (rd rs rt : Reg) (s : State) : Out := .next (s.done rd (s.rx rs >>> shamt6 (s.rx rt)))
def execSra (rd rs rt : Reg) (s : State) : Out := .next (s.done rd ((s.rx rs).sshiftRight (shamt6 (s.rx rt))))
def execOr (rd rs rt : Reg) (s : State) : Out := .next (s.done rd (s.rx rs ||| s.rx rt))
def execAnd (rd rs rt : Reg) (s : State) : Out := .next (s.done rd (s.rx rs &&& s.rx rt))

def execAddiw (rd rs : Reg) (imm : BitVec 12) (s : State) : Out :=
  .next (s.done rd (sextW (lo32 (s.rx rs) + imm.signExtend 32)))
def execSlliw (rd rs : Reg) (sh : BitVec 5) (s : State) : Out := .next (s.done rd (sextW (lo32 (s.rx rs) <<< sh.toNat)))
def execSrliw (rd rs : Reg) (sh : BitVec 5) (s : State) : Out := .next (s.done rd (sextW (lo32 (s.rx rs) >>> sh.toNat)))
def execSraiw (rd rs : Reg) (sh : BitVec 5) (s : State) : Out :=
  .next (s.done rd (sextW ((lo32 (s.rx rs)).sshiftRight sh.toNat)))
def execAddw (rd rs rt : Reg) (s : State) : Out := .next (s.done rd (sextW (lo32 (s.rx rs) + lo32 (s.rx rt))))
def execSubw (rd rs rt : Reg) (s : State) : Out := .next (s.done rd (sextW (lo32 (s.rx rs) - lo32 (s.rx rt))))
def execSllw (rd rs rt : Reg) (s : State) : Out := .next (s.done rd (sextW (lo32 (s.rx rs) <<< shamt5 (s.rx rt))))
def execSrlw (rd rs rt : Reg) (s : State) : Out := .next (s.done rd (sextW (lo32 (s.rx rs) >>> shamt5 (s.rx rt))))
def execSraw (rd rs rt : Reg) (s : State) : Out :=
  .next (s.done rd (sextW ((lo32 (s.rx rs)).sshiftRight (shamt5 (s.rx rt)))))

def execMul (rd rs rt : Reg) (s : State) : Out := .next (s.done rd (s.rx rs * s.rx rt))
def execMulh (rd rs rt : Reg) (s : State) : Out :=
  .next (s.done rd (high64 ((s.rx rs).signExtend 128) ((s.rx rt).signExtend 128)))
def execMulhsu (rd rs rt : Reg) (s : State) : Out :=
  .next (s.done rd (high64 ((s.rx rs).signExtend 128) ((s.rx rt).setWidth 128)))
def execMulhu (rd rs rt : Reg) (s : State) : Out :=
  .next (s.done rd (high64 ((s.rx rs).setWidth 128) ((s.rx rt).setWidth 128)))
def execDiv (rd rs rt : Reg) (s : State) : Out := .next (s.done rd (sdivR (s.rx rs) (s.rx rt)))
def execDivu (rd rs rt : Reg) (s : State) : Out := .next (s.done rd (udivR (s.rx rs) (s.rx rt)))
def execRem (rd rs rt : Reg) (s : State) : Out := .next (s.done rd (sremR (s.rx rs) (s.rx rt)))
def execRemu (rd rs rt : Reg) (s : State) : Out := .next (s.done rd (uremR (s.rx rs) (s.rx rt)))
def execMulw (rd rs rt : Reg) (s : State) : Out := .next (s.done rd (sextW (lo32 (s.rx rs) * lo32 (s.rx rt))))
def execDivw (rd rs rt : Reg) (s : State) : Out := .next (s.done rd (sextW (sdivR (lo32 (s.rx rs)) (lo32 (s.rx rt)))))
def execDivuw (rd rs rt : Reg) (s : State) : Out := .next (s.done rd (sextW (udivR (lo32 (s.rx rs)) (lo32 (s.rx rt)))))
def execRemw (rd rs rt : Reg) (s : State) : Out := .next (s.done rd (sextW (sremR (lo32 (s.rx rs)) (lo32 (s.rx rt)))))
def execRemuw (rd rs rt : Reg) (s : State) : Out := .next (s.done rd (sextW (uremR (lo32 (s.rx rs)) (lo32 (s.rx rt)))))

end Sys2Proof.Machine
end

