-- ==== Sys2Proof/Machine/Branch.lean ====
section
/-!
DEFINITION. Jumps and branches (R5, R78).
-/
namespace Sys2Proof.Machine

def execJal (rd : Reg) (off : BitVec 20) (s : State) : Out :=
  .next (s.jump rd (s.slot.pcW + (off ++ 0#1).signExtend 64))
def execJalr (rd rs : Reg) (imm : BitVec 12) (s : State) : Out :=
  .next (s.jump rd ((s.rx rs + sext12 imm) &&& ~~~1#64))
def execBeq (rs rt : Reg) (off : BitVec 12) (s : State) : Out := .next (s.branch (s.rx rs == s.rx rt) off)
def execBne (rs rt : Reg) (off : BitVec 12) (s : State) : Out := .next (s.branch (s.rx rs != s.rx rt) off)
def execBlt (rs rt : Reg) (off : BitVec 12) (s : State) : Out := .next (s.branch ((s.rx rs).slt (s.rx rt)) off)
def execBge (rs rt : Reg) (off : BitVec 12) (s : State) : Out := .next (s.branch (!(s.rx rs).slt (s.rx rt)) off)
def execBltu (rs rt : Reg) (off : BitVec 12) (s : State) : Out := .next (s.branch ((s.rx rs).ult (s.rx rt)) off)
def execBgeu (rs rt : Reg) (off : BitVec 12) (s : State) : Out := .next (s.branch (!(s.rx rs).ult (s.rx rt)) off)

end Sys2Proof.Machine
end

