-- ==== Sys2Proof/Machine/Num.lean ====
section
/-!
DEFINITION. The number formats (R30 to R47): exact values, the binary floating formats, rounding and conversion, T8 codes,
SE53 scales, TL16 traces, and the orders of sums.
-/
namespace Sys2Proof.Machine

/-- A rounding mode (R34), by the rm codes of Table 2-10. -/
inductive Rm where
  | rne | rtz | up | down
deriving DecidableEq, Repr

/-- The rm field of `fmt` (Table 2-10). -/
def rmOfCode (c : BitVec 2) : Rm :=
  if c == 0 then .rne else if c == 1 then .rtz else if c == 2 then .up else .down

/-- An exact value: NaN, an infinity, or ± num/den × 2^e, with a sign on zero. -/
inductive Ex where
  | nan
  | inf (neg : Bool)
  | fin (neg : Bool) (num den : Nat) (e : Int)
deriving DecidableEq, Repr

/-- Zero of a sign. -/
def Ex.zero (neg : Bool) : Ex := .fin neg 0 1 0

/-- An integer as an exact value. -/
def Ex.ofInt (i : Int) : Ex := .fin (i < 0) i.natAbs 1 0

def Ex.isNan : Ex → Bool
  | .nan => true
  | _ => false

def Ex.isZero : Ex → Bool
  | .fin _ n _ _ => n == 0
  | _ => false

def Ex.neg : Ex → Ex
  | .nan => .nan
  | .inf s => .inf (!s)
  | .fin s n d e => .fin (!s) n d e

/-- num/den × 2^e divided by 2^k, as a fraction. -/
def scaled (num den : Nat) (e k : Int) : Nat × Nat :=
  if k ≤ e then (num * 2 ^ (e - k).toNat, den) else (num, den * 2 ^ (k - e).toNat)

/-- The signed numerator of an exact value over a common denominator and exponent. -/
def signedNum (neg : Bool) (n : Nat) : Int := if neg then -(n : Int) else n

/-- The exact sum. An exact zero sum of values of opposite sign is +0, or −0 in mode down (R113). -/
def Ex.add (rm : Rm) : Ex → Ex → Ex
  | .nan, _ => .nan
  | _, .nan => .nan
  | .inf a, .inf b => if a == b then .inf a else .nan
  | .inf a, .fin .. => .inf a
  | .fin .., .inf b => .inf b
  | .fin s1 n1 d1 e1, .fin s2 n2 d2 e2 =>
    let k := min e1 e2
    let a := signedNum s1 ((scaled n1 1 e1 k).1 * d2)
    let b := signedNum s2 ((scaled n2 1 e2 k).1 * d1)
    let t := a + b
    if t = 0 then
      .fin (if s1 == s2 then s1 else rm == .down) 0 1 0
    else .fin (t < 0) t.natAbs (d1 * d2) k

/-- The exact product; ∞ × 0 is NaN (R32, R40). -/
def Ex.mul : Ex → Ex → Ex
  | .nan, _ => .nan
  | _, .nan => .nan
  | .inf a, .inf b => .inf (a != b)
  | .inf a, .fin b n _ _ => if n = 0 then .nan else .inf (a != b)
  | .fin a n _ _, .inf b => if n = 0 then .nan else .inf (a != b)
  | .fin a n1 d1 e1, .fin b n2 d2 e2 => .fin (a != b) (n1 * n2) (d1 * d2) (e1 + e2)

/-- The exact reciprocal; ±∞ for ±0 and ±0 for ±∞ (R113). -/
def Ex.recip : Ex → Ex
  | .nan => .nan
  | .inf a => .zero a
  | .fin a n d e => if n = 0 then .inf a else .fin a d n (-e)

/-- The order of two values that are not NaN, −0 and +0 alike. -/
def Ex.lt (a b : Ex) : Bool :=
  match a, b with
  | .nan, _ => false
  | _, .nan => false
  | .inf s, .inf t => s && !t
  | .inf s, .fin .. => s
  | .fin .., .inf t => !t
  | .fin s1 n1 d1 e1, .fin s2 n2 d2 e2 =>
    let k := min e1 e2
    signedNum s1 ((scaled n1 1 e1 k).1 * d2) < signedNum s2 ((scaled n2 1 e2 k).1 * d1)

/-- The equality of two values, NaN equal to nothing, −0 and +0 alike. -/
def Ex.eq (a b : Ex) : Bool := !a.isNan && !b.isNan && !a.lt b && !b.lt a

def Ex.le (a b : Ex) : Bool := a.lt b || a.eq b

def Ex.sign : Ex → Bool
  | .nan => false
  | .inf s => s
  | .fin s _ _ _ => s

/-- `minimum` of R113: NaN if either is NaN, −0 below +0. -/
def Ex.minimum (a b : Ex) : Ex :=
  if a.isNan || b.isNan then .nan
  else if a.isZero && b.isZero then (if a.sign then a else b)
  else if b.lt a then b else a

/-- `maximum` of R113. -/
def Ex.maximum (a b : Ex) : Ex :=
  if a.isNan || b.isNan then .nan
  else if a.isZero && b.isZero then (if a.sign then b else a)
  else if a.lt b then b else a

/-- A binary floating layout: exponent bits, fraction bits and bias (Table 3-2). -/
structure Layout where
  ebits : Nat
  fbits : Nat
  bias  : Nat
deriving DecidableEq, Repr

def layFp32 : Layout := ⟨8, 23, 127⟩
def layFp16 : Layout := ⟨5, 10, 15⟩
def layBf16 : Layout := ⟨8, 7, 127⟩
def layF19 : Layout := ⟨8, 10, 127⟩

/-- The exact value of the bits `x` in a layout (R31). -/
def decFloat (l : Layout) (x : Nat) : Ex :=
  let f := x % 2 ^ l.fbits
  let ex := x / 2 ^ l.fbits % 2 ^ l.ebits
  let s := x / 2 ^ (l.fbits + l.ebits) % 2 == 1
  if ex = 2 ^ l.ebits - 1 then (if f = 0 then .inf s else .nan)
  else if ex = 0 then .fin s f 1 (1 - (l.bias : Int) - l.fbits)
  else .fin s (2 ^ l.fbits + f) 1 ((ex : Int) - l.bias - l.fbits)

/-- The value of an F19 word: no subnormals, bits above 18 ignored (R31). -/
def decF19 (x : Nat) : Ex :=
  let s := x / 2 ^ 18 % 2 == 1
  if x / 2 ^ 10 % 256 = 0 then .zero s else decFloat layF19 (x % 2 ^ 19)

/-- A nonnegative fraction rounded to an integer, for a value of the given sign (R34). -/
def roundFrac (rm : Rm) (neg : Bool) (n d : Nat) : Nat :=
  let q := n / d
  let r := n % d
  if r = 0 then q
  else match rm with
    | .rtz => q
    | .up => if neg then q else q + 1
    | .down => if neg then q + 1 else q
    | .rne => if 2 * r < d then q else if d < 2 * r then q + 1 else q + q % 2

/-- ⌊log2 (num/den × 2^e)⌋ for a value above zero. -/
def floorLog2 (num den : Nat) (e : Int) : Int :=
  let d : Int := (Nat.log2 num : Int) - Nat.log2 den
  let ok := if 0 ≤ d then den * 2 ^ d.toNat ≤ num else den ≤ num * 2 ^ (-d).toNat
  if ok then d + e else d - 1 + e

/-- The sign bit of a layout. -/
def signBit (l : Layout) (neg : Bool) : Nat := if neg then 2 ^ (l.fbits + l.ebits) else 0

/-- The canonical quiet NaN of a layout (R32). -/
def canonNan (l : Layout) : Nat := (2 ^ l.ebits - 1) * 2 ^ l.fbits + 2 ^ (l.fbits - 1)

/-- What overflow delivers in each mode (Table 3-3). -/
def overflowBits (l : Layout) (rm : Rm) (neg : Bool) : Nat :=
  let infBits := (2 ^ l.ebits - 1) * 2 ^ l.fbits
  let toInf := match rm with
    | .rne => true
    | .rtz => false
    | .up => !neg
    | .down => neg
  signBit l neg + (if toInf then infBits else infBits - 1)

/-- An exact value converted to a floating layout, with gradual underflow (R33, R35). -/
def encFloat (l : Layout) (rm : Rm) : Ex → Nat
  | .nan => canonNan l
  | .inf s => signBit l s + (2 ^ l.ebits - 1) * 2 ^ l.fbits
  | .fin s n d e =>
    if n = 0 then signBit l s
    else
      let emin : Int := 1 - l.bias
      let k := max (floorLog2 n d e) emin - l.fbits
      let q := roundFrac rm s (scaled n d e k).1 (scaled n d e k).2
      let bits := (k + l.fbits - emin).toNat * 2 ^ l.fbits + q
      if (2 ^ l.ebits - 1) * 2 ^ l.fbits ≤ bits then overflowBits l rm s else signBit l s + bits

/-- Conversion to F19: to nearest even, and a result below 2^−126 flushes to zero (R33, R35). -/
def encF19 : Ex → Nat
  | .nan => canonNan layF19
  | .inf s => encFloat layF19 .rne (.inf s)
  | .fin s n d e =>
    if n = 0 then signBit layF19 s
    else
      let k := floorLog2 n d e - 10
      let q := roundFrac .rne s (scaled n d e k).1 (scaled n d e k).2
      if k + 10 < -127 || (k + 10 = -127 && q < 2 ^ 11) then signBit layF19 s
      else encFloat layF19 .rne (.fin s q 1 k)

/-- An integer clamped to a range (R30). -/
def clamp (lo hi x : Int) : Int := if x < lo then lo else if hi < x then hi else x

/-- An exact value rounded to an integer and clamped; NaN and −0 give 0 (Table 3-3). -/
def toInteger (rm : Rm) (lo hi : Int) : Ex → Int
  | .nan => 0
  | .inf s => if s then lo else hi
  | .fin s n d e => clamp lo hi (signedNum s (roundFrac rm s (scaled n d e 0).1 (scaled n d e 0).2))

/-- A value rounded to FP32 in a mode, as a value: `rnd32` of R40. -/
def rnd32 (rm : Rm) (v : Ex) : Ex := decFloat layFp32 (encFloat layFp32 rm v)

/-- FP32 bits to a value. -/
def dec32 (x : Nat) : Ex := decFloat layFp32 x

/-- A value to FP32 bits, to nearest even: `rne32`. -/
def rne32 (v : Ex) : Nat := encFloat layFp32 .rne v

/-- FP32 addition to nearest even, on bits. -/
def fadd32 (a b : Nat) : Nat := rne32 ((dec32 a).add .rne (dec32 b))

/-- FP32 multiplication to nearest even, on bits. -/
def fmul32 (a b : Nat) : Nat := rne32 ((dec32 a).mul (dec32 b))

/-- A number read as two's complement of a width. -/
def toSigned (w x : Nat) : Int := if x < 2 ^ (w - 1) then x else (x : Int) - 2 ^ w

/-- The bits of an integer in two's complement of a width. -/
def ofSigned (w : Nat) (i : Int) : Nat := (i % 2 ^ w).toNat

/-- The formats that `fmt` names (Table 2-10). -/
inductive NumFmt where
  | fp32 | fp16 | bf16 | t8 | i8 | c8 | i16 | c16 | i32 | c32 | tl16
deriving DecidableEq, Repr

/-- The width of a format in bits. -/
def NumFmt.width : NumFmt → Nat
  | .fp32 | .i32 | .c32 => 32
  | .fp16 | .bf16 | .i16 | .c16 | .tl16 => 16
  | .t8 | .i8 | .c8 => 8

/-- The code of a format in `fmt`; 0000 is the target's default. -/
def numFmtOfCode (c : BitVec 4) (dflt : NumFmt) : NumFmt :=
  match c.toNat with
  | 1 => .fp32
  | 2 => .fp16
  | 3 => .bf16
  | 4 => .t8
  | 5 => .i8
  | 6 => .c8
  | 7 => .i16
  | 8 => .c16
  | 9 => .i32
  | 10 => .c32
  | 11 => .tl16
  | _ => dflt

/-! ### SE53 -/

/-- The value of an SE53 byte (R39). -/
def se53 (b : Nat) : Ex :=
  let ex := b / 8 % 32
  let m := b % 8
  if ex = 31 ∧ m = 7 then .nan
  else if ex = 0 then .fin false m 1 (-17)
  else .fin false (8 + m) 1 ((ex : Int) - 18)

/-! ### T8 tables; a table is given by its 1284 bytes (Table 3-4) -/

/-- A T8 table image as a function from an offset to a byte. -/
abbrev T8Image := Nat → Byte

/-- A little-endian number in a table image. -/
def imageNat (t : T8Image) (off : Nat) : Nat → Nat
  | 0 => 0
  | n + 1 => (t off).toNat + 256 * imageNat t (off + 1) n

/-- The F19 entry of a code (R37). -/
def t8Val (t : T8Image) (c : Nat) : Ex := decF19 (imageNat t (4 * c) 4)

/-- The length of the encode order (Table 3-4). -/
def t8Len (t : T8Image) : Nat := min (imageNat t 1024 2) 256

/-- The code at a position of the encode order. -/
def t8Order (t : T8Image) (i : Nat) : Nat := (t (1028 + i)).toNat

/-- The search of R38. -/
def t8Search (t : T8Image) (x : Ex) : Nat → Nat → Nat → Nat × Nat
  | 0, lo, hi => (lo, hi)
  | fuel + 1, lo, hi =>
    if 1 < hi - lo then
      let mid := (lo + hi) / 2
      if (t8Val t (t8Order t mid)).le x then t8Search t x fuel mid hi else t8Search t x fuel lo mid
    else (lo, hi)

/-- The lowest code whose entry is NaN, or 0xFF (R38). -/
def t8NanCode (t : T8Image) : Nat := ((List.range 256).find? fun c => (t8Val t c).isNan).getD 255

/-- `t8_encode` of R38. -/
def t8Encode (x : Ex) (t : T8Image) (rm : Rm) : Nat :=
  let n := t8Len t
  if x.isNan || n == 0 then t8NanCode t
  else if x.le (t8Val t (t8Order t 0)) then t8Order t 0
  else if (t8Val t (t8Order t (n - 1))).le x then t8Order t (n - 1)
  else
    let lh := t8Search t x 9 0 (n - 1)
    let cl := t8Order t lh.1
    let ch := t8Order t lh.2
    let dl := x.add .rne (t8Val t cl).neg
    let dh := (t8Val t ch).add .rne x.neg
    if dl.isZero then cl
    else match rm with
      | .up => ch
      | .down => cl
      | .rtz => if (Ex.zero false).lt x then cl else ch
      | .rne => if dl.lt dh then cl else if dh.lt dl then ch else if lh.1 % 2 = 0 then cl else ch

/-! ### TL16 traces -/

/-- ⌊the 256th root of n⌋, by bits from the top: `k` bits are left to settle above `acc`. -/
def root256 (n : Nat) : Nat → Nat → Nat
  | 0, acc => acc
  | k + 1, acc => root256 n k (if (acc + 2 ^ k) ^ 256 ≤ n then acc + 2 ^ k else acc)

/-- The signed L of a TL16 code (R42). -/
def tl16L (e : Nat) : Int := toSigned 15 (e % 2 ^ 15)

/-- A TL16 code from a sign and L. -/
def tl16Code (neg : Bool) (l : Int) : Nat := (if neg then 2 ^ 15 else 0) + ofSigned 15 l

/-- `decode32` of R43, as FP32 bits: the mantissa is 2^(r/256) to 24 bits, which is never a tie. -/
def decode32 (e : Nat) : Nat :=
  if e = 0xC000 then 0x7FC00000
  else if e = 0x4000 then 0
  else
    let l := tl16L e
    let r := (l % 256).toNat
    let q := l / 256
    let m := (root256 (2 ^ (6144 + r)) 25 0 + 1) / 2
    rne32 (.fin (2 ^ 15 ≤ e) m 1 (q - 23))

/-- `encode_tl16` of R43, from FP32 bits: 256·log2|v| rounded is ⌊(1 + ⌊512·log2|v|⌋)/2⌋. -/
def encodeTl16 (v : Nat) : Nat :=
  match dec32 v with
  | .nan => 0xC000
  | .inf s => tl16Code s 16383
  | .fin s n _ e =>
    if n = 0 then 0x4000
    else
      let l : Int := ((Nat.log2 (2 * n ^ 512) : Int) + 512 * e) / 2
      let l := if 16383 < l then 16383 else l
      if l < -16383 then 0x4000 else tl16Code s l

/-- `fade_tl16` of R44. -/
def fadeTl16 (e k d : Nat) (lmin : Int) : Nat :=
  if e = 0x4000 ∨ e = 0xC000 then e
  else
    let l := tl16L e - (k * d : Nat)
    if l < lmin then 0x4000 else tl16Code (2 ^ 15 ≤ e) l

/-! ### Formats as values -/

/-- `dec(f, x)`: the exact value of the low bits of `x` in a format (R105); a T8 code is decoded through `t`. -/
def decFmt (f : NumFmt) (t : T8Image) (x : Nat) : Ex :=
  match f with
  | .fp32 => decFloat layFp32 (x % 2 ^ 32)
  | .fp16 => decFloat layFp16 (x % 2 ^ 16)
  | .bf16 => decFloat layBf16 (x % 2 ^ 16)
  | .t8 => t8Val t (x % 256)
  | .i8 => .ofInt (toSigned 8 (x % 256))
  | .c8 => .ofInt (x % 256 : Nat)
  | .i16 => .ofInt (toSigned 16 (x % 2 ^ 16))
  | .c16 => .ofInt (x % 2 ^ 16 : Nat)
  | .i32 => .ofInt (toSigned 32 (x % 2 ^ 32))
  | .c32 => .ofInt (x % 2 ^ 32 : Nat)
  | .tl16 => dec32 (decode32 (x % 2 ^ 16))

/-- An integer format. -/
def NumFmt.isInt : NumFmt → Bool
  | .i8 | .c8 | .i16 | .c16 | .i32 | .c32 => true
  | _ => false

/-- The integer that the bits of an integer format are: signed, or cardinal. -/
def intOf (f : NumFmt) (x : Nat) : Int :=
  match f with
  | .c8 | .c16 | .c32 => (x % 2 ^ f.width : Nat)
  | _ => toSigned f.width (x % 2 ^ f.width)

/-- `round_to(f, rm, v)` (R35, R105). An integer format clamps to its range, also from the integer format of its own width, for which
Table 3-3 has no row. DEDUCED (assumption 94). -/
def roundTo (f : NumFmt) (t : T8Image) (rm : Rm) (v : Ex) : Nat :=
  match f with
  | .fp32 => encFloat layFp32 rm v
  | .fp16 => encFloat layFp16 rm v
  | .bf16 => encFloat layBf16 rm v
  | .t8 => t8Encode v t rm
  | .i8 => ofSigned 8 (toInteger rm (-128) 127 v)
  | .c8 => ofSigned 8 (toInteger rm 0 255 v)
  | .i16 => ofSigned 16 (toInteger rm (-32768) 32767 v)
  | .c16 => ofSigned 16 (toInteger rm 0 65535 v)
  | .i32 => ofSigned 32 (toInteger rm (-2147483648) 2147483647 v)
  | .c32 => ofSigned 32 (toInteger rm 0 4294967295 v)
  | .tl16 => encodeTl16 (rne32 v)

/-! ### Orders of sums -/

/-- A subnormal operand of the matrix engine read as zero of its sign (R33): a finite value below the layout's smallest
normal. -/
def flushSub (l : Layout) : Ex → Ex
  | .fin s n d e => if n ≠ 0 ∧ floorLog2 n d e < 1 - (l.bias : Int) then .zero s else .fin s n d e
  | v => v

/-- The exact sum of a group of products; an exact zero sum is +0 (R45). -/
def groupSum (ps : List (Ex × Ex)) : Ex :=
  let t := ps.foldl (fun acc p => acc.add .rne (p.1.mul p.2)) (.zero false)
  if t.isZero then .zero false else t

/-- The accumulation of R45, group after group, on FP32 bits. -/
def groupAcc (c : Nat) (groups : List (List (Ex × Ex))) : Nat :=
  groups.foldl (fun c g => fadd32 c (rne32 (groupSum g))) c

/-- The fixed tree of R46 over eight FP32 lanes. -/
def faddTree (x : Nat → Nat) : Nat :=
  let a01 := fadd32 (x 0) (x 1)
  let a23 := fadd32 (x 2) (x 3)
  let a45 := fadd32 (x 4) (x 5)
  let a67 := fadd32 (x 6) (x 7)
  fadd32 (fadd32 a01 a23) (fadd32 a45 a67)

/-- The chain of R47: from the first contribution on, each addition rounded. -/
def faddChain : List Nat → Nat
  | [] => 0
  | x :: xs => xs.foldl fadd32 x

end Sys2Proof.Machine
end

