-- ==== Sys2Proof/Machine/LoadStore.lean ====
section
/-!
DEFINITION. Scalar loads and stores on path L (R78, R79), the alias windows of the loft (R247 to R249), and the checks that every
scalar access shares.
-/
namespace Sys2Proof.Machine

/-- An access that may go on, to keys of memory or to an alias unit; or the state in which its instruction traps, faults or
waits. -/
inductive Ready where
  | keys (s : State) (ks : List (Option Nat))
  | alias_ (s : State) (n off : Nat)
  | stop (s : State)

/-- The unit of an alias window (Table 16-1); 0 for a window that does not exist. -/
def aliasUnit (n : Nat) : Nat := if n = 2 then 2 else if n = 1 ∨ n = 3 ∨ n = 4 then 4 else 0

/-- The address lies in an alias window. -/
def inAlias (va : Word) : Bool :=
  match winOf va.toNat with
  | .alias_ .. => true
  | _ => false

/-- The checks of a scalar access of `n` bytes (R79, R89, R248): alignment, the windows, translation, interlocks.
DEDUCED (assumption 19). -/
def State.prepare (s : State) (a : Acc) (va : Word) (n : Nat) : Ready :=
  if inAlias va then
    match winOf va.toNat with
    | .alias_ k o =>
      if aliasUnit k = n ∧ va.toNat % n = 0 then
        match firstInterlock s s.cur.core va.toNat n with
        | some p => .stop (s.waitRow p)
        | none => .alias_ s k o
      else .stop (s.trap causeAccess va)
    | _ => .stop (s.trap causeAccess va)
  else if va.toNat % n ≠ 0 then .stop (s.trap causeMisalign va)
  else
    let s := s.touchPages s.cur.core false (pagesOf va.toNat n)
    match resolve s s.cur.core a va.toNat n with
    | .keys ks =>
      match firstInterlock s s.cur.core va.toNat n with
      | some p => .stop (s.waitRow p)
      | none => .keys s ks
    | .fault b => .stop (s.pageFault a b)
    | _ => .stop (s.trap causeAccess va)

/-- The loft offsets of the row A word of a lane of the pair view (R247): its alias offset, a multiple of 4, names lane
(o mod 4096) div 4 of row pair o div 4096. -/
def pairOffA (o : Nat) : Nat := o / 4096 * 4096 + o % 4096 / 4 * 2

/-- The keys of the bytes of an alias unit: two bytes of the plain geometry for WADD, and otherwise the row A word and the row B
word of the lane. -/
def aliasKeys (c n o : Nat) : List Nat :=
  if n = 2 then span ((Place.loft c).key o) 2
  else span ((Place.loft c).key (pairOffA o)) 2 ++ span ((Place.loft c).key (pairOffA o + 2048)) 2

/-- What an alias unit reads as (Table 16-1). -/
def aliasRead (s : State) (ag : Agent) (c n o : Nat) : Nat := natOfBytes (s.readKeys ag (aliasKeys c n o))

/-- An FP16 sum formed exactly and rounded once (R247). -/
def fadd16 (a b : Nat) : Nat :=
  encFloat layFp16 .rne ((decFloat layFp16 a).add .rne (decFloat layFp16 b))

/-- The clamp of a flush threshold (R123). -/
def clampLmin (l : Int) : Int := clamp (-16383) 16383 l

/-- TACC on a trace (R124, R247): the trace decoded, the FP32 amplitude added and rounded, and the sum encoded. -/
def traceAdd (e x : Nat) : Nat := encodeTl16 (fadd32 (decode32 e) x)

/-- TFADE on a trace (R123, R247): the parameter holds the fade amount and the flush threshold. -/
def traceFade (e p : Nat) : Nat := fadeTl16 e 1 (p % 2 ^ 16) (clampLmin (toSigned 16 (p / 2 ^ 16 % 2 ^ 16)))

/-- The new value of an alias unit after a store of `x` over `old` (Table 16-1). -/
def aliasNew (n old x : Nat) : Nat :=
  if n = 1 then x % 2 ^ 32
  else if n = 2 then fadd16 (old % 2 ^ 16) (x % 2 ^ 16)
  else
    let w := old % 2 ^ 16
    let e := old / 2 ^ 16 % 2 ^ 16
    w + 2 ^ 16 * (if n = 3 then traceAdd e (x % 2 ^ 32) else traceFade e (x % 2 ^ 32))

/-- A store to an alias unit, one read-modify-write of the newest value at the loft controller: a write of the unit's bytes (R249). -/
def State.aliasStore (s : State) (c n o x : Nat) : State :=
  let ks := aliasKeys c n o
  let old := natOfBytes (ks.map s.byte)
  s.writeCells s.agent (ks.zip (bytesOf ks.length (aliasNew n old x)))

/-- The value that a load delivers. -/
def extend (signed : Bool) (n v : Nat) : Word :=
  if signed then BitVec.ofInt 64 (toSigned (8 * n) v) else BitVec.ofNat 64 v

/-- A load of `n` bytes (R78, R79). -/
def State.load (s : State) (rd : Reg) (va : Word) (n : Nat) (signed : Bool) : State :=
  match s.prepare .load va n with
  | .stop t => t
  | .alias_ t k o =>
    let ks := aliasKeys t.cur.core k o
    match t.badRead t.agent ks with
    | some b => t.trapUncorr b va
    | none => (t.noteRead t.agent ks).done rd (extend signed n (aliasRead t t.agent t.cur.core k o))
  | .keys t ks =>
    match t.badRead t.agent (realKeys ks) with
    | some b => t.trapUncorr b va
    | none => (t.noteRead t.agent (realKeys ks)).done rd (extend signed n (natOfBytes (t.readRes t.agent ks)))

/-- A store of the low `n` bytes of a value (R78, R79). A store that covers a bad granule in part reads it first (R101); so does an
alias store of its granules (R246). -/
def State.store (s : State) (va : Word) (n : Nat) (v : Word) : State :=
  match s.prepare .store va n with
  | .stop t => t
  | .alias_ t k o =>
    match t.badRead t.agent ((aliasKeys t.cur.core k o).flatMap fun a => span (a / 8 * 8) 8) with
    | some b => t.trapUncorr b va
    | none => (t.aliasStore t.cur.core k o (v.toNat % 2 ^ (8 * n))).retire
  | .keys t ks =>
    match t.badPart t.agent (realKeys ks) with
    | some b => t.trapUncorr b va
    | none => (t.writeCells t.agent ((realKeys ks).zip (bytesOf n v.toNat))).retire

def execLb (rd rs : Reg) (imm : BitVec 12) (s : State) : Out := .next (s.load rd (s.rx rs + sext12 imm) 1 true)
def execLh (rd rs : Reg) (imm : BitVec 12) (s : State) : Out := .next (s.load rd (s.rx rs + sext12 imm) 2 true)
def execLw (rd rs : Reg) (imm : BitVec 12) (s : State) : Out := .next (s.load rd (s.rx rs + sext12 imm) 4 true)
def execLd (rd rs : Reg) (imm : BitVec 12) (s : State) : Out := .next (s.load rd (s.rx rs + sext12 imm) 8 true)
def execLbu (rd rs : Reg) (imm : BitVec 12) (s : State) : Out := .next (s.load rd (s.rx rs + sext12 imm) 1 false)
def execLhu (rd rs : Reg) (imm : BitVec 12) (s : State) : Out := .next (s.load rd (s.rx rs + sext12 imm) 2 false)
def execLwu (rd rs : Reg) (imm : BitVec 12) (s : State) : Out := .next (s.load rd (s.rx rs + sext12 imm) 4 false)
def execSb (rt rs : Reg) (imm : BitVec 12) (s : State) : Out := .next (s.store (s.rx rs + sext12 imm) 1 (s.rx rt))
def execSh (rt rs : Reg) (imm : BitVec 12) (s : State) : Out := .next (s.store (s.rx rs + sext12 imm) 2 (s.rx rt))
def execSw (rt rs : Reg) (imm : BitVec 12) (s : State) : Out := .next (s.store (s.rx rs + sext12 imm) 4 (s.rx rt))
def execSd (rt rs : Reg) (imm : BitVec 12) (s : State) : Out := .next (s.store (s.rx rs + sext12 imm) 8 (s.rx rt))

end Sys2Proof.Machine
end

