-- ==== Sys2Proof/Machine/Atomic.lean ====
section
/-!
DEFINITION. Load-reserve, store-conditional and atomic read-modify-writes (R78, R80, R139).
-/
namespace Sys2Proof.Machine

/-- The view of an ordering at partition scope (R131 case 6). -/
def State.partView (s : State) : View := .within .part s.agent

/-- The checks of `lr`, `sc` and AMOs: those of a scalar access, with no alias window (R80, R139). -/
def State.prepareAmo (s : State) (a : Acc) (va : Word) (n : Nat) : Ready :=
  if inAlias va then .stop (s.trap causeAccess va) else s.prepare a va n

/-- The granule of an address of the current core: physical, also for a page that is discarded (R80). -/
def State.granuleAt (s : State) (va : Word) (ks : List (Option Nat)) : Nat :=
  match ks.head? with
  | some (some k) => granuleOf k
  | _ => match s.leafFor s.cur.core false (va.toNat / 0x10000) with
    | some l => granuleOf (leafKey s l va.toNat)
    | none => 0

/-- `lr` (R80). It reads as an atomic of partition scope (R140). DESIGN CHOICE (assumption 122). -/
def State.loadReserve (s : State) (aq rl : Bool) (rd : Reg) (va : Word) (n : Nat) : State :=
  if rl && s.sendsOut .part then s
  else
    let s := if rl then s.performSlot true true s.partView else s
    match s.prepareAmo .load va n with
    | .stop t => t
    | .alias_ t _ _ => t
    | .keys t ks =>
      match t.badRead t.agent (realKeys ks) with
      | some b => t.trapUncorr b va
      | none =>
        let v := natOfBytes (ks.map fun k => match k with
          | some a => t.atomByte t.agent .part a
          | none => 0)
        let ids := atomIds t t.agent .part (realKeys ks)
        let t := ((t.noteSpan t.agent (realKeys ks) ids).noteIds t.agent ids).clearResv t.cur.core t.cur.slot
        let t := if aq then t.perform ids t.partView else t
        { t with resv := ⟨t.cur.core, t.cur.slot.val, t.granuleAt va ks⟩ :: t.resv }.done rd (extend true n v)

/-- `sc` (R80): it stores if the slot's reservation is on the granule; it clears the reservation either way. -/
def State.storeConditional (s : State) (aq rl : Bool) (rd : Reg) (va : Word) (n : Nat) (v : Word) : State :=
  if rl && s.sendsOut .part then s
  else
    let s := if rl then s.performSlot true true s.partView else s
    match s.prepareAmo .store va n with
    | .stop t => t
    | .alias_ t _ _ => t
    | .keys t ks =>
      let g := t.granuleAt va ks
      if t.resv.any fun r => r.core == t.cur.core && r.slot == t.cur.slot.val && r.granule == g then
        match t.badPart t.agent (realKeys ks) with
        | some b => t.trapUncorr b va
        | none =>
          let u := (t.writeAtomic t.agent .part ((realKeys ks).zip (bytesOf n v.toNat))).clearResv t.cur.core t.cur.slot
          (if aq then u.perform [t.nextId] u.partView else u).done rd 0
      else (t.clearResv t.cur.core t.cur.slot).done rd 1

/-- The operations of the AMOs (R78, R139). -/
inductive AmoOp where
  | swap | add | xor | and | or | min | max | minu | maxu | fadd
deriving DecidableEq, Repr

/-- The new value of an AMO of `w` bits over an old value and the operand. -/
def AmoOp.apply (op : AmoOp) (w old y : Nat) : Nat :=
  match op with
  | .swap => y
  | .add => (old + y) % 2 ^ w
  | .xor => old ^^^ y
  | .and => old &&& y
  | .or => old ||| y
  | .min => if toSigned w old < toSigned w y then old else y
  | .max => if toSigned w old < toSigned w y then y else old
  | .minu => Nat.min old y
  | .maxu => Nat.max old y
  | .fadd => fadd32 old y

/-- An atomic read-modify-write at a scope (R78, R139, R140): of the newest value, less the writes of atomics with which it is not
mutually atomic and those of agents outside its instance, which may fall between its read and its write. With aq its accesses are
performed at partition scope before any later access; with rl after every earlier one (R131 case 6).
DESIGN CHOICE (assumption 21). -/
def State.amo (s : State) (sc : Scope) (op : AmoOp) (aq rl : Bool) (rd : Reg) (va : Word) (n : Nat) (v : Word) : State :=
  if rl && s.sendsOut .part then s
  else
    let s := if rl then s.performSlot true true s.partView else s
    match s.prepareAmo .amo va n with
    | .stop t => t
    | .alias_ t _ _ => t
    | .keys t ks =>
      match t.badRead t.agent (realKeys ks) with
      | some b => t.trapUncorr b va
      | none =>
        let old := natOfBytes ((realKeys ks).map (t.atomByte t.agent sc))
        let new := op.apply (8 * n) old (v.toNat % 2 ^ (8 * n))
        let ids := atomIds t t.agent sc (realKeys ks)
        let t := (t.noteSpan t.agent (realKeys ks) ids).noteIds t.agent ids
        let u := t.writeAtomic t.agent sc ((realKeys ks).zip (bytesOf n new))
        (if aq then u.perform (t.nextId :: ids) u.partView else u).done rd (extend true n old)

/-- The scope of an `amo.sc`: its field, or `amoscope` where that is 111 (R139, Table 2-10). -/
def State.amoScope (s : State) (sc : BitVec 3) : Scope := scopeOfCode (if sc = 7 then s.slot.amoscope else sc)

/-- A bit as a truth value. -/
def isSet (b : BitVec 1) : Bool := b == 1

def execLrW (aq rl : BitVec 1) (rd rs : Reg) (s : State) : Out := .next (s.loadReserve (isSet aq) (isSet rl) rd (s.rx rs) 4)
def execLrD (aq rl : BitVec 1) (rd rs : Reg) (s : State) : Out := .next (s.loadReserve (isSet aq) (isSet rl) rd (s.rx rs) 8)
def execScW (aq rl : BitVec 1) (rd rt rs : Reg) (s : State) : Out :=
  .next (s.storeConditional (isSet aq) (isSet rl) rd (s.rx rs) 4 (s.rx rt))
def execScD (aq rl : BitVec 1) (rd rt rs : Reg) (s : State) : Out :=
  .next (s.storeConditional (isSet aq) (isSet rl) rd (s.rx rs) 8 (s.rx rt))

def execAmoswapW (aq rl : BitVec 1) (rd rt rs : Reg) (s : State) : Out :=
  .next (s.amo .part .swap (isSet aq) (isSet rl) rd (s.rx rs) 4 (s.rx rt))
def execAmoswapD (aq rl : BitVec 1) (rd rt rs : Reg) (s : State) : Out :=
  .next (s.amo .part .swap (isSet aq) (isSet rl) rd (s.rx rs) 8 (s.rx rt))
def execAmoaddW (aq rl : BitVec 1) (rd rt rs : Reg) (s : State) : Out :=
  .next (s.amo .part .add (isSet aq) (isSet rl) rd (s.rx rs) 4 (s.rx rt))
def execAmoaddD (aq rl : BitVec 1) (rd rt rs : Reg) (s : State) : Out :=
  .next (s.amo .part .add (isSet aq) (isSet rl) rd (s.rx rs) 8 (s.rx rt))
def execAmoxorW (aq rl : BitVec 1) (rd rt rs : Reg) (s : State) : Out :=
  .next (s.amo .part .xor (isSet aq) (isSet rl) rd (s.rx rs) 4 (s.rx rt))
def execAmoxorD (aq rl : BitVec 1) (rd rt rs : Reg) (s : State) : Out :=
  .next (s.amo .part .xor (isSet aq) (isSet rl) rd (s.rx rs) 8 (s.rx rt))
def execAmoandW (aq rl : BitVec 1) (rd rt rs : Reg) (s : State) : Out :=
  .next (s.amo .part .and (isSet aq) (isSet rl) rd (s.rx rs) 4 (s.rx rt))
def execAmoandD (aq rl : BitVec 1) (rd rt rs : Reg) (s : State) : Out :=
  .next (s.amo .part .and (isSet aq) (isSet rl) rd (s.rx rs) 8 (s.rx rt))
def execAmoorW (aq rl : BitVec 1) (rd rt rs : Reg) (s : State) : Out :=
  .next (s.amo .part .or (isSet aq) (isSet rl) rd (s.rx rs) 4 (s.rx rt))
def execAmoorD (aq rl : BitVec 1) (rd rt rs : Reg) (s : State) : Out :=
  .next (s.amo .part .or (isSet aq) (isSet rl) rd (s.rx rs) 8 (s.rx rt))
def execAmominW (aq rl : BitVec 1) (rd rt rs : Reg) (s : State) : Out :=
  .next (s.amo .part .min (isSet aq) (isSet rl) rd (s.rx rs) 4 (s.rx rt))
def execAmominD (aq rl : BitVec 1) (rd rt rs : Reg) (s : State) : Out :=
  .next (s.amo .part .min (isSet aq) (isSet rl) rd (s.rx rs) 8 (s.rx rt))
def execAmomaxW (aq rl : BitVec 1) (rd rt rs : Reg) (s : State) : Out :=
  .next (s.amo .part .max (isSet aq) (isSet rl) rd (s.rx rs) 4 (s.rx rt))
def execAmomaxD (aq rl : BitVec 1) (rd rt rs : Reg) (s : State) : Out :=
  .next (s.amo .part .max (isSet aq) (isSet rl) rd (s.rx rs) 8 (s.rx rt))
def execAmominuW (aq rl : BitVec 1) (rd rt rs : Reg) (s : State) : Out :=
  .next (s.amo .part .minu (isSet aq) (isSet rl) rd (s.rx rs) 4 (s.rx rt))
def execAmominuD (aq rl : BitVec 1) (rd rt rs : Reg) (s : State) : Out :=
  .next (s.amo .part .minu (isSet aq) (isSet rl) rd (s.rx rs) 8 (s.rx rt))
def execAmomaxuW (aq rl : BitVec 1) (rd rt rs : Reg) (s : State) : Out :=
  .next (s.amo .part .maxu (isSet aq) (isSet rl) rd (s.rx rs) 4 (s.rx rt))
def execAmomaxuD (aq rl : BitVec 1) (rd rt rs : Reg) (s : State) : Out :=
  .next (s.amo .part .maxu (isSet aq) (isSet rl) rd (s.rx rs) 8 (s.rx rt))

def execAmoScSwapW (sc : BitVec 3) (rd rt rs : Reg) (s : State) : Out :=
  .next (s.amo (s.amoScope sc) .swap false false rd (s.rx rs) 4 (s.rx rt))
def execAmoScSwapD (sc : BitVec 3) (rd rt rs : Reg) (s : State) : Out :=
  .next (s.amo (s.amoScope sc) .swap false false rd (s.rx rs) 8 (s.rx rt))
def execAmoScAddW (sc : BitVec 3) (rd rt rs : Reg) (s : State) : Out :=
  .next (s.amo (s.amoScope sc) .add false false rd (s.rx rs) 4 (s.rx rt))
def execAmoScAddD (sc : BitVec 3) (rd rt rs : Reg) (s : State) : Out :=
  .next (s.amo (s.amoScope sc) .add false false rd (s.rx rs) 8 (s.rx rt))
def execAmoScXorW (sc : BitVec 3) (rd rt rs : Reg) (s : State) : Out :=
  .next (s.amo (s.amoScope sc) .xor false false rd (s.rx rs) 4 (s.rx rt))
def execAmoScXorD (sc : BitVec 3) (rd rt rs : Reg) (s : State) : Out :=
  .next (s.amo (s.amoScope sc) .xor false false rd (s.rx rs) 8 (s.rx rt))
def execAmoScAndW (sc : BitVec 3) (rd rt rs : Reg) (s : State) : Out :=
  .next (s.amo (s.amoScope sc) .and false false rd (s.rx rs) 4 (s.rx rt))
def execAmoScAndD (sc : BitVec 3) (rd rt rs : Reg) (s : State) : Out :=
  .next (s.amo (s.amoScope sc) .and false false rd (s.rx rs) 8 (s.rx rt))
def execAmoScOrW (sc : BitVec 3) (rd rt rs : Reg) (s : State) : Out :=
  .next (s.amo (s.amoScope sc) .or false false rd (s.rx rs) 4 (s.rx rt))
def execAmoScOrD (sc : BitVec 3) (rd rt rs : Reg) (s : State) : Out :=
  .next (s.amo (s.amoScope sc) .or false false rd (s.rx rs) 8 (s.rx rt))
def execAmoScMinW (sc : BitVec 3) (rd rt rs : Reg) (s : State) : Out :=
  .next (s.amo (s.amoScope sc) .min false false rd (s.rx rs) 4 (s.rx rt))
def execAmoScMinD (sc : BitVec 3) (rd rt rs : Reg) (s : State) : Out :=
  .next (s.amo (s.amoScope sc) .min false false rd (s.rx rs) 8 (s.rx rt))
def execAmoScMaxW (sc : BitVec 3) (rd rt rs : Reg) (s : State) : Out :=
  .next (s.amo (s.amoScope sc) .max false false rd (s.rx rs) 4 (s.rx rt))
def execAmoScMaxD (sc : BitVec 3) (rd rt rs : Reg) (s : State) : Out :=
  .next (s.amo (s.amoScope sc) .max false false rd (s.rx rs) 8 (s.rx rt))
def execAmoScMinCW (sc : BitVec 3) (rd rt rs : Reg) (s : State) : Out :=
  .next (s.amo (s.amoScope sc) .minu false false rd (s.rx rs) 4 (s.rx rt))
def execAmoScMinCD (sc : BitVec 3) (rd rt rs : Reg) (s : State) : Out :=
  .next (s.amo (s.amoScope sc) .minu false false rd (s.rx rs) 8 (s.rx rt))
def execAmoScMaxCW (sc : BitVec 3) (rd rt rs : Reg) (s : State) : Out :=
  .next (s.amo (s.amoScope sc) .maxu false false rd (s.rx rs) 4 (s.rx rt))
def execAmoScMaxCD (sc : BitVec 3) (rd rt rs : Reg) (s : State) : Out :=
  .next (s.amo (s.amoScope sc) .maxu false false rd (s.rx rs) 8 (s.rx rt))
def execAmoScFaddW (sc : BitVec 3) (rd rt rs : Reg) (s : State) : Out :=
  .next (s.amo (s.amoScope sc) .fadd false false rd (s.rx rs) 4 (s.rx rt))

end Sys2Proof.Machine
end

