-- ==== Sys2Proof/WellFormed.lean ====
section
/-!
DEFINITION. The limits stated for the operands of each form: R6, the port positions of R12 and R103, the selectors of R16,
the small fields of R17, the CSR numbers of R10 and Table 5-2. A word that breaks one is illegal.
-/
namespace Sys2Proof

/-- A vector register, v0 to v27 (R12). -/
def isV (r : Reg) : Bool := r.toNat < 28

/-- A vector source in field a: a register or `lq` (R12). -/
def srcA (r : Reg) : Bool := isV r || r == 28

/-- A vector source in field b of custom-1: a register, `lq` or `aq` (R103). -/
def srcB (r : Reg) : Bool := isV r || r == 28 || r == 31

/-- A vector destination, or the data field of a vector store: a register or `sq` (R12). -/
def dstQ (r : Reg) : Bool := isV r || r == 29

/-- The destination of `vred` and `vvote`: a register, `sq` or `bq` (R103). -/
def dstB (r : Reg) : Bool := isV r || r == 29 || r == 30

/-- The data field of a vector load: a register or `lq` (R12). -/
def dataL (r : Reg) : Bool := isV r || r == 28

/-- The lane count of an ew code (R102); code 11 stands for 32-bit lanes where a form admits it. -/
def lanes (ew : BitVec 2) : Nat := if ew == 0 then 32 else if ew == 1 then 16 else 8

/-- The CSR numbers of Table 5-2 that a program can write. -/
def csrWritable : List (BitVec 12) :=
  [0x800, 0x801, 0x802, 0x803, 0x804, 0x805, 0x808, 0x809, 0x80A, 0x80B, 0x810, 0x811]

/-- The read-only CSR numbers of Table 5-2. -/
def csrReadable : List (BitVec 12) :=
  [0xC00, 0xC01, 0xC02, 0xCC0, 0xCC1, 0xCC2, 0xCC3, 0xCC4, 0xCC5, 0xCC6, 0xCC8, 0xCC9]

/-- A CSR number of Table 5-2; every other number is unlisted (R76). -/
def csrListed (c : BitVec 12) : Bool := csrWritable.contains c || csrReadable.contains c

/-- The read-only range of R76. -/
def csrReadOnly (c : BitVec 12) : Bool := 0xC00 ≤ c.toNat && c.toNat ≤ 0xCFF

/-- The operand limits of each form. An engine command row or an event row has no operand field of an instruction word.
The `fence` whose fields are those of `fence.tso` is that row's word. -/
def Instr.wf : Instr → Bool
  | .lui _ _ => true
  | .auipc _ _ => true
  | .jal _ _ => true
  | .jalr _ _ _ => true
  | .beq _ _ _ => true
  | .bne _ _ _ => true
  | .blt _ _ _ => true
  | .bge _ _ _ => true
  | .bltu _ _ _ => true
  | .bgeu _ _ _ => true
  | .lb _ _ _ => true
  | .lh _ _ _ => true
  | .lw _ _ _ => true
  | .ld _ _ _ => true
  | .lbu _ _ _ => true
  | .lhu _ _ _ => true
  | .lwu _ _ _ => true
  | .sb _ _ _ => true
  | .sh _ _ _ => true
  | .sw _ _ _ => true
  | .sd _ _ _ => true
  | .addi _ _ _ => true
  | .slti _ _ _ => true
  | .sltiu _ _ _ => true
  | .xori _ _ _ => true
  | .ori _ _ _ => true
  | .andi _ _ _ => true
  | .slli _ _ _ => true
  | .srli _ _ _ => true
  | .srai _ _ _ => true
  | .add _ _ _ => true
  | .sub _ _ _ => true
  | .sll _ _ _ => true
  | .slt _ _ _ => true
  | .sltu _ _ _ => true
  | .xor_ _ _ _ => true
  | .srl _ _ _ => true
  | .sra _ _ _ => true
  | .or_ _ _ _ => true
  | .and_ _ _ _ => true
  | .addiw _ _ _ => true
  | .slliw _ _ _ => true
  | .srliw _ _ _ => true
  | .sraiw _ _ _ => true
  | .addw _ _ _ => true
  | .subw _ _ _ => true
  | .sllw _ _ _ => true
  | .srlw _ _ _ => true
  | .sraw _ _ _ => true
  | .mul _ _ _ => true
  | .mulh _ _ _ => true
  | .mulhsu _ _ _ => true
  | .mulhu _ _ _ => true
  | .div _ _ _ => true
  | .divu _ _ _ => true
  | .rem _ _ _ => true
  | .remu _ _ _ => true
  | .mulw _ _ _ => true
  | .divw _ _ _ => true
  | .divuw _ _ _ => true
  | .remw _ _ _ => true
  | .remuw _ _ _ => true
  | .lrW _ _ _ _ => true
  | .lrD _ _ _ _ => true
  | .scW _ _ _ _ _ => true
  | .scD _ _ _ _ _ => true
  | .amoswapW _ _ _ _ _ => true
  | .amoswapD _ _ _ _ _ => true
  | .amoaddW _ _ _ _ _ => true
  | .amoaddD _ _ _ _ _ => true
  | .amoxorW _ _ _ _ _ => true
  | .amoxorD _ _ _ _ _ => true
  | .amoandW _ _ _ _ _ => true
  | .amoandD _ _ _ _ _ => true
  | .amoorW _ _ _ _ _ => true
  | .amoorD _ _ _ _ _ => true
  | .amominW _ _ _ _ _ => true
  | .amominD _ _ _ _ _ => true
  | .amomaxW _ _ _ _ _ => true
  | .amomaxD _ _ _ _ _ => true
  | .amominuW _ _ _ _ _ => true
  | .amominuD _ _ _ _ _ => true
  | .amomaxuW _ _ _ _ _ => true
  | .amomaxuD _ _ _ _ _ => true
  | .fence fm p s _ _ => !(fm == 8 && p == 3 && s == 3)
  | .fenceTso _ _ => true
  | .fenceI _ _ _ => true
  | .ecall => true
  | .ebreak => true
  | .csrrw _ csr _ => csrListed csr && !csrReadOnly csr
  | .csrrs _ csr rs => csrListed csr && (!csrReadOnly csr || rs == 0)
  | .csrrc _ csr rs => csrListed csr && (!csrReadOnly csr || rs == 0)
  | .csrrwi _ csr _ => csrListed csr && !csrReadOnly csr
  | .csrrsi _ csr z => csrListed csr && (!csrReadOnly csr || z == 0)
  | .csrrci _ csr z => csrListed csr && (!csrReadOnly csr || z == 0)
  | .send _ rp n => rp.toNat + n.toNat ≤ 32
  | .sendr _ rp n _ => rp.toNat + n.toNat ≤ 32
  | .sendv _ vs n => isV vs && 1 ≤ n.toNat && n.toNat ≤ 4
  | .exit => true
  | .exitSucc _ => true
  | .spawn _ _ _ => true
  | .waitm _ _ => true
  | .critOn => true
  | .critOff => true
  | .chmask _ _ _ => true
  | .chpend _ _ _ => true
  | .gtok _ _ => true
  | .glaunch _ _ => true
  | .gcancel _ => true
  | .gstat _ _ => true
  | .gtrig => true
  | .rwd _ _ _ => true
  | .vadd _ ew vd vs1 vs2 => ew != 3 && srcA vs1 && srcB vs2 && dstQ vd
  | .vaddSat _ ew vd vs1 vs2 => ew != 3 && srcA vs1 && srcB vs2 && dstQ vd
  | .vaddSatc _ ew vd vs1 vs2 => ew != 3 && srcA vs1 && srcB vs2 && dstQ vd
  | .vsub _ ew vd vs1 vs2 => ew != 3 && srcA vs1 && srcB vs2 && dstQ vd
  | .vsubSat _ ew vd vs1 vs2 => ew != 3 && srcA vs1 && srcB vs2 && dstQ vd
  | .vsubSatc _ ew vd vs1 vs2 => ew != 3 && srcA vs1 && srcB vs2 && dstQ vd
  | .vmul _ ew vd vs1 vs2 => ew != 3 && srcA vs1 && srcB vs2 && dstQ vd
  | .vmulh _ ew vd vs1 vs2 => ew != 3 && srcA vs1 && srcB vs2 && dstQ vd
  | .vmulhC _ ew vd vs1 vs2 => ew != 3 && srcA vs1 && srcB vs2 && dstQ vd
  | .vand _ ew vd vs1 vs2 => ew != 3 && srcA vs1 && srcB vs2 && dstQ vd
  | .vor _ ew vd vs1 vs2 => ew != 3 && srcA vs1 && srcB vs2 && dstQ vd
  | .vxor _ ew vd vs1 vs2 => ew != 3 && srcA vs1 && srcB vs2 && dstQ vd
  | .vsll _ ew vd vs1 vs2 => ew != 3 && srcA vs1 && srcB vs2 && dstQ vd
  | .vsrl _ ew vd vs1 vs2 => ew != 3 && srcA vs1 && srcB vs2 && dstQ vd
  | .vsra _ ew vd vs1 vs2 => ew != 3 && srcA vs1 && srcB vs2 && dstQ vd
  | .vmin _ ew vd vs1 vs2 => ew != 3 && srcA vs1 && srcB vs2 && dstQ vd
  | .vminC _ ew vd vs1 vs2 => ew != 3 && srcA vs1 && srcB vs2 && dstQ vd
  | .vmax _ ew vd vs1 vs2 => ew != 3 && srcA vs1 && srcB vs2 && dstQ vd
  | .vmaxC _ ew vd vs1 vs2 => ew != 3 && srcA vs1 && srcB vs2 && dstQ vd
  | .vcmpEq _ ew _ _ vs1 vs2 => ew != 3 && srcA vs1 && srcB vs2
  | .vcmpNe _ ew _ _ vs1 vs2 => ew != 3 && srcA vs1 && srcB vs2
  | .vcmpLt _ ew _ _ vs1 vs2 => ew != 3 && srcA vs1 && srcB vs2
  | .vcmpLe _ ew _ _ vs1 vs2 => ew != 3 && srcA vs1 && srcB vs2
  | .vsel _ vd vs1 vs2 => srcA vs1 && srcB vs2 && dstQ vd
  | .vfadd _ vd vs1 vs2 => srcA vs1 && srcB vs2 && dstQ vd
  | .vfsub _ vd vs1 vs2 => srcA vs1 && srcB vs2 && dstQ vd
  | .vfmul _ vd vs1 vs2 => srcA vs1 && srcB vs2 && dstQ vd
  | .vfma _ vd vs1 vs2 => srcA vs1 && srcB vs2 && isV vd
  | .vfmin _ vd vs1 vs2 => srcA vs1 && srcB vs2 && dstQ vd
  | .vfmax _ vd vs1 vs2 => srcA vs1 && srcB vs2 && dstQ vd
  | .vfrcp _ vd vs => srcA vs && dstQ vd
  | .vfcmpEq _ _ vs1 vs2 => srcA vs1 && srcB vs2
  | .vfcmpLt _ _ vs1 vs2 => srcA vs1 && srcB vs2
  | .vfcmpLe _ _ vs1 vs2 => srcA vs1 && srcB vs2
  | .vfcmpUn _ _ vs1 vs2 => srcA vs1 && srcB vs2
  | .vcvt _ vd vs => srcA vs && dstQ vd
  | .venc8 _ vd vs => srcA vs && dstQ vd
  | .vdec8 _ vd vs => srcA vs && dstQ vd
  | .vtfade _ vd vs1 vs2 => srcA vs1 && srcB vs2 && dstQ vd
  | .vtacc _ vd vs1 vs2 => srcA vs1 && srcB vs2 && dstQ vd
  | .vtdec _ vd vs => srcA vs && dstQ vd
  | .vtenc _ vd vs => srcA vs && dstQ vd
  | .vld _ vd _ _ => dataL vd
  | .vst _ vd _ _ => dstQ vd
  | .vlds _ ew vd _ _ => ew != 3 && dataL vd
  | .vsts _ ew vd _ _ => ew != 3 && dstQ vd
  | .vldx _ ew vd _ vi => ew != 3 && dataL vd && isV vi
  | .vstx _ ew vd _ vi => ew != 3 && dstQ vd && isV vi
  | .vbc _ ew vd _ => ew != 3 && dstQ vd
  | .vmvx ew _ vs k => ew != 3 && k.toNat < lanes ew && (srcA vs || (vs == 30 && ew == 2 && k == 0))
  | .vmxv ew vd _ k => ew != 3 && k.toNat < lanes ew && (dstQ vd || (vd == 31 && k == 0))
  | .vperm _ ew vd vs vi => ew != 3 && srcA vs && srcA vi && dstQ vd
  | .vrot _ ew vd vs k => ew != 3 && k.toNat < lanes ew && srcA vs && dstQ vd
  | .vvote _ ew vd vs m => ew != 3 && m.toNat ≤ 3 && srcA vs && dstB vd
  | .vmatch _ ew vd vs => ew != 3 && srcA vs && dstQ vd
  | .vredAdd _ ew vd vs => ew != 3 && srcA vs && dstB vd
  | .vredFadd _ vd vs => srcA vs && dstB vd
  | .vredMin _ _ vd vs => srcA vs && dstB vd
  | .vredMax _ _ vd vs => srcA vs && dstB vd
  | .pand _ _ _ => true
  | .por _ _ _ => true
  | .pnot _ _ => true
  | .pset _ _ => true
  | .credAdd _ _ => true
  | .credFadd _ _ => true
  | .credMin _ _ => true
  | .credMax _ _ => true
  | .cbar => true
  | .cbc _ _ _ => true
  | .cxch _ _ _ => true
  | .cmd _ vs => srcA vs
  | .jwait _ cls => 1 ≤ cls.toNat && cls.toNat ≤ 5
  | .jpoll _ _ cls => 1 ≤ cls.toNat && cls.toNat ≤ 5
  | .fenceS sc pr pw qr qw => sc != 7 && (pr == 1 || pw == 1) && (qr == 1 || qw == 1)
  | .ifenceS sc => sc != 7
  | .xfence p s => p != 0 && s != 0
  | .fmt fin fout tab _ rs mode => fin.toNat ≤ 11 && fout.toNat ≤ 11 && (tab == 0 || fin == 4 || fout == 4) && mode != 3 && (mode == 0 || rs != 0)
  | .amoScSwapW _ _ _ _ => true
  | .amoScAddW _ _ _ _ => true
  | .amoScXorW _ _ _ _ => true
  | .amoScAndW _ _ _ _ => true
  | .amoScOrW _ _ _ _ => true
  | .amoScMinW _ _ _ _ => true
  | .amoScMaxW _ _ _ _ => true
  | .amoScMinCW _ _ _ _ => true
  | .amoScMaxCW _ _ _ _ => true
  | .amoScFaddW _ _ _ _ => true
  | .amoScSwapD _ _ _ _ => true
  | .amoScAddD _ _ _ _ => true
  | .amoScXorD _ _ _ _ => true
  | .amoScAndD _ _ _ _ => true
  | .amoScOrD _ _ _ _ => true
  | .amoScMinD _ _ _ _ => true
  | .amoScMaxD _ _ _ _ => true
  | .amoScMinCD _ _ _ _ => true
  | .amoScMaxCD _ _ _ _ => true
  | .messageArrival _ => true
  | .flowControlReturn _ => true
  | .exitSendRelease _ _ => true
  | .dispatch _ => true
  | .successorStart _ _ => true
  | .waitmTake _ _ => true
  | .critOnGrant _ _ => true
  | .spawnRequest _ => true
  | .spawnAnswer _ => true
  | .budget _ _ => true
  | .tlbWalkComplete _ _ _ => true
  | .faultReply _ => true
  | .tlbInvalidation _ => true
  | .scrubError _ => true
  | .serviceReportSend _ => true
  | .mld _ => true
  | .mldt _ => true
  | .mst _ => true
  | .mma _ => true
  | .mzero _ => true
  | .maccSt _ => true
  | .cpy _ => true
  | .cpyg _ => true
  | .cpys _ => true
  | .cpyt _ => true
  | .copyFaultReply _ => true
  | .jobComplete _ _ _ => true
  | .taskRecordDelivery _ => true
  | .stealProbe _ => true
  | .stealRequest _ => true
  | .stealAnswer _ => true
  | .stealBackoff _ => true
  | .clusterRoundComplete _ => true
  | .rgin _ => true
  | .rgmatch _ => true
  | .rggo _ => true
  | .rgout _ => true
  | .rgsave _ => true
  | .rgrest _ => true
  | .movesBegin _ => true
  | .moveDone _ => true
  | .holdDone _ => true
  | .encounterAccept _ _ => true
  | .passBy _ _ => true
  | .encounterRetire _ _ => true
  | .ringSaveAtBoundary _ => true
  | .ringCancel _ => true
  | .tokenArrival _ => true
  | .activationTrigger _ => true
  | .faultReport _ => true
  | .nodeRetry _ => true
  | .graphLaunchRequest _ => true
  | .glaunchAnswer _ => true
  | .gcancelRequest _ => true
  | .gstatRequest _ => true
  | .gstatAnswer _ => true
  | .teamResidencyExpiry _ => true
  | .teamSwap _ => true
  | .lass _ => true
  | .lsweep _ => true
  | .interlockRelease _ _ => true
  | .rewardArrival _ _ => true
  | .rewardHold _ => true
  | .rewardCut _ => true
  | .sweepStart _ => true
  | .sweepComplete _ => true
  | .staticRoute _ => true
  | .kred _ => true
  | .kbc _ => true
  | .collectiveInstance _ => true
  | .ktime _ => true
  | .launch _ => true
  | .launchLoad _ => true
  | .partitionCreate _ => true
  | .partitionReset _ => true
  | .watchdogExpiry _ => true
  | .watchdogReset _ => true
  | .contextSwitchOut _ => true
  | .contextRestore _ => true
  | .hostDataWrite _ _ _ => true
  | .hostDataRead _ _ _ => true
  | .hostPost _ _ => true
  | .queuePostDelivery _ => true
  | .replyRingWrite _ => true
  | .copyServiceRequest _ => true
  | .copyServiceComplete _ => true
  | .peerAck _ => true
  | .staticRouteProgram _ _ _ => true
  | .queueBind _ _ => true
  | .coldBoot _ => true
  | .attestationRequest _ _ => true
  | .policyWrite _ _ => true
  | .voltageGlitch => true
  | .clockGlitch _ => true
  | .lidSensorOpened => true
  | .bondIntegrityAlarm _ => true
  | .channelRetirement _ _ _ => true
  | .elevatorFailure _ => true
  | .cxlPortLoss _ => true
  | .routerFailure _ => true
  | .hotnessScan _ => true
  | .migrationComplete _ _ => true
  | .injectionRequest _ _ _ => true
  | .controllerFaultAnswer _ => true
  | .ownerMapDecision _ _ => true
  | .powerRevision _ => true
  | .thermalThreshold _ _ => true
  | .thermalClear _ _ => true
  | .thermalMigration _ => true
  | .illegalInstruction _ => true
  | .writePerformed _ _ => true
  | .translationChange _ _ _ => true
  | .keyProvisioning _ _ => true
  | .partitionRemoval _ => true

end Sys2Proof
end

