-- ==== Sys2Proof/Decode.lean ====
section
/-!
DEFINITION. Decoding of an instruction word, total and strict (R5 to R18): the rows of Tables 2-5 to 2-9 and 5-7a as masks
and patterns, then the operand limits; and the encoder, from the same tables. A word that no row matches, or that breaks a
limit, decodes to nothing and is illegal (R6, R9).
-/
namespace Sys2Proof

/-- A row of the instruction map: a word matches when its masked bits are the pattern. -/
structure Row where
  mask : BitVec 32
  pat  : BitVec 32
  build : BitVec 32 → Instr

/-- The branch offset, bits 12 to 1, in the RISC-V layout (R78). -/
def immB (w : BitVec 32) : BitVec 12 :=
  w.extractLsb' 31 1 ++ w.extractLsb' 7 1 ++ w.extractLsb' 25 6 ++ w.extractLsb' 8 4

/-- The store offset in the RISC-V layout (R78). -/
def immS (w : BitVec 32) : BitVec 12 := w.extractLsb' 25 7 ++ w.extractLsb' 7 5

/-- The jump offset, bits 20 to 1, in the RISC-V layout (R78). -/
def immJ (w : BitVec 32) : BitVec 20 :=
  w.extractLsb' 31 1 ++ w.extractLsb' 12 8 ++ w.extractLsb' 20 1 ++ w.extractLsb' 21 10

/-- A field placed at a bit position of a word. -/
def put {n : Nat} (lo : Nat) (x : BitVec n) : BitVec 32 := x.setWidth 32 <<< lo

/-- A branch offset placed in the RISC-V layout. -/
def putB (x : BitVec 12) : BitVec 32 :=
  put 31 (x.extractLsb' 11 1) ||| put 7 (x.extractLsb' 10 1) ||| put 25 (x.extractLsb' 4 6) ||| put 8 (x.extractLsb' 0 4)

/-- A store offset placed in the RISC-V layout. -/
def putS (x : BitVec 12) : BitVec 32 := put 25 (x.extractLsb' 5 7) ||| put 7 (x.extractLsb' 0 5)

/-- A jump offset placed in the RISC-V layout. -/
def putJ (x : BitVec 20) : BitVec 32 :=
  put 31 (x.extractLsb' 19 1) ||| put 12 (x.extractLsb' 11 8) ||| put 20 (x.extractLsb' 10 1) |||
    put 21 (x.extractLsb' 0 10)

/-- Rows 1 to 26 of the instruction map. -/
def rows0 : List Row := [
  ⟨0xFFFFFFFF, 0x00000073, fun _ => .ecall⟩,
  ⟨0xFFFFFFFF, 0x00100073, fun _ => .ebreak⟩,
  ⟨0xFFFFFFFF, 0x0000100B, fun _ => .exit⟩,
  ⟨0xFFFFFFFF, 0x4000100B, fun _ => .critOn⟩,
  ⟨0xFFFFFFFF, 0x5000100B, fun _ => .critOff⟩,
  ⟨0xFFFFFFFF, 0x4000300B, fun _ => .gtrig⟩,
  ⟨0xFFFFFFFF, 0x0200705B, fun _ => .cbar⟩,
  ⟨0x8FFFFFFF, 0x8000207B, fun w => .ifenceS (w.extractLsb' 28 3)⟩,
  ⟨0xFFF07FFF, 0x1000100B, fun w => .exitSucc (w.extractLsb' 15 5)⟩,
  ⟨0xFFF07FFF, 0x2000300B, fun w => .gcancel (w.extractLsb' 15 5)⟩,
  ⟨0xFFFC7C7F, 0x0400605B, fun w => .pnot (w.extractLsb' 7 3) (w.extractLsb' 15 3)⟩,
  ⟨0x8CCFFFFF, 0x0000207B, fun w => .fenceS (w.extractLsb' 28 3) (w.extractLsb' 25 1) (w.extractLsb' 24 1) (w.extractLsb' 21 1) (w.extractLsb' 20 1)⟩,
  ⟨0xFFF07C7F, 0x0600605B, fun w => .pset (w.extractLsb' 7 3) (w.extractLsb' 15 5)⟩,
  ⟨0xFF8C7C7F, 0x0000605B, fun w => .pand (w.extractLsb' 7 3) (w.extractLsb' 15 3) (w.extractLsb' 20 3)⟩,
  ⟨0xFF8C7C7F, 0x0200605B, fun w => .por (w.extractLsb' 7 3) (w.extractLsb' 15 3) (w.extractLsb' 20 3)⟩,
  ⟨0xFFF0707F, 0x8330000F, fun w => .fenceTso (w.extractLsb' 15 5) (w.extractLsb' 7 5)⟩,
  ⟨0xFFF0707F, 0x3000100B, fun w => .waitm (w.extractLsb' 7 5) (w.extractLsb' 15 5)⟩,
  ⟨0xFE007FFF, 0x0000300B, fun w => .gtok (w.extractLsb' 15 5) (w.extractLsb' 20 5)⟩,
  ⟨0xFFF0707F, 0x1000300B, fun w => .glaunch (w.extractLsb' 7 5) (w.extractLsb' 15 5)⟩,
  ⟨0xFFF0707F, 0x3000300B, fun w => .gstat (w.extractLsb' 7 5) (w.extractLsb' 15 5)⟩,
  ⟨0xFFF0707F, 0x0000705B, fun w => .credAdd (w.extractLsb' 7 5) (w.extractLsb' 15 5)⟩,
  ⟨0xFFF0707F, 0x0800705B, fun w => .credFadd (w.extractLsb' 7 5) (w.extractLsb' 15 5)⟩,
  ⟨0xFFF0707F, 0x1000705B, fun w => .credMin (w.extractLsb' 7 5) (w.extractLsb' 15 5)⟩,
  ⟨0xFFF0707F, 0x1800705B, fun w => .credMax (w.extractLsb' 7 5) (w.extractLsb' 15 5)⟩,
  ⟨0xFFF0707F, 0x0000007B, fun w => .cmd (w.extractLsb' 7 5) (w.extractLsb' 15 5)⟩,
  ⟨0xFC007FFF, 0x0000400B, fun w => .rwd (w.extractLsb' 15 5) (w.extractLsb' 20 5) (w.extractLsb' 25 1)⟩]

/-- Rows 27 to 52 of the instruction map. -/
def rows1 : List Row := [
  ⟨0x010FFFFF, 0x0000107B, fun w => .jwait (w.extractLsb' 25 7) (w.extractLsb' 20 4)⟩,
  ⟨0xF9F0707F, 0x1000202F, fun w => .lrW (w.extractLsb' 26 1) (w.extractLsb' 25 1) (w.extractLsb' 7 5) (w.extractLsb' 15 5)⟩,
  ⟨0xF9F0707F, 0x1000302F, fun w => .lrD (w.extractLsb' 26 1) (w.extractLsb' 25 1) (w.extractLsb' 7 5) (w.extractLsb' 15 5)⟩,
  ⟨0xF0007FFF, 0x0000000B, fun w => .send (w.extractLsb' 15 5) (w.extractLsb' 20 5) (w.extractLsb' 25 3)⟩,
  ⟨0xF0007FFF, 0x2000000B, fun w => .sendv (w.extractLsb' 15 5) (w.extractLsb' 20 5) (w.extractLsb' 25 3)⟩,
  ⟨0x1FF0707F, 0x1C00102B, fun w => .vfrcp (w.extractLsb' 29 3) (w.extractLsb' 7 5) (w.extractLsb' 15 5)⟩,
  ⟨0x1FF0707F, 0x1800302B, fun w => .vcvt (w.extractLsb' 29 3) (w.extractLsb' 7 5) (w.extractLsb' 15 5)⟩,
  ⟨0x1FF0707F, 0x1A00302B, fun w => .venc8 (w.extractLsb' 29 3) (w.extractLsb' 7 5) (w.extractLsb' 15 5)⟩,
  ⟨0x1FF0707F, 0x1C00302B, fun w => .vdec8 (w.extractLsb' 29 3) (w.extractLsb' 7 5) (w.extractLsb' 15 5)⟩,
  ⟨0x1FF0707F, 0x1C00402B, fun w => .vtdec (w.extractLsb' 29 3) (w.extractLsb' 7 5) (w.extractLsb' 15 5)⟩,
  ⟨0x1FF0707F, 0x1E00402B, fun w => .vtenc (w.extractLsb' 29 3) (w.extractLsb' 7 5) (w.extractLsb' 15 5)⟩,
  ⟨0x1FF0707F, 0x1200505B, fun w => .vredFadd (w.extractLsb' 29 3) (w.extractLsb' 7 5) (w.extractLsb' 15 5)⟩,
  ⟨0xFF00707F, 0x0100107B, fun w => .jpoll (w.extractLsb' 7 5) (w.extractLsb' 15 5) (w.extractLsb' 20 4)⟩,
  ⟨0xFE00707F, 0x00000033, fun w => .add (w.extractLsb' 7 5) (w.extractLsb' 15 5) (w.extractLsb' 20 5)⟩,
  ⟨0xFE00707F, 0x40000033, fun w => .sub (w.extractLsb' 7 5) (w.extractLsb' 15 5) (w.extractLsb' 20 5)⟩,
  ⟨0xFE00707F, 0x00001033, fun w => .sll (w.extractLsb' 7 5) (w.extractLsb' 15 5) (w.extractLsb' 20 5)⟩,
  ⟨0xFE00707F, 0x00002033, fun w => .slt (w.extractLsb' 7 5) (w.extractLsb' 15 5) (w.extractLsb' 20 5)⟩,
  ⟨0xFE00707F, 0x00003033, fun w => .sltu (w.extractLsb' 7 5) (w.extractLsb' 15 5) (w.extractLsb' 20 5)⟩,
  ⟨0xFE00707F, 0x00004033, fun w => .xor_ (w.extractLsb' 7 5) (w.extractLsb' 15 5) (w.extractLsb' 20 5)⟩,
  ⟨0xFE00707F, 0x00005033, fun w => .srl (w.extractLsb' 7 5) (w.extractLsb' 15 5) (w.extractLsb' 20 5)⟩,
  ⟨0xFE00707F, 0x40005033, fun w => .sra (w.extractLsb' 7 5) (w.extractLsb' 15 5) (w.extractLsb' 20 5)⟩,
  ⟨0xFE00707F, 0x00006033, fun w => .or_ (w.extractLsb' 7 5) (w.extractLsb' 15 5) (w.extractLsb' 20 5)⟩,
  ⟨0xFE00707F, 0x00007033, fun w => .and_ (w.extractLsb' 7 5) (w.extractLsb' 15 5) (w.extractLsb' 20 5)⟩,
  ⟨0xFE00707F, 0x0000101B, fun w => .slliw (w.extractLsb' 7 5) (w.extractLsb' 15 5) (w.extractLsb' 20 5)⟩,
  ⟨0xFE00707F, 0x0000501B, fun w => .srliw (w.extractLsb' 7 5) (w.extractLsb' 15 5) (w.extractLsb' 20 5)⟩,
  ⟨0xFE00707F, 0x4000501B, fun w => .sraiw (w.extractLsb' 7 5) (w.extractLsb' 15 5) (w.extractLsb' 20 5)⟩]

/-- Rows 53 to 78 of the instruction map. -/
def rows2 : List Row := [
  ⟨0xFE00707F, 0x0000003B, fun w => .addw (w.extractLsb' 7 5) (w.extractLsb' 15 5) (w.extractLsb' 20 5)⟩,
  ⟨0xFE00707F, 0x4000003B, fun w => .subw (w.extractLsb' 7 5) (w.extractLsb' 15 5) (w.extractLsb' 20 5)⟩,
  ⟨0xFE00707F, 0x0000103B, fun w => .sllw (w.extractLsb' 7 5) (w.extractLsb' 15 5) (w.extractLsb' 20 5)⟩,
  ⟨0xFE00707F, 0x0000503B, fun w => .srlw (w.extractLsb' 7 5) (w.extractLsb' 15 5) (w.extractLsb' 20 5)⟩,
  ⟨0xFE00707F, 0x4000503B, fun w => .sraw (w.extractLsb' 7 5) (w.extractLsb' 15 5) (w.extractLsb' 20 5)⟩,
  ⟨0xFE00707F, 0x02000033, fun w => .mul (w.extractLsb' 7 5) (w.extractLsb' 15 5) (w.extractLsb' 20 5)⟩,
  ⟨0xFE00707F, 0x02001033, fun w => .mulh (w.extractLsb' 7 5) (w.extractLsb' 15 5) (w.extractLsb' 20 5)⟩,
  ⟨0xFE00707F, 0x02002033, fun w => .mulhsu (w.extractLsb' 7 5) (w.extractLsb' 15 5) (w.extractLsb' 20 5)⟩,
  ⟨0xFE00707F, 0x02003033, fun w => .mulhu (w.extractLsb' 7 5) (w.extractLsb' 15 5) (w.extractLsb' 20 5)⟩,
  ⟨0xFE00707F, 0x02004033, fun w => .div (w.extractLsb' 7 5) (w.extractLsb' 15 5) (w.extractLsb' 20 5)⟩,
  ⟨0xFE00707F, 0x02005033, fun w => .divu (w.extractLsb' 7 5) (w.extractLsb' 15 5) (w.extractLsb' 20 5)⟩,
  ⟨0xFE00707F, 0x02006033, fun w => .rem (w.extractLsb' 7 5) (w.extractLsb' 15 5) (w.extractLsb' 20 5)⟩,
  ⟨0xFE00707F, 0x02007033, fun w => .remu (w.extractLsb' 7 5) (w.extractLsb' 15 5) (w.extractLsb' 20 5)⟩,
  ⟨0xFE00707F, 0x0200003B, fun w => .mulw (w.extractLsb' 7 5) (w.extractLsb' 15 5) (w.extractLsb' 20 5)⟩,
  ⟨0xFE00707F, 0x0200403B, fun w => .divw (w.extractLsb' 7 5) (w.extractLsb' 15 5) (w.extractLsb' 20 5)⟩,
  ⟨0xFE00707F, 0x0200503B, fun w => .divuw (w.extractLsb' 7 5) (w.extractLsb' 15 5) (w.extractLsb' 20 5)⟩,
  ⟨0xFE00707F, 0x0200603B, fun w => .remw (w.extractLsb' 7 5) (w.extractLsb' 15 5) (w.extractLsb' 20 5)⟩,
  ⟨0xFE00707F, 0x0200703B, fun w => .remuw (w.extractLsb' 7 5) (w.extractLsb' 15 5) (w.extractLsb' 20 5)⟩,
  ⟨0xFE00707F, 0x2000100B, fun w => .spawn (w.extractLsb' 7 5) (w.extractLsb' 15 5) (w.extractLsb' 20 5)⟩,
  ⟨0xFE00707F, 0x0000200B, fun w => .chmask (w.extractLsb' 7 5) (w.extractLsb' 15 5) (w.extractLsb' 20 5)⟩,
  ⟨0xFE00707F, 0x1000200B, fun w => .chpend (w.extractLsb' 7 5) (w.extractLsb' 15 5) (w.extractLsb' 20 5)⟩,
  ⟨0x07F0707F, 0x0000305B, fun w => .vbc (w.extractLsb' 29 3) (w.extractLsb' 27 2) (w.extractLsb' 7 5) (w.extractLsb' 15 5)⟩,
  ⟨0x07F0707F, 0x0600405B, fun w => .vmatch (w.extractLsb' 29 3) (w.extractLsb' 27 2) (w.extractLsb' 7 5) (w.extractLsb' 15 5)⟩,
  ⟨0x07F0707F, 0x0000505B, fun w => .vredAdd (w.extractLsb' 29 3) (w.extractLsb' 27 2) (w.extractLsb' 7 5) (w.extractLsb' 15 5)⟩,
  ⟨0x07F0707F, 0x0400505B, fun w => .vredMin (w.extractLsb' 29 3) (w.extractLsb' 27 2) (w.extractLsb' 7 5) (w.extractLsb' 15 5)⟩,
  ⟨0x07F0707F, 0x0600505B, fun w => .vredMax (w.extractLsb' 29 3) (w.extractLsb' 27 2) (w.extractLsb' 7 5) (w.extractLsb' 15 5)⟩]

/-- Rows 79 to 104 of the instruction map. -/
def rows3 : List Row := [
  ⟨0xFE00707F, 0x0400705B, fun w => .cbc (w.extractLsb' 7 5) (w.extractLsb' 15 5) (w.extractLsb' 20 5)⟩,
  ⟨0xFE00707F, 0x0600705B, fun w => .cxch (w.extractLsb' 7 5) (w.extractLsb' 15 5) (w.extractLsb' 20 5)⟩,
  ⟨0xFC00707F, 0x00001013, fun w => .slli (w.extractLsb' 7 5) (w.extractLsb' 15 5) (w.extractLsb' 20 6)⟩,
  ⟨0xFC00707F, 0x00005013, fun w => .srli (w.extractLsb' 7 5) (w.extractLsb' 15 5) (w.extractLsb' 20 6)⟩,
  ⟨0xFC00707F, 0x40005013, fun w => .srai (w.extractLsb' 7 5) (w.extractLsb' 15 5) (w.extractLsb' 20 6)⟩,
  ⟨0x1E007C7F, 0x1800202B, fun w => .vfcmpEq (w.extractLsb' 29 3) (w.extractLsb' 7 3) (w.extractLsb' 15 5) (w.extractLsb' 20 5)⟩,
  ⟨0x1E007C7F, 0x1A00202B, fun w => .vfcmpLt (w.extractLsb' 29 3) (w.extractLsb' 7 3) (w.extractLsb' 15 5) (w.extractLsb' 20 5)⟩,
  ⟨0x1E007C7F, 0x1C00202B, fun w => .vfcmpLe (w.extractLsb' 29 3) (w.extractLsb' 7 3) (w.extractLsb' 15 5) (w.extractLsb' 20 5)⟩,
  ⟨0x1E007C7F, 0x1E00202B, fun w => .vfcmpUn (w.extractLsb' 29 3) (w.extractLsb' 7 3) (w.extractLsb' 15 5) (w.extractLsb' 20 5)⟩,
  ⟨0x0000FFFF, 0x0000307B, fun w => .xfence (w.extractLsb' 24 8) (w.extractLsb' 16 8)⟩,
  ⟨0xF800707F, 0x1800202F, fun w => .scW (w.extractLsb' 26 1) (w.extractLsb' 25 1) (w.extractLsb' 7 5) (w.extractLsb' 20 5) (w.extractLsb' 15 5)⟩,
  ⟨0xF800707F, 0x1800302F, fun w => .scD (w.extractLsb' 26 1) (w.extractLsb' 25 1) (w.extractLsb' 7 5) (w.extractLsb' 20 5) (w.extractLsb' 15 5)⟩,
  ⟨0xF800707F, 0x0800202F, fun w => .amoswapW (w.extractLsb' 26 1) (w.extractLsb' 25 1) (w.extractLsb' 7 5) (w.extractLsb' 20 5) (w.extractLsb' 15 5)⟩,
  ⟨0xF800707F, 0x0800302F, fun w => .amoswapD (w.extractLsb' 26 1) (w.extractLsb' 25 1) (w.extractLsb' 7 5) (w.extractLsb' 20 5) (w.extractLsb' 15 5)⟩,
  ⟨0xF800707F, 0x0000202F, fun w => .amoaddW (w.extractLsb' 26 1) (w.extractLsb' 25 1) (w.extractLsb' 7 5) (w.extractLsb' 20 5) (w.extractLsb' 15 5)⟩,
  ⟨0xF800707F, 0x0000302F, fun w => .amoaddD (w.extractLsb' 26 1) (w.extractLsb' 25 1) (w.extractLsb' 7 5) (w.extractLsb' 20 5) (w.extractLsb' 15 5)⟩,
  ⟨0xF800707F, 0x2000202F, fun w => .amoxorW (w.extractLsb' 26 1) (w.extractLsb' 25 1) (w.extractLsb' 7 5) (w.extractLsb' 20 5) (w.extractLsb' 15 5)⟩,
  ⟨0xF800707F, 0x2000302F, fun w => .amoxorD (w.extractLsb' 26 1) (w.extractLsb' 25 1) (w.extractLsb' 7 5) (w.extractLsb' 20 5) (w.extractLsb' 15 5)⟩,
  ⟨0xF800707F, 0x6000202F, fun w => .amoandW (w.extractLsb' 26 1) (w.extractLsb' 25 1) (w.extractLsb' 7 5) (w.extractLsb' 20 5) (w.extractLsb' 15 5)⟩,
  ⟨0xF800707F, 0x6000302F, fun w => .amoandD (w.extractLsb' 26 1) (w.extractLsb' 25 1) (w.extractLsb' 7 5) (w.extractLsb' 20 5) (w.extractLsb' 15 5)⟩,
  ⟨0xF800707F, 0x4000202F, fun w => .amoorW (w.extractLsb' 26 1) (w.extractLsb' 25 1) (w.extractLsb' 7 5) (w.extractLsb' 20 5) (w.extractLsb' 15 5)⟩,
  ⟨0xF800707F, 0x4000302F, fun w => .amoorD (w.extractLsb' 26 1) (w.extractLsb' 25 1) (w.extractLsb' 7 5) (w.extractLsb' 20 5) (w.extractLsb' 15 5)⟩,
  ⟨0xF800707F, 0x8000202F, fun w => .amominW (w.extractLsb' 26 1) (w.extractLsb' 25 1) (w.extractLsb' 7 5) (w.extractLsb' 20 5) (w.extractLsb' 15 5)⟩,
  ⟨0xF800707F, 0x8000302F, fun w => .amominD (w.extractLsb' 26 1) (w.extractLsb' 25 1) (w.extractLsb' 7 5) (w.extractLsb' 20 5) (w.extractLsb' 15 5)⟩,
  ⟨0xF800707F, 0xA000202F, fun w => .amomaxW (w.extractLsb' 26 1) (w.extractLsb' 25 1) (w.extractLsb' 7 5) (w.extractLsb' 20 5) (w.extractLsb' 15 5)⟩,
  ⟨0xF800707F, 0xA000302F, fun w => .amomaxD (w.extractLsb' 26 1) (w.extractLsb' 25 1) (w.extractLsb' 7 5) (w.extractLsb' 20 5) (w.extractLsb' 15 5)⟩]

/-- Rows 105 to 130 of the instruction map. -/
def rows4 : List Row := [
  ⟨0xF800707F, 0xC000202F, fun w => .amominuW (w.extractLsb' 26 1) (w.extractLsb' 25 1) (w.extractLsb' 7 5) (w.extractLsb' 20 5) (w.extractLsb' 15 5)⟩,
  ⟨0xF800707F, 0xC000302F, fun w => .amominuD (w.extractLsb' 26 1) (w.extractLsb' 25 1) (w.extractLsb' 7 5) (w.extractLsb' 20 5) (w.extractLsb' 15 5)⟩,
  ⟨0xF800707F, 0xE000202F, fun w => .amomaxuW (w.extractLsb' 26 1) (w.extractLsb' 25 1) (w.extractLsb' 7 5) (w.extractLsb' 20 5) (w.extractLsb' 15 5)⟩,
  ⟨0xF800707F, 0xE000302F, fun w => .amomaxuD (w.extractLsb' 26 1) (w.extractLsb' 25 1) (w.extractLsb' 7 5) (w.extractLsb' 20 5) (w.extractLsb' 15 5)⟩,
  ⟨0xE600707F, 0x0200305B, fun w => .vmvx (w.extractLsb' 27 2) (w.extractLsb' 7 5) (w.extractLsb' 15 5) (w.extractLsb' 20 5)⟩,
  ⟨0xE600707F, 0x0400305B, fun w => .vmxv (w.extractLsb' 27 2) (w.extractLsb' 7 5) (w.extractLsb' 15 5) (w.extractLsb' 20 5)⟩,
  ⟨0xF000707F, 0x1000000B, fun w => .sendr (w.extractLsb' 15 5) (w.extractLsb' 20 5) (w.extractLsb' 25 3) (w.extractLsb' 7 5)⟩,
  ⟨0x1E00707F, 0x0000702B, fun w => .vsel (w.extractLsb' 29 3) (w.extractLsb' 7 5) (w.extractLsb' 15 5) (w.extractLsb' 20 5)⟩,
  ⟨0x1E00707F, 0x1800002B, fun w => .vfadd (w.extractLsb' 29 3) (w.extractLsb' 7 5) (w.extractLsb' 15 5) (w.extractLsb' 20 5)⟩,
  ⟨0x1E00707F, 0x1A00002B, fun w => .vfsub (w.extractLsb' 29 3) (w.extractLsb' 7 5) (w.extractLsb' 15 5) (w.extractLsb' 20 5)⟩,
  ⟨0x1E00707F, 0x1C00002B, fun w => .vfmul (w.extractLsb' 29 3) (w.extractLsb' 7 5) (w.extractLsb' 15 5) (w.extractLsb' 20 5)⟩,
  ⟨0x1E00707F, 0x1E00002B, fun w => .vfma (w.extractLsb' 29 3) (w.extractLsb' 7 5) (w.extractLsb' 15 5) (w.extractLsb' 20 5)⟩,
  ⟨0x1E00707F, 0x1800102B, fun w => .vfmin (w.extractLsb' 29 3) (w.extractLsb' 7 5) (w.extractLsb' 15 5) (w.extractLsb' 20 5)⟩,
  ⟨0x1E00707F, 0x1A00102B, fun w => .vfmax (w.extractLsb' 29 3) (w.extractLsb' 7 5) (w.extractLsb' 15 5) (w.extractLsb' 20 5)⟩,
  ⟨0x1E00707F, 0x1800402B, fun w => .vtfade (w.extractLsb' 29 3) (w.extractLsb' 7 5) (w.extractLsb' 15 5) (w.extractLsb' 20 5)⟩,
  ⟨0x1E00707F, 0x1A00402B, fun w => .vtacc (w.extractLsb' 29 3) (w.extractLsb' 7 5) (w.extractLsb' 15 5) (w.extractLsb' 20 5)⟩,
  ⟨0xF000707F, 0x0000507B, fun w => .amoScSwapW (w.extractLsb' 25 3) (w.extractLsb' 7 5) (w.extractLsb' 20 5) (w.extractLsb' 15 5)⟩,
  ⟨0xF000707F, 0x1000507B, fun w => .amoScAddW (w.extractLsb' 25 3) (w.extractLsb' 7 5) (w.extractLsb' 20 5) (w.extractLsb' 15 5)⟩,
  ⟨0xF000707F, 0x2000507B, fun w => .amoScXorW (w.extractLsb' 25 3) (w.extractLsb' 7 5) (w.extractLsb' 20 5) (w.extractLsb' 15 5)⟩,
  ⟨0xF000707F, 0x3000507B, fun w => .amoScAndW (w.extractLsb' 25 3) (w.extractLsb' 7 5) (w.extractLsb' 20 5) (w.extractLsb' 15 5)⟩,
  ⟨0xF000707F, 0x4000507B, fun w => .amoScOrW (w.extractLsb' 25 3) (w.extractLsb' 7 5) (w.extractLsb' 20 5) (w.extractLsb' 15 5)⟩,
  ⟨0xF000707F, 0x5000507B, fun w => .amoScMinW (w.extractLsb' 25 3) (w.extractLsb' 7 5) (w.extractLsb' 20 5) (w.extractLsb' 15 5)⟩,
  ⟨0xF000707F, 0x6000507B, fun w => .amoScMaxW (w.extractLsb' 25 3) (w.extractLsb' 7 5) (w.extractLsb' 20 5) (w.extractLsb' 15 5)⟩,
  ⟨0xF000707F, 0x7000507B, fun w => .amoScMinCW (w.extractLsb' 25 3) (w.extractLsb' 7 5) (w.extractLsb' 20 5) (w.extractLsb' 15 5)⟩,
  ⟨0xF000707F, 0x8000507B, fun w => .amoScMaxCW (w.extractLsb' 25 3) (w.extractLsb' 7 5) (w.extractLsb' 20 5) (w.extractLsb' 15 5)⟩,
  ⟨0xF000707F, 0x9000507B, fun w => .amoScFaddW (w.extractLsb' 25 3) (w.extractLsb' 7 5) (w.extractLsb' 20 5) (w.extractLsb' 15 5)⟩]

/-- Rows 131 to 156 of the instruction map. -/
def rows5 : List Row := [
  ⟨0xF000707F, 0x0000607B, fun w => .amoScSwapD (w.extractLsb' 25 3) (w.extractLsb' 7 5) (w.extractLsb' 20 5) (w.extractLsb' 15 5)⟩,
  ⟨0xF000707F, 0x1000607B, fun w => .amoScAddD (w.extractLsb' 25 3) (w.extractLsb' 7 5) (w.extractLsb' 20 5) (w.extractLsb' 15 5)⟩,
  ⟨0xF000707F, 0x2000607B, fun w => .amoScXorD (w.extractLsb' 25 3) (w.extractLsb' 7 5) (w.extractLsb' 20 5) (w.extractLsb' 15 5)⟩,
  ⟨0xF000707F, 0x3000607B, fun w => .amoScAndD (w.extractLsb' 25 3) (w.extractLsb' 7 5) (w.extractLsb' 20 5) (w.extractLsb' 15 5)⟩,
  ⟨0xF000707F, 0x4000607B, fun w => .amoScOrD (w.extractLsb' 25 3) (w.extractLsb' 7 5) (w.extractLsb' 20 5) (w.extractLsb' 15 5)⟩,
  ⟨0xF000707F, 0x5000607B, fun w => .amoScMinD (w.extractLsb' 25 3) (w.extractLsb' 7 5) (w.extractLsb' 20 5) (w.extractLsb' 15 5)⟩,
  ⟨0xF000707F, 0x6000607B, fun w => .amoScMaxD (w.extractLsb' 25 3) (w.extractLsb' 7 5) (w.extractLsb' 20 5) (w.extractLsb' 15 5)⟩,
  ⟨0xF000707F, 0x7000607B, fun w => .amoScMinCD (w.extractLsb' 25 3) (w.extractLsb' 7 5) (w.extractLsb' 20 5) (w.extractLsb' 15 5)⟩,
  ⟨0xF000707F, 0x8000607B, fun w => .amoScMaxCD (w.extractLsb' 25 3) (w.extractLsb' 7 5) (w.extractLsb' 20 5) (w.extractLsb' 15 5)⟩,
  ⟨0x0600787F, 0x0000602B, fun w => .vcmpEq (w.extractLsb' 29 3) (w.extractLsb' 27 2) (w.extractLsb' 7 3) (w.extractLsb' 10 1) (w.extractLsb' 15 5) (w.extractLsb' 20 5)⟩,
  ⟨0x0600787F, 0x0200602B, fun w => .vcmpNe (w.extractLsb' 29 3) (w.extractLsb' 27 2) (w.extractLsb' 7 3) (w.extractLsb' 10 1) (w.extractLsb' 15 5) (w.extractLsb' 20 5)⟩,
  ⟨0x0600787F, 0x0400602B, fun w => .vcmpLt (w.extractLsb' 29 3) (w.extractLsb' 27 2) (w.extractLsb' 7 3) (w.extractLsb' 10 1) (w.extractLsb' 15 5) (w.extractLsb' 20 5)⟩,
  ⟨0x0600787F, 0x0600602B, fun w => .vcmpLe (w.extractLsb' 29 3) (w.extractLsb' 27 2) (w.extractLsb' 7 3) (w.extractLsb' 10 1) (w.extractLsb' 15 5) (w.extractLsb' 20 5)⟩,
  ⟨0x00007E7F, 0x0000407B, fun w => .fmt (w.extractLsb' 28 4) (w.extractLsb' 24 4) (w.extractLsb' 22 2) (w.extractLsb' 20 2) (w.extractLsb' 15 5) (w.extractLsb' 7 2)⟩,
  ⟨0x0600707F, 0x0000002B, fun w => .vadd (w.extractLsb' 29 3) (w.extractLsb' 27 2) (w.extractLsb' 7 5) (w.extractLsb' 15 5) (w.extractLsb' 20 5)⟩,
  ⟨0x0600707F, 0x0200002B, fun w => .vaddSat (w.extractLsb' 29 3) (w.extractLsb' 27 2) (w.extractLsb' 7 5) (w.extractLsb' 15 5) (w.extractLsb' 20 5)⟩,
  ⟨0x0600707F, 0x0400002B, fun w => .vaddSatc (w.extractLsb' 29 3) (w.extractLsb' 27 2) (w.extractLsb' 7 5) (w.extractLsb' 15 5) (w.extractLsb' 20 5)⟩,
  ⟨0x0600707F, 0x0000102B, fun w => .vsub (w.extractLsb' 29 3) (w.extractLsb' 27 2) (w.extractLsb' 7 5) (w.extractLsb' 15 5) (w.extractLsb' 20 5)⟩,
  ⟨0x0600707F, 0x0200102B, fun w => .vsubSat (w.extractLsb' 29 3) (w.extractLsb' 27 2) (w.extractLsb' 7 5) (w.extractLsb' 15 5) (w.extractLsb' 20 5)⟩,
  ⟨0x0600707F, 0x0400102B, fun w => .vsubSatc (w.extractLsb' 29 3) (w.extractLsb' 27 2) (w.extractLsb' 7 5) (w.extractLsb' 15 5) (w.extractLsb' 20 5)⟩,
  ⟨0x0600707F, 0x0000202B, fun w => .vmul (w.extractLsb' 29 3) (w.extractLsb' 27 2) (w.extractLsb' 7 5) (w.extractLsb' 15 5) (w.extractLsb' 20 5)⟩,
  ⟨0x0600707F, 0x0200202B, fun w => .vmulh (w.extractLsb' 29 3) (w.extractLsb' 27 2) (w.extractLsb' 7 5) (w.extractLsb' 15 5) (w.extractLsb' 20 5)⟩,
  ⟨0x0600707F, 0x0400202B, fun w => .vmulhC (w.extractLsb' 29 3) (w.extractLsb' 27 2) (w.extractLsb' 7 5) (w.extractLsb' 15 5) (w.extractLsb' 20 5)⟩,
  ⟨0x0600707F, 0x0000302B, fun w => .vand (w.extractLsb' 29 3) (w.extractLsb' 27 2) (w.extractLsb' 7 5) (w.extractLsb' 15 5) (w.extractLsb' 20 5)⟩,
  ⟨0x0600707F, 0x0200302B, fun w => .vor (w.extractLsb' 29 3) (w.extractLsb' 27 2) (w.extractLsb' 7 5) (w.extractLsb' 15 5) (w.extractLsb' 20 5)⟩,
  ⟨0x0600707F, 0x0400302B, fun w => .vxor (w.extractLsb' 29 3) (w.extractLsb' 27 2) (w.extractLsb' 7 5) (w.extractLsb' 15 5) (w.extractLsb' 20 5)⟩]

/-- Rows 157 to 182 of the instruction map. -/
def rows6 : List Row := [
  ⟨0x0600707F, 0x0000402B, fun w => .vsll (w.extractLsb' 29 3) (w.extractLsb' 27 2) (w.extractLsb' 7 5) (w.extractLsb' 15 5) (w.extractLsb' 20 5)⟩,
  ⟨0x0600707F, 0x0200402B, fun w => .vsrl (w.extractLsb' 29 3) (w.extractLsb' 27 2) (w.extractLsb' 7 5) (w.extractLsb' 15 5) (w.extractLsb' 20 5)⟩,
  ⟨0x0600707F, 0x0400402B, fun w => .vsra (w.extractLsb' 29 3) (w.extractLsb' 27 2) (w.extractLsb' 7 5) (w.extractLsb' 15 5) (w.extractLsb' 20 5)⟩,
  ⟨0x0600707F, 0x0000502B, fun w => .vmin (w.extractLsb' 29 3) (w.extractLsb' 27 2) (w.extractLsb' 7 5) (w.extractLsb' 15 5) (w.extractLsb' 20 5)⟩,
  ⟨0x0600707F, 0x0200502B, fun w => .vminC (w.extractLsb' 29 3) (w.extractLsb' 27 2) (w.extractLsb' 7 5) (w.extractLsb' 15 5) (w.extractLsb' 20 5)⟩,
  ⟨0x0600707F, 0x0400502B, fun w => .vmax (w.extractLsb' 29 3) (w.extractLsb' 27 2) (w.extractLsb' 7 5) (w.extractLsb' 15 5) (w.extractLsb' 20 5)⟩,
  ⟨0x0600707F, 0x0600502B, fun w => .vmaxC (w.extractLsb' 29 3) (w.extractLsb' 27 2) (w.extractLsb' 7 5) (w.extractLsb' 15 5) (w.extractLsb' 20 5)⟩,
  ⟨0x0600707F, 0x0000205B, fun w => .vlds (w.extractLsb' 29 3) (w.extractLsb' 27 2) (w.extractLsb' 7 5) (w.extractLsb' 15 5) (w.extractLsb' 20 5)⟩,
  ⟨0x0600707F, 0x0200205B, fun w => .vsts (w.extractLsb' 29 3) (w.extractLsb' 27 2) (w.extractLsb' 7 5) (w.extractLsb' 15 5) (w.extractLsb' 20 5)⟩,
  ⟨0x0600707F, 0x0400205B, fun w => .vldx (w.extractLsb' 29 3) (w.extractLsb' 27 2) (w.extractLsb' 7 5) (w.extractLsb' 15 5) (w.extractLsb' 20 5)⟩,
  ⟨0x0600707F, 0x0600205B, fun w => .vstx (w.extractLsb' 29 3) (w.extractLsb' 27 2) (w.extractLsb' 7 5) (w.extractLsb' 15 5) (w.extractLsb' 20 5)⟩,
  ⟨0x0600707F, 0x0000405B, fun w => .vperm (w.extractLsb' 29 3) (w.extractLsb' 27 2) (w.extractLsb' 7 5) (w.extractLsb' 15 5) (w.extractLsb' 20 5)⟩,
  ⟨0x0600707F, 0x0200405B, fun w => .vrot (w.extractLsb' 29 3) (w.extractLsb' 27 2) (w.extractLsb' 7 5) (w.extractLsb' 15 5) (w.extractLsb' 20 5)⟩,
  ⟨0x0600707F, 0x0400405B, fun w => .vvote (w.extractLsb' 29 3) (w.extractLsb' 27 2) (w.extractLsb' 7 5) (w.extractLsb' 15 5) (w.extractLsb' 20 5)⟩,
  ⟨0x0000707F, 0x00000067, fun w => .jalr (w.extractLsb' 7 5) (w.extractLsb' 15 5) (w.extractLsb' 20 12)⟩,
  ⟨0x0000707F, 0x00000063, fun w => .beq (w.extractLsb' 15 5) (w.extractLsb' 20 5) (immB w)⟩,
  ⟨0x0000707F, 0x00001063, fun w => .bne (w.extractLsb' 15 5) (w.extractLsb' 20 5) (immB w)⟩,
  ⟨0x0000707F, 0x00004063, fun w => .blt (w.extractLsb' 15 5) (w.extractLsb' 20 5) (immB w)⟩,
  ⟨0x0000707F, 0x00005063, fun w => .bge (w.extractLsb' 15 5) (w.extractLsb' 20 5) (immB w)⟩,
  ⟨0x0000707F, 0x00006063, fun w => .bltu (w.extractLsb' 15 5) (w.extractLsb' 20 5) (immB w)⟩,
  ⟨0x0000707F, 0x00007063, fun w => .bgeu (w.extractLsb' 15 5) (w.extractLsb' 20 5) (immB w)⟩,
  ⟨0x0000707F, 0x00000003, fun w => .lb (w.extractLsb' 7 5) (w.extractLsb' 15 5) (w.extractLsb' 20 12)⟩,
  ⟨0x0000707F, 0x00001003, fun w => .lh (w.extractLsb' 7 5) (w.extractLsb' 15 5) (w.extractLsb' 20 12)⟩,
  ⟨0x0000707F, 0x00002003, fun w => .lw (w.extractLsb' 7 5) (w.extractLsb' 15 5) (w.extractLsb' 20 12)⟩,
  ⟨0x0000707F, 0x00003003, fun w => .ld (w.extractLsb' 7 5) (w.extractLsb' 15 5) (w.extractLsb' 20 12)⟩,
  ⟨0x0000707F, 0x00004003, fun w => .lbu (w.extractLsb' 7 5) (w.extractLsb' 15 5) (w.extractLsb' 20 12)⟩]

/-- Rows 183 to 208 of the instruction map. -/
def rows7 : List Row := [
  ⟨0x0000707F, 0x00005003, fun w => .lhu (w.extractLsb' 7 5) (w.extractLsb' 15 5) (w.extractLsb' 20 12)⟩,
  ⟨0x0000707F, 0x00006003, fun w => .lwu (w.extractLsb' 7 5) (w.extractLsb' 15 5) (w.extractLsb' 20 12)⟩,
  ⟨0x0000707F, 0x00000023, fun w => .sb (w.extractLsb' 20 5) (w.extractLsb' 15 5) (immS w)⟩,
  ⟨0x0000707F, 0x00001023, fun w => .sh (w.extractLsb' 20 5) (w.extractLsb' 15 5) (immS w)⟩,
  ⟨0x0000707F, 0x00002023, fun w => .sw (w.extractLsb' 20 5) (w.extractLsb' 15 5) (immS w)⟩,
  ⟨0x0000707F, 0x00003023, fun w => .sd (w.extractLsb' 20 5) (w.extractLsb' 15 5) (immS w)⟩,
  ⟨0x0000707F, 0x00000013, fun w => .addi (w.extractLsb' 7 5) (w.extractLsb' 15 5) (w.extractLsb' 20 12)⟩,
  ⟨0x0000707F, 0x00002013, fun w => .slti (w.extractLsb' 7 5) (w.extractLsb' 15 5) (w.extractLsb' 20 12)⟩,
  ⟨0x0000707F, 0x00003013, fun w => .sltiu (w.extractLsb' 7 5) (w.extractLsb' 15 5) (w.extractLsb' 20 12)⟩,
  ⟨0x0000707F, 0x00004013, fun w => .xori (w.extractLsb' 7 5) (w.extractLsb' 15 5) (w.extractLsb' 20 12)⟩,
  ⟨0x0000707F, 0x00006013, fun w => .ori (w.extractLsb' 7 5) (w.extractLsb' 15 5) (w.extractLsb' 20 12)⟩,
  ⟨0x0000707F, 0x00007013, fun w => .andi (w.extractLsb' 7 5) (w.extractLsb' 15 5) (w.extractLsb' 20 12)⟩,
  ⟨0x0000707F, 0x0000001B, fun w => .addiw (w.extractLsb' 7 5) (w.extractLsb' 15 5) (w.extractLsb' 20 12)⟩,
  ⟨0x0000707F, 0x0000000F, fun w => .fence (w.extractLsb' 28 4) (w.extractLsb' 24 4) (w.extractLsb' 20 4) (w.extractLsb' 15 5) (w.extractLsb' 7 5)⟩,
  ⟨0x0000707F, 0x0000100F, fun w => .fenceI (w.extractLsb' 20 12) (w.extractLsb' 15 5) (w.extractLsb' 7 5)⟩,
  ⟨0x0000707F, 0x00001073, fun w => .csrrw (w.extractLsb' 7 5) (w.extractLsb' 20 12) (w.extractLsb' 15 5)⟩,
  ⟨0x0000707F, 0x00002073, fun w => .csrrs (w.extractLsb' 7 5) (w.extractLsb' 20 12) (w.extractLsb' 15 5)⟩,
  ⟨0x0000707F, 0x00003073, fun w => .csrrc (w.extractLsb' 7 5) (w.extractLsb' 20 12) (w.extractLsb' 15 5)⟩,
  ⟨0x0000707F, 0x00005073, fun w => .csrrwi (w.extractLsb' 7 5) (w.extractLsb' 20 12) (w.extractLsb' 15 5)⟩,
  ⟨0x0000707F, 0x00006073, fun w => .csrrsi (w.extractLsb' 7 5) (w.extractLsb' 20 12) (w.extractLsb' 15 5)⟩,
  ⟨0x0000707F, 0x00007073, fun w => .csrrci (w.extractLsb' 7 5) (w.extractLsb' 20 12) (w.extractLsb' 15 5)⟩,
  ⟨0x0000707F, 0x0000005B, fun w => .vld (w.extractLsb' 29 3) (w.extractLsb' 7 5) (w.extractLsb' 15 5) (w.extractLsb' 20 9)⟩,
  ⟨0x0000707F, 0x0000105B, fun w => .vst (w.extractLsb' 29 3) (w.extractLsb' 7 5) (w.extractLsb' 15 5) (w.extractLsb' 20 9)⟩,
  ⟨0x0000007F, 0x00000037, fun w => .lui (w.extractLsb' 7 5) (w.extractLsb' 12 20)⟩,
  ⟨0x0000007F, 0x00000017, fun w => .auipc (w.extractLsb' 7 5) (w.extractLsb' 12 20)⟩,
  ⟨0x0000007F, 0x0000006F, fun w => .jal (w.extractLsb' 7 5) (immJ w)⟩]

/-- The instruction map, the rows with more fixed bits first: `fence.tso` stands before `fence`, and form space F (ew 11) before
the integer rows, whose masks leave ew open. -/
def rows : List Row :=
  rows0 ++ rows1 ++ rows2 ++ rows3 ++ rows4 ++ rows5 ++ rows6 ++ rows7

/-- The instruction whose row a word matches, before the operand limits. -/
def decodeRow (w : BitVec 32) : Option Instr := (rows.find? fun r => w &&& r.mask == r.pat).map fun r => r.build w

/-- The instruction a word stands for, or nothing where the word is illegal (R6). -/
def decode (w : BitVec 32) : Option Instr := (decodeRow w).filter Instr.wf

/-- The word of an instruction; an engine command row or an event row has none. -/
def encode : Instr → Option (BitVec 32)
  | .lui rd imm => some (0x00000037 ||| put 7 rd ||| put 12 imm)
  | .auipc rd imm => some (0x00000017 ||| put 7 rd ||| put 12 imm)
  | .jal rd off => some (0x0000006F ||| put 7 rd ||| putJ off)
  | .jalr rd rs imm => some (0x00000067 ||| put 7 rd ||| put 15 rs ||| put 20 imm)
  | .beq rs rt off => some (0x00000063 ||| put 15 rs ||| put 20 rt ||| putB off)
  | .bne rs rt off => some (0x00001063 ||| put 15 rs ||| put 20 rt ||| putB off)
  | .blt rs rt off => some (0x00004063 ||| put 15 rs ||| put 20 rt ||| putB off)
  | .bge rs rt off => some (0x00005063 ||| put 15 rs ||| put 20 rt ||| putB off)
  | .bltu rs rt off => some (0x00006063 ||| put 15 rs ||| put 20 rt ||| putB off)
  | .bgeu rs rt off => some (0x00007063 ||| put 15 rs ||| put 20 rt ||| putB off)
  | .lb rd rs imm => some (0x00000003 ||| put 7 rd ||| put 15 rs ||| put 20 imm)
  | .lh rd rs imm => some (0x00001003 ||| put 7 rd ||| put 15 rs ||| put 20 imm)
  | .lw rd rs imm => some (0x00002003 ||| put 7 rd ||| put 15 rs ||| put 20 imm)
  | .ld rd rs imm => some (0x00003003 ||| put 7 rd ||| put 15 rs ||| put 20 imm)
  | .lbu rd rs imm => some (0x00004003 ||| put 7 rd ||| put 15 rs ||| put 20 imm)
  | .lhu rd rs imm => some (0x00005003 ||| put 7 rd ||| put 15 rs ||| put 20 imm)
  | .lwu rd rs imm => some (0x00006003 ||| put 7 rd ||| put 15 rs ||| put 20 imm)
  | .sb rt rs imm => some (0x00000023 ||| put 20 rt ||| put 15 rs ||| putS imm)
  | .sh rt rs imm => some (0x00001023 ||| put 20 rt ||| put 15 rs ||| putS imm)
  | .sw rt rs imm => some (0x00002023 ||| put 20 rt ||| put 15 rs ||| putS imm)
  | .sd rt rs imm => some (0x00003023 ||| put 20 rt ||| put 15 rs ||| putS imm)
  | .addi rd rs imm => some (0x00000013 ||| put 7 rd ||| put 15 rs ||| put 20 imm)
  | .slti rd rs imm => some (0x00002013 ||| put 7 rd ||| put 15 rs ||| put 20 imm)
  | .sltiu rd rs imm => some (0x00003013 ||| put 7 rd ||| put 15 rs ||| put 20 imm)
  | .xori rd rs imm => some (0x00004013 ||| put 7 rd ||| put 15 rs ||| put 20 imm)
  | .ori rd rs imm => some (0x00006013 ||| put 7 rd ||| put 15 rs ||| put 20 imm)
  | .andi rd rs imm => some (0x00007013 ||| put 7 rd ||| put 15 rs ||| put 20 imm)
  | .slli rd rs sh => some (0x00001013 ||| put 7 rd ||| put 15 rs ||| put 20 sh)
  | .srli rd rs sh => some (0x00005013 ||| put 7 rd ||| put 15 rs ||| put 20 sh)
  | .srai rd rs sh => some (0x40005013 ||| put 7 rd ||| put 15 rs ||| put 20 sh)
  | .add rd rs rt => some (0x00000033 ||| put 7 rd ||| put 15 rs ||| put 20 rt)
  | .sub rd rs rt => some (0x40000033 ||| put 7 rd ||| put 15 rs ||| put 20 rt)
  | .sll rd rs rt => some (0x00001033 ||| put 7 rd ||| put 15 rs ||| put 20 rt)
  | .slt rd rs rt => some (0x00002033 ||| put 7 rd ||| put 15 rs ||| put 20 rt)
  | .sltu rd rs rt => some (0x00003033 ||| put 7 rd ||| put 15 rs ||| put 20 rt)
  | .xor_ rd rs rt => some (0x00004033 ||| put 7 rd ||| put 15 rs ||| put 20 rt)
  | .srl rd rs rt => some (0x00005033 ||| put 7 rd ||| put 15 rs ||| put 20 rt)
  | .sra rd rs rt => some (0x40005033 ||| put 7 rd ||| put 15 rs ||| put 20 rt)
  | .or_ rd rs rt => some (0x00006033 ||| put 7 rd ||| put 15 rs ||| put 20 rt)
  | .and_ rd rs rt => some (0x00007033 ||| put 7 rd ||| put 15 rs ||| put 20 rt)
  | .addiw rd rs imm => some (0x0000001B ||| put 7 rd ||| put 15 rs ||| put 20 imm)
  | .slliw rd rs sh => some (0x0000101B ||| put 7 rd ||| put 15 rs ||| put 20 sh)
  | .srliw rd rs sh => some (0x0000501B ||| put 7 rd ||| put 15 rs ||| put 20 sh)
  | .sraiw rd rs sh => some (0x4000501B ||| put 7 rd ||| put 15 rs ||| put 20 sh)
  | .addw rd rs rt => some (0x0000003B ||| put 7 rd ||| put 15 rs ||| put 20 rt)
  | .subw rd rs rt => some (0x4000003B ||| put 7 rd ||| put 15 rs ||| put 20 rt)
  | .sllw rd rs rt => some (0x0000103B ||| put 7 rd ||| put 15 rs ||| put 20 rt)
  | .srlw rd rs rt => some (0x0000503B ||| put 7 rd ||| put 15 rs ||| put 20 rt)
  | .sraw rd rs rt => some (0x4000503B ||| put 7 rd ||| put 15 rs ||| put 20 rt)
  | .mul rd rs rt => some (0x02000033 ||| put 7 rd ||| put 15 rs ||| put 20 rt)
  | .mulh rd rs rt => some (0x02001033 ||| put 7 rd ||| put 15 rs ||| put 20 rt)
  | .mulhsu rd rs rt => some (0x02002033 ||| put 7 rd ||| put 15 rs ||| put 20 rt)
  | .mulhu rd rs rt => some (0x02003033 ||| put 7 rd ||| put 15 rs ||| put 20 rt)
  | .div rd rs rt => some (0x02004033 ||| put 7 rd ||| put 15 rs ||| put 20 rt)
  | .divu rd rs rt => some (0x02005033 ||| put 7 rd ||| put 15 rs ||| put 20 rt)
  | .rem rd rs rt => some (0x02006033 ||| put 7 rd ||| put 15 rs ||| put 20 rt)
  | .remu rd rs rt => some (0x02007033 ||| put 7 rd ||| put 15 rs ||| put 20 rt)
  | .mulw rd rs rt => some (0x0200003B ||| put 7 rd ||| put 15 rs ||| put 20 rt)
  | .divw rd rs rt => some (0x0200403B ||| put 7 rd ||| put 15 rs ||| put 20 rt)
  | .divuw rd rs rt => some (0x0200503B ||| put 7 rd ||| put 15 rs ||| put 20 rt)
  | .remw rd rs rt => some (0x0200603B ||| put 7 rd ||| put 15 rs ||| put 20 rt)
  | .remuw rd rs rt => some (0x0200703B ||| put 7 rd ||| put 15 rs ||| put 20 rt)
  | .lrW aq rl rd rs => some (0x1000202F ||| put 26 aq ||| put 25 rl ||| put 7 rd ||| put 15 rs)
  | .lrD aq rl rd rs => some (0x1000302F ||| put 26 aq ||| put 25 rl ||| put 7 rd ||| put 15 rs)
  | .scW aq rl rd rt rs => some (0x1800202F ||| put 26 aq ||| put 25 rl ||| put 7 rd ||| put 20 rt ||| put 15 rs)
  | .scD aq rl rd rt rs => some (0x1800302F ||| put 26 aq ||| put 25 rl ||| put 7 rd ||| put 20 rt ||| put 15 rs)
  | .amoswapW aq rl rd rt rs => some (0x0800202F ||| put 26 aq ||| put 25 rl ||| put 7 rd ||| put 20 rt ||| put 15 rs)
  | .amoswapD aq rl rd rt rs => some (0x0800302F ||| put 26 aq ||| put 25 rl ||| put 7 rd ||| put 20 rt ||| put 15 rs)
  | .amoaddW aq rl rd rt rs => some (0x0000202F ||| put 26 aq ||| put 25 rl ||| put 7 rd ||| put 20 rt ||| put 15 rs)
  | .amoaddD aq rl rd rt rs => some (0x0000302F ||| put 26 aq ||| put 25 rl ||| put 7 rd ||| put 20 rt ||| put 15 rs)
  | .amoxorW aq rl rd rt rs => some (0x2000202F ||| put 26 aq ||| put 25 rl ||| put 7 rd ||| put 20 rt ||| put 15 rs)
  | .amoxorD aq rl rd rt rs => some (0x2000302F ||| put 26 aq ||| put 25 rl ||| put 7 rd ||| put 20 rt ||| put 15 rs)
  | .amoandW aq rl rd rt rs => some (0x6000202F ||| put 26 aq ||| put 25 rl ||| put 7 rd ||| put 20 rt ||| put 15 rs)
  | .amoandD aq rl rd rt rs => some (0x6000302F ||| put 26 aq ||| put 25 rl ||| put 7 rd ||| put 20 rt ||| put 15 rs)
  | .amoorW aq rl rd rt rs => some (0x4000202F ||| put 26 aq ||| put 25 rl ||| put 7 rd ||| put 20 rt ||| put 15 rs)
  | .amoorD aq rl rd rt rs => some (0x4000302F ||| put 26 aq ||| put 25 rl ||| put 7 rd ||| put 20 rt ||| put 15 rs)
  | .amominW aq rl rd rt rs => some (0x8000202F ||| put 26 aq ||| put 25 rl ||| put 7 rd ||| put 20 rt ||| put 15 rs)
  | .amominD aq rl rd rt rs => some (0x8000302F ||| put 26 aq ||| put 25 rl ||| put 7 rd ||| put 20 rt ||| put 15 rs)
  | .amomaxW aq rl rd rt rs => some (0xA000202F ||| put 26 aq ||| put 25 rl ||| put 7 rd ||| put 20 rt ||| put 15 rs)
  | .amomaxD aq rl rd rt rs => some (0xA000302F ||| put 26 aq ||| put 25 rl ||| put 7 rd ||| put 20 rt ||| put 15 rs)
  | .amominuW aq rl rd rt rs => some (0xC000202F ||| put 26 aq ||| put 25 rl ||| put 7 rd ||| put 20 rt ||| put 15 rs)
  | .amominuD aq rl rd rt rs => some (0xC000302F ||| put 26 aq ||| put 25 rl ||| put 7 rd ||| put 20 rt ||| put 15 rs)
  | .amomaxuW aq rl rd rt rs => some (0xE000202F ||| put 26 aq ||| put 25 rl ||| put 7 rd ||| put 20 rt ||| put 15 rs)
  | .amomaxuD aq rl rd rt rs => some (0xE000302F ||| put 26 aq ||| put 25 rl ||| put 7 rd ||| put 20 rt ||| put 15 rs)
  | .fence fm p s rs rd => some (0x0000000F ||| put 28 fm ||| put 24 p ||| put 20 s ||| put 15 rs ||| put 7 rd)
  | .fenceTso rs rd => some (0x8330000F ||| put 15 rs ||| put 7 rd)
  | .fenceI imm rs rd => some (0x0000100F ||| put 20 imm ||| put 15 rs ||| put 7 rd)
  | .ecall => some (0x00000073)
  | .ebreak => some (0x00100073)
  | .csrrw rd csr rs => some (0x00001073 ||| put 7 rd ||| put 20 csr ||| put 15 rs)
  | .csrrs rd csr rs => some (0x00002073 ||| put 7 rd ||| put 20 csr ||| put 15 rs)
  | .csrrc rd csr rs => some (0x00003073 ||| put 7 rd ||| put 20 csr ||| put 15 rs)
  | .csrrwi rd csr z => some (0x00005073 ||| put 7 rd ||| put 20 csr ||| put 15 z)
  | .csrrsi rd csr z => some (0x00006073 ||| put 7 rd ||| put 20 csr ||| put 15 z)
  | .csrrci rd csr z => some (0x00007073 ||| put 7 rd ||| put 20 csr ||| put 15 z)
  | .send rh rp n => some (0x0000000B ||| put 15 rh ||| put 20 rp ||| put 25 n)
  | .sendr rh rp n rr => some (0x1000000B ||| put 15 rh ||| put 20 rp ||| put 25 n ||| put 7 rr)
  | .sendv rh vs n => some (0x2000000B ||| put 15 rh ||| put 20 vs ||| put 25 n)
  | .exit => some (0x0000100B)
  | .exitSucc rs => some (0x1000100B ||| put 15 rs)
  | .spawn rd rc rpc => some (0x2000100B ||| put 7 rd ||| put 15 rc ||| put 20 rpc)
  | .waitm rd rs => some (0x3000100B ||| put 7 rd ||| put 15 rs)
  | .critOn => some (0x4000100B)
  | .critOff => some (0x5000100B)
  | .chmask rd rs rv => some (0x0000200B ||| put 7 rd ||| put 15 rs ||| put 20 rv)
  | .chpend rd rs rv => some (0x1000200B ||| put 7 rd ||| put 15 rs ||| put 20 rv)
  | .gtok rn rc => some (0x0000300B ||| put 15 rn ||| put 20 rc)
  | .glaunch rd rs => some (0x1000300B ||| put 7 rd ||| put 15 rs)
  | .gcancel rs => some (0x2000300B ||| put 15 rs)
  | .gstat rd rs => some (0x3000300B ||| put 7 rd ||| put 15 rs)
  | .gtrig => some (0x4000300B)
  | .rwd rs rl clear => some (0x0000400B ||| put 15 rs ||| put 20 rl ||| put 25 clear)
  | .vadd pg ew vd vs1 vs2 => some (0x0000002B ||| put 29 pg ||| put 27 ew ||| put 7 vd ||| put 15 vs1 ||| put 20 vs2)
  | .vaddSat pg ew vd vs1 vs2 => some (0x0200002B ||| put 29 pg ||| put 27 ew ||| put 7 vd ||| put 15 vs1 ||| put 20 vs2)
  | .vaddSatc pg ew vd vs1 vs2 => some (0x0400002B ||| put 29 pg ||| put 27 ew ||| put 7 vd ||| put 15 vs1 ||| put 20 vs2)
  | .vsub pg ew vd vs1 vs2 => some (0x0000102B ||| put 29 pg ||| put 27 ew ||| put 7 vd ||| put 15 vs1 ||| put 20 vs2)
  | .vsubSat pg ew vd vs1 vs2 => some (0x0200102B ||| put 29 pg ||| put 27 ew ||| put 7 vd ||| put 15 vs1 ||| put 20 vs2)
  | .vsubSatc pg ew vd vs1 vs2 => some (0x0400102B ||| put 29 pg ||| put 27 ew ||| put 7 vd ||| put 15 vs1 ||| put 20 vs2)
  | .vmul pg ew vd vs1 vs2 => some (0x0000202B ||| put 29 pg ||| put 27 ew ||| put 7 vd ||| put 15 vs1 ||| put 20 vs2)
  | .vmulh pg ew vd vs1 vs2 => some (0x0200202B ||| put 29 pg ||| put 27 ew ||| put 7 vd ||| put 15 vs1 ||| put 20 vs2)
  | .vmulhC pg ew vd vs1 vs2 => some (0x0400202B ||| put 29 pg ||| put 27 ew ||| put 7 vd ||| put 15 vs1 ||| put 20 vs2)
  | .vand pg ew vd vs1 vs2 => some (0x0000302B ||| put 29 pg ||| put 27 ew ||| put 7 vd ||| put 15 vs1 ||| put 20 vs2)
  | .vor pg ew vd vs1 vs2 => some (0x0200302B ||| put 29 pg ||| put 27 ew ||| put 7 vd ||| put 15 vs1 ||| put 20 vs2)
  | .vxor pg ew vd vs1 vs2 => some (0x0400302B ||| put 29 pg ||| put 27 ew ||| put 7 vd ||| put 15 vs1 ||| put 20 vs2)
  | .vsll pg ew vd vs1 vs2 => some (0x0000402B ||| put 29 pg ||| put 27 ew ||| put 7 vd ||| put 15 vs1 ||| put 20 vs2)
  | .vsrl pg ew vd vs1 vs2 => some (0x0200402B ||| put 29 pg ||| put 27 ew ||| put 7 vd ||| put 15 vs1 ||| put 20 vs2)
  | .vsra pg ew vd vs1 vs2 => some (0x0400402B ||| put 29 pg ||| put 27 ew ||| put 7 vd ||| put 15 vs1 ||| put 20 vs2)
  | .vmin pg ew vd vs1 vs2 => some (0x0000502B ||| put 29 pg ||| put 27 ew ||| put 7 vd ||| put 15 vs1 ||| put 20 vs2)
  | .vminC pg ew vd vs1 vs2 => some (0x0200502B ||| put 29 pg ||| put 27 ew ||| put 7 vd ||| put 15 vs1 ||| put 20 vs2)
  | .vmax pg ew vd vs1 vs2 => some (0x0400502B ||| put 29 pg ||| put 27 ew ||| put 7 vd ||| put 15 vs1 ||| put 20 vs2)
  | .vmaxC pg ew vd vs1 vs2 => some (0x0600502B ||| put 29 pg ||| put 27 ew ||| put 7 vd ||| put 15 vs1 ||| put 20 vs2)
  | .vcmpEq pg ew pd c vs1 vs2 => some (0x0000602B ||| put 29 pg ||| put 27 ew ||| put 7 pd ||| put 10 c ||| put 15 vs1 ||| put 20 vs2)
  | .vcmpNe pg ew pd c vs1 vs2 => some (0x0200602B ||| put 29 pg ||| put 27 ew ||| put 7 pd ||| put 10 c ||| put 15 vs1 ||| put 20 vs2)
  | .vcmpLt pg ew pd c vs1 vs2 => some (0x0400602B ||| put 29 pg ||| put 27 ew ||| put 7 pd ||| put 10 c ||| put 15 vs1 ||| put 20 vs2)
  | .vcmpLe pg ew pd c vs1 vs2 => some (0x0600602B ||| put 29 pg ||| put 27 ew ||| put 7 pd ||| put 10 c ||| put 15 vs1 ||| put 20 vs2)
  | .vsel pk vd vs1 vs2 => some (0x0000702B ||| put 29 pk ||| put 7 vd ||| put 15 vs1 ||| put 20 vs2)
  | .vfadd pg vd vs1 vs2 => some (0x1800002B ||| put 29 pg ||| put 7 vd ||| put 15 vs1 ||| put 20 vs2)
  | .vfsub pg vd vs1 vs2 => some (0x1A00002B ||| put 29 pg ||| put 7 vd ||| put 15 vs1 ||| put 20 vs2)
  | .vfmul pg vd vs1 vs2 => some (0x1C00002B ||| put 29 pg ||| put 7 vd ||| put 15 vs1 ||| put 20 vs2)
  | .vfma pg vd vs1 vs2 => some (0x1E00002B ||| put 29 pg ||| put 7 vd ||| put 15 vs1 ||| put 20 vs2)
  | .vfmin pg vd vs1 vs2 => some (0x1800102B ||| put 29 pg ||| put 7 vd ||| put 15 vs1 ||| put 20 vs2)
  | .vfmax pg vd vs1 vs2 => some (0x1A00102B ||| put 29 pg ||| put 7 vd ||| put 15 vs1 ||| put 20 vs2)
  | .vfrcp pg vd vs => some (0x1C00102B ||| put 29 pg ||| put 7 vd ||| put 15 vs)
  | .vfcmpEq pg pd vs1 vs2 => some (0x1800202B ||| put 29 pg ||| put 7 pd ||| put 15 vs1 ||| put 20 vs2)
  | .vfcmpLt pg pd vs1 vs2 => some (0x1A00202B ||| put 29 pg ||| put 7 pd ||| put 15 vs1 ||| put 20 vs2)
  | .vfcmpLe pg pd vs1 vs2 => some (0x1C00202B ||| put 29 pg ||| put 7 pd ||| put 15 vs1 ||| put 20 vs2)
  | .vfcmpUn pg pd vs1 vs2 => some (0x1E00202B ||| put 29 pg ||| put 7 pd ||| put 15 vs1 ||| put 20 vs2)
  | .vcvt pg vd vs => some (0x1800302B ||| put 29 pg ||| put 7 vd ||| put 15 vs)
  | .venc8 pg vd vs => some (0x1A00302B ||| put 29 pg ||| put 7 vd ||| put 15 vs)
  | .vdec8 pg vd vs => some (0x1C00302B ||| put 29 pg ||| put 7 vd ||| put 15 vs)
  | .vtfade pg vd vs1 vs2 => some (0x1800402B ||| put 29 pg ||| put 7 vd ||| put 15 vs1 ||| put 20 vs2)
  | .vtacc pg vd vs1 vs2 => some (0x1A00402B ||| put 29 pg ||| put 7 vd ||| put 15 vs1 ||| put 20 vs2)
  | .vtdec pg vd vs => some (0x1C00402B ||| put 29 pg ||| put 7 vd ||| put 15 vs)
  | .vtenc pg vd vs => some (0x1E00402B ||| put 29 pg ||| put 7 vd ||| put 15 vs)
  | .vld pg vd rs off => some (0x0000005B ||| put 29 pg ||| put 7 vd ||| put 15 rs ||| put 20 off)
  | .vst pg vd rs off => some (0x0000105B ||| put 29 pg ||| put 7 vd ||| put 15 rs ||| put 20 off)
  | .vlds pg ew vd rs rt => some (0x0000205B ||| put 29 pg ||| put 27 ew ||| put 7 vd ||| put 15 rs ||| put 20 rt)
  | .vsts pg ew vd rs rt => some (0x0200205B ||| put 29 pg ||| put 27 ew ||| put 7 vd ||| put 15 rs ||| put 20 rt)
  | .vldx pg ew vd rs vi => some (0x0400205B ||| put 29 pg ||| put 27 ew ||| put 7 vd ||| put 15 rs ||| put 20 vi)
  | .vstx pg ew vd rs vi => some (0x0600205B ||| put 29 pg ||| put 27 ew ||| put 7 vd ||| put 15 rs ||| put 20 vi)
  | .vbc pg ew vd rs => some (0x0000305B ||| put 29 pg ||| put 27 ew ||| put 7 vd ||| put 15 rs)
  | .vmvx ew rd vs k => some (0x0200305B ||| put 27 ew ||| put 7 rd ||| put 15 vs ||| put 20 k)
  | .vmxv ew vd rs k => some (0x0400305B ||| put 27 ew ||| put 7 vd ||| put 15 rs ||| put 20 k)
  | .vperm pg ew vd vs vi => some (0x0000405B ||| put 29 pg ||| put 27 ew ||| put 7 vd ||| put 15 vs ||| put 20 vi)
  | .vrot pg ew vd vs k => some (0x0200405B ||| put 29 pg ||| put 27 ew ||| put 7 vd ||| put 15 vs ||| put 20 k)
  | .vvote pg ew vd vs m => some (0x0400405B ||| put 29 pg ||| put 27 ew ||| put 7 vd ||| put 15 vs ||| put 20 m)
  | .vmatch pg ew vd vs => some (0x0600405B ||| put 29 pg ||| put 27 ew ||| put 7 vd ||| put 15 vs)
  | .vredAdd pg ew vd vs => some (0x0000505B ||| put 29 pg ||| put 27 ew ||| put 7 vd ||| put 15 vs)
  | .vredFadd pg vd vs => some (0x1200505B ||| put 29 pg ||| put 7 vd ||| put 15 vs)
  | .vredMin pg ew vd vs => some (0x0400505B ||| put 29 pg ||| put 27 ew ||| put 7 vd ||| put 15 vs)
  | .vredMax pg ew vd vs => some (0x0600505B ||| put 29 pg ||| put 27 ew ||| put 7 vd ||| put 15 vs)
  | .pand pd ps pt => some (0x0000605B ||| put 7 pd ||| put 15 ps ||| put 20 pt)
  | .por pd ps pt => some (0x0200605B ||| put 7 pd ||| put 15 ps ||| put 20 pt)
  | .pnot pd ps => some (0x0400605B ||| put 7 pd ||| put 15 ps)
  | .pset pd rs => some (0x0600605B ||| put 7 pd ||| put 15 rs)
  | .credAdd rd rs => some (0x0000705B ||| put 7 rd ||| put 15 rs)
  | .credFadd rd rs => some (0x0800705B ||| put 7 rd ||| put 15 rs)
  | .credMin rd rs => some (0x1000705B ||| put 7 rd ||| put 15 rs)
  | .credMax rd rs => some (0x1800705B ||| put 7 rd ||| put 15 rs)
  | .cbar => some (0x0200705B)
  | .cbc rd rs rc => some (0x0400705B ||| put 7 rd ||| put 15 rs ||| put 20 rc)
  | .cxch rd rs rc => some (0x0600705B ||| put 7 rd ||| put 15 rs ||| put 20 rc)
  | .cmd rd vs => some (0x0000007B ||| put 7 rd ||| put 15 vs)
  | .jwait n cls => some (0x0000107B ||| put 25 n ||| put 20 cls)
  | .jpoll rd rs cls => some (0x0100107B ||| put 7 rd ||| put 15 rs ||| put 20 cls)
  | .fenceS sc pr pw qr qw => some (0x0000207B ||| put 28 sc ||| put 25 pr ||| put 24 pw ||| put 21 qr ||| put 20 qw)
  | .ifenceS sc => some (0x8000207B ||| put 28 sc)
  | .xfence p s => some (0x0000307B ||| put 24 p ||| put 16 s)
  | .fmt fin fout tab rm rs mode => some (0x0000407B ||| put 28 fin ||| put 24 fout ||| put 22 tab ||| put 20 rm ||| put 15 rs ||| put 7 mode)
  | .amoScSwapW sc rd rt rs => some (0x0000507B ||| put 25 sc ||| put 7 rd ||| put 20 rt ||| put 15 rs)
  | .amoScAddW sc rd rt rs => some (0x1000507B ||| put 25 sc ||| put 7 rd ||| put 20 rt ||| put 15 rs)
  | .amoScXorW sc rd rt rs => some (0x2000507B ||| put 25 sc ||| put 7 rd ||| put 20 rt ||| put 15 rs)
  | .amoScAndW sc rd rt rs => some (0x3000507B ||| put 25 sc ||| put 7 rd ||| put 20 rt ||| put 15 rs)
  | .amoScOrW sc rd rt rs => some (0x4000507B ||| put 25 sc ||| put 7 rd ||| put 20 rt ||| put 15 rs)
  | .amoScMinW sc rd rt rs => some (0x5000507B ||| put 25 sc ||| put 7 rd ||| put 20 rt ||| put 15 rs)
  | .amoScMaxW sc rd rt rs => some (0x6000507B ||| put 25 sc ||| put 7 rd ||| put 20 rt ||| put 15 rs)
  | .amoScMinCW sc rd rt rs => some (0x7000507B ||| put 25 sc ||| put 7 rd ||| put 20 rt ||| put 15 rs)
  | .amoScMaxCW sc rd rt rs => some (0x8000507B ||| put 25 sc ||| put 7 rd ||| put 20 rt ||| put 15 rs)
  | .amoScFaddW sc rd rt rs => some (0x9000507B ||| put 25 sc ||| put 7 rd ||| put 20 rt ||| put 15 rs)
  | .amoScSwapD sc rd rt rs => some (0x0000607B ||| put 25 sc ||| put 7 rd ||| put 20 rt ||| put 15 rs)
  | .amoScAddD sc rd rt rs => some (0x1000607B ||| put 25 sc ||| put 7 rd ||| put 20 rt ||| put 15 rs)
  | .amoScXorD sc rd rt rs => some (0x2000607B ||| put 25 sc ||| put 7 rd ||| put 20 rt ||| put 15 rs)
  | .amoScAndD sc rd rt rs => some (0x3000607B ||| put 25 sc ||| put 7 rd ||| put 20 rt ||| put 15 rs)
  | .amoScOrD sc rd rt rs => some (0x4000607B ||| put 25 sc ||| put 7 rd ||| put 20 rt ||| put 15 rs)
  | .amoScMinD sc rd rt rs => some (0x5000607B ||| put 25 sc ||| put 7 rd ||| put 20 rt ||| put 15 rs)
  | .amoScMaxD sc rd rt rs => some (0x6000607B ||| put 25 sc ||| put 7 rd ||| put 20 rt ||| put 15 rs)
  | .amoScMinCD sc rd rt rs => some (0x7000607B ||| put 25 sc ||| put 7 rd ||| put 20 rt ||| put 15 rs)
  | .amoScMaxCD sc rd rt rs => some (0x8000607B ||| put 25 sc ||| put 7 rd ||| put 20 rt ||| put 15 rs)
  | .messageArrival _ => none
  | .flowControlReturn _ => none
  | .exitSendRelease _ _ => none
  | .dispatch _ => none
  | .successorStart _ _ => none
  | .waitmTake _ _ => none
  | .critOnGrant _ _ => none
  | .spawnRequest _ => none
  | .spawnAnswer _ => none
  | .budget _ _ => none
  | .tlbWalkComplete _ _ _ => none
  | .faultReply _ => none
  | .tlbInvalidation _ => none
  | .scrubError _ => none
  | .serviceReportSend _ => none
  | .mld _ => none
  | .mldt _ => none
  | .mst _ => none
  | .mma _ => none
  | .mzero _ => none
  | .maccSt _ => none
  | .cpy _ => none
  | .cpyg _ => none
  | .cpys _ => none
  | .cpyt _ => none
  | .copyFaultReply _ => none
  | .jobComplete _ _ _ => none
  | .taskRecordDelivery _ => none
  | .stealProbe _ => none
  | .stealRequest _ => none
  | .stealAnswer _ => none
  | .stealBackoff _ => none
  | .clusterRoundComplete _ => none
  | .rgin _ => none
  | .rgmatch _ => none
  | .rggo _ => none
  | .rgout _ => none
  | .rgsave _ => none
  | .rgrest _ => none
  | .movesBegin _ => none
  | .moveDone _ => none
  | .holdDone _ => none
  | .encounterAccept _ _ => none
  | .passBy _ _ => none
  | .encounterRetire _ _ => none
  | .ringSaveAtBoundary _ => none
  | .ringCancel _ => none
  | .tokenArrival _ => none
  | .activationTrigger _ => none
  | .faultReport _ => none
  | .nodeRetry _ => none
  | .graphLaunchRequest _ => none
  | .glaunchAnswer _ => none
  | .gcancelRequest _ => none
  | .gstatRequest _ => none
  | .gstatAnswer _ => none
  | .teamResidencyExpiry _ => none
  | .teamSwap _ => none
  | .lass _ => none
  | .lsweep _ => none
  | .interlockRelease _ _ => none
  | .rewardArrival _ _ => none
  | .rewardHold _ => none
  | .rewardCut _ => none
  | .sweepStart _ => none
  | .sweepComplete _ => none
  | .staticRoute _ => none
  | .kred _ => none
  | .kbc _ => none
  | .collectiveInstance _ => none
  | .ktime _ => none
  | .launch _ => none
  | .launchLoad _ => none
  | .partitionCreate _ => none
  | .partitionReset _ => none
  | .watchdogExpiry _ => none
  | .watchdogReset _ => none
  | .contextSwitchOut _ => none
  | .contextRestore _ => none
  | .hostDataWrite _ _ _ => none
  | .hostDataRead _ _ _ => none
  | .hostPost _ _ => none
  | .queuePostDelivery _ => none
  | .replyRingWrite _ => none
  | .copyServiceRequest _ => none
  | .copyServiceComplete _ => none
  | .peerAck _ => none
  | .staticRouteProgram _ _ _ => none
  | .queueBind _ _ => none
  | .coldBoot _ => none
  | .attestationRequest _ _ => none
  | .policyWrite _ _ => none
  | .voltageGlitch => none
  | .clockGlitch _ => none
  | .lidSensorOpened => none
  | .bondIntegrityAlarm _ => none
  | .channelRetirement _ _ _ => none
  | .elevatorFailure _ => none
  | .cxlPortLoss _ => none
  | .routerFailure _ => none
  | .hotnessScan _ => none
  | .migrationComplete _ _ => none
  | .injectionRequest _ _ _ => none
  | .controllerFaultAnswer _ => none
  | .ownerMapDecision _ _ => none
  | .powerRevision _ => none
  | .thermalThreshold _ _ => none
  | .thermalClear _ _ => none
  | .thermalMigration _ => none
  | .illegalInstruction _ => none
  | .writePerformed _ _ => none
  | .translationChange _ _ _ => none
  | .keyProvisioning _ _ => none
  | .partitionRemoval _ => none

/-- The word that four bytes stand for, little-endian (R5). -/
def wordOfBytes (bs : List Byte) : BitVec 32 :=
  BitVec.ofNat 32 (bs.foldr (fun b n => b.toNat + 256 * n) 0)

/-- The `n` bytes of a number, little-endian. -/
def bytesOfNat : Nat → Nat → List Byte
  | 0, _ => []
  | n + 1, v => BitVec.ofNat 8 v :: bytesOfNat n (v / 256)

/-- The instruction that this decoder reads from a word numbered as the opcode table numbers it: every instruction is one
little-endian word of 32 bits (R5), so a longer word is none. -/
def decodeTableWord (nbits w : Nat) : Option Instr :=
  if nbits ≤ 32 then decode (wordOfBytes (bytesOfNat 4 (w % 2 ^ nbits))) else none

end Sys2Proof
end

