-- ==== Sys2Proof/Machine/Operands.lean ====
section
/-!
DEFINITION. The operand forms of the vector unit: lanes and predicates (R102), ports as sources and destinations (R84, R87, R103),
the checks of vector register numbers (R57) and of ports declared 0 (R85).
-/
namespace Sys2Proof.Machine

/-! ### Lanes -/

/-- The lane width of an ew code, in bits (R14); code 11 stands for 32-bit lanes where a form admits it. -/
def widthOf (ew : BitVec 2) : Nat := if ew = 0 then 8 else if ew = 1 then 16 else 32

/-- Lane `i` of a vector, `w` bits wide, as a number (R102). -/
def lane (w i : Nat) (v : Vec) : Nat := v.toNat / 2 ^ (w * i) % 2 ^ w

/-- Lane `i` as a signed number. -/
def laneS (w i : Nat) (v : Vec) : Int := toSigned w (lane w i v)

/-- The number that lanes of `w` bits form, lane 0 lowest. -/
def joinLanes (w : Nat) : List Nat → Nat
  | [] => 0
  | x :: xs => x % 2 ^ w + 2 ^ w * joinLanes w xs

/-- A vector whose `256 / w` lanes are given. -/
def ofLanes (w : Nat) (f : Nat → Nat) : Vec := BitVec.ofNat 256 (joinLanes w ((List.range (256 / w)).map f))

/-- The low `w` bits of a value in every lane (R103). -/
def replicateLanes (w v : Nat) : Vec := ofLanes w fun _ => v

/-- Lane `i` is active under a predicate (R102). -/
def active (w i : Nat) (p : BitVec 32) : Bool := p.getLsbD (w / 8 * i)

/-- The results of active lanes laid over the previous contents (R102). -/
def mergeLanes (w : Nat) (p : BitVec 32) (old : Vec) (f : Nat → Nat) : Vec :=
  ofLanes w fun i => if active w i p then f i else lane w i old

/-- A predicate from lane results: every bit of an active lane's bytes is the result, the others are clear (R102). -/
def predOf (w : Nat) (p : BitVec 32) (f : Nat → Bool) : BitVec 32 :=
  BitVec.ofNat 32 (joinLanes 1 ((List.range 32).map fun j =>
    if active w (j / (w / 8)) p && f (j / (w / 8)) then 1 else 0))

/-! ### Ports -/

/-- The depth of a port (Table 5-7). -/
def portDepth (r : Reg) : Nat := if r = 28 ∨ r = 29 then 16 else 8

/-- The declared occupancy of a port (R85). -/
def declOf (d : PortDecl) (r : Reg) : Nat :=
  if r = 28 then d.lq else if r = 29 then d.sq else if r = 30 then d.bq else d.aq

/-- The entries in a port. -/
def portLen (sl : Slot) (r : Reg) : Nat :=
  if r = 28 then sl.lq.length else if r = 29 then sl.sq.length else if r = 30 then sl.bq.length else sl.aq.length

/-- A register field names a port (R12). -/
def isPort (r : Reg) : Bool := decide (28 ≤ r.toNat)

/-- The 4 KiB blocks that a port's spill ring holds when the port holds `n` entries (R87). -/
def spillBlocks (r : Reg) (n : Nat) : Nat :=
  let size := if r = 28 ∨ r = 29 then 32 else 8
  ((n - portDepth r) * size + 4095) / 4096

/-- The blocks of a core's spill quota in use. -/
def spillUsed (co : CoreSt) : Nat :=
  (co.slots.toList.map fun sl => if sl.compat then
    spillBlocks 28 sl.lq.length + spillBlocks 29 sl.sq.length + spillBlocks 30 sl.bq.length + spillBlocks 31 sl.aq.length
    else 0).sum

/-- A port has room for a push: below its declared depth, or in compatibility mode while the quota has a block (R84, R85, R87).
DESIGN CHOICE (assumption 18). -/
def portRoom (s : State) (r : Reg) : Bool :=
  let sl := s.slot
  let n := portLen sl r
  if sl.compat then
    decide (n < portDepth r) ||
      decide (spillUsed (s.core s.cur.core) - spillBlocks r n + spillBlocks r (n + 1) ≤ (s.core s.cur.core).quota)
  else decide (n < declOf sl.ports r)

/-- A port whose declaration is 0 is illegal to push or pop (R85). -/
def portIllegal (s : State) (r : Reg) : Bool := isPort r && !s.slot.compat && declOf s.slot.ports r == 0

/-- A vector register at or above the activation's regdem, in slots 0 to 2 (R57). -/
def vregBad (s : State) (r : Reg) : Bool :=
  !isPort r && decide (s.cur.slot.val < 3) && decide (s.slot.regdem ≤ r.toNat)

/-! ### Sources and destinations -/

/-- A vector source read: a register, or the oldest entry of `lq`, or of `aq` with its low `w` bits in every lane. Nothing when
the port is empty. -/
def takeSrc (sl : Slot) (r : Reg) (w : Nat) : Option (Vec × Slot) :=
  if r = 28 then
    match sl.lq with
    | v :: rest => some (v, { sl with lq := rest })
    | [] => none
  else if r = 31 then
    match sl.aq with
    | v :: rest => some (replicateLanes w v.toNat, { sl with aq := rest })
    | [] => none
  else some (sl.rv r.toNat, sl)

/-- What a vector destination holds before: a register's contents, zero for a port (R102). -/
def oldDst (sl : Slot) (r : Reg) : Vec := if isPort r then 0 else sl.rv r.toNat

/-- A vector result written to a register or pushed into `sq`. -/
def putDst (sl : Slot) (r : Reg) (v : Vec) : Slot := if r = 29 then { sl with sq := sl.sq ++ [v] } else sl.wv r.toNat v

/-- The vector operands of an instruction, ready; or the state in which it traps or waits. -/
inductive VReady where
  | go (a b : Vec) (sl : Slot)
  | stop (s : State)

/-- The value of an illegal-instruction trap: the instruction's word (R97, Table 4-7). -/
def wordOf (i : Instr) : Word := ((encode i).getD 0).setWidth 64

/-- Reads the vector operands of an instruction: `srcs` are its source fields in field order with their lane widths, `regs` the
other vector registers it names, `dst` a destination that may be a port. A port declared 0 is illegal (R85), a register at or
above regdem traps with VREG (R57), and an empty source port or a full destination port makes the instruction wait (R84).
DEDUCED (assumption 16). -/
def State.vready (s : State) (i : Instr) (srcs : List (Reg × Nat)) (regs : List Reg) (dst : Option Reg) : VReady :=
  let named := srcs.map Prod.fst ++ regs ++ dst.toList
  if named.any (portIllegal s) then .stop (s.trap causeIllegal (wordOf i))
  else
    match named.find? (vregBad s) with
    | some r => .stop (s.trap causeVreg (r.setWidth 64))
    | none =>
      if (match dst with
        | some r => isPort r && !portRoom s r
        | none => false) then .stop s
      else
        match srcs with
        | [] => .go 0 0 s.slot
        | [(a, wa)] =>
          match takeSrc s.slot a wa with
          | some (va, sl) => .go va 0 sl
          | none => .stop s
        | (a, wa) :: (b, wb) :: _ =>
          match takeSrc s.slot a wa with
          | some (va, sl) =>
            match takeSrc sl b wb with
            | some (vb, sl) => .go va vb sl
            | none => .stop s
          | none => .stop s

/-- The current slot becomes `sl`, its instruction retired and its prefix consumed (R97). -/
def State.vdone (s : State) (sl : Slot) : State := s.modSlot fun _ => { sl with pfx := none }.retire

end Sys2Proof.Machine
end

