-- ==== Sys2Proof/Machine/Csr.lean ====
section
/-!
DEFINITION. The control and status registers (R76, R77, Table 5-2) and the Zicsr forms.
-/
namespace Sys2Proof.Machine

/-- The clock of a core's field, which `cycle`, `time` and `fieldtime` read as (Table 5-2, R208). -/
def timeOf (s : State) (c : Nat) : Word := (s.field (coreField s c)).time

/-- A CSR as the current slot reads it (Table 5-2). -/
def csrRead (s : State) (csr : BitVec 12) : Word :=
  let c := s.cur.core
  let co := s.core c
  let sl := s.slot
  match csr.toNat with
  | 0x800 => chStateWord s c sl.sel.toNat
  | 0x801 => (s.chan c sl.sel.toNat).drops.setWidth 64
  | 0x802 => sl.spawnb ++ sl.left
  | 0x803 => sl.amoscope.setWidth 64
  | 0x804 => jobstatWord co
  | 0x805 => sl.tabsel.setWidth 64
  | 0x808 => co.tdesc[0]
  | 0x809 => co.tdesc[1]
  | 0x80A => co.tdesc[2]
  | 0x80B => co.tdesc[3]
  | 0x810 => co.engwt.setWidth 64
  | 0x811 => co.rgpat.setWidth 64
  | 0xC00 => timeOf s c
  | 0xC01 => timeOf s c
  | 0xC02 => sl.retired
  | 0xCC0 => cstatWord sl s.cur.slot
  | 0xCC1 => sl.msgid
  | 0xCC2 => sl.baywin
  | 0xCC3 => coreidWord s c
  | 0xCC4 => timeOf s c
  | 0xCC5 => portstWord sl
  | 0xCC6 => tabdatWord s c sl.tabsel
  | 0xCC8 => capOf s c
  | _ => 0

/-- The bits of a tile descriptor that a program can write (Table 9-1). -/
def tdescMask : Word := 0xFF3F7F7F

/-- The scope that a write of `amoscope` stores (Table 5-5). -/
def amoscopeOf (v : BitVec 3) : BitVec 3 := if v = 7 then 5 else v

/-- The lap limit and patience that a write of `rgpat` stores (Table 11-2). -/
def rgpatOf (v : Word) : BitVec 20 :=
  let laps := v.extractLsb' 16 4
  let pat := v.extractLsb' 0 16
  (if laps = 0 then 4#4 else laps) ++ (if pat = 0 then 1#16 else pat)

/-- A write of a CSR: only its RW fields change (R77). Writing 1 to a bit of `fsticky` or `badc` clears it (Table 5-11).
DESIGN CHOICE (assumption 121). -/
def State.csrWrite (s : State) (csr : BitVec 12) (v : Word) : State :=
  let c := s.cur.core
  match csr.toNat with
  | 0x800 => s.modSlot fun sl => { sl with sel := v.extractLsb' 16 6 }
  | 0x801 => s.modChan c s.slot.sel.toNat fun q => { q with drops := v.setWidth 32 }
  | 0x802 => s.modSlot fun sl => { sl with spawnb := v.extractLsb' 32 32 }
  | 0x803 => s.modSlot fun sl => { sl with amoscope := amoscopeOf (v.setWidth 3) }
  | 0x804 => s.modCore c fun co =>
      { co with fsticky := co.fsticky &&& ~~~v.extractLsb' 1 5, badc := co.badc && !v.getLsbD 0 }
  | 0x805 => s.modSlot fun sl => { sl with tabsel := v.setWidth 11 }
  | 0x808 => s.modCore c fun co => { co with tdesc := co.tdesc.set 0 (v &&& tdescMask) }
  | 0x809 => s.modCore c fun co => { co with tdesc := co.tdesc.set 1 (v &&& tdescMask) }
  | 0x80A => s.modCore c fun co => { co with tdesc := co.tdesc.set 2 (v &&& tdescMask) }
  | 0x80B => s.modCore c fun co => { co with tdesc := co.tdesc.set 3 (v &&& tdescMask) }
  | 0x810 => s.modCore c fun co => { co with engwt := v.setWidth 12 }
  | 0x811 => s.modCore c fun co => { co with rgpat := rgpatOf v }
  | _ => s

/-- A Zicsr form (R77): one indivisible read-then-write; `new` is what it writes over the old value, if it writes. -/
def State.csr (s : State) (rd : Reg) (csr : BitVec 12) (new : Word → Option Word) : State :=
  let old := csrRead s csr
  let s := match new old with
    | some v => s.csrWrite csr v
    | none => s
  s.done rd old

def execCsrrw (rd : Reg) (csr : BitVec 12) (rs : Reg) (s : State) : Out :=
  .next (s.csr rd csr fun _ => some (s.rx rs))
def execCsrrs (rd : Reg) (csr : BitVec 12) (rs : Reg) (s : State) : Out :=
  .next (s.csr rd csr fun old => if rs = 0 then none else some (old ||| s.rx rs))
def execCsrrc (rd : Reg) (csr : BitVec 12) (rs : Reg) (s : State) : Out :=
  .next (s.csr rd csr fun old => if rs = 0 then none else some (old &&& ~~~s.rx rs))
def execCsrrwi (rd : Reg) (csr : BitVec 12) (z : BitVec 5) (s : State) : Out :=
  .next (s.csr rd csr fun _ => some (z.setWidth 64))
def execCsrrsi (rd : Reg) (csr : BitVec 12) (z : BitVec 5) (s : State) : Out :=
  .next (s.csr rd csr fun old => if z = 0 then none else some (old ||| z.setWidth 64))
def execCsrrci (rd : Reg) (csr : BitVec 12) (z : BitVec 5) (s : State) : Out :=
  .next (s.csr rd csr fun old => if z = 0 then none else some (old &&& ~~~z.setWidth 64))

end Sys2Proof.Machine
end

