-- ==== Sys2Proof/Machine/System.lean ====
section
/-!
DEFINITION. Fences of slots (R81, R134, R137), `ecall` (R82), `ebreak` (Table 5-7a), the illegal-instruction trap (R6), and the
prefix `fmt` (R97).
-/
namespace Sys2Proof.Machine

/-- A bit of a fence set. -/
def has (set : BitVec 4) (i : Nat) : Bool := set.getLsbD i

/-- `fence` (R81): I counts as R and O as W; an empty set has no effect. -/
def execFence (_fm p q : BitVec 4) (_rs _rd : Reg) (s : State) : Out :=
  .next (if p = 0 ∨ q = 0 then s.retire
    else s.fence .part (has p 1 || has p 3) (has p 0 || has p 2) (has q 1 || has q 3) (has q 0 || has q 2))

def execFenceTso (_rs _rd : Reg) (s : State) : Out := .next (s.fence .part true true true true)

def execFenceS (sc : BitVec 3) (pr pw qr qw : BitVec 1) (s : State) : Out :=
  .next (s.fence (scopeOfCode sc) (isSet pr) (isSet pw) (isSet qr) (isSet qw))

/-- `ifence.s` (R137): the writes that the slot's reads see and an agent of the scope instance made reach the fetch path of the
core, and the slot's fetch buffer is discarded. -/
def State.ifence (s : State) (sc : Scope) : State :=
  let ids := (s.hidden.filter fun h => sees s s.agent h && inScope s sc s.agent h.writer).map Hidden.id
  (s.perform ids (.one (.fetch s.cur.core))).modSlot fun sl => { sl with fbuf := [] }.retire

def execIfenceS (sc : BitVec 3) (s : State) : Out := .next (s.ifence (scopeOfCode sc))

/-- `fence.i` is `ifence.s.core` (R10). -/
def execFenceI (_imm : BitVec 12) (_rs _rd : Reg) (s : State) : Out := .next (s.ifence .core)

/-- `ecall` (R82): the service message leaves at once, or the instruction waits for an outbound entry. -/
def execEcall (s : State) : Out :=
  .next <|
    if s.outRoom s.cur.core then
      let c := s.cur.core
      let words := serviceWords causeEcall c s.cur.slot.val s.slot.msgid s.slot.pcW (s.rx 10)
      (s.queueOut c (serviceBody (sgOf c) c words)).modSlot fun sl => { sl with sent := s.nextId :: sl.sent }.retire
    else s

def execEbreak (s : State) : Out := .next (s.trap causeEbreak 0)

def execIllegalInstruction (w : BitVec 32) (s : State) : Out := .next (s.trap causeIllegal (w.setWidth 64))

/-- `fmt` (R97): its fields and the scale byte of x[rs] are held for the slot's next instruction; a `fmt` under a prefix is
illegal. -/
def execFmt (fin fout : BitVec 4) (tab rm : BitVec 2) (rs : Reg) (mode : BitVec 2) (s : State) : Out :=
  .next <|
    if s.slot.pfx.isSome then s.trap causeIllegal (wordOf (.fmt fin fout tab rm rs mode))
    else s.modSlot fun sl => { sl with pfx := some ⟨fin, fout, tab, rm, mode, (sl.rx rs).setWidth 8⟩ }.retire

end Sys2Proof.Machine
end

