-- ==== Sys2Proof/Machine/Vector.lean ====
section
/-!
DEFINITION. The integer vector forms (R110 to R112): lane results, comparisons into predicates, and the byte selection `vsel`.
-/
namespace Sys2Proof.Machine

/-- A form with two vector sources of `w`-bit lanes and a vector destination: active lanes take `f`, inactive ones keep what the
destination held (R102). -/
def State.lanes2 (s : State) (i : Instr) (w : Nat) (pg : PReg) (vd a b : Reg) (f : Nat → Nat → Nat) : State :=
  match s.vready i [(a, w), (b, w)] [] (some vd) with
  | .stop t => t
  | .go x y sl => s.vdone (putDst sl vd (mergeLanes w (sl.rp pg) (oldDst sl vd) fun k => f (lane w k x) (lane w k y)))

/-- A comparison of two vector sources into a predicate (R111). -/
def State.cmp2 (s : State) (i : Instr) (w : Nat) (pg pd : PReg) (a b : Reg) (f : Nat → Nat → Bool) : State :=
  match s.vready i [(a, w), (b, w)] [] none with
  | .stop t => t
  | .go x y sl => s.vdone (sl.wp pd (predOf w (sl.rp pg) fun k => f (lane w k x) (lane w k y)))

/-- A signed result of `w` bits, clamped (R110). -/
def satS (w : Nat) (x : Int) : Nat := ofSigned w (clamp (-(2 ^ (w - 1))) (2 ^ (w - 1) - 1) x)

/-- The lane results of Table 6-3. -/
def laneAdd (w a b : Nat) : Nat := (a + b) % 2 ^ w
def laneSub (w a b : Nat) : Nat := (a + 2 ^ w - b) % 2 ^ w
def laneAddSat (w a b : Nat) : Nat := satS w (toSigned w a + toSigned w b)
def laneSubSat (w a b : Nat) : Nat := satS w (toSigned w a - toSigned w b)
def laneAddSatc (w a b : Nat) : Nat := min (a + b) (2 ^ w - 1)
def laneSubSatc (_w a b : Nat) : Nat := a - b
def laneMul (w a b : Nat) : Nat := a * b % 2 ^ w
def laneMulh (w a b : Nat) : Nat := ofSigned w (toSigned w a * toSigned w b / 2 ^ w)
def laneMulhC (w a b : Nat) : Nat := a * b / 2 ^ w
def laneAnd (_w a b : Nat) : Nat := a &&& b
def laneOr (_w a b : Nat) : Nat := a ||| b
def laneXor (_w a b : Nat) : Nat := a ^^^ b
def laneSll (w a b : Nat) : Nat := a * 2 ^ (b % w) % 2 ^ w
def laneSrl (w a b : Nat) : Nat := a / 2 ^ (b % w)
def laneSra (w a b : Nat) : Nat := ofSigned w (toSigned w a / 2 ^ (b % w))
def laneMin (w a b : Nat) : Nat := if toSigned w b < toSigned w a then b else a
def laneMinC (_w a b : Nat) : Nat := min a b
def laneMax (w a b : Nat) : Nat := if toSigned w a < toSigned w b then b else a
def laneMaxC (_w a b : Nat) : Nat := max a b

def execVadd (pg : PReg) (ew : BitVec 2) (vd vs1 vs2 : Reg) (s : State) : Out :=
  .next (s.lanes2 (.vadd pg ew vd vs1 vs2) (widthOf ew) pg vd vs1 vs2 (laneAdd (widthOf ew)))
def execVaddSat (pg : PReg) (ew : BitVec 2) (vd vs1 vs2 : Reg) (s : State) : Out :=
  .next (s.lanes2 (.vaddSat pg ew vd vs1 vs2) (widthOf ew) pg vd vs1 vs2 (laneAddSat (widthOf ew)))
def execVaddSatc (pg : PReg) (ew : BitVec 2) (vd vs1 vs2 : Reg) (s : State) : Out :=
  .next (s.lanes2 (.vaddSatc pg ew vd vs1 vs2) (widthOf ew) pg vd vs1 vs2 (laneAddSatc (widthOf ew)))
def execVsub (pg : PReg) (ew : BitVec 2) (vd vs1 vs2 : Reg) (s : State) : Out :=
  .next (s.lanes2 (.vsub pg ew vd vs1 vs2) (widthOf ew) pg vd vs1 vs2 (laneSub (widthOf ew)))
def execVsubSat (pg : PReg) (ew : BitVec 2) (vd vs1 vs2 : Reg) (s : State) : Out :=
  .next (s.lanes2 (.vsubSat pg ew vd vs1 vs2) (widthOf ew) pg vd vs1 vs2 (laneSubSat (widthOf ew)))
def execVsubSatc (pg : PReg) (ew : BitVec 2) (vd vs1 vs2 : Reg) (s : State) : Out :=
  .next (s.lanes2 (.vsubSatc pg ew vd vs1 vs2) (widthOf ew) pg vd vs1 vs2 (laneSubSatc (widthOf ew)))
def execVmul (pg : PReg) (ew : BitVec 2) (vd vs1 vs2 : Reg) (s : State) : Out :=
  .next (s.lanes2 (.vmul pg ew vd vs1 vs2) (widthOf ew) pg vd vs1 vs2 (laneMul (widthOf ew)))
def execVmulh (pg : PReg) (ew : BitVec 2) (vd vs1 vs2 : Reg) (s : State) : Out :=
  .next (s.lanes2 (.vmulh pg ew vd vs1 vs2) (widthOf ew) pg vd vs1 vs2 (laneMulh (widthOf ew)))
def execVmulhC (pg : PReg) (ew : BitVec 2) (vd vs1 vs2 : Reg) (s : State) : Out :=
  .next (s.lanes2 (.vmulhC pg ew vd vs1 vs2) (widthOf ew) pg vd vs1 vs2 (laneMulhC (widthOf ew)))
def execVand (pg : PReg) (ew : BitVec 2) (vd vs1 vs2 : Reg) (s : State) : Out :=
  .next (s.lanes2 (.vand pg ew vd vs1 vs2) (widthOf ew) pg vd vs1 vs2 (laneAnd (widthOf ew)))
def execVor (pg : PReg) (ew : BitVec 2) (vd vs1 vs2 : Reg) (s : State) : Out :=
  .next (s.lanes2 (.vor pg ew vd vs1 vs2) (widthOf ew) pg vd vs1 vs2 (laneOr (widthOf ew)))
def execVxor (pg : PReg) (ew : BitVec 2) (vd vs1 vs2 : Reg) (s : State) : Out :=
  .next (s.lanes2 (.vxor pg ew vd vs1 vs2) (widthOf ew) pg vd vs1 vs2 (laneXor (widthOf ew)))
def execVsll (pg : PReg) (ew : BitVec 2) (vd vs1 vs2 : Reg) (s : State) : Out :=
  .next (s.lanes2 (.vsll pg ew vd vs1 vs2) (widthOf ew) pg vd vs1 vs2 (laneSll (widthOf ew)))
def execVsrl (pg : PReg) (ew : BitVec 2) (vd vs1 vs2 : Reg) (s : State) : Out :=
  .next (s.lanes2 (.vsrl pg ew vd vs1 vs2) (widthOf ew) pg vd vs1 vs2 (laneSrl (widthOf ew)))
def execVsra (pg : PReg) (ew : BitVec 2) (vd vs1 vs2 : Reg) (s : State) : Out :=
  .next (s.lanes2 (.vsra pg ew vd vs1 vs2) (widthOf ew) pg vd vs1 vs2 (laneSra (widthOf ew)))
def execVmin (pg : PReg) (ew : BitVec 2) (vd vs1 vs2 : Reg) (s : State) : Out :=
  .next (s.lanes2 (.vmin pg ew vd vs1 vs2) (widthOf ew) pg vd vs1 vs2 (laneMin (widthOf ew)))
def execVminC (pg : PReg) (ew : BitVec 2) (vd vs1 vs2 : Reg) (s : State) : Out :=
  .next (s.lanes2 (.vminC pg ew vd vs1 vs2) (widthOf ew) pg vd vs1 vs2 (laneMinC (widthOf ew)))
def execVmax (pg : PReg) (ew : BitVec 2) (vd vs1 vs2 : Reg) (s : State) : Out :=
  .next (s.lanes2 (.vmax pg ew vd vs1 vs2) (widthOf ew) pg vd vs1 vs2 (laneMax (widthOf ew)))
def execVmaxC (pg : PReg) (ew : BitVec 2) (vd vs1 vs2 : Reg) (s : State) : Out :=
  .next (s.lanes2 (.vmaxC pg ew vd vs1 vs2) (widthOf ew) pg vd vs1 vs2 (laneMaxC (widthOf ew)))

/-- Signed, or cardinal with the `.c` bit (R111). -/
def laneLt (w : Nat) (c : BitVec 1) (a b : Nat) : Bool := if c = 1 then decide (a < b) else decide (toSigned w a < toSigned w b)

def execVcmpEq (pg : PReg) (ew : BitVec 2) (pd : PReg) (c : BitVec 1) (vs1 vs2 : Reg) (s : State) : Out :=
  .next (s.cmp2 (.vcmpEq pg ew pd c vs1 vs2) (widthOf ew) pg pd vs1 vs2 (fun a b => a == b))
def execVcmpNe (pg : PReg) (ew : BitVec 2) (pd : PReg) (c : BitVec 1) (vs1 vs2 : Reg) (s : State) : Out :=
  .next (s.cmp2 (.vcmpNe pg ew pd c vs1 vs2) (widthOf ew) pg pd vs1 vs2 (fun a b => a != b))
def execVcmpLt (pg : PReg) (ew : BitVec 2) (pd : PReg) (c : BitVec 1) (vs1 vs2 : Reg) (s : State) : Out :=
  .next (s.cmp2 (.vcmpLt pg ew pd c vs1 vs2) (widthOf ew) pg pd vs1 vs2 (laneLt (widthOf ew) c))
def execVcmpLe (pg : PReg) (ew : BitVec 2) (pd : PReg) (c : BitVec 1) (vs1 vs2 : Reg) (s : State) : Out :=
  .next (s.cmp2 (.vcmpLe pg ew pd c vs1 vs2) (widthOf ew) pg pd vs1 vs2 (fun a b => !laneLt (widthOf ew) c b a))

/-- `vsel` (R112): byte by byte, by the bits of a predicate; never predicated. -/
def execVsel (pk : PReg) (vd vs1 vs2 : Reg) (s : State) : Out :=
  .next <|
    match s.vready (.vsel pk vd vs1 vs2) [(vs1, 8), (vs2, 8)] [] (some vd) with
    | .stop t => t
    | .go x y sl =>
      s.vdone (putDst sl vd (ofLanes 8 fun j => if (sl.rp pk).getLsbD j then lane 8 j x else lane 8 j y))

end Sys2Proof.Machine
end

