-- ==== Sys2Proof/Machine/Float.lean ====
section
/-!
DEFINITION. The forms of custom-1 form space F (R105): floating arithmetic and comparisons, conversions, T8 encoding and decoding,
and trace arithmetic, with the `fmt` prefix that each accepts (Table 6-1).
-/
namespace Sys2Proof.Machine

/-- What an instruction of form space F computes with: its formats, rounding mode, T8 table, scale mode and scale. -/
structure Fmt where
  fin   : NumFmt
  fout  : NumFmt
  rm    : Rm
  tab   : T8Image
  mode  : BitVec 2
  scale : Ex

/-- No prefix: every field zero (R105). -/
def Held.zero : Held := ⟨0, 0, 0, 0, 0, 0⟩

/-- The fields that the prefix of the current slot holds. -/
def heldOf (s : State) : Held := s.slot.pfx.getD .zero

/-- The formats of a set, by code, a code 0 standing for the default (R105). -/
def accepts (codes : List Nat) (c : BitVec 4) : Bool := c == 0 || codes.contains c.toNat

/-- What a held prefix stands for with the default formats of a form. -/
def fmtOf (s : State) (h : Held) (din dout : NumFmt) : Fmt :=
  ⟨numFmtOfCode h.fin din, numFmtOfCode h.fout dout, rmOfCode h.rm, tableImage s s.cur.core h.tab.toNat, h.mode,
    se53 h.scale.toNat⟩

/-- The floating formats fp32, fp16 and bf16 by their codes. -/
def floatCodes : List Nat := [1, 2, 3]

/-- The formats of `vcvt` by their codes. -/
def cvtCodes : List Nat := [1, 2, 3, 7, 8, 9, 10]

/-- The byte formats t8, i8 and c8 by their codes. -/
def byteCodes : List Nat := [4, 5, 6]

/-- The prefix of an arithmetic form (Table 6-1): the result format has the width of the operand format, which is its default. -/
def arithFmt (s : State) : Option Fmt :=
  let h := heldOf s
  let fin := numFmtOfCode h.fin .fp32
  let f := fmtOf s h .fp32 fin
  if accepts floatCodes h.fin && accepts floatCodes h.fout && f.fin.width == f.fout.width then some f else none

/-- The prefix of `vfcmp` (Table 6-1). -/
def cmpFmt (s : State) : Option Fmt :=
  let h := heldOf s
  if accepts floatCodes h.fin && h.fout == 0 && h.rm == 0 && h.mode != 2 then some (fmtOf s h .fp32 .fp32) else none

/-- The prefix of `vcvt`. -/
def cvtFmt (s : State) : Option Fmt :=
  let h := heldOf s
  if accepts cvtCodes h.fin && accepts cvtCodes h.fout then some (fmtOf s h .fp32 .i32) else none

/-- The prefix of `venc8`. -/
def encFmt (s : State) : Option Fmt :=
  let h := heldOf s
  if accepts floatCodes h.fin && accepts byteCodes h.fout then some (fmtOf s h .fp32 .t8) else none

/-- The prefix of `vdec8`. -/
def dec8Fmt (s : State) : Option Fmt :=
  let h := heldOf s
  if accepts byteCodes h.fin && accepts floatCodes h.fout then some (fmtOf s h .t8 .fp32) else none

/-- The prefix of a trace form: every held field zero, the scale byte among them (R123, Table 6-1). DEDUCED (assumption 83). -/
def traceFmt (s : State) : Option Unit :=
  let h := heldOf s
  if h.fin == 0 && h.fout == 0 && h.tab == 0 && h.rm == 0 && h.mode == 0 && h.scale == 0 then some () else none

/-- An operand, with a pre scale rounded to FP32 (R40). -/
def Fmt.pre (f : Fmt) (x : Ex) : Ex := if f.mode = 1 then rnd32 f.rm (x.mul f.scale) else x

/-- An operand decoded and scaled. -/
def Fmt.opnd (f : Fmt) (x : Nat) : Ex := f.pre (decFmt f.fin f.tab x)

/-- A result, with a post scale formed exactly, rounded once (R40). -/
def Fmt.result (f : Fmt) (t : Ex) : Nat := roundTo f.fout f.tab f.rm (if f.mode = 2 then t.mul f.scale else t)

/-- A conversion from an integer format to a wider one, unscaled, which extends (Table 3-3). -/
def Fmt.widens (f : Fmt) : Bool := f.mode == 0 && f.fin.isInt && f.fout.isInt && decide (f.fin.width < f.fout.width)

/-- The result of a conversion (R35, R115): a wider integer is the exact one, sign-extended from signed types and zero-extended from
cardinal ones. -/
def Fmt.convert (f : Fmt) (x : Nat) : Nat :=
  if f.widens then ofSigned f.fout.width (intOf f.fin x) else f.result (f.opnd x)

/-- A floating form of two sources (R113). -/
def State.float2 (s : State) (i : Instr) (pg : PReg) (vd a b : Reg) (op : Rm → Ex → Ex → Ex) : State :=
  match arithFmt s with
  | none => s.trap causeIllegal (wordOf i)
  | some f =>
    let w := f.fin.width
    match s.vready i [(a, w), (b, w)] [] (some vd) with
    | .stop t => t
    | .go x y sl =>
      s.vdone (putDst sl vd (mergeLanes w (sl.rp pg) (oldDst sl vd) fun k =>
        f.result (op f.rm (f.opnd (lane w k x)) (f.opnd (lane w k y)))))

def execVfadd (pg : PReg) (vd vs1 vs2 : Reg) (s : State) : Out :=
  .next (s.float2 (.vfadd pg vd vs1 vs2) pg vd vs1 vs2 fun rm x y => x.add rm y)
def execVfsub (pg : PReg) (vd vs1 vs2 : Reg) (s : State) : Out :=
  .next (s.float2 (.vfsub pg vd vs1 vs2) pg vd vs1 vs2 fun rm x y => x.add rm y.neg)
def execVfmul (pg : PReg) (vd vs1 vs2 : Reg) (s : State) : Out :=
  .next (s.float2 (.vfmul pg vd vs1 vs2) pg vd vs1 vs2 fun _ x y => x.mul y)
def execVfmin (pg : PReg) (vd vs1 vs2 : Reg) (s : State) : Out :=
  .next (s.float2 (.vfmin pg vd vs1 vs2) pg vd vs1 vs2 fun _ x y => x.minimum y)
def execVfmax (pg : PReg) (vd vs1 vs2 : Reg) (s : State) : Out :=
  .next (s.float2 (.vfmax pg vd vs1 vs2) pg vd vs1 vs2 fun _ x y => x.maximum y)

/-- `vfma` (R113): x·y + z formed exactly and rounded once; its destination is its third source. -/
def execVfma (pg : PReg) (vd vs1 vs2 : Reg) (s : State) : Out :=
  .next <|
    match arithFmt s with
    | none => s.trap causeIllegal (wordOf (.vfma pg vd vs1 vs2))
    | some f =>
      let w := f.fin.width
      match s.vready (.vfma pg vd vs1 vs2) [(vs1, w), (vs2, w)] [] (some vd) with
      | .stop t => t
      | .go x y sl =>
        let z := sl.rv vd.toNat
        s.vdone (putDst sl vd (mergeLanes w (sl.rp pg) z fun k =>
          f.result (((f.opnd (lane w k x)).mul (f.opnd (lane w k y))).add f.rm (f.opnd (lane w k z)))))

def execVfrcp (pg : PReg) (vd vs : Reg) (s : State) : Out :=
  .next <|
    match arithFmt s with
    | none => s.trap causeIllegal (wordOf (.vfrcp pg vd vs))
    | some f =>
      let w := f.fin.width
      match s.vready (.vfrcp pg vd vs) [(vs, w)] [] (some vd) with
      | .stop t => t
      | .go x _ sl =>
        s.vdone (putDst sl vd (mergeLanes w (sl.rp pg) (oldDst sl vd) fun k => f.result (f.opnd (lane w k x)).recip))

/-- A floating comparison into a predicate (R114). -/
def State.fcmp (s : State) (i : Instr) (pg pd : PReg) (a b : Reg) (rel : Ex → Ex → Bool) : State :=
  match cmpFmt s with
  | none => s.trap causeIllegal (wordOf i)
  | some f =>
    let w := f.fin.width
    match s.vready i [(a, w), (b, w)] [] none with
    | .stop t => t
    | .go x y sl =>
      s.vdone (sl.wp pd (predOf w (sl.rp pg) fun k => rel (f.opnd (lane w k x)) (f.opnd (lane w k y))))

def execVfcmpEq (pg pd : PReg) (vs1 vs2 : Reg) (s : State) : Out :=
  .next (s.fcmp (.vfcmpEq pg pd vs1 vs2) pg pd vs1 vs2 Ex.eq)
def execVfcmpLt (pg pd : PReg) (vs1 vs2 : Reg) (s : State) : Out :=
  .next (s.fcmp (.vfcmpLt pg pd vs1 vs2) pg pd vs1 vs2 Ex.lt)
def execVfcmpLe (pg pd : PReg) (vs1 vs2 : Reg) (s : State) : Out :=
  .next (s.fcmp (.vfcmpLe pg pd vs1 vs2) pg pd vs1 vs2 Ex.le)
def execVfcmpUn (pg pd : PReg) (vs1 vs2 : Reg) (s : State) : Out :=
  .next (s.fcmp (.vfcmpUn pg pd vs1 vs2) pg pd vs1 vs2 fun x y => x.isNan || y.isNan)

/-- `vcvt` (R115): the lanes that both formats have are converted, the active lanes above them are 0. -/
def execVcvt (pg : PReg) (vd vs : Reg) (s : State) : Out :=
  .next <|
    match cvtFmt s with
    | none => s.trap causeIllegal (wordOf (.vcvt pg vd vs))
    | some f =>
      let wi := f.fin.width
      let wo := f.fout.width
      let n := min (256 / wi) (256 / wo)
      match s.vready (.vcvt pg vd vs) [(vs, wi)] [] (some vd) with
      | .stop t => t
      | .go x _ sl =>
        s.vdone (putDst sl vd (mergeLanes wo (sl.rp pg) (oldDst sl vd) fun k =>
          if k < n then f.convert (lane wi k x) else 0))

/-- `venc8` (R116): lanes encoded to bytes. -/
def execVenc8 (pg : PReg) (vd vs : Reg) (s : State) : Out :=
  .next <|
    match encFmt s with
    | none => s.trap causeIllegal (wordOf (.venc8 pg vd vs))
    | some f =>
      let wi := f.fin.width
      match s.vready (.venc8 pg vd vs) [(vs, wi)] [] (some vd) with
      | .stop t => t
      | .go x _ sl =>
        s.vdone (putDst sl vd (mergeLanes 8 (sl.rp pg) (oldDst sl vd) fun k =>
          if k < 256 / wi then f.result (f.opnd (lane wi k x)) else 0))

/-- `vdec8` (R117): bytes decoded to lanes. -/
def execVdec8 (pg : PReg) (vd vs : Reg) (s : State) : Out :=
  .next <|
    match dec8Fmt s with
    | none => s.trap causeIllegal (wordOf (.vdec8 pg vd vs))
    | some f =>
      let wo := f.fout.width
      match s.vready (.vdec8 pg vd vs) [(vs, 8)] [] (some vd) with
      | .stop t => t
      | .go x _ sl =>
        s.vdone (putDst sl vd (mergeLanes wo (sl.rp pg) (oldDst sl vd) fun k => f.result (f.opnd (lane 8 k x))))

/-- A trace form with a parameter lane for each pair of traces (R123, R124). -/
def State.trace2 (s : State) (i : Instr) (pg : PReg) (vd a b : Reg) (f : Nat → Nat → Nat) : State :=
  match traceFmt s with
  | none => s.trap causeIllegal (wordOf i)
  | some _ =>
    match s.vready i [(a, 16), (b, 32)] [] (some vd) with
    | .stop t => t
    | .go x y sl =>
      s.vdone (putDst sl vd (mergeLanes 16 (sl.rp pg) (oldDst sl vd) fun k => f (lane 16 k x) (lane 32 (k / 2) y)))

def execVtfade (pg : PReg) (vd vs1 vs2 : Reg) (s : State) : Out :=
  .next (s.trace2 (.vtfade pg vd vs1 vs2) pg vd vs1 vs2 traceFade)
def execVtacc (pg : PReg) (vd vs1 vs2 : Reg) (s : State) : Out :=
  .next (s.trace2 (.vtacc pg vd vs1 vs2) pg vd vs1 vs2 traceAdd)

/-- `vtdec` (R125). -/
def execVtdec (pg : PReg) (vd vs : Reg) (s : State) : Out :=
  .next <|
    match traceFmt s with
    | none => s.trap causeIllegal (wordOf (.vtdec pg vd vs))
    | some _ =>
      match s.vready (.vtdec pg vd vs) [(vs, 16)] [] (some vd) with
      | .stop t => t
      | .go x _ sl =>
        s.vdone (putDst sl vd (mergeLanes 32 (sl.rp pg) (oldDst sl vd) fun k => decode32 (lane 16 k x)))

/-- `vtenc` (R125): the active lanes from 8 on take the zero trace. -/
def execVtenc (pg : PReg) (vd vs : Reg) (s : State) : Out :=
  .next <|
    match traceFmt s with
    | none => s.trap causeIllegal (wordOf (.vtenc pg vd vs))
    | some _ =>
      match s.vready (.vtenc pg vd vs) [(vs, 32)] [] (some vd) with
      | .stop t => t
      | .go x _ sl =>
        s.vdone (putDst sl vd (mergeLanes 16 (sl.rp pg) (oldDst sl vd) fun k =>
          if k < 8 then encodeTl16 (lane 32 k x) else 0x4000))

end Sys2Proof.Machine
end

