-- ==== Sys2Proof/Machine/Lane.lean ====
section
/-!
DEFINITION. The moves between x registers and lanes (R109), the lane operations (R118 to R121) and the predicate forms (R122).
-/
namespace Sys2Proof.Machine

/-- A form with one or two vector sources whose destination lanes may read any source lane (R118). -/
def State.shuffle (s : State) (i : Instr) (w : Nat) (pg : PReg) (vd : Reg) (srcs : List (Reg × Nat))
    (f : Vec → Vec → Nat → Nat) : State :=
  match s.vready i srcs [] (some vd) with
  | .stop t => t
  | .go x y sl => s.vdone (putDst sl vd (mergeLanes w (sl.rp pg) (oldDst sl vd) (f x y)))

/-- `vbc` (R109). -/
def execVbc (pg : PReg) (ew : BitVec 2) (vd rs : Reg) (s : State) : Out :=
  .next (s.shuffle (.vbc pg ew vd rs) (widthOf ew) pg vd [] fun _ _ _ => (s.rx rs).toNat % 2 ^ widthOf ew)

/-- `vmvx` (R109): a lane, sign-extended, or an entry popped from `bq`. -/
def execVmvx (ew : BitVec 2) (rd vs k : Reg) (s : State) : Out :=
  .next <|
    let i := Instr.vmvx ew rd vs k
    if vs = 30 then
      if portIllegal s vs then s.trap causeIllegal (wordOf i)
      else match s.slot.bq with
        | v :: rest => s.vdone ({ s.slot with bq := rest }.wx rd v)
        | [] => s
    else
      match s.vready i [(vs, widthOf ew)] [] none with
      | .stop t => t
      | .go x _ sl => s.vdone (sl.wx rd (BitVec.ofInt 64 (laneS (widthOf ew) k.toNat x)))

/-- `vmxv` (R109): a push into `aq`, or one lane written; the other lanes of an `sq` entry are zero. -/
def execVmxv (ew : BitVec 2) (vd rs k : Reg) (s : State) : Out :=
  .next <|
    match s.vready (.vmxv ew vd rs k) [] [] (some vd) with
    | .stop t => t
    | .go _ _ sl =>
      if vd = 31 then s.vdone { sl with aq := sl.aq ++ [s.rx rs] }
      else
        let w := widthOf ew
        let old := oldDst sl vd
        s.vdone (putDst sl vd (ofLanes w fun j => if j = k.toNat then (s.rx rs).toNat else lane w j old))

/-- `vperm` (R118): an index at or above the lane count gives 0. -/
def execVperm (pg : PReg) (ew : BitVec 2) (vd vs vi : Reg) (s : State) : Out :=
  .next <|
    let w := widthOf ew
    s.shuffle (.vperm pg ew vd vs vi) w pg vd [(vs, w), (vi, w)] fun x y i =>
      if lane w i y < 256 / w then lane w (lane w i y) x else 0

/-- `vrot` (R118). -/
def execVrot (pg : PReg) (ew : BitVec 2) (vd vs k : Reg) (s : State) : Out :=
  .next <|
    let w := widthOf ew
    s.shuffle (.vrot pg ew vd vs k) w pg vd [(vs, w)] fun x _ i => lane w ((i + k.toNat) % (256 / w)) x

/-- The numbers of the active lanes. -/
def activeLanes (w : Nat) (p : BitVec 32) : List Nat := (List.range (256 / w)).filter fun i => active w i p

/-- `vmatch` (R120). -/
def execVmatch (pg : PReg) (ew : BitVec 2) (vd vs : Reg) (s : State) : Out :=
  .next <|
    let w := widthOf ew
    s.shuffle (.vmatch pg ew vd vs) w pg vd [(vs, w)] fun x _ i =>
      ((activeLanes w (s.slot.rp pg)).find? fun j => lane w j x == lane w i x).getD i

/-- The result of a `vvote` over the values of the active lanes, by lane (R119). -/
def vote (m : Nat) (vs : List (Nat × Nat)) : Nat :=
  if m = 0 then (if vs.any fun p => p.2 != 0 then 1 else 0)
  else if m = 1 then (if vs.all fun p => p.2 != 0 then 1 else 0)
  else if m = 2 then (vs.map fun p => if p.2 != 0 then 2 ^ p.1 else 0).sum
  else match vs with
    | [] => 1
    | p :: rest => if rest.all fun q => q.2 == p.2 then 1 else 0

/-- A result over the active lanes of a source, written to every lane of the destination or pushed into `bq` (R119, R121): `w` is the
lane width of the source, `wd` that of the result. -/
def State.reduce (s : State) (i : Instr) (w wd : Nat) (pg : PReg) (vd vs : Reg) (f : List (Nat × Nat) → Nat)
    (push : Nat → Word) : State :=
  match s.vready i [(vs, w)] [] (some vd) with
  | .stop t => t
  | .go x _ sl =>
    let r := f ((activeLanes w (sl.rp pg)).map fun k => (k, lane w k x))
    if vd = 30 then s.vdone { sl with bq := sl.bq ++ [push r] } else s.vdone (putDst sl vd (replicateLanes wd r))

def execVvote (pg : PReg) (ew : BitVec 2) (vd vs m : Reg) (s : State) : Out :=
  .next (s.reduce (.vvote pg ew vd vs m) (widthOf ew) 32 pg vd vs (vote m.toNat) (BitVec.ofNat 64))

/-- An integer result, sign-extended from `w` bits (R121). -/
def pushInt (w r : Nat) : Word := BitVec.ofInt 64 (toSigned w r)

def execVredAdd (pg : PReg) (ew : BitVec 2) (vd vs : Reg) (s : State) : Out :=
  .next <|
    let w := widthOf ew
    s.reduce (.vredAdd pg ew vd vs) w w pg vd vs (fun l => (l.map Prod.snd).sum % 2 ^ w) (pushInt w)

/-- `vred.fadd` (R46, R121): the fixed tree, an inactive lane entered as −0. -/
def execVredFadd (pg : PReg) (vd vs : Reg) (s : State) : Out :=
  .next (s.reduce (.vredFadd pg vd vs) 32 32 pg vd vs
    (fun l => faddTree fun k => ((l.find? fun p => p.1 == k).map Prod.snd).getD 0x80000000) (BitVec.ofNat 64))

/-- A minimum or maximum over lanes (R121): signed, or of FP32 values for ew 11. -/
def State.redExt (s : State) (i : Instr) (pg : PReg) (ew : BitVec 2) (vd vs : Reg) (fop : Ex → Ex → Ex) (fnone : Ex)
    (iop : Nat → Nat → Nat → Nat) (inone : Nat) : State :=
  let w := widthOf ew
  if ew = 3 then
    s.reduce i 32 32 pg vd vs (fun l => rne32 (l.foldl (fun a p => fop a (dec32 p.2)) fnone)) (BitVec.ofNat 64)
  else s.reduce i w w pg vd vs (fun l => l.foldl (fun a p => iop w a p.2) inone) (pushInt w)

def execVredMin (pg : PReg) (ew : BitVec 2) (vd vs : Reg) (s : State) : Out :=
  .next (s.redExt (.vredMin pg ew vd vs) pg ew vd vs Ex.minimum (.inf false) laneMin (2 ^ (widthOf ew - 1) - 1))
def execVredMax (pg : PReg) (ew : BitVec 2) (vd vs : Reg) (s : State) : Out :=
  .next (s.redExt (.vredMax pg ew vd vs) pg ew vd vs Ex.maximum (.inf true) laneMax (2 ^ (widthOf ew - 1)))

def execPand (pd ps pt : PReg) (s : State) : Out := .next (s.vdone (s.slot.wp pd (s.slot.rp ps &&& s.slot.rp pt)))
def execPor (pd ps pt : PReg) (s : State) : Out := .next (s.vdone (s.slot.wp pd (s.slot.rp ps ||| s.slot.rp pt)))
def execPnot (pd ps : PReg) (s : State) : Out := .next (s.vdone (s.slot.wp pd (~~~s.slot.rp ps)))
def execPset (pd : PReg) (rs : Reg) (s : State) : Out := .next (s.vdone (s.slot.wp pd ((s.rx rs).setWidth 32)))

end Sys2Proof.Machine
end

