-- ==== Sys2Proof/Machine/VectorMem.lean ====
section
/-!
DEFINITION. Vector loads and stores (R106 to R108), and those of `vld` and `vst` in the alias windows (R248).
-/
namespace Sys2Proof.Machine

/-- An element of a vector access: its number, its address, and its bytes. -/
structure Elem where
  idx : Nat
  va  : Word

/-- The elements of a vector access, translated: the keys of each one's bytes. Or the state in which the instruction traps,
faults or waits. -/
inductive VAcc where
  | go (s : State) (ks : List (Nat × List (Option Nat)))
  | stop (s : State)

/-- The first element, in ascending order, that breaks alignment or leaves the windows, with its cause (R106, R107).
DESIGN CHOICE (assumption 97). -/
def elemTrap (s : State) (a : Acc) (n : Nat) : List Elem → Option (Nat × Word)
  | [] => none
  | e :: es =>
    if e.va.toNat % n ≠ 0 then some (causeMisalign, e.va)
    else match resolve s s.cur.core a e.va.toNat n with
      | .access | .alias_ .. => some (causeAccess, e.va)
      | _ => elemTrap s a n es

/-- The address of the first element, in ascending order, whose translation faults, of its first byte on the page.
DESIGN CHOICE (assumption 97). -/
def elemFault (s : State) (a : Acc) (n : Nat) (es : List Elem) : Option Nat :=
  es.findSome? fun e => match resolve s s.cur.core a e.va.toNat n with
    | .fault b => some b
    | _ => none

/-- The keys of an element's bytes. -/
def elemKeys (s : State) (a : Acc) (n : Nat) (e : Elem) : List (Option Nat) :=
  match resolve s s.cur.core a e.va.toNat n with
  | .keys ks => ks
  | _ => []

/-- The checks of a vector access as a whole (R89, R106): alignment and windows, then translation, interlocks, and uncorrectable
errors. No unit of a vector store covers a granule (R101, R108). DEDUCED (assumption 51). -/
def State.vaccess (s : State) (a : Acc) (n : Nat) (es : List Elem) : VAcc :=
  match elemTrap s a n es with
  | some (cause, va) => .stop (s.trap cause va)
  | none =>
    let s := s.touchPages s.cur.core false (es.flatMap fun e => pagesOf e.va.toNat n).dedup
    match elemFault s a n es with
    | some b => .stop (s.pageFault a b)
    | none =>
      match es.findSome? fun e => firstInterlock s s.cur.core e.va.toNat n with
      | some p => .stop (s.waitRow p)
      | none =>
        match es.findSome? fun e => (s.badRead s.agent (realKeys (elemKeys s a n e))).map fun b => (b, e.va) with
        | some (b, va) => .stop (s.trapUncorr b va)
        | none => .go s (es.map fun e => (e.idx, elemKeys s a n e))

/-- The elements of an alias access of `vld` and `vst`: units of 4 bytes, or 2 for WADD, each wholly active or wholly inactive;
nothing when one is partly active, when the window does not exist, or when an active unit leaves the window (R248). -/
def aliasUnits (k o : Nat) (p : BitVec 32) : Option (List (Nat × Nat)) :=
  let u := aliasUnit k
  if u = 0 then none
  else
    let act := (List.range (32 / u)).map fun j => (j, (List.range u).map fun b => p.getLsbD (u * j + b))
    if act.any fun e => e.2.any id && !e.2.all id then none
    else
      let us := (act.filter fun e => e.2.all id).map fun e => (e.1, o + u * e.1)
      if us.any fun e => decide (0x1000000 < e.2 + u) then none else some us

/-- The alias units of an access, with the checks of interlocks and errors; or the state in which it stops. A partly active unit, a window
that does not exist and an active unit that leaves the window trap with ACCESS, with the base as value. DEDUCED (assumption 93). -/
inductive AliasAcc where
  | go (us : List (Nat × Nat))
  | stop (s : State)

def State.aliasAccess (s : State) (base : Word) (k o : Nat) (p : BitVec 32) (store : Bool) : AliasAcc :=
  match aliasUnits k o p with
  | none => .stop (s.trap causeAccess base)
  | some us =>
    let u := aliasUnit k
    match us.findSome? fun e => firstInterlock s s.cur.core (base.toNat + u * e.1) u with
    | some q => .stop (s.waitRow q)
    | none =>
      let keysOf := fun (e : Nat × Nat) =>
        let ks := aliasKeys s.cur.core k e.2
        if store then ks.flatMap fun a => span (a / 8 * 8) 8 else ks
      match us.findSome? fun e => (s.badRead s.agent (keysOf e)).map fun b => (b, base + BitVec.ofNat 64 (u * e.1)) with
      | some (b, va) => .stop (s.trapUncorr b va)
      | none => .go us

/-- A vector load's result laid over what its destination held: elements of `w` bits. -/
def fillLanes (w : Nat) (old : Vec) (vals : List (Nat × Nat)) : Vec :=
  ofLanes w fun i => match vals.find? fun p => p.1 == i with
    | some p => p.2
    | none => lane w i old

/-- A loaded vector written to a register or pushed into `lq`. -/
def putLoad (sl : Slot) (r : Reg) (v : Vec) : Slot := if r = 28 then { sl with lq := sl.lq ++ [v] } else sl.wv r.toNat v

/-- The data of a vector store: a register, or the oldest entry of `sq`. -/
def takeData (sl : Slot) (r : Reg) : Option (Vec × Slot) :=
  if r = 29 then
    match sl.sq with
    | v :: rest => some (v, { sl with sq := rest })
    | [] => none
  else some (sl.rv r.toNat, sl)

/-- A vector load of elements of `w` bits (R106). With no active element nothing is accessed; a load that names `lq` pushes a zero entry
even then. DEDUCED (assumption 93). -/
def State.vload (s : State) (i : Instr) (vd : Reg) (regs : List Reg) (w : Nat) (es : Slot → List Elem) : State :=
  match s.vready i [] regs (some vd) with
  | .stop t => t
  | .go _ _ sl =>
    match s.vaccess .vload (w / 8) (es sl) with
    | .stop t => t
    | .go t ks =>
      let vals := ks.map fun e => (e.1, natOfBytes (t.readRes t.agent e.2))
      let t := t.noteReads t.agent (ks.map fun e => realKeys e.2)
      t.vdone (putLoad sl vd (fillLanes w (oldDst sl vd) vals))

/-- The stores of a vector store, each unit a write of its own, in ascending order (R106, R108). -/
def State.storeUnits (s : State) (us : List (List (Nat × Byte))) : State :=
  us.foldl (fun s u => s.writeCells s.agent u) s

/-- The data of a vector store, ready; or the state in which the instruction traps or waits: a form whose port is full or empty waits
before its addresses are checked, and one with no active element pops `sq`. DEDUCED (assumption 93). -/
def State.storeReady (s : State) (i : Instr) (vd : Reg) (regs : List Reg) : VReady :=
  match s.vready i [] (regs ++ [vd]) none with
  | .stop t => .stop t
  | .go _ _ sl =>
    match takeData sl vd with
    | some (v, sl) => .go v 0 sl
    | none => .stop s

/-- A vector store of lanes of `w` bits (R106). -/
def State.vstore (s : State) (i : Instr) (vd : Reg) (regs : List Reg) (w : Nat) (es : Slot → List Elem) : State :=
  match s.storeReady i vd regs with
  | .stop t => t
  | .go v _ sl =>
    match s.vaccess .vstore (w / 8) (es s.slot) with
    | .stop t => t
    | .go t ks => (t.storeUnits (ks.map fun e => (realKeys e.2).zip (bytesOf (w / 8) (lane w e.1 v)))).vdone sl

/-- The active lanes of a form with their addresses. -/
def laneElems (w : Nat) (p : BitVec 32) (addr : Nat → Word) : List Elem :=
  (activeLanes w p).map fun i => ⟨i, addr i⟩

/-- The active bytes of `vld` and `vst`. -/
def byteElems (p : BitVec 32) (base : Word) : List Elem :=
  ((List.range 32).filter fun i => p.getLsbD i).map fun i => ⟨i, base + BitVec.ofNat 64 i⟩

/-- The base address of `vld` and `vst`: the offset counts words (R106). -/
def vmBase (s : State) (rs : Reg) (off : BitVec 9) : Word := s.rx rs + (off ++ 0#2).signExtend 64

/-- `vld` (R106, R107, R248). The base alone says whether it is an access of an alias window. DEDUCED (assumption 93). -/
def execVld (pg : PReg) (vd rs : Reg) (off : BitVec 9) (s : State) : Out :=
  .next <|
    let base := vmBase s rs off
    let p := s.slot.rp pg
    let i := Instr.vld pg vd rs off
    if p ≠ 0 ∧ inAlias base then
      match s.vready i [] [] (some vd) with
      | .stop t => t
      | .go _ _ sl =>
        if base.toNat % 4 ≠ 0 then s.trap causeMisalign base
        else match winOf base.toNat with
          | .alias_ k o =>
            match s.aliasAccess base k o p false with
            | .stop t => t
            | .go us =>
              let c := s.cur.core
              let vals := us.map fun e => (e.1, aliasRead s s.agent c k e.2)
              let t := s.noteReads s.agent (us.map fun e => aliasKeys c k e.2)
              t.vdone (putLoad sl vd (fillLanes (8 * aliasUnit k) (oldDst sl vd) vals))
          | _ => s
    else
      match s.vready i [] [] (some vd) with
      | .stop t => t
      | .go _ _ _ =>
        if p ≠ 0 ∧ base.toNat % 4 ≠ 0 then s.trap causeMisalign base
        else s.vload i vd [] 8 fun sl => byteElems (sl.rp pg) base

/-- The bytes of a `vst` as units: the active bytes of each word (R108). -/
def wordUnits (ks : List (Nat × List (Option Nat))) (v : Vec) : List (List (Nat × Byte)) :=
  (List.range 8).map fun j =>
    (ks.filter fun e => e.1 / 4 == j).flatMap fun e => (realKeys e.2).map fun k => (k, BitVec.ofNat 8 (lane 8 e.1 v))

/-- `vst` (R106, R107, R248). As for `vld`, the base chooses the alias path. DEDUCED (assumption 93). -/
def execVst (pg : PReg) (vd rs : Reg) (off : BitVec 9) (s : State) : Out :=
  .next <|
    let base := vmBase s rs off
    let p := s.slot.rp pg
    match s.storeReady (.vst pg vd rs off) vd [] with
    | .stop t => t
    | .go v _ sl =>
      if p ≠ 0 ∧ base.toNat % 4 ≠ 0 then s.trap causeMisalign base
      else if p ≠ 0 ∧ inAlias base then
        match winOf base.toNat with
        | .alias_ k o =>
          match s.aliasAccess base k o p true with
          | .stop t => t
          | .go us =>
            let t := us.foldl (fun t e => t.aliasStore t.cur.core k e.2 (lane (8 * aliasUnit k) e.1 v)) s
            t.vdone sl
        | _ => s
      else
        match s.vaccess .vstore 1 (byteElems p base) with
        | .stop t => t
        | .go t ks => (t.storeUnits (wordUnits ks v)).vdone sl

/-- The address of a strided element (Table 6-2). -/
def strideAddr (s : State) (rs rt : Reg) (i : Nat) : Word := s.rx rs + BitVec.ofNat 64 i * s.rx rt

/-- The address of an indexed element (Table 6-2). -/
def indexAddr (s : State) (rs vi : Reg) (w i : Nat) : Word := s.rx rs + BitVec.ofInt 64 (laneS w i (s.slot.rv vi.toNat))

def execVlds (pg : PReg) (ew : BitVec 2) (vd rs rt : Reg) (s : State) : Out :=
  .next (s.vload (.vlds pg ew vd rs rt) vd [] (widthOf ew) fun sl => laneElems (widthOf ew) (sl.rp pg) (strideAddr s rs rt))
def execVsts (pg : PReg) (ew : BitVec 2) (vd rs rt : Reg) (s : State) : Out :=
  .next (s.vstore (.vsts pg ew vd rs rt) vd [] (widthOf ew) fun sl => laneElems (widthOf ew) (sl.rp pg) (strideAddr s rs rt))
def execVldx (pg : PReg) (ew : BitVec 2) (vd rs vi : Reg) (s : State) : Out :=
  .next (s.vload (.vldx pg ew vd rs vi) vd [vi] (widthOf ew) fun sl =>
    laneElems (widthOf ew) (sl.rp pg) (indexAddr s rs vi (widthOf ew)))
def execVstx (pg : PReg) (ew : BitVec 2) (vd rs vi : Reg) (s : State) : Out :=
  .next (s.vstore (.vstx pg ew vd rs vi) vd [vi] (widthOf ew) fun sl =>
    laneElems (widthOf ew) (sl.rp pg) (indexAddr s rs vi (widthOf ew)))

end Sys2Proof.Machine
end

