-- ==== Sys2Proof/Machine/Messaging.lean ====
section
/-!
DEFINITION. The messaging forms of the handler activation (R67 to R74).
-/
namespace Sys2Proof.Machine

/-! ### send, sendr, sendv -/

/-- Feature bit 10, PEER, of the capability of a core's partition (R25). -/
def peerBit (s : State) (c : Nat) : Bool := (capOf s c).getLsbD 10

/-- A static route is programmed for the partition of a core (R297). -/
def routed (s : State) (c n : Nat) : Bool :=
  match corePart s c with
  | some p => match s.parts.get? p with
    | some q => (q.routes.get? n).isSome
    | none => false
  | none => false

/-- The check of a send that fails first (R67), with its cause and value. `route` is the route number of a `sendr`. -/
def sendTrap (s : State) (h : Word) (cls : BitVec 2) (route : Option (BitVec 12)) : Option (Nat × Word) :=
  let c := s.cur.core
  if h.extractLsb' 0 5 ≠ 0 ∨ cls = 3 ∨ (route = none ∧ cls = 1) then some (causeBadhdr, h)
  else if cls ≠ 2 ∧ !coreIn s (corePart s c) (hdrDest h) then some (causeBadhdr, h)
  else if cls = 2 ∧ hdrDest h < 0x10000 ∧ !peerBit s c then some (causeBadhdr, h)
  else if hdrChan h = 63 then some (causeBadchan, 63)
  else match route with
    | some r => if routed s c r.toNat then none else some (causeBadroute, r.setWidth 64)
    | none => none

/-- A send is buffered at the tail of the activation's send buffer, or traps with SENDOVF as the 17th (R67). -/
def State.buffer (s : State) (m : Send) : State :=
  if 16 ≤ s.slot.sends.length then s.trap causeSendovf 16
  else s.modSlot fun sl => { sl with sends := sl.sends ++ [m] }.retire

/-- The effect of a send form (R67). -/
def State.send (s : State) (h : Word) (words : List Word) (route : Option (BitVec 12)) : State :=
  let cls := if route.isSome then 1 else h.extractLsb' 6 2
  match sendTrap s h cls route with
  | some (cause, v) => s.trap cause v
  | none => s.buffer (.msg h words cls (route.getD 0))

/-- The payload words of `send` and `sendr`: x[rp] on. -/
def payload (s : State) (rp : Reg) (n : BitVec 3) : List Word :=
  (List.range n.toNat).map fun i => s.rx (rp + BitVec.ofNat 5 i)

def execSend (rh rp : Reg) (n : BitVec 3) (s : State) : Out := .next (s.send (s.rx rh) (payload s rp n) none)
def execSendr (rh rp : Reg) (n : BitVec 3) (rr : Reg) (s : State) : Out :=
  .next (s.send (s.rx rh) (payload s rp n) (some ((s.rx rr).setWidth 12)))

/-- `sendv`: the payload is the low words of a vector register, whose number is checked (R57) before the header.
DEDUCED (assumption 16). -/
def execSendv (rh vs : Reg) (n : BitVec 3) (s : State) : Out :=
  .next <|
    match s.vready (.sendv rh vs n) [] [vs] none with
    | .stop t => t
    | .go _ _ sl =>
      s.send (s.rx rh) ((List.range n.toNat).map fun i => (sl.rv vs.toNat).extractLsb' (64 * i) 64) none

/-! ### Leaving the core -/

/-- What a buffered message leaves as: to a core, on a static route, or to an endpoint (Table 4-9, R312). -/
def msgBody (s : State) (c k : Nat) (h : Word) (words : List Word) (cls : BitVec 2) (route : BitVec 12) : Body :=
  let d := delivered h c cls words.length
  if cls = 0 then .chan (hdrDest h) (hdrChan h) d words none
  else if cls = 1 then .static (hdrDest h) (hdrChan h) d words route
  else
    let part := (corePart s c).getD 0
    let n := hdrDest h
    if n = 0x1FFFF then .copyReq part c d words
    else if 0x10000 ≤ n then .queueMsg part (n - 0x10000) d words
    else match s.parts.get? part with
      | some p => if (p.endpoints.get? n).isSome then .peerMsg part n d words c k else .noEndpoint part n d words
      | none => .noEndpoint part n d words

/-- What a buffered send leaves as. -/
def sendBody (s : State) (c k : Nat) : Send → Body
  | .msg h words cls route => msgBody s c k h words cls route
  | .token n count => .token n.toNat count.toNat none none (some c)
  | .reward r clear key tgt => .reward ((corePart s c).getD 0) r clear key tgt c []

/-- A buffered send leaves: it takes an outbound entry, is one of the slot's messages under way, and carries what it depends on
(R68, R133). -/
def State.sendOne (s : State) (c : Nat) (k : Fin 4) (m : Send) : State :=
  let id := s.nextId
  let deps := ((s.slotOf c k).flow.sends.headD [])
  let t := (s.queueOut c (sendBody s c k.val m)).modSlotOf c k fun sl =>
    { sl with sent := id :: sl.sent, flow := { sl.flow with sends := sl.flow.sends.drop 1 } }
  if deps.isEmpty then t else { t with carried := t.carried.put id deps }

/-- The buffered sends leave, in order (R68). DEDUCED (assumption 29). -/
def State.releaseSends (s : State) (c : Nat) (k : Fin 4) : List Send → State
  | [] => s.modSlotOf c k fun sl => { sl with sends := [], owed := sl.owed.map fun o => { o with sends := 0 } }
  | m :: ms => (s.sendOne c k m).releaseSends c k ms

/-- The outbound buffer has room for all the sends of a slot (R68). -/
def State.sendRoom (s : State) (c : Nat) (k : Fin 4) : Bool :=
  decide ((s.core c).outb.length + (s.slotOf c k).sends.length ≤ 16)

/-- The activation continues in the same slot as the handler of a channel (R70). Its x registers, `msgid`, `baywin`, ports and
vector registers carry over; `amoscope` and `tabsel` take their entry values (Table 5-2), and its predicates and `chstate.sel`
are unspecified (R75). Its regdem and baydem are those of the allocation that it has, not its record's. DEDUCED (assumption 10). -/
def State.startSucc (s : State) (c : Nat) (k : Fin 4) (ch : Nat) : State :=
  match (s.chan c ch).hrec with
  | none => s
  | some r =>
    let own := (s.slotOf c k).chan
    let s := if own = some ch then s else s.unbusy c own
    let n := s.free
    let s := s.modSlotOf c k fun sl =>
      { sl with
        wait := .none, pc := r.pc, left := r.budget, spawnb := r.budget, budget := r.budget, crit := false
        chan := some ch, fbuf := [], sends := [], early := [], pfx := none, begun := none, amoscope := 5, tabsel := 0
        sel := (Config.freeWord (n + 200)).setWidth 6, p := freeP n, instret := sl.instret + 1 }
    { s.clearResv c k with free := n + 256 }

/-- The rest of `exit` or `exit.succ`: the sends leave and it retires, once the outbound buffer has room for all of them; until then
the slot waits, and none of them leaves (R68, R133). DEDUCED (assumption 26). -/
def State.leave (s : State) (c : Nat) (k : Fin 4) (succ : Option Nat) : State :=
  if s.sendRoom c k then
    let s := s.releaseSends c k (s.slotOf c k).sends
    match succ with
    | none => s.endAct c k
    | some ch => s.startSucc c k ch
  else s.modSlotOf c k fun sl => { sl with wait := .release succ }

/-- `exit` (R69). A graph activation's exit is preceded by the fence of R226. -/
def execExit (s : State) : Out :=
  .next (if s.slot.task.isSome && s.sendsOut .fld then s else s.leave s.cur.core s.cur.slot none)

/-- `exit.succ` with its checks passed: it waits while the channel is busy with another activation, and otherwise marks it busy and
goes on (R70). DEDUCED (assumption 27). -/
def State.trySucc (s : State) (c : Nat) (k : Fin 4) (ch : Nat) : State :=
  if (s.chan c ch).busy && (s.slotOf c k).chan != some ch then s.modSlotOf c k fun sl => { sl with wait := .succ ch }
  else (s.modChan c ch fun q => { q with busy := true }).leave c k (some ch)

def execExitSucc (rs : Reg) (s : State) : Out :=
  .next <|
    let v := s.rx rs
    let c := s.cur.core
    match (s.chan c v.toNat).hrec with
    | none => s.trap causeBadchan v
    | some r =>
      if 62 < v.toNat then s.trap causeBadchan v
      else if s.slot.regdem < r.regdem ∨ s.slot.baydem < r.baydem then s.trap causeSuccdem v
      else s.trySucc c s.cur.slot v.toNat

/-! ### spawn -/

/-- `spawn` (R71): the request leaves at once, one of the slot's messages under way (R134), and the slot waits for the answer. -/
def execSpawn (rd rc rpc : Reg) (s : State) : Out :=
  .next <|
    let c := s.cur.core
    let t := s.rx rc
    let pc := s.rx rpc
    if !coreIn s (corePart s c) t.toNat then s.trap causeBadcore t
    else if pc.extractLsb' 0 2 ≠ 0 then s.trap causeMisfetch pc
    else
      let args := [s.rx 10, s.rx 11, s.rx 12, s.rx 13]
      (s.post (.core c) false
        (.spawnReq c s.cur.slot.val t.toNat (pc.setWidth 48) args s.slot.regdem s.slot.spawnb)).modSlot
        fun sl => { sl with wait := .spawn rd, sent := s.nextId :: sl.sent }

/-! ### waitm -/

/-- The oldest message of a channel that no activation has taken (R72). DEDUCED (assumption 28). -/
def Chan.untaken (q : Chan) : Option QEntry := q.queue.find? fun e => e.taken.isNone

/-- A message is taken by a slot's chain; it keeps its entry (R55). -/
def Chan.take (q : Chan) (seq : BitVec 32) (k : Nat) : Chan :=
  { q with queue := q.queue.map fun e => if e.seq == seq && e.taken.isNone then { e with taken := some k } else e }

/-- Seven payload words, zero beyond the message's. -/
def sevenWords (ws : List Word) : List Word := (List.range 7).map fun i => ws.getD i 0

/-- A slot with x10 to x17 loaded with a payload and a header. -/
def Slot.loadMsg (sl : Slot) (ws : List Word) (h : Word) : Slot :=
  let sl := ((sevenWords ws).zipIdx).foldl (fun sl p => sl.wx (BitVec.ofNat 5 (10 + p.2)) p.1) sl
  sl.wx 17 h

/-- A `waitm` of a slot takes a message (R72). -/
def State.takeMsg (s : State) (c : Nat) (k : Fin 4) (rd : Reg) (ch : Nat) (e : QEntry) : State :=
  (s.modChan c ch fun q => q.take e.seq k.val).modSlotOf c k fun sl =>
    { (((sl.loadMsg e.words e.hdr).wx rd e.hdr).retire) with wait := .none, taken := (ch, e.seq) :: sl.taken }

/-- Some slot of a core waits on a channel by `waitm`. -/
def waiting (s : State) (c ch : Nat) : Bool :=
  (s.core c).slots.toList.any fun sl => match sl.wait with
    | .waitm _ d _ => d == ch
    | _ => false

def execWaitm (rd rs : Reg) (s : State) : Out :=
  .next <|
    let v := s.rx rs
    let c := s.cur.core
    let q := s.chan c v.toNat
    if 62 < v.toNat ∨ q.en then s.trap causeBadchan v
    else match q.untaken with
      | some e =>
        if waiting s c v.toNat then
          { s.modSlot fun sl => { sl with wait := .waitm rd v.toNat s.nextId } with nextId := s.nextId + 1 }
        else s.takeMsg c s.cur.slot rd v.toNat e
      | none => { s.modSlot fun sl => { sl with wait := .waitm rd v.toNat s.nextId } with nextId := s.nextId + 1 }

/-! ### chmask, chpend, crit -/

def execChmask (rd rs rv : Reg) (s : State) : Out :=
  .next <|
    let v := s.rx rs
    let c := s.cur.core
    if 62 < v.toNat then s.trap causeBadchan v
    else (s.modChan c v.toNat fun q => { q with en := (s.rx rv).getLsbD 0 }).done rd (chStateWord s c v.toNat)

def execChpend (rd rs rv : Reg) (s : State) : Out :=
  .next <|
    let v := s.rx rs
    let c := s.cur.core
    if 62 < v.toNat then s.trap causeBadchan v
    else (s.modChan c v.toNat fun q => { q with pend := (s.rx rv).getLsbD 0 }).done rd (chStateWord s c v.toNat)

/-- `crit.on` (R74): a normal slot waits until slot 3 is idle. -/
def execCritOn (s : State) : Out :=
  .next <|
    if s.cur.slot.val < 3 && (s.slotOf s.cur.core 3).live then s.modSlot fun sl => { sl with wait := .critOn }
    else s.modSlot fun sl => { sl with crit := true }.retire

def execCritOff (s : State) : Out := .next (s.modSlot fun sl => { sl with crit := false }.retire)

end Sys2Proof.Machine
end

