-- ==== Sys2Proof/Machine/Mailbox.lean ====
section
/-!
DEFINITION. The mailbox and the selection logic of a core: arrival and flow control (R54, R68), dispatch (R57 to R61), the waits of
R68 to R74 as they end, budget traps (R63), fault replies (R93), TLB events (R91, R95) and report buffers (R336).
-/
namespace Sys2Proof.Machine

/-! ### Arrival -/

/-- The core and channel that a message is for. -/
def bodyDest : Body → Option (Nat × Nat)
  | .chan c ch _ _ _ => some (c, ch)
  | .static c ch _ _ _ => some (c, ch)
  | _ => none

/-- The messages of the network before one of them. -/
def netBefore : List Msg → Nat → List Msg
  | [], _ => []
  | x :: xs, id => if x.id = id then [] else x :: netBefore xs id

/-- A message may arrive: it is not held back, and no earlier message of its source to its core and channel is under way (R68). -/
def arrivable (s : State) (m : Msg) : Bool :=
  !m.heldBack && !(netBefore s.net m.id).any fun x =>
    x.src == m.src && (bodyDest m.body).isSome && bodyDest x.body == bodyDest m.body

/-- A message is queued, dropped or discarded: it is gone, and its outbound entry is reported to its sender (R54, R68); one of a peer
module is acknowledged (R314). -/
def State.finishMsg (s : State) (m : Msg) (there : Src) : State :=
  let s := s.dropMsg m.id
  match m.src with
  | .core d => if m.entry then s.post there false (.flow d m.id false) else s
  | .peerCore e => s.tell (.peerAck e)
  | _ => s

/-- A fault reply of R93 for a slot, or of R172 for a copy unit: one flit, high priority, channel 62, with the mark in coord1, from the
service core of the supergroup or the controller. DEDUCED (assumption 86). -/
def isReply (m : Msg) (mark : Nat) : Bool :=
  match m.body with
  | .chan c 62 h _ _ =>
    hdrPrio h && !h.getLsbD 5 && (h.extractLsb' 48 16).toNat == mark &&
      (match m.src with
        | .controller => true
        | .core d => d == serviceCore (sgOf c)
        | _ => false)
  | _ => false

/-- The mark of a slot's fault reply. -/
def markSlot : Nat := 0xFFFF

/-- The mark of a copy unit's fault reply. -/
def markCopy : Nat := 0xFFFE

/-- A message has the form of a reply, and so never enters the queue, also where no slot and no copy awaits it (R93, R172). -/
def formsReply (m : Msg) : Bool := isReply m markSlot || isReply m markCopy

/-- A message enters the queue of its channel with the next arrival number (Table 4-5), which a message that is dropped or discarded
does not take. DESIGN CHOICE (assumption 90). -/
def State.enqueue (s : State) (c ch : Nat) (h : Word) (words : List Word) (task : Option Task) : State :=
  let seq := (s.core c).seq
  (s.modChan c ch fun q => { q with queue := q.queue ++ [⟨seq, h, words, task, none⟩] }).modCore c fun co =>
    { co with seq := co.seq + 1 }

/-- A drop count, saturating (Table 4-4). -/
def satInc (n : BitVec 32) : BitVec 32 := if n = BitVec.allOnes 32 then n else n + 1

/-- A message without a queue is discarded and reported with NOCHAN (R54). -/
def State.nochan (s : State) (c : Nat) (h : Word) : State :=
  s.report (.mailbox c) (sgOf c) c (serviceWords causeNochan c 0 0 0 h)

/-- A message to a handle without an endpoint is reported to its sender's service core with NOEP (R312). -/
def State.noep (s : State) (who : Reporter) (h : Word) (handle : Nat) : State :=
  let c := hdrDest h
  s.report who (sgOf c) c (serviceWords causeNoep c 0 0 0 (BitVec.ofNat 64 handle))

/-- A message reaches a channel (R54). -/
def State.arrive (s : State) (m : Msg) (c ch : Nat) (h : Word) (words : List Word) (task : Option Task) : State :=
  let q := s.chan c ch
  match q.hrec with
  | none => (s.finishMsg m (.core c)).nochan c h
  | some r =>
    if ch = 63 then (s.finishMsg m (.core c)).nochan c h
    else if q.reserved.contains m.id then
      (((s.modChan c ch fun q => { q with reserved := q.reserved.filter (· ≠ m.id) }).enqueue c ch h words task)).finishMsg m
        (.core c)
    else if q.room then (s.enqueue c ch h words task).finishMsg m (.core c)
    else if r.rel then
      { s.modChan c ch fun q => { q with refused := q.refused ++ [m.id] } with
        net := s.net.map fun x => if x.id = m.id then { x with heldBack := true } else x }
    else (s.modChan c ch fun q => { q with drops := satInc q.drops }).finishMsg m (.core c)

/-- MESSAGE_ARRIVAL (R54, R312); a reply never enters the queue (R93, R172). -/
def execMessageArrival (m : Nat) (s : State) : Out :=
  .next <|
    match s.msg? m with
    | none => s
    | some x =>
      if !arrivable s x || formsReply x then s
      else match x.body with
        | .chan c ch h ws task => s.arrive x c ch h ws task
        | .noEndpoint p n h _ => (s.finishMsg x (.peer 0xFFFF)).noep (.hostEngine p) h n
        | _ => s

/-- FLOW_CONTROL_RETURN (R54, R68): the sender's entry is free, or a held-back message is sent again. -/
def execFlowControlReturn (m : Nat) (s : State) : Out :=
  .next <|
    match s.msg? m with
    | none => s
    | some x => match x.body with
      | .flow c entry retry =>
        let s := s.dropMsg m
        if retry then { s with net := s.net.map fun y => if y.id = entry then { y with heldBack := false } else y }
        else s.finishEntry c entry
      | _ => s

/-- SERVICE_REPORT_SEND (R336): the oldest report of a buffer leaves once channel 62 of the service core has room. -/
def execServiceReportSend (who : Reporter) (s : State) : Out :=
  .next <|
    match s.reports.find? fun p => p.1 == who with
    | none => s
    | some p =>
      match bodyDest p.2.body with
      | some (c, ch) =>
        if (s.chan c ch).room then { s with reports := s.reports.erase p, net := s.net ++ [p.2] } else s
      | none => s

/-! ### Dispatch -/

/-- A channel number of the search that begins after `last` (R60). -/
def searchFrom (last : Nat) : List Nat := (List.range 64).map fun i => (last + 1 + i) % 64

/-- The reward at the head of a core's channel 63 waits for no sweep, and has yet to hold dispatch or to go (R267). -/
def rewardDue (co : CoreSt) : Bool := !co.rewards.isEmpty && co.sweep.isNone && !co.cutHold

/-- Dispatch is held on a core, for a reward at the head of channel 63 or a launch, for every channel but 62 of a service core (R29,
R267). -/
def held (co : CoreSt) (c ch : Nat) : Bool :=
  (co.cutHold || rewardDue co || co.loadHold.isSome) && !(isServiceCore c && ch == 62)

/-- No activation runs on a core, but for one of channel 62 of a service core (R29, R267). It runs until its chain of successors has ended, and
is one of the channel on which the chain began. -/
def coreQuiet (s : State) (c : Nat) : Bool :=
  (s.core c).slots.toList.all fun sl => !sl.live || (isServiceCore c && sl.first == some 62)

/-- The team of a task has given up its cluster: no new activation of it starts (R234). -/
def teamOver (s : State) (c : Nat) (t : Option Task) : Bool :=
  let cl := s.cluster (clusterOf c)
  match t with
  | some t => cl.expired && (match cl.teams with
    | r :: _ => r.task == t
    | [] => false)
  | none => false

/-- A channel is eligible as R60 has it: bound, enabled and not busy, with a message, or with its pending bit set and none. A message that
a chain has taken by `waitm` is no head. -/
def Chan.startable (q : Chan) : Bool := q.hrec.isSome && q.en && !q.busy && (q.untaken.isSome || q.pend)

/-- A channel is eligible (R60), with the priority of its head, where nothing holds its dispatch (R29, R234, R267). -/
def eligible (s : State) (c ch : Nat) (hi : Bool) : Bool :=
  let q := s.chan c ch
  q.startable && !held (s.core c) c ch &&
    (match q.untaken with
      | some e => hdrPrio e.hdr == hi && !teamOver s c e.task
      | none => q.pend && !hi)

/-- The units of a core's handler pool that running activations hold (R145). -/
def bayUsed (co : CoreSt) (u : Nat) : Bool :=
  co.slots.toList.any fun sl => sl.live && decide (sl.bay ≤ u) && decide (u < sl.bay + sl.baydem)

/-- The first fit of some units in the handler pool of 32 (R59). -/
def bayFit (co : CoreSt) (dem : Nat) : Option Nat :=
  if dem = 0 then some 0
  else (List.range 32).find? fun u => decide (u + dem ≤ 32) && (span u dem).all fun v => !bayUsed co v

/-- Registers of the pool of 64 that are free (R57). -/
def poolFree (co : CoreSt) : Nat :=
  64 - (((co.slots.toList.take 3).filter Slot.live).map Slot.regdem).sum

/-- The idle normal slots, lowest first. -/
def idleNormal (co : CoreSt) : List (Fin 4) := [0, 1, 2].filter fun k => !(co.slots.get k).live

/-- What the selection logic does next (R60). -/
structure Pick where
  ch   : Nat
  slot : Fin 4
  bay  : Nat

/-- The next dispatch of R60: a high-priority head for slot 3, or else a normal one for the lowest idle normal slot. -/
def select (s : State) (c : Nat) : Option Pick :=
  let co := s.core c
  let demand := fun ch => ((s.chan c ch).hrec.map HandlerRec.baydem).getD 0
  let hiCh :=
    if !(co.slots.get 3).live && !co.slots.toList.any (fun sl => sl.live && sl.crit) then
      (searchFrom co.lastHi).find? fun ch => eligible s c ch true
    else none
  let hiFit := hiCh.bind fun ch => (bayFit co (demand ch)).map fun b => (⟨ch, 3, b⟩ : Pick)
  match hiFit with
  | some p => some p
  | none =>
    match idleNormal co with
    | [] => none
    | k :: _ =>
      match (searchFrom co.lastLo).find? fun ch => eligible s c ch false with
      | none => none
      | some ch =>
        let reg := ((s.chan c ch).hrec.map HandlerRec.regdem).getD 0
        match bayFit co (demand ch) with
        | none => none
        | some b =>
          if poolFree co < reg then none
          else if hiCh.isSome && demand ch ≠ 0 then none
          else some ⟨ch, k, b⟩

/-- `msgid` (Table 4-5). -/
def msgidOf (seq : BitVec 32) (c ch origin : Nat) : Word :=
  seq ++ BitVec.ofNat 17 c ++ BitVec.ofNat 6 ch ++ 0#7 ++ BitVec.ofNat 2 origin

/-- The x registers at entry: payload in x10 to x16 and a header in x17, the others unspecified (R61, R71). -/
def entryX (n : Nat) (args : List Word) (x17 : Word) : Vector Word 32 :=
  Vector.ofFn fun i =>
    if i.val = 0 then 0
    else if i.val = 17 then x17
    else if 10 ≤ i.val ∧ i.val ≤ 16 then args.getD (i.val - 10) 0
    else Config.freeWord (n + i.val)

/-- A slot at the entry of an activation (R61, R63, Table 5-1). DESIGN CHOICE (assumption 9). -/
def entrySlot (n : Nat) (pc : BitVec 48) (args : List Word) (x17 msgid : Word) (budget : BitVec 32) (regdem : Nat)
    (ports : PortDecl) (compat : Bool) : Slot :=
  { Slot.reset with
    live := true, pc := pc, x := entryX n args x17, v := freeV n, p := freeP n, sel := (Config.freeWord (n + 200)).setWidth 6
    left := budget, spawnb := budget, budget := budget, msgid := msgid, regdem := regdem, ports := ports, compat := compat }

/-- The base of a core's handler pool in the bay window, and a unit of it (R145). -/
def poolAddr (c unit : Nat) : Nat := 0x01000000 + (c / 8 % 16) * 0x80000 + 0x70000 + (c % 8) * 0x2000 + unit * 256

/-- What stays with a slot as an activation begins on it: its messages under way, what its fences owe (R134, R154), and the errors of
its register file, but for those of x10 to x17, which the entry writes (R61, R101). -/
def Slot.entered (new old : Slot) (net : List Msg) : Slot :=
  { new with
    sent := old.sent.filter fun i => net.any fun m => m.id == i
    owed := old.owed
    bad := old.bad.filter fun b => b < 80 ∨ 144 ≤ b }

/-- The service image takes a message of channel 62 (R155, R335): a page-fault message comes before the controller, and the rest
is left to its software. -/
def State.serviceTake (s : State) (c : Nat) (h : Word) (words : List Word) : State :=
  let w0 := words.getD 0 0
  let cause := (w0.extractLsb' 32 8).toNat
  let core := (w0.extractLsb' 15 17).toNat
  let isIt := fun (f : HeldFault) => f.core == core && !f.seen &&
    ((cause == causePage && !f.copy && f.slot == (w0.extractLsb' 0 2).toNat) || (cause == causeCpypage && f.copy))
  if s.ctl.faults.any fun p => isIt p.2 then
    { s with ctl := { s.ctl with faults := s.ctl.faults.map fun p => if isIt p.2 then (p.1, { p.2 with seen := true }) else p } }
  else s.tell (.service c h words)

/-- A dispatch (R60, R61). The contents of the bay allocation are unspecified (R59). An activation of channel 62 of a service core
runs the service image, which is at work from then on (R155). -/
def State.start (s : State) (c : Nat) (p : Pick) : State :=
  match (s.chan c p.ch).hrec with
  | none => s
  | some r =>
    let e := (s.chan c p.ch).untaken
    let n := s.free
    let seq := (e.map QEntry.seq).getD 0
    let mid := msgidOf seq c p.ch (if e.isSome then 0 else 1)
    let sl := entrySlot n r.pc ((e.map QEntry.words).getD []) ((e.map QEntry.hdr).getD 0) mid r.budget r.regdem r.ports
      r.compat
    let sl := { sl with
      chan := some p.ch, first := some p.ch, trigger := e.map QEntry.seq, pending := e.isNone
      task := e.bind QEntry.task, baydem := r.baydem, bay := p.bay
      wait := if isServiceCore c && p.ch == 62 then .service else .none
      baywin := if r.baydem = 0 then 0 else BitVec.ofNat 64 (poolAddr c p.bay) }
    let s := s.modChan c p.ch fun q =>
      let q := match e with
        | some e => q.take e.seq p.slot.val
        | none => { q with pend := false }
      { q with busy := true }
    let s := s.modCore c fun co => if p.slot = 3 then { co with lastHi := p.ch } else { co with lastLo := p.ch }
    let s := s.modSlotOf c p.slot fun old => sl.entered old s.net
    let key := (Place.bay (sgOf c)).key (poolAddr c p.bay - 0x01000000)
    let s := s.fillCells ((List.range (256 * r.baydem)).map fun i => (key + i, Config.freeByte (n + i)))
    { s with free := n + 256 + 256 * r.baydem }

/-- DISPATCH (R60): one dispatch of the selection logic. -/
def execDispatch (core : Nat) (s : State) : Out :=
  .next <| match select s core with
    | some p => s.start core p
    | none => s

/-! ### Waits -/

/-- EXIT_SEND_RELEASE (R68). -/
def execExitSendRelease (core k : Nat) (s : State) : Out :=
  .next <| match (s.slotOf core (slotIx k)).wait with
    | .release succ =>
      if s.sendRoom core (slotIx k) then
        (s.modSlotOf core (slotIx k) fun sl => { sl with wait := .none }).leave core (slotIx k) succ
      else s
    | _ => s

/-- SUCCESSOR_START (R70). -/
def execSuccessorStart (core k : Nat) (s : State) : Out :=
  .next <| match (s.slotOf core (slotIx k)).wait with
    | .succ ch =>
      if (s.chan core ch).busy || (s.slotOf core (slotIx k)).spent then s
      else (s.modSlotOf core (slotIx k) fun sl => { sl with wait := .none }).trySucc core (slotIx k) ch
    | _ => s

/-- The slots of a core that wait on a channel, with the moments at which their waits began; one whose budget is spent takes no
message (R63). -/
def waiters (s : State) (c ch : Nat) : List (Nat × Fin 4 × Reg) :=
  ([0, 1, 2, 3] : List (Fin 4)).filterMap fun k => match (s.slotOf c k).wait with
    | .waitm rd d t => if d = ch && !(s.slotOf c k).spent then some (t, k, rd) else none
    | _ => none

/-- The waiter whose wait began first. -/
def firstWaiter (l : List (Nat × Fin 4 × Reg)) : Option (Nat × Fin 4 × Reg) :=
  l.foldl (fun b w => match b with
    | none => some w
    | some v => if w.1 < v.1 then some w else b) none

/-- WAITM_TAKE (R72): the activation whose wait began first takes the oldest message. -/
def execWaitmTake (core ch : Nat) (s : State) : Out :=
  .next <| match firstWaiter (waiters s core ch), (s.chan core ch).untaken with
    | some (_, k, rd), some e => s.takeMsg core k rd ch e
    | _, _ => s

/-- CRIT_ON_GRANT (R74). -/
def execCritOnGrant (core k : Nat) (s : State) : Out :=
  .next <| match (s.slotOf core (slotIx k)).wait with
    | .critOn =>
      if (s.slotOf core 3).live || (s.slotOf core (slotIx k)).spent then s
      else s.modSlotOf core (slotIx k) fun sl => { sl with wait := .none, crit := true }.retire
    | _ => s

/-- A spawned child starts on a slot of the target (R71). -/
def State.startChild (s : State) (t : Nat) (k : Fin 4) (caller : Nat) (pc : BitVec 48) (args : List Word) (regdem : Nat)
    (budget : BitVec 32) : State :=
  let co := s.core t
  let sl := entrySlot s.free pc args (BitVec.ofNat 64 (caller * 2 ^ 15)) (msgidOf 0 t 0 2) budget regdem co.ports co.compat
  { s.modSlotOf t k fun old => sl.entered old s.net with free := s.free + 256 }

/-- SPAWN_REQUEST (R71): answered 0 while dispatch is held on the target (R29, R267); it waits while a reward there is yet to act. -/
def execSpawnRequest (m : Nat) (s : State) : Out :=
  .next <|
    match s.msg? m with
    | none => s
    | some x => match x.body with
      | .spawnReq c k t pc args reg bu =>
        let co := s.core t
        let hold := co.cutHold || co.loadHold.isSome
        if rewardDue co then s
        else
        let s := s.dropMsg m
        match idleNormal co with
        | j :: _ =>
          if !hold && decide (reg ≤ poolFree co) then
            (s.startChild t j c pc args reg bu).post (.core t) false (.spawnAns c k true)
          else s.post (.core t) false (.spawnAns c k false)
        | [] => s.post (.core t) false (.spawnAns c k false)
      | _ => s

/-- SPAWN_ANSWER (R71). -/
def execSpawnAnswer (m : Nat) (s : State) : Out :=
  .next <|
    match s.msg? m with
    | none => s
    | some x => match x.body with
      | .spawnAns c k ok =>
        let s := s.dropMsg m
        if 4 ≤ k then s
        else match (s.slotOf c (slotIx k)).wait with
          | .spawn rd => s.modSlotOf c (slotIx k) fun sl =>
            if sl.spent then sl else sl.answered rd (ofBool ok)
          | _ => s
      | _ => s

/-- A wait whose cycles are not counted toward the budget (R63): for outbound buffer space at `exit`, and at `exit.succ` too, and for a
fault reply. DEDUCED (assumption 26). -/
def uncounted : Wait → Bool
  | .release _ => true
  | .page _ => true
  | _ => false

/-- BUDGET (R63): the instruction or the wait of a slot whose budget is spent traps, with the record's budget as value; that of a
spawned child, which has no record, with the budget that it began with. DESIGN CHOICE (assumption 91). -/
def execBudget (core k : Nat) (s : State) : Out :=
  .next <|
    let sl := s.slotOf core (slotIx k)
    if sl.live && sl.left == 0 && !uncounted sl.wait then
      (s.rejoin core (slotIx k)).trapAt core (slotIx k) causeBudget (sl.budget.setWidth 64)
    else s

/-- INTERLOCK_RELEASE (R255, R268): the access of a slot whose row pair has closed is made again. -/
def execInterlockRelease (core k : Nat) (s : State) : Out :=
  .next <| match (s.slotOf core (slotIx k)).wait with
    | .interlock p =>
      if interlocked s core p then s else s.modSlotOf core (slotIx k) fun sl => { sl with wait := .none }
    | _ => s

/-! ### The service image (R155) -/

/-- The service image has handled the message of its activation, which ends as by `exit`; its effect is what the spec names.
DESIGN CHOICE (assumption 23). -/
def execServiceEnd (core k : Nat) (s : State) : Out :=
  .next <|
    let i := slotIx k
    match (s.slotOf core i).wait with
    | .service =>
      if (s.slotOf core i).spent then s
      else match (s.chan core 62).queue.find? fun e => e.taken == some i.val with
        | some e => (s.serviceTake core e.hdr e.words).endAct core i
        | none => s.endAct core i
    | _ => s

/-- The controller enables channel 62 of a service core again, which a trap of its activation has disabled (R155). -/
def execServiceEnable (core : Nat) (s : State) : Out :=
  .next <|
    if isServiceCore core && (s.chan core 62).hrec.isSome && !(s.chan core 62).en then
      s.modChan core 62 fun q => { q with en := true }
    else s

/-! ### Translation -/

/-- TLB_WALK_COMPLETE (R91). -/
def execTlbWalkComplete (core va : Nat) (fetch : Bool) (s : State) : Out :=
  .next (if winOf va == .paged then s.touchPage core fetch (va / 0x10000) else s)

/-- TLB_INVALIDATION (R95): later accesses of the core walk again. -/
def execTlbInvalidation (core : Nat) (s : State) : Out :=
  .next ((s.modCore core fun co => { co with itlb := [], dtlb := [] }).modCluster (clusterOf core) fun cl =>
    { cl with l2tlb := [] })

/-- FAULT_REPLY (R93): 0 performs the access again, 2 traps with NOEXEC, and any other value with ACCESS; an access made ahead of
instructions that stand behind does not trap before them and is made again. A reply that no slot awaits has no effect, and one without
payload words acts as 0. DESIGN CHOICE (assumptions 95 and 113). -/
def execFaultReply (m : Nat) (s : State) : Out :=
  .next <|
    match s.msg? m with
    | none => s
    | some x =>
      if !arrivable s x || !isReply x markSlot then s
      else match x.body with
        | .chan c _ h ws _ =>
          let k := slotIx (h.extractLsb' 32 2).toNat
          match (s.slotOf c k).wait with
          | .page va =>
            let s := (s.finishMsg x (.core c)).modSlotOf c k fun sl => { sl with wait := .none }
            let v := ws.getD 0 0
            if v = 0 || (s.slotOf c k).isAhead then s
            else if v = 2 then s.trapAt c k causeNoexec va
            else s.trapAt c k causeAccess va
          | _ => s.finishMsg x (.core c)
        | _ => s

/-- The ring tile of a number with one of its granules in error, if a tile stands there (R190). -/
def RingSt.hurt (r : RingSt) (n off : Nat) : RingSt :=
  let f : Option Tile → Option Tile := Option.map fun t => { t with bad := if t.bad.contains off then t.bad else off :: t.bad }
  let i : Fin 16 := Fin.ofNat 16 n
  if n < 16 then { r with sheaf := r.sheaf.set i (f (r.sheaf.get i)) } else { r with swath := r.swath.set i (f (r.swath.get i)) }

/-- SCRUB_ERROR (R101, R156): an uncorrectable error stands at a granule of memory, of a register file or of a ring tile, and the
controller is told of it alone. -/
def execScrubError (addr : Nat) (s : State) : Out :=
  .next <|
    let s := s.tell (.uncorrectable addr)
    let n := addr / 2 ^ 68
    let off := addr % 2 ^ 64 / 8 * 8
    if addr / 2 ^ 64 % 16 = 10 then
      s.modSlotOf (n / 4) (slotIx (n % 4)) fun sl => if sl.bad.contains off then sl else { sl with bad := off :: sl.bad }
    else if addr / 2 ^ 64 % 16 = 11 then s.modRing (n / 32) fun r => r.hurt (n % 32) off
    else if s.bad.any fun b => decide (b.key ≤ addr) && decide (addr < b.key + b.size) then s
    else { s with bad := ⟨addr / 8 * 8, 8, .any, false⟩ :: s.bad }

end Sys2Proof.Machine
end

