-- ==== Sys2Proof/Machine/Jobs.lean ====
section
/-!
DEFINITION. Jobs of the engine classes (R98, R99, R160 to R163): `cmd`, `jwait`, `jpoll`, `xfence` (R154), the checks of R21, faults,
completion and cancellation, pushes by nodes (R223), and the arbiter of R146.
-/
namespace Sys2Proof.Machine

/-! ### Fields of a command word (Table 2-12) -/

/-- A field of a command word. -/
def fld (w : Vec) (lo n : Nat) : Nat := w.toNat / 2 ^ lo % 2 ^ n

def cmdClass (w : Vec) : Nat := fld w 8 4
def cmdOpcode (w : Vec) : Nat := fld w 0 8
def cmdTarget (w : Vec) : BitVec 32 := BitVec.ofNat 32 (fld w 16 32)
def cmdSeal (w : Vec) : Bool := w.getLsbD 12

/-- No target. -/
def noTarget : BitVec 32 := BitVec.allOnes 32

/-! ### Jobs of a core and class -/

/-- The open job of a class: the last one, while it is not sealed. -/
def openJob (q : ClassQ) : Option Job :=
  match q.jobs.getLast? with
  | some j => if j.sealed then none else some j
  | none => none

/-- The jobs of a class that are not complete (R98). -/
def unfinished (q : ClassQ) : List Job := q.jobs.filter fun j => !j.faulted

/-- The open job is sealed; one that has faulted is then forgotten. -/
def ClassQ.sealOpen (q : ClassQ) : ClassQ :=
  { q with jobs := (q.jobs.map fun j => { j with sealed := true }).filter fun j => !j.faulted }

/-- A job of a class changed. -/
def ClassQ.modJob (q : ClassQ) (id : BitVec 16) (f : Job → Job) : ClassQ :=
  { q with jobs := q.jobs.map fun j => if j.id == id then f j else j }

/-- The next job of a class is opened: its id is fresh, so an older fault of that id is forgotten. -/
def ClassQ.opened (q : ClassQ) (node : Option Task) : ClassQ :=
  { q with
    nextid := q.nextid + 1
    faults := q.faults.filter fun f => f.1 ≠ q.nextid
    jobs := q.jobs ++ [⟨q.nextid, false, 0, 0, [], node, false, false, false, [], []⟩] }

/-- The classes whose units the arbiters of R146 choose, which take a command of a faulted job and discard it (R160). -/
def byTurn (cls : Nat) : Bool := cls == 1 || cls == 2

/-- A job of a class is not complete. -/
def ClassQ.lives (q : ClassQ) (id : BitVec 16) : Bool := (unfinished q).any fun j => j.id == id

/-- Every command of a job has completed and it is sealed: it is complete (R98), and completes next (R160, R162). -/
def Job.due (j : Job) : Bool := !j.faulted && j.sealed && j.left == 0

/-- A job of a class is to complete before the next command of the class begins (R160). -/
def ClassQ.due (q : ClassQ) : Bool := q.jobs.any Job.due

/-- A job of a class was opened since the job id `next` was its next one. -/
def ClassQ.since (q : ClassQ) (next id : BitVec 16) : Bool := decide ((id - next).toNat < (q.nextid - next).toNat)

/-- A fault report of a job for a target that is a well-formed node of the core's field (R162). -/
def State.reportFault (s : State) (c cls : Nat) (node : Option Task) (cause : Nat) (t : BitVec 32) : State :=
  if nodeIdOk s (corePart s c) t.toNat && nodeField t.toNat == coreField s c then
    s.post (.engine c cls) false (.fault t.toNat (node.map Task.graph) 2 cause)
  else s

/-- A job that faults with BADCLASS (R22, R98, R100); the target that its word names learns of it (R162). -/
def State.badClass (s : State) (c cls : Nat) (w : Vec) : State × BitVec 16 :=
  let id := (s.classQ c 1).nextid
  let s := s.modClassQ c 1 fun q =>
    { q with nextid := q.nextid + 1, faults := (id, 1) :: q.faults.filter fun f => f.1 ≠ id }
  let s := s.modCore c fun co => { co with fjob := id, fcause := 1, fclass := BitVec.ofNat 4 cls, badc := true }
  (s.reportFault c 1 none 1 (cmdTarget w), id)

/-- What `cmd` records with a word: the descriptors of the core for class 1 (R159), `rgpat` for class 3 (R192), the row pairs of an
interlocking command for class 4 (R255), and the cause with which an earlier command of its job has failed before its turn. -/
def recorded (co : CoreSt) (cls : Nat) (w : Vec) (job : BitVec 16) (node : Option Task) (il : List Nat) (fails : Option Nat) : Cmd :=
  { word := w, job := job, node := node, il := il, fails := fails
    desc := if cls = 1 then co.tdesc.toList else []
    rgpat := if cls = 3 ∧ node.isNone then some (co.rgpat.setWidth 64) else none }

/-- The row pairs of a class 4 command (Table 16-5); a count of 0 means 4096. -/
def rangeOf (w : Vec) : List Nat :=
  ((List.range (if fld w 112 16 = 0 then 4096 else min (fld w 112 16) 4096)).map (fld w 96 12 + ·)).filter (· < 4096)

/-- The row pairs that an interlocking class 4 command has yet to close (R255): at its push, those of its range. -/
def rowsOf (w : Vec) : List Nat :=
  if w.getLsbD 49 && (cmdOpcode w == 0x40 || cmdOpcode w == 0x41) then rangeOf w else []

/-- A word is pushed into the open job of its class (R98): it joins the queue, unless the job has faulted, in which case it is
discarded and a target that is new learns of the fault. DEDUCED (assumption 31). -/
def State.pushWord (s : State) (c cls : Nat) (w : Vec) (node : Option Task) : State :=
  match openJob (s.classQ c cls) with
  | none => s
  | some j =>
    let t := cmdTarget w
    let new := t ≠ noTarget ∧ !j.targets.contains t
    let s :=
      if j.faulted && new then
        let cause := (((s.classQ c cls).faults.find? fun f => f.1 == j.id).map fun f => f.2.toNat).getD 0
        s.reportFault c cls j.node cause t
      else s
    let s :=
      if j.faulted && !byTurn cls then s
      else s.modClassQ c cls fun q =>
        let fails := q.queue.findSome? fun m => if m.job == j.id then m.fails else none
        { q with queue := q.queue ++ [recorded (s.core c) cls w j.id node (if cls = 4 && fails.isNone then rowsOf w else []) fails] }
    let s := s.modClassQ c cls fun q => q.modJob j.id fun k =>
      { k with
        words := k.words + 1
        left := if k.faulted then 0 else k.left + 1
        targets := if t ≠ noTarget then k.targets ++ [t] else k.targets }
    if cmdSeal w || 16 ≤ j.words + 1 then s.modClassQ c cls ClassQ.sealOpen else s

/-- The queue of a class has a free word (R98). -/
def queueRoom (q : ClassQ) : Bool := decide (q.queue.length < 16)

/-- A job may be opened: fewer than 64 are not complete (R98). -/
def jobRoom (q : ClassQ) : Bool := decide ((unfinished q).length < 64)

/-- A node's push may be made (R98). -/
def nodeRoom (s : State) (c cls : Nat) : Bool := jobRoom (s.classQ c cls) && queueRoom (s.classQ c cls)

/-- A fired node's word waits to be pushed; the core's open job is sealed first (R98, R223). -/
def State.queueNode (s : State) (c cls : Nat) (w : Vec) (t : Task) : State :=
  s.modClassQ c cls fun q => { q.sealOpen with waiting := q.waiting ++ [(w, t)] }

/-- A node pushes its word: it seals a job that a slot has opened meanwhile, and forms a job of its own, sealed at once (R98, R223). The
answer is the state and the job's id. -/
def State.pushNode (s : State) (c cls : Nat) (w : Vec) (t : Task) : State × BitVec 16 :=
  let s := s.modClassQ c cls ClassQ.sealOpen
  let id := (s.classQ c cls).nextid
  let s := s.modClassQ c cls (ClassQ.opened · (some t))
  ((s.pushWord c cls w (some t)).modClassQ c cls ClassQ.sealOpen, id)

/-- The first waiting word of a fired node is pushed, if it may be: the node runs, and knows its job (R223).
DEDUCED (assumption 46). -/
def State.admitOne (s : State) (c cls : Nat) : State :=
  match (s.classQ c cls).waiting with
  | [] => s
  | (w, t) :: rest =>
    if nodeRoom s c cls then
      let s := s.modClassQ c cls fun q => { q with waiting := rest }
      let r := s.pushNode c cls w t
      r.1.modField (nodeField t.node) fun f =>
        match f.nodes.get? (nodeSlot t.node) with
        | some n =>
          if n.graph = t.graph then
            { f with nodes := f.nodes.put (nodeSlot t.node) { n with state := .running, job := some (c, cls, r.2.toNat) } }
          else f
        | none => f
    else s

/-- Waiting words are pushed while there is room. -/
def State.admitUpTo (s : State) (c cls : Nat) : Nat → State
  | 0 => s
  | n + 1 => if (s.classQ c cls).waiting.isEmpty || !nodeRoom s c cls then s else (s.admitOne c cls).admitUpTo c cls n

/-- The class 4 commands ahead of a sweep, after a change of the queue (R268). -/
def State.aheadOfSweep (s : State) (c cls : Nat) (f : List Cmd → List Cmd) : State :=
  if cls = 4 then
    s.modCore c fun co => { co with sweep := co.sweep.map fun w =>
      { w with ahead := (f ((co.jobs.get (clsIx 4)).queue.take w.ahead)).length } }
  else s

/-- A job faults (R160, R162, Table 5-11): the fault is recorded, and each distinct target learns of it. Its later commands are discarded:
those of a class with an arbiter as it takes them, the others at once. -/
def State.faultJob (s : State) (c cls : Nat) (id : BitVec 16) (cause : Nat) : State :=
  match (s.classQ c cls).jobs.find? fun j => j.id == id && !j.faulted with
  | none => s
  | some j =>
    let s := s.modCore c fun co =>
      { co with fjob := id, fcause := BitVec.ofNat 8 cause, fclass := BitVec.ofNat 4 cls
                fsticky := co.fsticky ||| BitVec.ofNat 5 (2 ^ (cls - 1)) }
    let s := (s.aheadOfSweep c cls fun l => l.filter fun m => m.job ≠ id).modClassQ c cls fun q =>
      { q with
        faults := (id, BitVec.ofNat 8 cause) :: q.faults
        queue := if byTurn cls then q.queue else q.queue.filter fun m => m.job ≠ id
        jobs := if j.sealed then q.jobs.filter fun k => k.id ≠ id
                else q.jobs.map fun k => if k.id == id then { k with faulted := true, left := 0 } else k
        hold := if (q.queue.head?.map Cmd.job) == some id then none else q.hold }
    let s := (j.targets ++ j.carried).dedup.foldl (fun s t => s.reportFault c cls j.node cause t) s
    s.admitUpTo c cls (s.classQ c cls).waiting.length

/-- `cmd` (R98). With no open job it waits until one may be opened, and opens it; then it waits until its word has room, and pushes
it. -/
def execCmd (rd vs : Reg) (s : State) : Out :=
  .next <|
    match s.vready (.cmd rd vs) [(vs, 32)] [] none with
    | .stop t => t
    | .go w _ sl =>
      let c := s.cur.core
      let cls := cmdClass w
      if cls < 1 ∨ 5 < cls then
        let r := s.badClass c cls w
        r.1.vdone (sl.wx rd (r.2.setWidth 64))
      else
        let q := s.classQ c cls
        if (openJob q).isNone && !jobRoom q then s
        else
          let t := if (openJob q).isSome then s else s.modClassQ c cls (ClassQ.opened · none)
          if !queueRoom q then t
          else
            let id := ((openJob (t.classQ c cls)).map Job.id).getD 0
            (t.pushWord c cls w none).vdone (sl.wx rd (id.setWidth 64))

/-- `jwait` (R99): it seals the open job once, then waits until at most n jobs are not complete. -/
def execJwait (n : BitVec 7) (cls : BitVec 4) (s : State) : Out :=
  .next <|
    let c := s.cur.core
    let k := cls.toNat
    let t := if s.slot.begun.isSome then s
      else (s.modClassQ c k ClassQ.sealOpen).modSlot fun sl => { sl with begun := some [] }
    if (unfinished (t.classQ c k)).length ≤ n.toNat then t.modSlot fun sl => { sl with begun := none }.retire else t

/-- The status of a job (R99). -/
def jobStatus (q : ClassQ) (j : BitVec 16) : Word :=
  if 4096 ≤ (q.nextid - 1 - j).toNat then 3
  else if (unfinished q).any fun k => k.id == j then 0
  else match q.faults.find? fun f => f.1 == j with
    | some f => BitVec.ofNat 64 (2 + f.2.toNat * 256)
    | none => 1

/-- `jpoll` (R99). -/
def execJpoll (rd rs : Reg) (cls : BitVec 4) (s : State) : Out :=
  .next <|
    let q := s.classQ s.cur.core cls.toNat
    s.done rd (if rs = 0 then BitVec.ofNat 64 (unfinished q).length else jobStatus q ((s.rx rs).setWidth 16))

/-! ### xfence -/

/-- The engine classes of an `xfence` mask (Table 2-10). -/
def maskClasses (m : BitVec 8) : List Nat :=
  [(1, 2), (2, 1), (3, 3), (4, 4), (5, 5)].filterMap fun p => if m.getLsbD p.1 then some p.2 else none

/-- The agent that runs a class for a core (Table 8-4). -/
def classAgent (s : State) (c cls : Nat) : Agent :=
  match cls with
  | 1 => .matrix (clusterOf c)
  | 2 => .copy (clusterOf c)
  | 3 => .ring (sgOf c)
  | 4 => .loft c
  | _ => .coll (coreField s c)

/-- The command at the head of a queue has begun, and its node was cancelled since (R163). -/
def headDead (s : State) (c cls : Nat) : Bool := ((s.classQ c cls).queue.head?.map Cmd.dead).getD false

/-- The writes not yet visible to all that a job made. -/
def State.jobWrites (s : State) (c cls : Nat) (id : BitVec 16) : List Nat :=
  (s.hidden.filter fun h => h.jobs.contains (c, cls, id)).map Hidden.id

/-- A job of the core `c`, issued before an `xfence` began which recorded the next job of each class. -/
def issuedBefore (s : State) (c : Nat) (begun : List (Nat × BitVec 16)) (j : Nat × Nat × BitVec 16) : Bool :=
  j.1 == c && begun.any fun e => e.1 == j.2.1 && !(s.classQ c j.2.1).since e.2 j.2.2

/-- The writes in the P of an `xfence` (R154): the slot's own, those that its core's jobs issued before it made, those that the reads of
these jobs returned (R129), and those that its own reads returned. `begun` holds the next job of each class as the `xfence` began. -/
def fenceWrites (s : State) (p : BitVec 8) (begun : List (Nat × BitVec 16)) : List Nat :=
  let own := if p.getLsbD 0 then s.ownWrites s.agent else []
  let eng := (s.hidden.filter fun h => (h.jobs ++ h.users).any (issuedBefore s s.cur.core begun)).map Hidden.id
  let read := (s.hidden.filter fun h => h.readers.contains s.agent && p.getLsbD (pathBit h.writer)).map Hidden.id
  let slotReads := if p.getLsbD 0 then s.readWrites s.agent else []
  own ++ eng ++ read ++ slotReads

/-- What an `xfence` owes: its messages are waited for before it retires (R154). -/
def crossOwed (s : State) (p q : BitVec 8) (begun : List (Nat × BitVec 16)) : Owed where
  id := s.nextId
  ids := fenceWrites s p begun
  flights := if p.getLsbD 0 then (s.slot.flights.filter fun f => f.reads || f.writes).map Flight.id else []
  reads := true
  writes := true
  msgs := []
  view := .classes s.agent q
  later := ⟨q.getLsbD 0, q.getLsbD 0, q.getLsbD 6, q &&& 0x3E ≠ 0⟩
  sends := s.slot.sends.length

/-- `xfence` (R154): it seals, and waits for the jobs issued before it and, with N, for the slot's messages; then it retires, and owes
that every access of P is performed with respect to the agents of the classes of its second set before any later access of those
classes. DESIGN CHOICE (assumption 22). -/
def execXfence (p q : BitVec 8) (s : State) : Out :=
  .next <|
    let c := s.cur.core
    let t : State := match s.slot.begun with
      | some _ => s
      | none =>
        let s := (maskClasses p).foldl (fun (s : State) k => s.modClassQ c k ClassQ.sealOpen) s
        s.modSlot fun sl => { sl with begun := some ((maskClasses p).map fun k => (k, (s.classQ c k).nextid)) }
    let begun := (t.slot.begun).getD []
    if begun.any fun e => (unfinished (t.classQ c e.1)).any fun j => !(t.classQ c e.1).since e.2 j.id then t
    else if p.getLsbD 6 && t.sendsOut .part then t
    else
      (t.owe (crossOwed t p q begun)).modSlot fun sl => { sl with begun := none }.retire

/-! ### Completion, cancellation, pushes by nodes -/

/-- The scope at which a job's writes are performed before it completes (R162, R308). -/
def classScope (cls : Nat) : Scope := if cls = 5 then .part else .fld

/-- The nodes that get a token when a job completes: the saved targets of the passes that it has restored (R200), the node whose own job it
is (R222), and the targets of its commands (R162); where a pass of it was saved, of those only the commands that have restored one
(R196). -/
def jobTokens (c cls : Nat) (j : Job) : List Body :=
  let tokens := fun (l : List (BitVec 32)) => l.map fun t => Body.token t.toNat 1 none none (some c)
  j.carried.map (fun t => Body.passToken t.toNat) ++
    if j.quiet then tokens j.resumed
    else match j.node with
      | some t => [.ownJob t c cls j.id.toNat]
      | none => tokens j.targets

/-- JOB_COMPLETE (R160, R162): the oldest job of a class, sealed and with no command left, completes. Before it sends a token its writes are
performed in the field; a collective's are performed in the partition (R308). -/
def execJobComplete (core cls job : Nat) (s : State) : Out :=
  .next <|
    match (unfinished (s.classQ core cls)) with
    | j :: _ =>
      if j.id.toNat = job ∧ j.sealed ∧ j.left = 0 then
        let s := s.modClassQ core cls fun q => { q with jobs := q.jobs.filter fun k => k.id ≠ j.id }
        let toks := jobTokens core cls j
        let s := if toks.isEmpty && cls ≠ 5 then s
          else s.perform (s.jobWrites core cls j.id) (.within (classScope cls) (classAgent s core cls))
        let s := s.admitUpTo core cls (s.classQ core cls).waiting.length
        toks.foldl (fun s b => s.post (.engine core cls) false b) s
      else s
    | [] => s

/-- The loft engines of a core can take a class 4 command: the jobs before it are complete, and no sweep stands ahead of it (R160, R254,
R268). -/
def loftReady (s : State) (c : Nat) : Bool :=
  !(s.classQ c 4).queue.isEmpty && !(s.classQ c 4).due && (match (s.core c).sweep with
    | some w => w.ahead != 0
    | none => true)

/-- The engine of a class has begun a command of a job (R163): a copy that has met a refused page (R172), the pass that a ring runs
(R201), a class 4 command at the head of its queue with no sweep ahead of it, which may have opened row pairs or not (R256), or a command
that has joined a collective instance (R308). DEDUCED (assumption 33). -/
def begun (s : State) (c cls : Nat) (id : BitVec 16) : Bool :=
  match cls with
  | 2 => (s.classQ c 2).queue.head?.any fun m => m.begun && m.job == id
  | 3 => match (s.ring (sgOf c)).pass with
    | some p => p.core == c && p.job == id
    | none => false
  | 4 => ((s.classQ c 4).queue.head?.map Cmd.job) == some id && loftReady s c &&
      (((s.classQ c 4).queue.head?.bind Cmd.run).isSome || (Config.freeWord s.free).getLsbD 0)
  | 5 => s.insts.any fun i => i.2.members.any fun m => m.core == c && m.job == id
  | _ => false

/-- The queued commands of a job that name a node are discarded (R163), but for the head where it has begun, which is marked if it names
the node itself. -/
def State.discardNamed (s : State) (c cls : Nat) (id : BitVec 16) (t : BitVec 32) (head : Bool) : State :=
  let named := fun (m : Cmd) => m.job == id && cmdTarget m.word == t
  let rest := fun (l : List Cmd) => l.filter fun m => !named m
  let f := fun (l : List Cmd) => match head, l with
    | true, m :: ms => (if named m then { m with dead := true } else m) :: rest ms
    | _, l => rest l
  let s := (s.aheadOfSweep c cls f).modClassQ c cls fun q => { q with queue := f q.queue }
  s.admitUpTo c cls (s.classQ c cls).waiting.length

/-- The cancelled node's commands on a core and class (R163): those that have not begun are discarded, and the job of each faults, unless
it is complete: at once, or once the command of it that has begun has completed. -/
def State.cancelOn (s : State) (c cls node : Nat) : State :=
  let t := BitVec.ofNat 32 node
  ((unfinished (s.classQ c cls)).filter fun j => !j.due && (j.targets.contains t || j.carried.contains t)).foldl (fun s j =>
    let s := if cls = 4 then { s with free := s.free + 1 } else s
    if begun s c cls j.id then
      let s := (s.modClassQ c cls fun q => q.modJob j.id fun k => { k with doomed := true }).discardNamed c cls j.id t (cls != 3)
      if cls = 3 then
        s.modRing (sgOf c) fun r => { r with pass := r.pass.map fun p =>
          if p.target == t || p.carried == some t then { p with dead := true } else p }
      else s
    else (s.faultJob c cls j.id 0x06).discardNamed c cls j.id t false) s

/-- The commands of a cancelled node on every core of its field (R163). -/
def State.cancelNode (s : State) (node : Nat) : State :=
  (s.cores.keys.filter fun c => coreField s c == nodeField node).foldl (fun s c =>
    [1, 2, 3, 4, 5].foldl (fun s k => s.cancelOn c k node) s) s

/-! ### Taking a command -/

/-- Every opcode (Table 2-13). -/
def opcodes : List Nat :=
  [0x10, 0x11, 0x12, 0x13, 0x14, 0x15, 0x20, 0x21, 0x22, 0x23, 0x30, 0x31, 0x32, 0x33, 0x34, 0x35, 0x40, 0x41, 0x50, 0x51]

/-- The common checks of a command (R21), in their order. -/
def commonCheck (s : State) (c : Nat) (w : Vec) : Option Nat :=
  let t := cmdTarget w
  if !opcodes.contains (cmdOpcode w) || cmdOpcode w / 16 != cmdClass w then some 0x02
  else if fld w 13 3 ≠ 0 then some 0x03
  else if t ≠ noTarget ∧ !(nodeIdOk s (corePart s c) t.toNat && nodeField t.toNat == coreField s c) then some 0x04
  else none

/-- The command at the head of a queue leaves it, performed; its job has one fewer left. A job whose node was cancelled meanwhile
faults now (R163). -/
def State.performed (s : State) (c cls : Nat) (m : Cmd) : State :=
  let doomed := (s.classQ c cls).jobs.any fun j => j.id == m.job && j.doomed
  let s := (s.aheadOfSweep c cls (List.drop 1)).modClassQ c cls fun q =>
    { q with queue := q.queue.drop 1, hold := none }.modJob m.job fun j => { j with left := j.left - 1 }
  if doomed then s.faultJob c cls m.job 0x06 else s.admitUpTo c cls (s.classQ c cls).waiting.length

/-- The command at the head of a queue leaves it unperformed. -/
def State.dropHead (s : State) (c cls : Nat) : State :=
  let s := s.modClassQ c cls fun q => { q with queue := q.queue.drop 1, hold := none }
  s.admitUpTo c cls (s.classQ c cls).waiting.length

/-- The command at the head of a queue fails, and its job with it (R160). -/
def State.failHead (s : State) (c cls : Nat) (m : Cmd) (cause : Nat) : State :=
  let s := s.faultJob c cls m.job cause
  if byTurn cls then s.dropHead c cls else s

/-- How often a write, not yet visible to all, has been read. -/
def readCount (s : State) (id : Nat) : Nat := ((s.hidden.find? fun h => h.id == id).map fun h => h.readers.length).getD 0

/-- The writes that have been made since a state are those of a job, and the reads since then are its reads (R153, R154). -/
def State.ofJob (t s : State) (c cls : Nat) (id : BitVec 16) : State :=
  { t with hidden := t.hidden.map fun h =>
      let h := if s.nextId ≤ h.id then { h with jobs := (c, cls, id) :: h.jobs } else h
      if readCount s h.id < h.readers.length ∧ !h.users.contains (c, cls, id) then { h with users := (c, cls, id) :: h.users } else h }

/-- A command taken at the head of a queue: discarded if its job has faulted; or else its checks, and then its effect, or its job's fault
(R160). DEDUCED (assumption 32). -/
def State.runCmd (s : State) (c cls : Nat) (check : Cmd → Option Nat) (effect : State → Cmd → State) : State :=
  match (s.classQ c cls).queue with
  | [] => s
  | m :: _ =>
    if byTurn cls && !(s.classQ c cls).lives m.job then s.dropHead c cls
    else match (commonCheck s c m.word).orElse fun _ => check m with
      | some cause => s.failHead c cls m cause
      | none => (effect s m).ofJob s c cls m.job

/-! ### The arbiter of R146 -/

/-- The requesters with weight 0 that have a unit: the first of them. -/
def zeroPick (wts : List Nat) (ready : List Bool) : Option Nat :=
  ((wts.zip ready).zipIdx.find? fun p => p.1.1 == 0 && p.1.2).map Prod.snd

/-- The next unit of R146: the requester, and the arbiter after it. `wts` are the weights in force, `ready` says which requesters
have a unit. -/
def arbNext (wts : List Nat) (ready : List Bool) : Nat → Arb → Option (Nat × Arb)
  | 0, _ => none
  | fuel + 1, a =>
    let n := ready.length
    if a.wts.length ≠ n then arbNext wts ready fuel ⟨0, wts.getD 0 0, false, wts⟩
    else if n ≤ a.pos then
      match (if a.ran then none else zeroPick a.wts ready) with
      | some r => some (r, ⟨0, 0, false, []⟩)
      | none => arbNext wts ready fuel ⟨0, wts.getD 0 0, false, wts⟩
    else if 0 < a.left ∧ ready.getD a.pos false then some (a.pos, { a with left := a.left - 1, ran := true })
    else arbNext wts ready fuel { a with pos := a.pos + 1, left := a.wts.getD (a.pos + 1) 0 }

end Sys2Proof.Machine
end

