-- ==== Sys2Proof/Machine/Matrix.lean ====
section
/-!
DEFINITION. The matrix engine (R158, R159, R164 to R168): tile registers, accumulators, and the class 1 commands.
-/
namespace Sys2Proof.Machine

/-! ### Descriptors and arrays -/

/-- A recorded tile descriptor (Table 9-1). -/
structure TDesc where
  rows  : Nat
  cols  : Nat
  fmt   : Nat
  tab   : Nat
  scale : Nat

/-- A descriptor read from its word. -/
def tdescOf (w : Word) : TDesc :=
  ⟨(w.extractLsb' 0 7).toNat, (w.extractLsb' 8 7).toNat, (w.extractLsb' 16 4).toNat, (w.extractLsb' 20 2).toNat,
    (w.extractLsb' 24 8).toNat⟩

/-- The element size of a format code (R159); 0 for a code that is not listed. -/
def esizeOf (fmt : Nat) : Nat :=
  if fmt = 1 then 4 else if fmt = 2 ∨ fmt = 3 then 2 else if fmt = 4 ∨ fmt = 5 ∨ fmt = 6 then 1 else 0

def TDesc.esize (d : TDesc) : Nat := esizeOf d.fmt

/-- A valid descriptor (R159). -/
def TDesc.ok (d : TDesc) : Bool :=
  d.esize != 0 && decide (1 ≤ d.rows) && decide (d.rows ≤ 64) && decide (1 ≤ d.cols) && decide (d.cols * d.esize ≤ 64)

/-- The descriptor recorded for a tile of a command. -/
def Cmd.tdesc (m : Cmd) (tile : Nat) : TDesc := tdescOf (m.desc.getD tile 0)

/-- The key of a byte of a tile register of a core. -/
def tileKey (c tile r b : Nat) : Nat := (Place.tile (c * 4 + tile)).key (r * 64 + b)

/-- The key of an accumulator element of a cluster. -/
def accKey (cl acc m n : Nat) : Nat := (Place.acc (cl * 8 + acc)).key ((m * 64 + n) * 4)

/-- An accumulator element, as FP32 bits. -/
def accElem (s : State) (cl acc m n : Nat) : Nat := natOfBytes ((span (accKey cl acc m n) 4).map s.byte)

/-- The pairs of two ranges, the first outermost. -/
def pairs (m n : Nat) : List (Nat × Nat) := (List.range m).flatMap fun i => (List.range n).map fun j => (i, j)

/-- The addresses of some rows lie in the bay window (R164). -/
def inBay (addr rows t len : Nat) : Bool :=
  decide (0x01000000 ≤ addr) && decide (addr + (rows - 1) * t + len ≤ 0x01800000)

/-- The key of a byte of the bay window of a core's supergroup. -/
def bayKey (c addr : Nat) : Nat := (Place.bay (sgOf c)).key (addr - 0x01000000)

/-- An engine meets an uncorrectable error: it is reported, and the command's job faults with UNCORR (R156, R161). -/
def State.cmdUncorr (s : State) (c cls : Nat) (m : Cmd) (b : BadGranule) : State :=
  (s.meetBad b).failHead c cls m 0x05

/-! ### mld, mldt, mst -/

/-- The operands of `mld`, `mldt` and `mst` (Table 9-2). -/
structure MemArgs where
  d    : TDesc
  tile : Nat
  addr : Nat
  t    : Nat
  /-- memory rows and the bytes of each -/
  rows : Nat
  len  : Nat

def memArgs (m : Cmd) : MemArgs :=
  let w := m.word
  let tile := fld w 48 2
  let d := m.tdesc tile
  let trans := cmdOpcode w == 0x11
  let rows := if trans then d.cols else d.rows
  let len := if trans then d.rows * d.esize else d.cols * d.esize
  let st := fld w 128 16
  ⟨d, tile, fld w 64 48, if st = 0 then len else st, rows, len⟩

/-- The checks of `mld`, `mldt` and `mst` (Table 9-5). -/
def memCheck (m : Cmd) : Option Nat :=
  let w := m.word
  let a := memArgs m
  if fld w 144 112 ≠ 0 ∨ fld w 112 16 ≠ 0 ∨ fld w 50 14 ≠ 0 then some 0x10
  else if !a.d.ok then some 0x11
  else if cmdOpcode w = 0x11 ∧ a.d.esize = 4 then some 0x12
  else if a.addr % 4 ≠ 0 ∨ a.t % 4 ≠ 0 then some 0x13
  else if !inBay a.addr a.rows a.t a.len then some 0x07
  else none

/-- The bay keys of a command's memory rows. -/
def memRowKeys (c : Nat) (a : MemArgs) : List (List Nat) :=
  (List.range a.rows).map fun r => span (bayKey c (a.addr + r * a.t)) a.len

/-- The tile key that byte `b` of memory row `r` belongs to: transposed for `mldt` (R165, R166). -/
def memTile (c : Nat) (trans : Bool) (a : MemArgs) (r b : Nat) : Nat :=
  if trans then tileKey c a.tile (b / a.d.esize) (r * a.d.esize + b % a.d.esize) else tileKey c a.tile r b

/-- `mld` and `mldt` (R165, R166). -/
def State.matLoad (s : State) (c : Nat) (m : Cmd) : State :=
  let a := memArgs m
  let ag := classAgent s c 1
  let rows := memRowKeys c a
  match s.badRead ag rows.flatten with
  | some b => s.cmdUncorr c 1 m b
  | none =>
    let cells := rows.zipIdx.flatMap fun row => row.1.zipIdx.map fun k =>
      (memTile c (cmdOpcode m.word == 0x11) a row.2 k.2, s.readByte ag k.1)
    match s.badPart ag (cells.map Prod.fst) with
    | some b => s.cmdUncorr c 1 m b
    | none => ((s.noteRead ag rows.flatten).setCells cells).performed c 1 m

/-- `mst` (R165): a higher row is written after a lower one. -/
def State.matStore (s : State) (c : Nat) (m : Cmd) : State :=
  let a := memArgs m
  let ag := classAgent s c 1
  let rows := memRowKeys c a
  let tiles := (pairs a.rows a.len).map fun p => tileKey c a.tile p.1 p.2
  match s.badRead ag tiles with
  | some b => s.cmdUncorr c 1 m b
  | none =>
    match s.badParts ag rows with
    | some b => s.cmdUncorr c 1 m b
    | none =>
      (rows.zipIdx.foldl (fun t row =>
        t.writeCells ag (row.1.zipIdx.map fun k => (k.1, s.byte (tileKey c a.tile row.2 k.2)))) s).performed c 1 m

/-! ### mma -/

/-- An element of the matrix engine: decoded, subnormals flushed, scaled exactly (R167). -/
def matElem (tab : T8Image) (fmt scale x : Nat) : Ex :=
  let f := numFmtOfCode (BitVec.ofNat 4 fmt) .fp32
  let v := decFmt f tab x
  let v := match f with
    | .fp32 => flushSub layFp32 v
    | .fp16 => flushSub layFp16 v
    | .bf16 => flushSub layBf16 v
    | _ => v
  v.mul (se53 scale)

/-- Row `r` of a tile given by its bytes, as the K elements of an operand of a product (R167). -/
def matRow (bytes : Nat → Nat → Byte) (tab : T8Image) (d : TDesc) (r : Nat) : List Ex :=
  (List.range d.cols).map fun k =>
    matElem tab d.fmt d.scale (natOfBytes ((List.range d.esize).map fun b => bytes r (k * d.esize + b)))

/-- The products of two rows in groups of 16 in order (R45). -/
def groups16 : Nat → List (Ex × Ex) → List (List (Ex × Ex))
  | 0, _ => []
  | _ + 1, [] => []
  | fuel + 1, ps => ps.take 16 :: groups16 fuel (ps.drop 16)

/-- One accumulator element after a product (R45, R167). -/
def matDot (acc : Nat) (a b : List Ex) : Nat := groupAcc acc (groups16 64 (a.zip b))

/-- The bytes of a tile register of a core. -/
def tileBytes (s : State) (c tile : Nat) : Nat → Nat → Byte := fun r b => s.byte (tileKey c tile r b)

/-- The operands of `mma`: accumulator and the two tiles. -/
def mmaArgs (m : Cmd) : Nat × Nat × Nat := (fld m.word 48 3, fld m.word 52 2, fld m.word 54 2)

/-- The checks of `mma` (Table 9-5). -/
def mmaCheck (m : Cmd) : Option Nat :=
  let w := m.word
  let a := m.tdesc (mmaArgs m).2.1
  let b := m.tdesc (mmaArgs m).2.2
  if fld w 56 200 ≠ 0 ∨ fld w 51 1 ≠ 0 then some 0x10
  else if !a.ok || !b.ok then some 0x11
  else if a.cols ≠ b.cols ∨ a.esize ≠ b.esize then some 0x12
  else none

/-- `mma` (R167). -/
def State.mma (s : State) (c : Nat) (m : Cmd) : State :=
  let (acc, ta, tb) := mmaArgs m
  let a := m.tdesc ta
  let b := m.tdesc tb
  let cl := clusterOf c
  let ag := classAgent s c 1
  let keysOf := fun (tile : Nat) (d : TDesc) => (pairs d.rows (d.cols * d.esize)).map fun p => tileKey c tile p.1 p.2
  let accs := (pairs a.rows b.rows).flatMap fun p => span (accKey cl acc p.1 p.2) 4
  match s.badRead ag (keysOf ta a ++ keysOf tb b ++ accs) with
  | some g => s.cmdUncorr c 1 m g
  | none =>
    let ra := (List.range a.rows).map (matRow (tileBytes s c ta) (tableImage s c a.tab) a)
    let rb := (List.range b.rows).map (matRow (tileBytes s c tb) (tableImage s c b.tab) b)
    let cells := (pairs a.rows b.rows).flatMap fun p =>
      cellsAt (accKey cl acc p.1 p.2) (bytesOf 4 (matDot (accElem s cl acc p.1 p.2) (ra.getD p.1 []) (rb.getD p.2 [])))
    (s.setCells cells).performed c 1 m

/-! ### mzero, macc.st -/

/-- The checks of `mzero`. -/
def mzeroCheck (m : Cmd) : Option Nat := if fld m.word 51 205 ≠ 0 then some 0x10 else none

/-- `mzero` (R168). -/
def State.mzero (s : State) (c : Nat) (m : Cmd) : State :=
  let key := accKey (clusterOf c) (fld m.word 48 3) 0 0
  (s.setCells ((span key 16384).map fun k => (k, 0))).performed c 1 m

/-- The operands of `macc.st` (Table 9-3). -/
structure AccArgs where
  acc  : Nat
  fmt  : Nat
  addr : Nat
  rows : Nat
  cols : Nat
  t    : Nat

def accArgs (m : Cmd) : AccArgs :=
  let w := m.word
  let full := fun n => if n = 0 then 64 else n
  let cols := full (fld w 152 7)
  let fmt := fld w 52 4
  let st := fld w 128 16
  ⟨fld w 48 3, fmt, fld w 64 48, full (fld w 144 7), cols, if st = 0 then cols * esizeOf fmt else st⟩

/-- The checks of `macc.st` (Table 9-5). -/
def accCheck (m : Cmd) : Option Nat :=
  let w := m.word
  let a := accArgs m
  if fld w 159 97 ≠ 0 ∨ fld w 151 1 ≠ 0 ∨ fld w 112 16 ≠ 0 ∨ fld w 56 8 ≠ 0 ∨ fld w 51 1 ≠ 0 ∨ 64 < a.rows ∨ 64 < a.cols ∨
      a.fmt < 1 ∨ 3 < a.fmt then some 0x10
  else if a.addr % 4 ≠ 0 ∨ a.t % 4 ≠ 0 then some 0x13
  else if !inBay a.addr a.rows a.t (a.cols * esizeOf a.fmt) then some 0x07
  else none

/-- The bytes of an accumulator element in a floating format (R168). -/
def accBytes (fmt x : Nat) : List Byte :=
  if fmt = 2 then bytesOf 2 (encFloat layFp16 .rne (dec32 x))
  else if fmt = 3 then bytesOf 2 (encFloat layBf16 .rne (dec32 x))
  else bytesOf 4 (rne32 (dec32 x))

/-- The keys of the accumulator elements and of the memory rows of an accumulator store. -/
def accReads (cl : Nat) (a : AccArgs) : List Nat :=
  (pairs a.rows a.cols).flatMap fun p => span (accKey cl a.acc p.1 p.2) 4
def accRows (cl : Nat) (a : AccArgs) : List (List Nat) :=
  (List.range a.rows).map fun r => span (bayKey (cl * 8) (a.addr + r * a.t)) (a.cols * esizeOf a.fmt)

/-- The bad granule that an accumulator store meets (R156, R161). -/
def accBad (s : State) (ag : Agent) (cl : Nat) (a : AccArgs) : Option BadGranule :=
  (s.badRead ag (accReads cl a)).orElse fun _ => s.badParts ag (accRows cl a)

/-- The effect of `macc.st` by an agent (R168): a higher row is written after a lower one. -/
def State.accStore (s : State) (ag : Agent) (cl : Nat) (a : AccArgs) : State :=
  (accRows cl a).zipIdx.foldl (fun t row =>
    t.writeCells ag (row.1.zip ((List.range a.cols).flatMap fun n => accBytes a.fmt (accElem s cl a.acc row.2 n)))) s

/-- `macc.st` (R168). -/
def State.maccSt (s : State) (c : Nat) (m : Cmd) : State :=
  let ag := classAgent s c 1
  match accBad s ag (clusterOf c) (accArgs m) with
  | some b => s.cmdUncorr c 1 m b
  | none => (s.accStore ag (clusterOf c) (accArgs m)).performed c 1 m

/-! ### Units of the engine -/

/-- The type of a match-table entry of a ring. -/
def entryType (s : State) (sg e : Nat) : Nat :=
  match (s.ring sg).entries[e]? with
  | some x => (x.raw.extractLsb' 24 2).toNat
  | none => 3

/-- The cores of a supergroup that have ring commands, in the order of the ring's next search (R180). -/
def ringOrder (s : State) (sg : Nat) : List Nat :=
  let cs := s.cores.keys.filter fun c => sgOf c == sg && !(s.classQ c 3).queue.isEmpty
  let at_ := sg * 128 + (s.ring sg).rr
  cs.filter (at_ ≤ ·) ++ cs.filter (· < at_)

/-- The command that an idle ring takes next (R180). -/
def ringNext (s : State) (sg : Nat) : Option (Nat × Cmd) :=
  if (s.ring sg).pass.isSome then none
  else (ringOrder s sg).head?.bind fun c => (s.classQ c 3).queue.head?.map fun m => (c, m)

/-- The accumulator store of `rgout` (Table 11-10). -/
def rgoutAcc (w : Vec) : AccArgs :=
  let full := fun n => if n = 0 then 64 else n
  let cols := full (fld w 152 7)
  let st := fld w 128 16
  ⟨fld w 56 3, fld w 60 4, fld w 64 48, full (fld w 144 7), cols, if st = 0 then cols * esizeOf (fld w 60 4) else st⟩

/-- `rgout` sets a field that its kind leaves zero, or one out of range (Table 11-10, Table 11-13). -/
def rgoutBad (w : Vec) : Bool :=
  let kind := fld w 52 2
  fld w 159 97 != 0 || fld w 151 1 != 0 || fld w 112 16 != 0 || fld w 59 1 != 0 || fld w 55 1 != 0 || kind == 3 ||
    (kind == 0 && (decide (fld w 60 4 < 1) || decide (3 < fld w 60 4) || decide (64 < (rgoutAcc w).rows) ||
      decide (64 < (rgoutAcc w).cols))) ||
    (kind != 0 && (fld w 60 4 != 0 || fld w 56 3 != 0 || fld w 152 7 != 0 || fld w 144 7 != 0))

/-- The checks of an `rgout` of an accumulator (R197, Table 11-13). -/
def rgoutAccCheck (w : Vec) : Option Nat :=
  let a := rgoutAcc w
  if rgoutBad w then some 0x10
  else if a.addr ≠ 0 ∧ (a.addr % 4 ≠ 0 ∨ a.t % 4 ≠ 0) then some 0x13
  else if a.addr ≠ 0 ∧ !inBay a.addr a.rows a.t (a.cols * esizeOf a.fmt) then some 0x07
  else none

/-- The ring's next command is an `rgout` of the accumulator of a cluster's engine, which is one unit of it (R197). -/
def rgoutWaits (s : State) (cl : Nat) : Bool :=
  match ringNext s (cl / 16) with
  | some (c, m) => cmdOpcode m.word == 0x33 && fld m.word 52 2 == 0 && fld m.word 48 4 == cl % 16 &&
      (commonCheck s c m.word).isNone && (rgoutAccCheck m.word).isNone
  | none => false

/-- A station offers a task of type 0 or 1 to its engine, or the ring has an `rgout` or an accumulator to clear for it (R146, R184,
R195, R197). -/
def stationReady (s : State) (cl : Nat) : Bool :=
  let sg := cl / 16
  match (s.ring sg).pass with
  | some p => (p.zero.any fun z => z.1 == cl) || p.offers.any fun t => t.station == cl % 16 && entryType s sg t.entry != 2
  | none => rgoutWaits s cl

/-- The engine of a cluster runs an encounter task. -/
def stationBusy (s : State) (cl : Nat) : Bool :=
  let sg := cl / 16
  match (s.ring sg).pass with
  | some p => p.tasks.any fun t => t.station == cl % 16 && entryType s sg t.entry != 2
  | none => false

/-- The weights of the matrix engine's requesters: `matwt` of the eight cores and `ringwt` of core 0 (Table 8-2). -/
def matWeights (s : State) (cl : Nat) : List Nat :=
  ((List.range 8).map fun r => ((s.core (cl * 8 + r)).engwt.extractLsb' 0 4).toNat) ++
    [((s.core (cl * 8)).engwt.extractLsb' 8 4).toNat]

/-- Which requesters of the matrix engine have a unit: the eight cores, and the station. -/
def matReady (s : State) (cl : Nat) : List Bool :=
  ((List.range 8).map fun r => !(s.classQ (cl * 8 + r) 1).queue.isEmpty) ++ [stationReady s cl]

/-- The matrix engine's next unit: the requester and the arbiter after it (R146). -/
def matPick (s : State) (cl : Nat) : Option (Nat × Arb) :=
  if stationBusy s cl then none else arbNext (matWeights s cl) (matReady s cl) 64 (s.cluster cl).matArb

/-- With no unit left for the matrix engine, its arbiter's next pass begins anew (R146). -/
def State.restMat (s : State) (cl : Nat) : State :=
  if (s.cluster cl).matArb == .reset || stationBusy s cl || (matReady s cl).any id then s
  else s.modCluster cl fun q => { q with matArb := .reset }

/-- The opcode at the head of a class of a core. -/
def headOp (s : State) (c cls : Nat) : Option Nat := (s.classQ c cls).queue.head?.map fun m => cmdOpcode m.word

/-- A unit of the matrix engine whose opcode the row takes. Every unit waits for the completion of the jobs of its core and class that are
before it (R160). -/
def State.matUnit (s : State) (cl : Nat) (takes : Nat → Bool) (check : Cmd → Option Nat)
    (effect : State → Nat → Cmd → State) : State :=
  match matPick s cl with
  | some (r, a) =>
    let c := cl * 8 + r
    match (if r < 8 then headOp s c 1 else none) with
    | some op =>
      if takes op && !(s.classQ c 1).due then (s.modCluster cl fun q => { q with matArb := a }).runCmd c 1 check fun s m => effect s c m
      else s
    | none => s
  | none => s

/-- MLD; a unit with an opcode of no class 1 row is taken here and faults (R21). -/
def execMld (cluster : Nat) (s : State) : Out :=
  .next (s.matUnit cluster (fun op => !(op ∈ [0x11, 0x12, 0x13, 0x14, 0x15])) memCheck State.matLoad)
def execMldt (cluster : Nat) (s : State) : Out := .next (s.matUnit cluster (· == 0x11) memCheck State.matLoad)
def execMst (cluster : Nat) (s : State) : Out := .next (s.matUnit cluster (· == 0x12) memCheck State.matStore)
def execMma (cluster : Nat) (s : State) : Out := .next (s.matUnit cluster (· == 0x13) mmaCheck State.mma)
def execMzero (cluster : Nat) (s : State) : Out := .next (s.matUnit cluster (· == 0x14) mzeroCheck State.mzero)
def execMaccSt (cluster : Nat) (s : State) : Out := .next (s.matUnit cluster (· == 0x15) accCheck State.maccSt)

end Sys2Proof.Machine
end

