-- ==== Sys2Proof/Machine/Copy.lean ====
section
/-!
DEFINITION. The copy unit (R169 to R175): the class 2 commands, staged whole, their page faults (R172) and the reply to them.
-/
namespace Sys2Proof.Machine

/-- A move of a copy: source and destination addresses, and its bytes. An address is an exact integer; one below 0 or above 48 bits
lies in no window. -/
structure Move where
  src : Int
  dst : Int
  n   : Nat

/-- The operands of a copy command (Table 9-4). -/
structure CopyArgs where
  op    : Nat
  src   : Nat
  dst   : Nat
  n     : Nat
  m     : Nat
  ss    : Int
  ds    : Int
  es    : Nat
  ilist : Nat

def copyArgs (w : Vec) : CopyArgs :=
  let n := fld w 112 16
  ⟨cmdOpcode w, fld w 64 48, fld w 128 48, if n = 0 then 65536 else n, fld w 176 16, toSigned 32 (fld w 192 32),
    toSigned 32 (fld w 224 32), 2 ^ fld w 48 2, fld w 192 48⟩

/-- The bytes that a copy stages and writes (R169). -/
def CopyArgs.total (a : CopyArgs) : Nat :=
  if a.op = 0x20 then a.n
  else if a.op = 0x22 then a.m * a.n
  else if a.op = 0x21 then a.n * a.es
  else a.m * a.n * a.es

/-- The checks of a copy command that need its word alone, up to MISALIGN (Table 9-5, R174). -/
def copyCheck (m : Cmd) : Option Nat :=
  let w := m.word
  let a := copyArgs w
  let bad :=
    fld w 50 14 ≠ 0 ∨
    (a.op = 0x20 ∧ (fld w 176 80 ≠ 0 ∨ fld w 48 2 ≠ 0)) ∨
    (a.op = 0x22 ∧ fld w 48 2 ≠ 0) ∨
    (a.op = 0x21 ∧ (fld w 240 16 ≠ 0 ∨ fld w 176 16 ≠ 0 ∨ 16384 < a.n))
  if bad then some 0x10
  else if ((a.op = 0x22 ∨ a.op = 0x23) ∧ a.m = 0) ∨ 65536 < a.total then some 0x14
  else if a.op = 0x21 ∧ (a.ilist % 4 ≠ 0 ∨ a.dst % a.es ≠ 0) then some 0x13
  else if a.op = 0x23 ∧ (a.src % a.es ≠ 0 ∨ a.dst % a.es ≠ 0 ∨ a.ss % a.es ≠ 0 ∨ a.ds % a.es ≠ 0) then some 0x13
  else none

/-- The moves of a copy in the order of its entry (R173 to R175); `offs` are the offsets of an index list. -/
def copyMoves (a : CopyArgs) (offs : List Nat) : List Move :=
  if a.op = 0x20 then [⟨a.src, a.dst, a.n⟩]
  else if a.op = 0x22 then (List.range a.m).map fun r => ⟨a.src + r * a.ss, a.dst + r * a.ds, a.n⟩
  else if a.op = 0x21 then offs.zipIdx.map fun o => ⟨a.src + (o.1 : Int), a.dst + ((o.2 * a.es : Nat) : Int), a.es⟩
  else (pairs a.m a.n).map fun p =>
    ⟨a.src + p.1 * a.ss + ((p.2 * a.es : Nat) : Int), a.dst + p.2 * a.ds + ((p.1 * a.es : Nat) : Int), a.es⟩

/-- A core's view without its own TLB: the copy unit translates through the cluster's TLB alone (R170). -/
def copyView (s : State) (c : Nat) : State := s.modCore c fun co => { co with dtlb := [] }

/-- A range resolved in a core's view, as the copy unit resolves it (R170). -/
def copyRes (s : State) (c : Nat) (a : Acc) (va : Int) (n : Nat) : Res :=
  if va < 0 ∨ (2 : Int) ^ 48 ≤ va then .access else resolve (copyView s c) c a va.toNat n

/-- A range that leaves every window, straddles two, or lies in an alias window (R170). -/
def copyOut (s : State) (c : Nat) (a : Acc) (va : Int) (n : Nat) : Bool :=
  match copyRes s c a va n with
  | .access | .alias_ .. => true
  | _ => false

/-- The first address of a range whose page refuses the access, of its first byte on the page. DESIGN CHOICE (assumption 98). -/
def copyFault (s : State) (c : Nat) (a : Acc) (va : Int) (n : Nat) : Option Nat :=
  match copyRes s c a va n with
  | .fault b => some b
  | _ => none

/-- The keys of a range. -/
def copyKeys (s : State) (c : Nat) (a : Acc) (va : Int) (n : Nat) : List (Option Nat) :=
  match copyRes s c a va n with
  | .keys ks => ks
  | _ => []

/-- The offsets of an index list as the copy unit reads them. -/
def listOffs (s : State) (c : Nat) (a : CopyArgs) : List Nat :=
  (List.range a.n).map fun i =>
    natOfBytes (s.readRes (classAgent s c 2) (copyKeys s c .load ((a.ilist + 4 * i : Nat) : Int) 4))

/-- What a copy command does next. -/
inductive Plan where
  | fault (cause : Nat)
  | bad (b : BadGranule)
  | page (a : Acc) (va : Nat)
  /-- an address reaches an interlocked row pair (R255, R268) -/
  | wait
  | go (moves : List Move)

/-- The row pair interlocks of a list of ranges. -/
def copyLocked (s : State) (c : Nat) (ms : List Move) : Bool :=
  ms.any fun m => (firstInterlock s c m.src.toNat m.n).isSome || (firstInterlock s c m.dst.toNat m.n).isSome

/-- The pages of a list of ranges up to the page of an address: those that have been translated when it is refused. -/
def upToPage (pages : List Nat) (va : Nat) : List Nat := pages.takeWhile (· ≠ va / 0x10000) ++ [va / 0x10000]

/-- The pages of the sources and of the destinations of some moves. -/
def srcPages (ms : List Move) : List Nat := ms.flatMap fun m => pagesOf m.src.toNat m.n
def dstPages (ms : List Move) : List Nat := ms.flatMap fun m => pagesOf m.dst.toNat m.n

/-- What comes of some moves once their pages are translated: interlocks, then errors of the bytes read and of the granules written in
part, each element taken by itself. DESIGN CHOICE (assumption 104). -/
def planData (s : State) (c : Nat) (ms : List Move) : Plan :=
  if copyLocked s c ms then .wait
  else
    let ag := classAgent s c 2
    match s.badRead ag (ms.flatMap fun m => realKeys (copyKeys s c .load m.src m.n)) with
    | some b => .bad b
    | none =>
      match s.badParts ag (ms.map fun m => realKeys (copyKeys s c .store m.dst m.n)) with
      | some b => .bad b
      | none => .go ms

/-- The plan of some moves, with the pages translated for it (R170, R171): windows, then the pages of the sources, then those of the
destinations. The order of the pages, and that word 3 of a refused one is its first byte, are a DESIGN CHOICE (assumption 98). -/
def planMoves (s : State) (c : Nat) (ms : List Move) : Plan × List Nat :=
  if ms.any fun m => copyOut s c .load m.src m.n || copyOut s c .store m.dst m.n then (.fault 0x07, [])
  else match ms.findSome? fun m => copyFault s c .load m.src m.n with
    | some va => (.page .load va, upToPage (srcPages ms) va)
    | none =>
      match ms.findSome? fun m => copyFault s c .store m.dst m.n with
      | some va => (.page .store va, srcPages ms ++ upToPage (dstPages ms) va)
      | none => (planData s c ms, srcPages ms ++ dstPages ms)

/-- A source element of `cpyg` fails its checks: MISALIGN before ACCESS, then its page (R174). -/
def elemPlan (s : State) (c es : Nat) (m : Move) : Option Plan :=
  if m.src % es ≠ 0 then some (.fault 0x13)
  else if copyOut s c .load m.src m.n then some (.fault 0x07)
  else (copyFault s c .load m.src m.n).map fun va => .page .load va

/-- The page that a plan finds refused. -/
def Plan.refused : Plan → List Nat
  | .page _ va => [va / 0x10000]
  | _ => []

/-- The plan of the source elements of `cpyg`, in ascending order: the first one that fails gives the outcome (R174). -/
def planElems (s : State) (c es : Nat) (ms : List Move) : Plan × List Nat :=
  match ms.findSome? (elemPlan s c es) with
  | some p => (p, srcPages (ms.takeWhile fun m => (elemPlan s c es m).isNone) ++ p.refused)
  | none => (planData s c ms, srcPages ms)

/-- What a copy command does next, with the pages translated for it: its moves, once its index list is read. The pages of the list and of
the destination are translated before the list is read (R171, R174, Table 9-5), which waits at an interlocked row pair (R255). -/
def copyPlan (s : State) (c : Nat) (w : Vec) : Plan × List Nat :=
  let a := copyArgs w
  if a.op = 0x21 then
    let lists := pagesOf a.ilist (4 * a.n)
    let dsts := pagesOf a.dst (a.n * a.es)
    if copyOut s c .store a.dst (a.n * a.es) || copyOut s c .load a.ilist (4 * a.n) then (.fault 0x07, [])
    else match copyFault s c .load a.ilist (4 * a.n), copyFault s c .store a.dst (a.n * a.es) with
      | some va, _ => (.page .load va, upToPage lists va)
      | none, some va => (.page .store va, lists ++ upToPage dsts va)
      | none, none =>
        if (firstInterlock s c a.ilist (4 * a.n)).isSome then (.wait, lists ++ dsts)
        else match s.badRead (classAgent s c 2) (realKeys (copyKeys s c .load a.ilist (4 * a.n))) with
          | some b => (.bad b, lists ++ dsts)
          | none =>
            let p := planElems s c a.es (copyMoves a (listOffs s c a))
            (p.1, lists ++ dsts ++ p.2)
  else planMoves s c (copyMoves a [])

/-- A page of the copy's is looked up: a walk fills the cluster's TLB and is counted (R91, R170). -/
def State.touchL2 (s : State) (c pn : Nat) : State :=
  if (tlbFind (s.cluster (clusterOf c)).l2tlb pn).isSome then s
  else match leafOf (s.pageTable (corePart s c)) pn with
    | none => s
    | some l =>
      let s := s.countWalk c pn l
      if l.state == .present then
        s.modCluster (clusterOf c) fun cl => { cl with l2tlb := l2Add cl.l2tlb pn l }
      else s

/-- A page fault of a copy (R172): the service message, and the command waits. -/
def State.copyPage (s : State) (c : Nat) (m : Cmd) (a : Acc) (va : Nat) : State :=
  let v := BitVec.ofNat 64 va
  let s := s.report (.copyUnit (clusterOf c)) (sgOf c) c (serviceWords causeCpypage c 0 (m.job.setWidth 64) 0 v)
  (s.modClassQ c 2 fun q =>
    { q with hold := some v, queue := q.queue.modifyHead fun h => { h with begun := true } }).holdFault
    { core := c, slot := 0, copy := true, kind := a.num, va := v, seen := false, asked := false, moved := movingAt s c va }

/-- The whole source is read, then the destination is written, move after move (R171). `u` is the state with the pages translated; the
bytes are where the translations of `s` say. -/
def State.copyGo (s u : State) (c : Nat) (m : Cmd) (ms : List Move) : State :=
  let ag := classAgent s c 2
  let data := ms.map fun mv => (mv, s.readRes ag (copyKeys s c .load mv.src mv.n))
  let lists := if cmdOpcode m.word = 0x21 then
    let a := copyArgs m.word
    realKeys (copyKeys s c .load a.ilist (4 * a.n)) else []
  let u := u.noteRead ag (lists ++ ms.flatMap fun mv => realKeys (copyKeys s c .load mv.src mv.n))
  (data.foldl (fun t d => t.writeCells ag ((realKeys (copyKeys s c .store d.1.dst d.1.n)).zip d.2)) u).performed c 2 m

/-- A copy command (R169 to R175): its pages are translated, then it acts. -/
def State.copyCmd (s : State) (c : Nat) (m : Cmd) : State :=
  let p := copyPlan s c m.word
  let u := p.2.dedup.foldl (fun s pn => s.touchL2 c pn) s
  match p.1 with
  | .fault cause => u.failHead c 2 m cause
  | .bad b => u.cmdUncorr c 2 m b
  | .page a va => u.copyPage c m a va
  | .wait => u
  | .go ms => s.copyGo u c m ms

/-- The head of a core's copy queue has a unit that can run: it holds no page fault and reaches no interlocked row pair. -/
def copyReady (s : State) (c : Nat) : Bool :=
  let q := s.classQ c 2
  match q.queue with
  | [] => false
  | m :: _ =>
    !q.lives m.job || q.hold.isNone && (match (commonCheck s c m.word).orElse fun _ => copyCheck m with
      | some _ => true
      | none => match (copyPlan s c m.word).1 with
        | .wait => false
        | _ => true)

/-- Which of the cores of a cluster have a unit for the copy unit. -/
def copyReadies (s : State) (cl : Nat) : List Bool := (List.range 8).map fun r => copyReady s (cl * 8 + r)

/-- The copy unit's next unit (R146). -/
def copyPick (s : State) (cl : Nat) : Option (Nat × Arb) :=
  arbNext ((List.range 8).map fun r => ((s.core (cl * 8 + r)).engwt.extractLsb' 4 4).toNat) (copyReadies s cl) 64
    (s.cluster cl).copyArb

/-- With no unit left for the copy unit, its arbiter's next pass begins anew (R146). -/
def State.restCopy (s : State) (cl : Nat) : State :=
  if (s.cluster cl).copyArb == .reset || (copyReadies s cl).any id then s
  else s.modCluster cl fun q => { q with copyArb := .reset }

/-- A unit of the copy unit whose opcode the row takes. -/
def State.copyUnit (s : State) (cl : Nat) (takes : Nat → Bool) : State :=
  match copyPick s cl with
  | some (r, a) =>
    let c := cl * 8 + r
    match headOp s c 2 with
    | some op =>
      if takes op && !(s.classQ c 2).due then
        (s.modCluster cl fun q => { q with copyArb := a }).runCmd c 2 copyCheck fun s m => s.copyCmd c m
      else s
    | none => s
  | none => s

/-- CPY; a unit with an opcode of no class 2 row is taken here and faults (R21). -/
def execCpy (cluster : Nat) (s : State) : Out := .next (s.copyUnit cluster fun op => !(op ∈ [0x21, 0x22, 0x23]))
def execCpyg (cluster : Nat) (s : State) : Out := .next (s.copyUnit cluster (· == 0x21))
def execCpys (cluster : Nat) (s : State) : Out := .next (s.copyUnit cluster (· == 0x22))
def execCpyt (cluster : Nat) (s : State) : Out := .next (s.copyUnit cluster (· == 0x23))

/-- COPY_FAULT_REPLY (R172): 0 translates again, in the copy's next turn, and any other value faults the job with ACCESS; a reply that no
copy awaits has no effect. DESIGN CHOICE (assumption 98). -/
def execCopyFaultReply (m : Nat) (s : State) : Out :=
  .next <|
    match s.msg? m with
    | none => s
    | some x =>
      if !arrivable s x || !isReply x markCopy then s
      else match x.body with
        | .chan c _ _ ws _ =>
          match (s.classQ c 2).hold, (s.classQ c 2).queue with
          | some _, h :: _ =>
            let s := s.finishMsg x (.core c)
            if ws.getD 0 0 = 0 then s.modClassQ c 2 fun q => { q with hold := none }
            else s.failHead c 2 h 0x07
          | _, _ => s.finishMsg x (.core c)
        | _ => s

end Sys2Proof.Machine
end

