-- ==== Sys2Proof/Machine/ClusterOps.lean ====
section
/-!
DEFINITION. The cluster forms (R149 to R152) and the Gleaner (R147, R148).
-/
namespace Sys2Proof.Machine

/-! ### Cluster rounds -/

/-- A cluster form (Table 8-3). -/
inductive CForm where
  | add | fadd | min | max | bar | bc | xch
deriving DecidableEq, Repr

def CForm.num : CForm → Nat
  | .add => 0
  | .fadd => 1
  | .min => 2
  | .max => 3
  | .bar => 4
  | .bc => 5
  | .xch => 6

/-- A slot joins the round of its core, once no other cluster operation of the core is in flight (R149). -/
def State.joinRound (s : State) (i : Instr) (f : CForm) (rd : Reg) (val arg : Word) : State :=
  let c := s.cur.core
  if (f = .bc ∨ f = .xch) ∧ 7 < arg.toNat then s.trap causeCluarg arg
  else if (s.core c).join.isSome then s
  else
    (s.modCore c fun co => { co with join := some ⟨s.cur.slot.val, f.num, val, arg, (wordOf i).setWidth 32⟩ }).modSlot
      fun sl => { sl with wait := .round rd }

def execCredAdd (rd rs : Reg) (s : State) : Out := .next (s.joinRound (.credAdd rd rs) .add rd (s.rx rs) 0)
def execCredFadd (rd rs : Reg) (s : State) : Out := .next (s.joinRound (.credFadd rd rs) .fadd rd (s.rx rs) 0)
def execCredMin (rd rs : Reg) (s : State) : Out := .next (s.joinRound (.credMin rd rs) .min rd (s.rx rs) 0)
def execCredMax (rd rs : Reg) (s : State) : Out := .next (s.joinRound (.credMax rd rs) .max rd (s.rx rs) 0)
def execCbar (s : State) : Out := .next (s.joinRound .cbar .bar 0 0 0)
def execCbc (rd rs rc : Reg) (s : State) : Out := .next (s.joinRound (.cbc rd rs rc) .bc rd (s.rx rs) (s.rx rc))
def execCxch (rd rs rc : Reg) (s : State) : Out := .next (s.joinRound (.cxch rd rs rc) .xch rd (s.rx rs) (s.rx rc))

/-- The contribution of a core to its round; a slot whose budget is spent no longer takes part (R63, R149). -/
def contribution (s : State) (c : Nat) : Option Join :=
  (s.core c).join.filter fun j => !(s.slotOf c (slotIx j.slot)).spent

/-- The contributions to a round of a cluster, in core order; none until all eight cores have joined. -/
def contributions (s : State) (cl : Nat) : Option (List Join) :=
  (List.range 8).mapM fun r => contribution s (cl * 8 + r)

/-- The smaller and the larger of two signed values. -/
def sminW (a b : Word) : Word := if b.slt a then b else a
def smaxW (a b : Word) : Word := if a.slt b then b else a

/-- The result of a round for the participant that named `arg` (R150, R152). -/
def roundResult (js : List Join) (form : Nat) (arg : Word) : Word :=
  let ys := js.map Join.val
  match form with
  | 0 => ys.foldl (· + ·) 0
  | 1 => BitVec.ofNat 64 (faddChain (ys.map fun y => y.toNat % 2 ^ 32))
  | 2 => (ys.drop 1).foldl sminW (ys.getD 0 0)
  | 3 => (ys.drop 1).foldl smaxW (ys.getD 0 0)
  | 4 => 0
  | _ => ys.getD arg.toNat 0

/-- The participants of a round agree: one form, and for `cbc` one x[rc] (R149, R152). -/
def agree (js : List Join) : Bool :=
  match js with
  | j :: rest => rest.all fun k => k.form == j.form && (j.form != 5 || k.arg == j.arg)
  | [] => false

/-- The round of a core moves on. -/
def State.nextRound (s : State) (c : Nat) : State :=
  s.modCore c fun co => { co with round := co.round + 1, join := none }

/-- A participant gets its result; `cbar` orders its accesses on path L at cluster scope (R151). -/
def State.roundDone (s : State) (c : Nat) (j : Join) (v : Word) : State :=
  let k := slotIx j.slot
  let ag := Agent.slot c j.slot
  let s := if j.form = 4 then s.perform (s.ownWrites ag ++ s.readWrites ag) (.within .clu ag) else s
  (s.modSlotOf c k fun sl => match sl.wait with
    | .round rd => sl.answered rd v
    | _ => sl).nextRound c

/-- CLUSTER_ROUND_COMPLETE (R149). -/
def execClusterRoundComplete (cluster : Nat) (s : State) : Out :=
  .next <|
    match contributions s cluster with
    | none => s
    | some js =>
      if agree js then
        js.zipIdx.foldl (fun s p => s.roundDone (cluster * 8 + p.2) p.1 (roundResult js p.1.form p.1.arg)) s
      else
        js.zipIdx.foldl (fun s p =>
          (s.trapAt (cluster * 8 + p.2) (slotIx p.1.slot) causeClumis (p.1.word.setWidth 64)).nextRound (cluster * 8 + p.2)) s

/-! ### The task pool -/

/-- A record's team waits for the cluster: its records stand in the swap area (R234). -/
def swappedOut (cl : ClusterSt) (r : TaskRec) : Bool :=
  r.tb != 0 && (match cl.teams with
    | t :: _ => t.task != r.task
    | [] => false)

/-- The records that stand in a pool: up to 256; younger ones wait for space (R147, R220). -/
def poolRecs (s : State) (cl : Nat) : List TaskRec :=
  ((s.cluster cl).pool.filter fun r => !swappedOut (s.cluster cl) r).take 256

/-- The core has room for a record's message (R147). -/
def recEligible (s : State) (r : TaskRec) (c : Nat) : Bool :=
  (match r.only with
    | some d => d == c
    | none => true) && (s.chan c (hdrChan r.hdr)).room

/-- The idle normal slots of a core, counted. -/
def idleCount (s : State) (c : Nat) : Nat := (idleNormal (s.core c)).length

/-- The eligible core with the most idle normal slots, the lowest-numbered on ties (R147). -/
def recCore (s : State) (cl : Nat) (r : TaskRec) : Option Nat :=
  ((List.range 8).map (cl * 8 + ·)).foldl (fun best c =>
    if recEligible s r c then
      match best with
      | some b => if idleCount s b < idleCount s c then some c else some b
      | none => some c
    else best) none

/-- A record of a team leaves only while its team is resident and keeps the cluster (R234). -/
def teamMay (s : State) (cl : Nat) (r : TaskRec) : Bool :=
  r.tb == 0 || (match (s.cluster cl).teams with
    | t :: _ => t.task == r.task && !(s.cluster cl).expired
    | [] => false)

/-- The oldest record of a pool that can leave, with its core. DESIGN CHOICE (assumption 116). -/
def nextRec (s : State) (cl : Nat) : Option (TaskRec × Nat) :=
  (poolRecs s cl).findSome? fun r => if teamMay s cl r then (recCore s cl r).map fun c => (r, c) else none

/-- TASK_RECORD_DELIVERY (R147): the record leaves as a message, and its room in the queue is kept for it. -/
def execTaskRecordDelivery (cluster : Nat) (s : State) : Out :=
  .next <|
    match nextRec s cluster with
    | none => s
    | some (r, c) =>
      let ch := hdrChan r.hdr
      let s := s.modCluster cluster fun cl => { cl with pool := cl.pool.erase r }
      let s := s.modChan c ch fun q => { q with reserved := q.reserved ++ [s.nextId] }
      s.post (.pool cluster) false (.chan c ch (delivered r.hdr (r.home * 8) 0 r.words.length) r.words (some r.task))

/-! ### Stealing -/

/-- A record that a thief may take (R147, R234). -/
def stealable (r : TaskRec) : Bool := !r.pinned

/-- A cluster is idle (R148). -/
def clusterIdle (s : State) (cl : Nat) : Bool :=
  !(poolRecs s cl).any stealable &&
    (List.range 8).all fun r =>
      let c := cl * 8 + r
      (idleNormal (s.core c)).length == 3 &&
        (s.core c).chans.keys.all fun ch => !(s.chan c ch).startable

/-- STEAL_PROBE (R148). -/
def execStealProbe (cluster : Nat) (s : State) : Out :=
  .next <|
    let cl := s.cluster cluster
    if clusterIdle s cluster && !cl.asking && !cl.backoff then
      let victim := cluster / 16 * 16 + (cluster % 16 + cl.probe) % 16
      (s.modCluster cluster fun cl => { cl with probe := cl.probe % 15 + 1, asking := true }).post (.gleaner cluster) false
        (.stealReq cluster victim)
    else s

/-- The channel of a record is bound on some core of a cluster. -/
def boundIn (s : State) (cl : Nat) (r : TaskRec) : Bool :=
  (List.range 8).any fun k => (s.chan (cl * 8 + k) (hdrChan r.hdr)).hrec.isSome

/-- The records that a victim ships to a thief, from the young end of its pool (R147, R148). DEDUCED (assumption 47). -/
def shipment (s : State) (victim thief : Nat) : List TaskRec :=
  let n := ((poolRecs s victim).filter stealable).length
  let cand := ((poolRecs s victim).filter fun r => stealable r && boundIn s thief r).reverse
  (cand.take (min ((n + 1) / 2) 8)).reverse

/-- STEAL_REQUEST (R148). -/
def execStealRequest (m : Nat) (s : State) : Out :=
  .next <|
    match s.msg? m with
    | none => s
    | some x => match x.body with
      | .stealReq thief victim =>
        let recs := shipment s victim thief
        ((s.dropMsg m).modCluster victim fun cl => { cl with pool := recs.foldl (fun p r => p.erase r) cl.pool }).post
          (.gleaner victim) false (.stealAns thief recs)
      | _ => s

/-- STEAL_ANSWER (R148): the records join the young end of the pool. DESIGN CHOICE (assumption 117). -/
def execStealAnswer (m : Nat) (s : State) : Out :=
  .next <|
    match s.msg? m with
    | none => s
    | some x => match x.body with
      | .stealAns thief recs =>
        (s.dropMsg m).modCluster thief fun cl =>
          if recs.isEmpty then
            { cl with asking := false, empty := cl.empty + 1, backoff := decide (cl.empty + 1 = 15) }
          else { cl with asking := false, pool := cl.pool ++ recs, empty := 0, backoff := false }
      | _ => s

/-- STEAL_BACKOFF (R148): the wait of 256 cycles after 15 empty answers ends. -/
def execStealBackoff (cluster : Nat) (s : State) : Out :=
  .next <|
    if (s.cluster cluster).backoff then s.modCluster cluster fun cl => { cl with backoff := false, empty := 0 } else s

end Sys2Proof.Machine
end

