-- ==== Sys2Proof/Machine/Ring.lean ====
section
/-!
DEFINITION. The ring of a supergroup (R179 to R203): its commands, the steps and laps of a pass, encounter tasks of the three types,
saving and restoring, cancellation and ring faults.
-/
namespace Sys2Proof.Machine

/-! ### Tiles and the table -/

/-- The bytes of a row of a tile. -/
def TDesc.len (d : TDesc) : Nat := d.cols * d.esize

/-- The descriptor of a tile of the ring. -/
def Tile.d (t : Tile) : TDesc := tdescOf (t.desc.setWidth 64)

/-- The core whose view a supergroup's ring uses for the bay window. -/
def ringCore (sg : Nat) : Nat := sg * 128

/-- A region of rows in the bay, by its keys. -/
def ringRows (sg addr rows t len : Nat) : List (List Nat) :=
  (List.range rows).map fun r => span (bayKey (ringCore sg) (addr + r * t)) len

/-- Fields of a match-table entry (Table 11-6). -/
def MatchEntry.sheaf (e : MatchEntry) : BitVec 8 := e.raw.extractLsb' 0 8
def MatchEntry.swath (e : MatchEntry) : BitVec 8 := e.raw.extractLsb' 8 8
def MatchEntry.typ (e : MatchEntry) : Nat := (e.raw.extractLsb' 24 2).toNat
def MatchEntry.acc (e : MatchEntry) : Nat := (e.raw.extractLsb' 30 3).toNat
def MatchEntry.core (e : MatchEntry) : Nat := (e.raw.extractLsb' 33 3).toNat
def MatchEntry.chan (e : MatchEntry) : Nat := (e.raw.extractLsb' 36 6).toNat
def MatchEntry.dsto (e : MatchEntry) : Nat := (e.raw.extractLsb' 43 21).toNat

/-- An entry breaks Table 11-6, or names channel 63 (R194). -/
def MatchEntry.bad (e : MatchEntry) : Bool :=
  e.raw.extractLsb' 42 1 != 0 || e.raw.extractLsb' 26 4 != 0 || e.raw.extractLsb' 16 8 != 0 || e.typ == 3 ||
    (e.typ != 1 && e.dsto != 0) || (e.typ != 2 && (e.chan != 0 || e.core != 0)) || (e.typ != 0 && e.acc != 0) || e.chan == 63

/-- Two entries name the same pair (R194). -/
def dupEntry : List MatchEntry → Bool
  | [] => false
  | e :: es => (es.any fun f => f.sheaf == e.sheaf && f.swath == e.swath) || dupEntry es

/-- The entry of a pair of tags. -/
def entryFor (es : List MatchEntry) (a b : BitVec 8) : Option Nat := es.findIdx? fun e => e.sheaf == a && e.swath == b

/-- The open entries. -/
def RingSt.openOnes (r : RingSt) : List MatchEntry := r.entries.filter MatchEntry.isOpen

/-- The tiles of a family. -/
def tilesOf (v : Vector (Option Tile) 16) : List Tile := v.toList.filterMap id

/-- The tile of a family with a tag. -/
def tagged (v : Vector (Option Tile) 16) (g : BitVec 8) : Option Tile := (tilesOf v).find? fun t => t.tag == g

/-- Two tiles of a family carry one tag. -/
def dupTag : List Tile → Bool
  | [] => false
  | t :: ts => (ts.any fun u => u.tag == t.tag) || dupTag ts

/-- The shape rules of a product (R167). -/
def shapesOk (a b : TDesc) : Bool := a.cols == b.cols && a.esize == b.esize

/-! ### Taking commands (R180) -/

/-- An idle ring takes its next command, if the row takes its opcode and the jobs before it are complete (R160). -/
def State.ringUnit (s : State) (sg : Nat) (takes : Nat → Bool) (check : Cmd → Option Nat)
    (effect : State → Nat → Cmd → State) : State :=
  match ringNext s sg with
  | some (c, m) =>
    if takes (cmdOpcode m.word) && !(s.classQ c 3).due then
      (s.modRing sg fun r => { r with rr := (c % 128 + 1) % 128 }).runCmd c 3 check fun s m => effect s c m
    else s
  | none => s

/-- The core whose `rgsave` a running ring takes at a lap boundary (R180, R185). -/
def saveCore (s : State) (sg : Nat) : Option Nat := (ringOrder s sg).find? fun c => headOp s c 3 == some 0x34

/-! ### rgin -/

/-- The bits of a descriptor that Table 9-1 leaves zero. -/
def descZero (d : Nat) : Nat := d / 2 ^ 7 % 2 + d / 2 ^ 15 % 2 + d / 2 ^ 22 % 4

/-- The checks of `rgin` that need its word alone (R193, Table 11-13). -/
def rginCheck (m : Cmd) : Option Nat :=
  let w := m.word
  let d := tdescOf (BitVec.ofNat 64 (fld w 160 32))
  let st := if fld w 128 16 = 0 then d.len else fld w 128 16
  if fld w 192 64 ≠ 0 ∨ fld w 144 16 ≠ 0 ∨ fld w 112 16 ≠ 0 ∨ fld w 53 3 ≠ 0 ∨ descZero (fld w 160 32) ≠ 0 then some 0x10
  else if !d.ok then some 0x11
  else if fld w 64 48 % 4 ≠ 0 ∨ st % 4 ≠ 0 then some 0x13
  else if !inBay (fld w 64 48) d.rows st d.len then some 0x07
  else none

/-- A tile as `rgin` reads it (R193), with the keys read. -/
def State.readTile (s : State) (sg : Nat) (tag : BitVec 8) (desc : BitVec 32) (src : BitVec 48) (stride : BitVec 16) :
    Tile × List Nat :=
  let d := tdescOf (desc.setWidth 64)
  let st := if stride = 0 then d.len else stride.toNat
  let keys := (ringRows sg src.toNat d.rows st d.len).flatten
  ({ bytes := s.readKeys (.ring sg) keys, tag := tag, desc := desc, src := src, stride := stride }, keys)

/-- The slots of a family. -/
def RingSt.family (r : RingSt) (swath : Bool) : Vector (Option Tile) 16 := if swath then r.swath else r.sheaf

/-- A slot of a family filled or emptied. -/
def RingSt.setSlot (r : RingSt) (swath : Bool) (station : Nat) (t : Option Tile) : RingSt :=
  if swath then { r with swath := r.swath.set (Fin.ofNat 16 station) t }
  else { r with sheaf := r.sheaf.set (Fin.ofNat 16 station) t }

/-- `rgin` (R193). -/
def State.rgin (s : State) (c : Nat) (m : Cmd) : State :=
  let w := m.word
  let sg := sgOf c
  let fam := w.getLsbD 52
  let station := fld w 48 4
  let (t, keys) := s.readTile sg (BitVec.ofNat 8 (fld w 56 8)) (BitVec.ofNat 32 (fld w 160 32)) (BitVec.ofNat 48 (fld w 64 48))
    (BitVec.ofNat 16 (fld w 128 16))
  if (((s.ring sg).family fam).get (Fin.ofNat 16 station)).isSome then s.faultJob c 3 m.job 0x14
  else match s.badRead (.ring sg) keys with
    | some b => s.cmdUncorr c 3 m b
    | none => ((s.noteRead (.ring sg) keys).modRing sg fun r => r.setSlot fam station (some t)).performed c 3 m

/-- RGIN (R193); a command with an opcode of no class 3 row is taken here and faults (R21). -/
def execRgin (sg : Nat) (s : State) : Out :=
  .next (s.ringUnit sg (fun op => !(op ∈ [0x31, 0x32, 0x33, 0x34, 0x35])) rginCheck State.rgin)

/-! ### rgmatch -/

/-- The checks of `rgmatch` that need its word alone (R194, Table 11-13). DEDUCED (assumption 40). -/
def rgmatchCheck (m : Cmd) : Option Nat :=
  let w := m.word
  let n := fld w 112 9
  if fld w 144 112 ≠ 0 ∨ fld w 121 7 ≠ 0 ∨ fld w 48 16 ≠ 0 ∨ n = 0 ∨ 256 < n then some 0x10
  else if fld w 64 48 % 8 ≠ 0 ∨ fld w 128 16 % 4 ≠ 0 then some 0x13
  else if !inBay (fld w 64 48) 1 0 (8 * n) then some 0x07
  else none

/-- The entries of a table as path G reads them, with the keys read. -/
def readTable (s : State) (sg addr n : Nat) : List MatchEntry × List Nat :=
  let keys := span (bayKey (ringCore sg) addr) (8 * n)
  ((List.range n).map fun i =>
    ⟨BitVec.ofNat 64 (natOfBytes (s.readKeys (.ring sg) (span (bayKey (ringCore sg) addr + 8 * i) 8))), true⟩, keys)

/-- The checks of a table's entries (R194). -/
def tableFault (es : List MatchEntry) : Option Nat :=
  if es.any MatchEntry.bad then some 0x10 else if dupEntry es then some 0x16 else none

/-- `rgmatch` (R194). -/
def State.rgmatch (s : State) (c : Nat) (m : Cmd) : State :=
  let w := m.word
  let sg := sgOf c
  let (es, keys) := readTable s sg (fld w 64 48) (fld w 112 9)
  match s.badRead (.ring sg) keys with
  | some b => s.cmdUncorr c 3 m b
  | none =>
    match tableFault es with
    | some cause => s.faultJob c 3 m.job cause
    | none =>
      ((s.noteRead (.ring sg) keys).modRing sg fun r =>
        { r with
          tbl := true, tblAddr := BitVec.ofNat 48 (fld w 64 48), dstride := BitVec.ofNat 16 (fld w 128 16), entries := es
          met := 0, retired := 0, passby := 0 }).performed c 3 m

/-- RGMATCH (R194). -/
def execRgmatch (sg : Nat) (s : State) : Out := .next (s.ringUnit sg (· == 0x31) rgmatchCheck State.rgmatch)

/-! ### The end of a pass -/

/-- The status record of a pass (Table 11-8, R196). -/
def State.statusRecord (s : State) (sg : Nat) (p : Pass) (outcome cause : Nat) : State :=
  if p.status = 0 then s
  else
    let r := s.ring sg
    let bs := bytesOf 1 outcome ++ bytesOf 1 cause ++ bytesOf 1 p.lap ++ [0] ++ bytesOf 2 r.met ++ bytesOf 2 r.retired ++
      bytesOf 2 r.passby ++ bytesOf 2 (r.entries.length - r.met) ++ bytesOf 4 p.steps ++
      bytesOf 8 (s.field (sgField s sg)).time.toNat ++ List.replicate 8 0
    (s.writeCells (.ring sg) (cellsAt (bayKey (ringCore sg) p.status) bs)).ofJob s p.core 3 p.job

/-- The pass is over: the ring is idle, and the command of the pass is performed (R186). The job of a `quiet` command, whose pass is saved,
sends no token, and none for this pass (R196); that of another command for a cancelled node faults (R163). -/
def State.passDone (s : State) (sg : Nat) (p : Pass) (quiet : Bool) : State :=
  let s := (s.modRing sg fun r => { r with pass := none }).modClassQ p.core 3 fun q =>
    q.modJob p.job fun j =>
      if quiet then
        { j with
          left := j.left - 1, quiet := true, carried := p.carried.elim j.carried j.carried.erase
          resumed := if p.rest then j.resumed.erase p.target else j.resumed }
      else { j with left := j.left - 1 }
  if (s.classQ p.core 3).jobs.any fun j => j.id == p.job && j.doomed then s.faultJob p.core 3 p.job 0x06 else s

/-- The pass ends with a ring fault or by cancellation: the record is written, then the job faults (R196, R201, R202). -/
def State.passFault (s : State) (sg : Nat) (p : Pass) (outcome cause : Nat) : State :=
  ((s.statusRecord sg p outcome cause).modRing sg fun r => { r with pass := none }).faultJob p.core 3 p.job cause

/-- A ring fault is reported with RINGFLT (R202). DEDUCED (assumption 39). -/
def State.ringFault (s : State) (sg : Nat) (p : Pass) (cause : Nat) (value : Word) : State :=
  (s.report (.ring sg) sg p.core (serviceWords causeRingflt p.core 0 (p.job.setWidth 64) 0 value)).passFault sg p 3 cause

/-- The running pass changed. -/
def State.modPass (s : State) (sg : Nat) (f : Pass → Pass) : State :=
  s.modRing sg fun r => { r with pass := r.pass.map f }

/-! ### Boundaries -/

/-- The tasks that the stations offer at a step boundary (R183). -/
def offersAt (r : RingSt) : List Encounter :=
  (List.range 16).filterMap fun st =>
    match r.sheaf.get (Fin.ofNat 16 st), r.swath.get (Fin.ofNat 16 st) with
    | some a, some b =>
      (entryFor r.entries a.tag b.tag).bind fun i => match r.entries[i]? with
        | some e => if e.isOpen then some ⟨st, i, some a, some b, []⟩ else none
        | none => none
    | _, _ => none

/-- A pass with a failed task, or of a cancelled node, stops at this boundary; its accepted tasks complete first (R190, R201).
DEDUCED (assumption 38). -/
def State.stopHere (s : State) (sg : Nat) (p : Pass) : State :=
  let s := s.modPass sg fun p => { p with phase := .boundary, offers := [], cancel := true }
  match p.fault with
  | some v => if p.tasks.isEmpty then s.ringFault sg p 0x05 v else s
  | none => s

/-- The ring comes to a step boundary (R181, R183). -/
def State.boundary (s : State) (sg step : Nat) : State :=
  match (s.ring sg).pass with
  | none => s
  | some p =>
    let s := s.modPass sg fun p => { p with step := step }
    if p.fault.isSome || p.dead then s.stopHere sg { p with step := step }
    else
      let t := (s.field (sgField s sg)).time
      s.modPass sg fun p => { p with phase := .boundary, offers := offersAt (s.ring sg), since := t }

/-- Drain: the pass completes once every entry's task has retired (R186), or ends with the fault of a failed one (R190). A
cancelled pass stops by RING_CANCEL. -/
def State.drain (s : State) (sg : Nat) : State :=
  match (s.ring sg).pass with
  | none => s
  | some p =>
    if !p.tasks.isEmpty || p.dead then s
    else match p.fault with
      | some v => s.ringFault sg p 0x05 v
      | none =>
        if (s.ring sg).retired = (s.ring sg).entries.length then (s.statusRecord sg p 1 0).passDone sg p false else s

/-- The decision at a lap boundary (R185), once the accumulators that zacc names are clear (R195). A pass that has run its laps
waits for its accepted tasks before it faults. DEDUCED (assumption 125). -/
def State.lapDecide (s : State) (sg : Nat) : State :=
  match (s.ring sg).pass with
  | none => s
  | some p =>
    let r := s.ring sg
    if !p.zero.isEmpty then s
    else if (saveCore s sg).isSome then s.modPass sg fun p => { p with phase := .lapBoundary }
    else if r.openOnes.isEmpty then (s.modPass sg fun p => { p with phase := .drain }).drain sg
    else if p.limit ≤ p.lap then
      if p.tasks.isEmpty then s.ringFault sg p 0x17 (BitVec.ofNat 64 (r.entries.length - r.met))
      else s.modPass sg fun p => { p with phase := .lapBoundary }
    else if p.holdFirst then s.modPass sg fun p => { p with phase := .hold }
    else s.boundary sg 0

/-! ### rggo -/

def rggoCheck (m : Cmd) : Option Nat :=
  let w := m.word
  if fld w 149 107 ≠ 0 ∨ fld w 112 16 ≠ 0 ∨ fld w 48 16 ≠ 0 then some 0x10 else none

/-- The end of the destination of a type 1 entry, and its row distance (R188). -/
def addStride (r : RingSt) (b : TDesc) : Nat := if r.dstride = 0 then 4 * b.rows else r.dstride.toNat

def addBase (e : MatchEntry) : Nat := 0x01000000 + 4 * e.dsto

/-- The checks of R195, in order. -/
def passCheck (r : RingSt) (status : Nat) : Option Nat :=
  let live := r.openOnes
  let pairOf := fun (e : MatchEntry) => match tagged r.sheaf e.sheaf, tagged r.swath e.swath with
    | some a, some b => some (a.d, b.d)
    | _, _ => none
  if !r.tbl then some 0x18
  else if dupTag (tilesOf r.sheaf) || dupTag (tilesOf r.swath) || live.any (fun e => (pairOf e).isNone) then some 0x15
  else if live.any fun e => e.typ != 2 && (match pairOf e with
      | some (a, b) => !shapesOk a b
      | none => false) then some 0x12
  else if status % 32 ≠ 0 then some 0x13
  else if (status ≠ 0 ∧ !inBay status 1 0 32) ∨ live.any fun e => e.typ == 1 && (match pairOf e with
      | some (a, b) => !inBay (addBase e) a.rows (addStride r b) (4 * b.rows)
      | none => false) then some 0x07
  else none

/-- The accumulators that open type 0 entries name, in every station's engine: the cluster and the accumulator (R195). -/
def zaccUnits (r : RingSt) (sg : Nat) : List (Nat × Nat) :=
  ((r.openOnes.filter fun e => e.typ == 0).map MatchEntry.acc).dedup.flatMap fun a =>
    (List.range 16).map fun st => (sg * 16 + st, a)

/-- The bytes of an accumulator, all zero: 4096 elements of +0. -/
def accZeros (cl acc : Nat) : List (Nat × Byte) := (span (accKey cl acc 0 0) 16384).map fun k => (k, 0)

/-- A command of the ring that runs a pass leaves its queue, its job still unfinished (R180). -/
def State.takePass (s : State) (c : Nat) : State :=
  let s := s.modClassQ c 3 fun q => { q with queue := q.queue.drop 1 }
  s.admitUpTo c 3 (s.classQ c 3).waiting.length

/-- `rggo` (R195). -/
def State.rggo (s : State) (c : Nat) (m : Cmd) : State :=
  let w := m.word
  let sg := sgOf c
  let r := s.ring sg
  match passCheck r (fld w 64 48) with
  | some cause => s.faultJob c 3 m.job cause
  | none =>
    let rp := m.rgpat.getD 0x40400
    let pat := if fld w 128 16 = 0 then (rp.extractLsb' 0 16).toNat else fld w 128 16
    let laps := if fld w 144 4 = 0 then (rp.extractLsb' 16 4).toNat else fld w 144 4
    let p : Pass :=
      { core := c, job := m.job, node := m.node, status := fld w 64 48, patience := pat, limit := laps, target := cmdTarget w
        carried := none, lap := 0, step := 0, steps := 0, phase := .lapBoundary, holdFirst := false, since := 0, offers := []
        tasks := [], sending := [], fault := none, cancel := false, zero := if w.getLsbD 148 then zaccUnits r sg else [] }
    ((s.takePass c).modRing sg fun r => { r with pass := some p }).lapDecide sg

/-- An accumulator that zacc names is set to +0, one unit of its engine, which the engine has selected (R146, R195); after the last of
them the pass begins. DEDUCED (assumption 37). -/
def State.zaccUnit (s : State) (sg : Nat) (p : Pass) : State :=
  match p.zero.find? fun z => (matPick s z.1).any fun r => r.1 == 8 with
  | none => s
  | some z =>
    match matPick s z.1 with
    | some (_, a) =>
      (((s.modCluster z.1 fun q => { q with matArb := a }).setCells (accZeros z.1 z.2)).modPass sg fun p =>
        { p with zero := p.zero.erase z }).lapDecide sg
    | none => s

/-- RGGO (R195): the ring takes the command, or clears an accumulator for it. -/
def execRggo (sg : Nat) (s : State) : Out :=
  .next <| match (s.ring sg).pass with
    | some p => s.zaccUnit sg p
    | none => s.ringUnit sg (· == 0x32) rggoCheck State.rggo

/-! ### rgout -/

/-- The error that a read of a ring tile meets, at its slot (R161, R190). -/
def tileError (sg station : Nat) (swath : Bool) (t : Tile) : Option BadGranule :=
  (t.bad.find? (· < t.bytes.length)).map fun off =>
    ⟨(Place.ringTile (sg * 32 + station + (if swath then 16 else 0))).key off, 8, .any, false⟩

/-- `rgout` of a slot (R197): the slot is checked before the address. -/
def State.rgoutSlot (s : State) (c : Nat) (m : Cmd) : State :=
  let w := m.word
  let sg := sgOf c
  let fam := fld w 52 2 == 2
  let station := fld w 48 4
  let empty := fun (s : State) => if w.getLsbD 54 then s.modRing sg fun r => r.setSlot fam station none else s
  match ((s.ring sg).family fam).get (Fin.ofNat 16 station) with
  | none => s.faultJob c 3 m.job 0x14
  | some t =>
    let addr := fld w 64 48
    let st := if fld w 128 16 = 0 then t.d.len else fld w 128 16
    if addr = 0 then (empty s).performed c 3 m
    else if addr % 4 ≠ 0 ∨ st % 4 ≠ 0 then s.faultJob c 3 m.job 0x13
    else if !inBay addr t.d.rows st t.d.len then s.faultJob c 3 m.job 0x07
    else
      let rows := ringRows sg addr t.d.rows st t.d.len
      match (tileError sg station fam t).orElse fun _ => s.badParts (.ring sg) rows with
      | some b => s.cmdUncorr c 3 m b
      | none =>
        (empty (rows.zipIdx.foldl (fun s row =>
          s.writeCells (.ring sg) (row.1.zip ((t.bytes.drop (row.2 * t.d.len)).take t.d.len))) s)).performed c 3 m

/-- `rgout` of an accumulator: one unit of the station's engine (R197). -/
def State.rgoutAccum (s : State) (c : Nat) (m : Cmd) : State :=
  let w := m.word
  let sg := sgOf c
  let cl := sg * 16 + fld w 48 4
  let a := rgoutAcc w
  match matPick s cl with
  | some (8, arb) =>
    let s := (s.modCluster cl fun q => { q with matArb := arb }).modRing sg fun r => { r with rr := (c % 128 + 1) % 128 }
    match (if a.addr = 0 then none else accBad s (.ring sg) cl a) with
    | some b => s.cmdUncorr c 3 m b
    | none =>
      let s := if a.addr = 0 then s else (s.accStore (.ring sg) cl a).ofJob s c 3 m.job
      let s := if w.getLsbD 54 then s.setCells (accZeros cl a.acc) else s
      s.performed c 3 m
  | _ => s

def rgoutCheck (m : Cmd) : Option Nat :=
  if fld m.word 52 2 = 0 then rgoutAccCheck m.word else if rgoutBad m.word then some 0x10 else none

/-- RGOUT (R197). -/
def execRgout (sg : Nat) (s : State) : Out :=
  .next <|
    match ringNext s sg with
    | none => s
    | some (c, m) =>
      if (s.classQ c 3).due then s
      else if rgoutWaits s (sg * 16 + fld m.word 48 4) then s.rgoutAccum c m
      else s.ringUnit sg (· == 0x33) rgoutCheck State.rgoutSlot

/-! ### Steps -/

/-- Tiles moved one station up or down (R181). -/
def rotateUp (v : Vector (Option Tile) 16) : Vector (Option Tile) 16 := Vector.ofFn fun i => v.get (i + 15)
def rotateDown (v : Vector (Option Tile) 16) : Vector (Option Tile) 16 := Vector.ofFn fun i => v.get (i + 1)

/-- MOVES_BEGIN (R181): every station has released its tiles. -/
def execMovesBegin (sg : Nat) (s : State) : Out :=
  .next <| match (s.ring sg).pass with
    | some p =>
      if p.phase = .boundary ∧ p.offers.isEmpty ∧ !p.cancel then s.modPass sg fun p => { p with phase := .move } else s
    | none => s

/-- MOVE_DONE (R181, R185): the next boundary, or after step 7 the lap boundary. -/
def execMoveDone (sg : Nat) (s : State) : Out :=
  .next <| match (s.ring sg).pass with
    | some p =>
      if p.phase = .move then
        let s := s.modRing sg fun r => { r with sheaf := rotateUp r.sheaf, swath := rotateDown r.swath }
        let s := s.modPass sg fun p => { p with steps := p.steps + 1 }
        if p.step < 7 then s.boundary sg (p.step + 1)
        else (s.modPass sg fun p => { p with lap := (p.lap + 1) % 256, holdFirst := true }).lapDecide sg
      else s
    | none => s

/-- HOLD_DONE (R181, R191): the sheaves have moved; the next lap begins. -/
def execHoldDone (sg : Nat) (s : State) : Out :=
  .next <| match (s.ring sg).pass with
    | some p =>
      if p.phase = .hold then
        let s := s.modRing sg fun r => { r with sheaf := rotateUp r.sheaf }
        (s.modPass sg fun p => { p with steps := p.steps + 1 }).boundary sg 0
      else s
    | none => s

/-! ### Encounter tasks -/

/-- The cycles since the boundary (R183). -/
def waited (s : State) (sg : Nat) (p : Pass) : Nat := ((s.field (sgField s sg)).time - p.since).toNat

/-- An accepted task: the encounter is met and its entry closes (R183); the task has the tiles that stand at its station (R190). -/
def State.meet (s : State) (sg : Nat) (o : Encounter) : State :=
  s.modRing sg fun r =>
    { r with
      met := r.met + 1
      entries := r.entries.modify o.entry fun e => { e with isOpen := false }
      pass := r.pass.map fun p =>
        { p with
          offers := p.offers.erase o
          tasks := p.tasks ++ [{ o with sheaf := r.sheaf.get (Fin.ofNat 16 o.station), swath := r.swath.get (Fin.ofNat 16 o.station) }] } }

/-- The station's message slot is free (R184). -/
def slotFree (s : State) (p : Pass) (station : Nat) : Bool :=
  p.sending.all fun x => x.1 != station || (s.msg? x.2.2).isNone

/-- The message of a type 2 task (R189). -/
def encounterBody (sg : Nat) (p : Pass) (o : Encounter) (e : MatchEntry) : Body :=
  let w0 := BitVec.ofNat 64 (o.station + p.lap % 16 * 2 ^ 8 + p.step * 2 ^ 12 + o.entry * 2 ^ 16)
  let hdr : Word := e.swath.setWidth 16 ++ e.sheaf.setWidth 16 ++ BitVec.ofNat 32 (e.chan * 512)
  let sender := if p.node.isSome then serviceCore sg else p.core
  .chan ((sg * 16 + o.station) * 8 + e.core) e.chan (delivered hdr sender 0 1) [w0] none

/-- ENCOUNTER_ACCEPT (R184): a task of type 0 or 1 when the engine selects it, one of type 2 when the station's message slot is
free. -/
def execEncounterAccept (sg station : Nat) (s : State) : Out :=
  .next <|
    match (s.ring sg).pass with
    | none => s
    | some p =>
      match p.offers.find? fun o => o.station == station with
      | none => s
      | some o =>
        if p.patience < waited s sg p then s
        else
          match (s.ring sg).entries[o.entry]? with
          | none => s
          | some e =>
            if e.typ = 2 then
              if slotFree s p station then
                let id := s.nextId
                ((s.post (.station (sg * 16 + station)) false (encounterBody sg p o e)).meet sg o).modPass sg fun p =>
                  { p with sending := (station, o.entry, id) :: p.sending }
              else s
            else
              match matPick s (sg * 16 + station) with
              | some (8, a) =>
                (s.modCluster (sg * 16 + station) fun q => { q with matArb := a }).meet sg o
              | _ => s

/-- PASS_BY (R183). -/
def execPassBy (sg station : Nat) (s : State) : Out :=
  .next <|
    match (s.ring sg).pass with
    | none => s
    | some p =>
      match p.offers.find? fun o => o.station == station with
      | none => s
      | some o =>
        if waited s sg p < p.patience then s
        else s.modRing sg fun r =>
          { r with passby := r.passby + 1, pass := r.pass.map fun p => { p with offers := p.offers.erase o } }

/-- The rows of a tile as operands of a product (R167), through the tables of core 0 of the station's cluster (R179). -/
def tileRows (s : State) (cl : Nat) (t : Tile) : List (List Ex) :=
  (List.range t.d.rows).map (matRow (fun r b => t.bytes.getD (r * t.d.len + b) 0) (tableImage s (cl * 8) t.d.tab) t.d)

/-- What remains to do after an accepted task has completed or failed. -/
def State.afterTask (s : State) (sg : Nat) : State :=
  match (s.ring sg).pass with
  | none => s
  | some p =>
    if !p.tasks.isEmpty then s
    else match p.phase with
      | .drain => s.drain sg
      | .boundary => if p.cancel then s.stopHere sg p else s
      | .lapBoundary => s.lapDecide sg
      | _ => s

/-- A task completes (R186). -/
def State.retireTask (s : State) (sg : Nat) (o : Encounter) : State :=
  (s.modRing sg fun r =>
    { r with
      retired := r.retired + 1
      pass := r.pass.map fun p =>
        { p with tasks := p.tasks.erase o, sending := p.sending.filter fun x => x.2.1 ≠ o.entry } }).afterTask sg

/-- The address of a granule that a ring finds in error: the one in the bay window, or the model's key of an accumulator or tile,
which has no address (R202). DEDUCED (assumption 39). -/
def ringAddr (sg key : Nat) : Word :=
  let base := bayKey (ringCore sg) 0x01000000
  BitVec.ofNat 64 (if base ≤ key ∧ key < base + 0x00800000 then 0x01000000 + (key - base) else key)

/-- The error that a task meets as it reads its two tiles (R190). -/
def taskTileError (sg : Nat) (o : Encounter) (a b : Tile) : Option BadGranule :=
  (tileError sg o.station false a).orElse fun _ => tileError sg o.station true b

/-- A task fails with UNCORR: its entry reopens (R190). -/
def State.failTask (s : State) (sg : Nat) (o : Encounter) (b : BadGranule) : State :=
  ((s.meetBad b).modRing sg fun r =>
    { r with
      met := r.met - 1
      entries := r.entries.modify o.entry fun e => { e with isOpen := true }
      pass := r.pass.map fun p =>
        { p with tasks := p.tasks.erase o, fault := p.fault.orElse fun _ => some (ringAddr sg b.key) } }).afterTask sg

/-- A type 0 task (R187). -/
def State.taskAcc (s : State) (sg : Nat) (o : Encounter) (e : MatchEntry) (a b : Tile) : State :=
  let cl := sg * 16 + o.station
  let ms := pairs a.d.rows b.d.rows
  match (taskTileError sg o a b).orElse fun _ =>
      s.badRead (.matrix cl) (ms.flatMap fun p => span (accKey cl e.acc p.1 p.2) 4) with
  | some g => s.failTask sg o g
  | none =>
    let ra := tileRows s cl a
    let rb := tileRows s cl b
    (s.setCells (ms.flatMap fun p => cellsAt (accKey cl e.acc p.1 p.2)
      (bytesOf 4 (matDot (accElem s cl e.acc p.1 p.2) (ra.getD p.1 []) (rb.getD p.2 []))))).retireTask sg o

/-- The writes that have been made since a state are those of the job of the running pass. -/
def State.ofPass (t s : State) (sg : Nat) : State :=
  match (s.ring sg).pass with
  | some p => t.ofJob s p.core 3 p.job
  | none => t

/-- The elements of the product of a type 1 task that it has yet to add. -/
def Encounter.toAdd (o : Encounter) (a b : Tile) : List (Nat × Nat) := (pairs a.d.rows b.d.rows).filter fun p => !o.added.contains p

/-- The error that a type 1 task meets (R190): it looks for one before its first add, since a task that fails leaves its destination
unchanged. -/
def addError (s : State) (sg : Nat) (o : Encounter) (e : MatchEntry) (a b : Tile) : Option BadGranule :=
  if !o.added.isEmpty then none
  else (taskTileError sg o a b).orElse fun _ => s.badRead (.ring sg)
    (ringRows sg (addBase e) a.d.rows (addStride (s.ring sg) b.d) (4 * b.d.rows)).flatten

/-- Elements of a product are added into the bay, one after another, each atomically (R188); their writes are of the pass's job. -/
def State.addElems (s : State) (sg : Nat) (o : Encounter) (e : MatchEntry) (a b : Tile) (ps : List (Nat × Nat)) : State :=
  let ra := tileRows s (sg * 16 + o.station) a
  let rb := tileRows s (sg * 16 + o.station) b
  let gap := addStride (s.ring sg) b.d
  (ps.foldl (fun s p =>
    let keys := span (bayKey (ringCore sg) (addBase e + p.1 * gap) + 4 * p.2) 4
    let sum := fadd32 (natOfBytes (keys.map s.byte)) (matDot 0 (ra.getD p.1 []) (rb.getD p.2 []))
    (s.noteNewest (.ring sg) keys).writeCells (.ring sg) (keys.zip (bytesOf 4 sum))) s).ofPass s sg

/-- A type 1 task (R188) completes: the elements that it has yet to add are added. DEDUCED (assumption 36). -/
def State.taskAdd (s : State) (sg : Nat) (o : Encounter) (e : MatchEntry) (a b : Tile) : State :=
  match addError s sg o e a b with
  | some g => s.failTask sg o g
  | none => (s.addElems sg o e a b (o.toAdd a b)).retireTask sg o

/-- A type 1 task adds one of the elements that are left: the adds of one task, and of several, have no order (R48, R188). -/
def execElementAdd (sg entry n : Nat) (s : State) : Out :=
  .next <|
    match (s.ring sg).pass with
    | none => s
    | some p =>
      match p.tasks.find? fun o => o.entry == entry, (s.ring sg).entries[entry]? with
      | some o, some e =>
        match o.sheaf, o.swath with
        | some a, some b =>
          let left := o.toAdd a b
          if e.typ ≠ 1 then s
          else match left[n % left.length]? with
            | none => s
            | some x =>
              match addError s sg o e a b with
              | some g => s.failTask sg o g
              | none => (s.addElems sg o e a b [x]).modPass sg fun p =>
                { p with tasks := p.tasks.map fun t => if t = o then { o with added := x :: o.added } else t }
        | _, _ => s
      | _, _ => s

/-- ENCOUNTER_RETIRE (R186): an accepted task completes (Table 11-3). -/
def execEncounterRetire (sg entry : Nat) (s : State) : Out :=
  .next <|
    match (s.ring sg).pass with
    | none => s
    | some p =>
      match p.tasks.find? fun o => o.entry == entry, (s.ring sg).entries[entry]? with
      | some o, some e =>
        if e.typ = 2 then
          if p.sending.any fun x => x.2.1 == entry && (s.msg? x.2.2).isSome then s else s.retireTask sg o
        else match o.sheaf, o.swath with
          | some a, some b => if e.typ = 0 then s.taskAcc sg o e a b else s.taskAdd sg o e a b
          | _, _ => s
      | _, _ => s

/-! ### Saving -/

/-- A tile record (Table 11-12). -/
def tileRecord : Option Tile → List Byte
  | none => List.replicate 16 0
  | some t => bytesOf 8 (t.src.toNat + t.tag.toNat * 2 ^ 48 + 2 ^ 61) ++ bytesOf 4 t.desc.toNat ++ bytesOf 2 t.stride.toNat ++ [0, 0]

/-- The save area (Table 11-11). With no pass the lap limit and the patience hold their reset values; of a target of its own and a carried
one a pass writes its own. DEDUCED (assumption 41). -/
def saveArea (r : RingSt) (p : Option Pass) : List Byte :=
  let own := match p with
    | some p => if p.target = noTarget then p.carried.getD noTarget else p.target
    | none => noTarget
  let opens := (List.range 256).foldl (fun a i => match r.entries[i]? with
    | some e => if e.isOpen then a + 2 ^ i else a
    | none => a) 0
  bytesOf 4 1 ++ bytesOf 1 ((p.map Pass.lap).getD 0) ++
    bytesOf 1 (match p with
      | some p => if p.holdFirst then 2 else 1
      | none => 0) ++
    bytesOf 1 ((p.map Pass.limit).getD 4) ++ bytesOf 1 (if r.tbl then 1 else 0) ++
    bytesOf 2 r.met ++ bytesOf 2 r.retired ++ bytesOf 2 r.passby ++ bytesOf 2 r.entries.length ++
    bytesOf 4 ((p.map Pass.patience).getD 1024) ++ bytesOf 4 own.toNat ++ bytesOf 8 r.tblAddr.toNat ++
    bytesOf 8 ((p.map Pass.status).getD 0) ++ bytesOf 4 r.dstride.toNat ++ List.replicate 20 0 ++ bytesOf 32 opens ++
    List.replicate 32 0 ++ (r.sheaf.toList.flatMap tileRecord) ++ r.swath.toList.flatMap tileRecord

def areaCheck (m : Cmd) : Option Nat :=
  let w := m.word
  if fld w 112 144 ≠ 0 ∨ fld w 48 16 ≠ 0 then some 0x10
  else if fld w 64 48 % 64 ≠ 0 then some 0x13
  else if !inBay (fld w 64 48) 1 0 640 then some 0x07
  else none

/-- The ring after a save: every slot empty, the table forgotten, idle (R199). The place of the round robin stays. -/
def RingSt.emptied (r : RingSt) : RingSt := { RingSt.reset with rr := r.rr }

/-- `rgsave` writes its area and empties the ring (R199). -/
def State.saveRing (s : State) (c : Nat) (m : Cmd) (p : Option Pass) : State :=
  let sg := sgOf c
  let cells := cellsAt (bayKey (ringCore sg) (fld m.word 64 48)) (saveArea (s.ring sg) p)
  (((s.writeCells (.ring sg) cells).ofJob s c 3 m.job).modRing sg RingSt.emptied).performed c 3 m

/-- The writes of a pass that is saved, not yet visible to all: the pass goes on with whatever job restores it (R200). -/
def State.markSaved (s : State) (p : Pass) : State :=
  { s with hidden := s.hidden.map fun h => if h.jobs.contains (p.core, 3, p.job) then { h with saved := true } else h }

/-- The writes that saved passes of a field made are those of a job as well that resumes a pass there, whose tokens come after every write
of its tasks, also those made before the save (R186, R203). DESIGN CHOICE (assumption 102). -/
def State.takeSaved (s : State) (c : Nat) (id : BitVec 16) : State :=
  { s with hidden := s.hidden.map fun h =>
      if h.saved && h.jobs.any fun j => coreField s j.1 == coreField s c then { h with jobs := (c, 3, id) :: h.jobs } else h }

/-- RGSAVE (R199) on an idle ring. -/
def execRgsave (sg : Nat) (s : State) : Out :=
  .next (s.ringUnit sg (· == 0x34) areaCheck fun s c m => s.saveRing c m none)

/-- What is in flight in a supergroup while its ring stands at a lap boundary (R199): a copy that has met a refused page, a class 4 command
that has processed a row pair or that was found at work when its node was cancelled, or a command that has joined a collective
instance. Every other command of the model runs in one step. -/
def inFlight (s : State) (sg : Nat) : Bool :=
  s.cores.any fun p => sgOf p.1 == sg && (((s.classQ p.1 2).queue.head?.any Cmd.begun) ||
    ((s.classQ p.1 4).queue.any fun m => m.run.isSome || m.dead) ||
    s.insts.any fun i => i.2.members.any fun m => m.core == p.1)

/-- RING_SAVE_AT_BOUNDARY (R185, R199): once retired equals met, and the copies and jobs in flight in the supergroup have completed, the
pass is saved, also where a task has failed meanwhile. Its command's job completes without a token (R196).
DESIGN CHOICE (assumption 100). -/
def execRingSaveAtBoundary (sg : Nat) (s : State) : Out :=
  .next <|
    match (s.ring sg).pass with
    | none => s
    | some p =>
      if p.phase = .lapBoundary ∧ p.tasks.isEmpty ∧ p.zero.isEmpty ∧ !inFlight s sg then
        match saveCore s sg with
        | none => s.lapDecide sg
        | some c => if (s.classQ c 3).due then s else
          let s := s.modRing sg fun r => { r with rr := (c % 128 + 1) % 128 }
          match (s.classQ c 3).queue with
          | [] => s
          | m :: _ =>
            match (commonCheck s c m.word).orElse fun _ => areaCheck m with
            | some cause => (s.faultJob c 3 m.job cause).lapDecide sg
            | none => (((s.statusRecord sg p 2 0).markSaved p).saveRing c m (some p)).passDone sg p true
      else s

/-! ### Restoring -/

/-- A little-endian field of an area. -/
def areaField (bs : List Byte) (off n : Nat) : Nat := natOfBytes ((bs.drop off).take n)

/-- A tile record has a reserved field set (Table 11-12). -/
def recordBad (bs : List Byte) (off : Nat) : Bool :=
  let lo := areaField bs off 8
  areaField bs (off + 14) 2 != 0 || lo / 2 ^ 62 != 0 || lo / 2 ^ 56 % 32 != 0 || descZero (areaField bs (off + 8) 4) != 0

/-- The contents of an area are out of range (R200 check 1), tbl 0 with entries or a pass among them, and a
dstride of more than 16 bits. DESIGN CHOICE (assumption 99). -/
def areaBad (bs : List Byte) : Bool :=
  let phase := areaField bs 5 1
  let limit := areaField bs 6 1
  let tbl := areaField bs 7 1
  let n := areaField bs 14 2
  areaField bs 0 4 != 1 || decide (2 < phase) || limit == 0 || decide (15 < limit) || decide (1 < tbl) ||
    (if tbl = 1 then n == 0 || decide (256 < n) else n != 0 || phase != 0) ||
    (bs.drop 0x2C).take 20 != List.replicate 20 0 || (bs.drop 0x60).take 32 != List.replicate 32 0 ||
    areaField bs 0x2A 2 != 0 || (List.range 32).any fun i => recordBad bs (0x80 + 16 * i)

/-- The tiles that an area records: the family, the station, and the tile read anew. -/
def areaTiles (s : State) (sg : Nat) (bs : List Byte) : List (Bool × Nat × Tile × List Nat) :=
  (List.range 32).filterMap fun i =>
    let off := 0x80 + 16 * i
    let lo := areaField bs off 8
    if lo / 2 ^ 61 % 2 = 1 then
      let r := s.readTile sg (BitVec.ofNat 8 (lo / 2 ^ 48)) (BitVec.ofNat 32 (areaField bs (off + 8) 4)) (BitVec.ofNat 48 lo)
        (BitVec.ofNat 16 (areaField bs (off + 12) 2))
      some (decide (16 ≤ i), i % 16, r.1, r.2)
    else none

/-- The checks of a tile that is read anew, by the orders of Table 11-13. -/
def tileFault (t : Tile) (order : Nat) : Bool :=
  let st := if t.stride = 0 then t.d.len else t.stride.toNat
  match order with
  | 2 => !t.d.ok
  | 7 => t.src.toNat % 4 != 0 || st % 4 != 0
  | _ => !inBay t.src.toNat t.d.rows st t.d.len

/-- The checks of the restored parts that need no read of them, in the order of Table 11-13. -/
def restoreFault (bs : List Byte) (ts : List Tile) : Option Nat :=
  let tbl := areaField bs 7 1 == 1
  let addr := areaField bs 0x18 8
  let n := areaField bs 14 2
  let status := if areaField bs 5 1 = 0 then 0 else areaField bs 0x20 8
  if ts.any (tileFault · 2) then some 0x11
  else if ts.any (tileFault · 7) ∨ (tbl ∧ (addr % 8 ≠ 0 ∨ areaField bs 0x28 2 % 4 ≠ 0)) ∨ status % 32 ≠ 0 then some 0x13
  else if ts.any (tileFault · 8) ∨ (tbl ∧ !inBay addr 1 0 (8 * n)) ∨ (status ≠ 0 ∧ !inBay status 1 0 32) then some 0x07
  else none

/-- The ring with the parts of an area in it; with tbl 0 it holds no table. DESIGN CHOICE (assumption 99). -/
def restoredRing (r : RingSt) (bs : List Byte) (ts : List (Bool × Nat × Tile × List Nat)) (es : List MatchEntry) : RingSt :=
  let opens := areaField bs 0x40 32
  let r := { RingSt.reset with
    rr := r.rr, tbl := areaField bs 7 1 == 1, tblAddr := BitVec.ofNat 48 (areaField bs 0x18 8)
    dstride := BitVec.ofNat 16 (areaField bs 0x28 2), met := areaField bs 8 2, retired := areaField bs 10 2
    passby := areaField bs 12 2, entries := es.zipIdx.map fun e => { e.1 with isOpen := opens / 2 ^ e.2 % 2 == 1 } }
  ts.foldl (fun r t => r.setSlot t.1 t.2.1 (some t.2.2.1)) r

/-- The saved target is one to which the pass sends a token (R200); one that is no node id of the core's field gets none.
DESIGN CHOICE (assumption 118). -/
def carriedTarget (s : State) (c : Nat) (t : BitVec 32) : Option (BitVec 32) :=
  if t ≠ noTarget ∧ nodeIdOk s (corePart s c) t.toNat ∧ nodeField t.toNat = coreField s c then some t else none

/-- A restored pass resumes: at its lap boundary in phase 1, and with a hold step in phase 2 (R200, Tables 11-9 and 11-11). -/
def State.resume (s : State) (c : Nat) (m : Cmd) (bs : List Byte) : State :=
  let sg := sgOf c
  let old := carriedTarget s c (BitVec.ofNat 32 (areaField bs 0x14 4))
  let p : Pass :=
    { core := c, job := m.job, node := m.node, status := areaField bs 0x20 8, patience := areaField bs 0x10 4
      limit := areaField bs 6 1, target := cmdTarget m.word, carried := old, lap := areaField bs 4 1, step := 0, steps := 0
      phase := if areaField bs 5 1 = 2 then .hold else .lapBoundary, holdFirst := areaField bs 5 1 == 2, since := 0, offers := []
      tasks := [], sending := [], fault := none, cancel := false, rest := true }
  let s := ((s.takePass c).takeSaved c m.job).modClassQ c 3 fun q => q.modJob m.job fun j =>
    { j with carried := j.carried ++ old.toList, resumed := if p.target = noTarget then j.resumed else j.resumed ++ [p.target] }
  let s := s.modRing sg fun r => { r with pass := some p }
  if areaField bs 5 1 = 2 then s else s.lapDecide sg

def rgrestCheck (m : Cmd) : Option Nat :=
  if fld m.word 112 144 ≠ 0 ∨ fld m.word 48 16 ≠ 0 then some 0x10 else none

/-- `rgrest` (R200). The pass that it resumes is not checked as an `rggo` is (R195). DESIGN CHOICE (assumption 105). -/
def State.rgrest (s : State) (c : Nat) (m : Cmd) : State :=
  let sg := sgOf c
  let ag := Agent.ring sg
  let r := s.ring sg
  let keys := span (bayKey (ringCore sg) (fld m.word 64 48)) 640
  let bs := s.readKeys ag keys
  if !(tilesOf r.sheaf).isEmpty || !(tilesOf r.swath).isEmpty then s.faultJob c 3 m.job 0x18
  else match areaCheck m with
    | some cause => s.faultJob c 3 m.job cause
    | none =>
      match s.badRead ag keys with
      | some b => s.cmdUncorr c 3 m b
      | none =>
        if areaBad bs then s.faultJob c 3 m.job 0x18
        else
          let ts := areaTiles s sg bs
          let tb := if areaField bs 7 1 = 1 then readTable s sg (areaField bs 0x18 8) (areaField bs 14 2) else ([], [])
          match restoreFault bs (ts.map fun t => t.2.2.1) with
          | some cause => s.faultJob c 3 m.job cause
          | none =>
            match s.badRead ag (tb.2 ++ ts.flatMap fun t => t.2.2.2), tableFault tb.1 with
            | some b, _ => s.cmdUncorr c 3 m b
            | none, some cause => s.faultJob c 3 m.job cause
            | none, none =>
              let s := (s.noteRead ag (keys ++ tb.2 ++ ts.flatMap fun t => t.2.2.2)).modRing sg fun r =>
                restoredRing r bs ts tb.1
              if areaField bs 5 1 = 0 then s.performed c 3 m else s.resume c m bs

/-- RGREST (R200). -/
def execRgrest (sg : Nat) (s : State) : Out := .next (s.ringUnit sg (· == 0x35) rgrestCheck State.rgrest)

/-- RING_CANCEL (R201): a cancelled pass stops at a step boundary or in drain, once its accepted tasks have completed. -/
def execRingCancel (sg : Nat) (s : State) : Out :=
  .next <|
    match (s.ring sg).pass with
    | none => s
    | some p =>
      if p.dead ∧ p.tasks.isEmpty ∧ (p.phase = .drain ∨ (p.phase = .boundary ∧ p.cancel)) then
        s.passFault sg p 4 0x06
      else s

end Sys2Proof.Machine
end

