-- ==== Sys2Proof/Machine/Reeve.lean ====
section
/-!
DEFINITION. The Reeve of a field (R216 to R239): checking and launching graphs, tokens, firing, triggering, faults, cone walks,
retry, commit windows, the end of a graph, teams, and the five forms of a core.
-/
namespace Sys2Proof.Machine

/-! ### The granary as a Reeve reads and writes it -/

/-- A range lies in the granary window, aligned (R217). -/
def inGranary (va n align : Nat) : Bool :=
  decide (0x04000000 ≤ va) && decide (va + n ≤ 0x07000000) && va % align == 0

/-- The key of a granary byte of a field. -/
def granKey (f va : Nat) : Nat := (Place.granary f).key (va - 0x04000000)

/-- A little-endian number that a Reeve reads. -/
def granRead (s : State) (f va n : Nat) : Nat := natOfBytes (s.readKeys (.reeve f) (span (granKey f va) n))

/-- A Reeve has read some ranges of the granary: writes that it has seen (R129), and errors that it has met, which are reported
(R156, R212). -/
def State.reeveReads (s : State) (f : Nat) (ranges : List (Nat × Nat)) : State :=
  let keys := ranges.flatMap fun r => span (granKey f r.1) r.2
  (s.noteRead (.reeve f) keys).meetAll (.reeve f) keys

/-- A Reeve writes bytes, performed in its field (R232, R233). A granule in error of which it writes a part is read first, and reported in
place of that write (R290). DESIGN CHOICE (assumption 103). -/
def State.granWrite (s : State) (f : Nat) (cells : List (Nat × Byte)) : State :=
  ((s.meetParts (.reeve f) cells).writeCells (.reeve f) (spareBads s (.reeve f) cells)).perform [s.nextId] (.within .fld (.reeve f))

/-! ### Nodes and graphs -/

/-- A node of a field's directory. -/
def State.node (s : State) (f n : Nat) : Option Node := (s.field f).nodes.get? n

def State.modNode (s : State) (f n : Nat) (g : Node → Node) : State :=
  s.modField f fun fs => match fs.nodes.get? n with
    | some x => { fs with nodes := fs.nodes.put n (g x) }
    | none => fs

/-- A node id. -/
def idOf (f n : Nat) : Nat := f * 65536 + n

/-- The task of a node: its id and graph. -/
def taskOf (f n : Nat) (u : Node) : Task := ⟨idOf f n, u.graph⟩

def State.graph (s : State) (f g : Nat) : Option Graph := (s.field f).graphs.get? g

/-- The nodes of a graph, by slot, in ascending id. -/
def graphNodes (s : State) (f g : Nat) : List (Nat × Node) := (s.field f).nodes.filter fun p => p.2.graph == g

/-- The base slot of a graph. -/
def graphBase (s : State) (f g : Nat) : Nat := ((s.graph f g).map Graph.base).getD 0

/-- The predecessors of a node in its graph, with the in-edge. -/
def predsOf (s : State) (f : Nat) (u : Node) : List (Nat × Node × Nat) :=
  (graphNodes s f u.graph).flatMap fun p => (p.2.succs.filter fun e => e.1 == u.idx).map fun e => (p.1, p.2, e.2)

/-- One depth of a cone walk: the successors of some slots that are not seen yet, ascending (R229). -/
def nextDepth (s : State) (f base : Nat) (level seen : List Nat) : List Nat :=
  let succ := level.flatMap fun n => match s.node f n with
    | some u => u.succs.map fun e => base + e.1
    | none => []
  (List.range 4096).filter fun n => succ.contains n && !seen.contains n

/-- The cone of a node, breadth-first, each depth in ascending id (R229). -/
def coneFrom (s : State) (f base : Nat) : Nat → List Nat → List Nat → List Nat
  | 0, _, seen => seen
  | fuel + 1, level, seen =>
    match nextDepth s f base level seen with
    | [] => seen
    | l => coneFrom s f base fuel l (seen ++ l)

def cone (s : State) (f n : Nat) : List Nat :=
  match s.node f n with
  | some u => coneFrom s f (graphBase s f u.graph) 4096 [n] [n]
  | none => []

/-! ### Task records -/

/-- A level of domain core or cluster of the core that a record's dest names (R147, R220): the domain code, 0 for none.
DEDUCED (assumption 44). -/
def levelDomain (s : State) (u : Node) : Nat :=
  let dest := hdrDest (u.pay.getD 0 0)
  let li := ((u.pay.getD 1 0).extractLsb' 37 3).toNat
  match (s.core dest).levels[li]? with
  | some l => l.1
  | none => 0

/-- The cluster whose pool first receives a node's records. -/
def nodeCluster (u : Node) : Nat := clusterOf (hdrDest (u.pay.getD 0 0))

/-- The team bay of a node, in 4 KiB units. -/
def teamBay (u : Node) : Nat := ((u.pay.getD 1 0).extractLsb' 44 4).toNat

/-- Record i of a type 1 node (R220). -/
def nodeRecord (s : State) (f n : Nat) (u : Node) (i : Nat) : TaskRec :=
  let h := u.pay.getD 0 0
  let w := (u.pay.getD 1 0).toNat / 2 ^ 48
  let w := if w = 0 then u.count else w
  let hdr := (h.extractLsb' 48 16 + BitVec.ofNat 16 (i / w)) ++ (h.extractLsb' 32 16 + BitVec.ofNat 16 (i % w)) ++
    h.extractLsb' 0 32
  let dom := levelDomain s u
  { task := taskOf f n u, hdr := hdr, words := [u.pay.getD 3 0, BitVec.ofNat 64 i, BitVec.ofNat 64 u.count]
    only := if dom = 1 then some (hdrDest h) else none, pinned := dom == 1 || dom == 2 || teamBay u != 0
    home := nodeCluster u, tb := teamBay u }

/-- The channel of a node's records is bound on some core to which they may go (R147). -/
def nodeBound (s : State) (u : Node) : Bool :=
  let h := u.pay.getD 0 0
  let cores := if levelDomain s u = 1 then [hdrDest h] else (List.range 8).map (nodeCluster u * 8 + ·)
  cores.any fun c => (s.chan c (hdrChan h)).hrec.isSome

/-- The unstarted records of a task in a queue leave it (R228). -/
def State.unqueue (s : State) (c ch : Nat) (t : Task) : State :=
  let mine := fun (e : QEntry) => e.task == some t && e.taken.isNone
  if (s.chan c ch).queue.any mine then
    (s.modChan c ch fun q => { q with queue := q.queue.filter fun e => !mine e }).grantRoom c ch (s.chan c ch).refused.length
  else s

/-- A message carries an unstarted record of a task. -/
def carries (t : Task) (m : Msg) : Bool :=
  match m.body with
  | .chan _ _ _ _ u => u == some t
  | _ => false

/-- A record under way leaves the network, and the room reserved for it is free again. -/
def State.recallMsgs (s : State) (t : Task) : State :=
  (s.net.filter (carries t)).foldl (fun s m =>
    match bodyDest m.body with
    | some (c, ch) =>
      ((s.dropMsg m.id).modChan c ch fun q => { q with reserved := q.reserved.filter (· ≠ m.id) }).grantRoom c ch
        (s.chan c ch).refused.length
    | none => s) s

/-- The records that a message carries to a pool. -/
def Body.recs : Body → List TaskRec
  | .stealAns _ rs | .records _ rs => rs
  | _ => []

/-- A message to a pool without a task's records. -/
def Body.without (t : Task) : Body → Body
  | .stealAns thief rs => .stealAns thief (rs.filter fun r => r.task != t)
  | .records cl rs => .records cl (rs.filter fun r => r.task != t)
  | b => b

/-- The cores of a field that have state. -/
def fieldCores (s : State) (f : Nat) : List Nat := s.cores.keys.filter fun c => coreField s c == f

/-- The clusters of a field that have state. -/
def fieldClusters (s : State) (f : Nat) : List Nat := s.clusters.keys.filter fun cl => sgField s (cl / 16) == f

/-- A task's unstarted records are removed, wherever they are (R228, R229). DEDUCED (assumption 49). -/
def State.removeRecords (s : State) (f : Nat) (t : Task) : State :=
  let s := (fieldClusters s f).foldl (fun s cl =>
    s.modCluster cl fun q => { q with pool := q.pool.filter fun r => r.task != t }) s
  let s := { s.recallMsgs t with net := (s.recallMsgs t).net.map fun m => { m with body := m.body.without t } }
  (fieldCores s f).foldl (fun s c => (s.core c).chans.keys.foldl (fun s ch => s.unqueue c ch t) s) s

/-- A fired node's word that waits for room is withdrawn. -/
def State.unwait (s : State) (u : Node) (t : Task) : State :=
  if 2 ≤ u.typ ∧ u.typ ≤ 4 then
    let c := fld (BitVec.ofNat 256 (u.pay.getD 0 0).toNat) 16 32
    let cls := fld (BitVec.ofNat 256 (u.pay.getD 0 0).toNat) 8 4
    s.modClassQ c cls fun q => { q with waiting := q.waiting.filter fun p => p.2 != t }
  else s

/-- A task's activation runs on a core of its field. -/
def runsTask (s : State) (f : Nat) (t : Task) : Bool :=
  (fieldCores s f).any fun c => (s.core c).slots.toList.any fun sl => sl.live && sl.task == some t

/-- A message about a run of the task is on its way to the Reeve. -/
def aboutTask (t : Task) (b : Body) : Bool :=
  match b with
  | .trigger u _ _ => u == t
  | .ownJob u _ _ _ => u == t
  | .fault n (some g) _ _ => n == t.node && g == t.graph
  | _ => false

/-- A node has a running activation, job or subgraph, or its end is not known to the Reeve yet (R229, R230). -/
def nodeActive (s : State) (f n : Nat) (u : Node) : Bool :=
  let t := taskOf f n u
  (s.net.any fun m => aboutTask t m.body) ||
    (match u.typ with
      | 1 => runsTask s f t
      | 5 => match u.sub with
        | some g => (s.graph f g).isSome
        | none => false
      | _ => match u.job with
        | some (c, cls, j) => (unfinished (s.classQ c cls)).any fun k => k.id.toNat == j
        | none => false)

/-! ### Checking a graph (R217 to R219, R231, R236) -/

/-- A header as read (Table 14-1). -/
structure GHdr where
  n      : Nat
  nwin   : Nat
  nodes  : Nat
  wins   : Nat
  result : Nat

/-- The header of a graph, if it keeps Table 14-1. -/
def readHdr (s : State) (f va : Nat) : Option GHdr :=
  if !inGranary va 32 32 then none
  else
    let h : GHdr := ⟨granRead s f va 2, granRead s f (va + 2) 1, granRead s f (va + 8) 8, granRead s f (va + 16) 8,
      granRead s f (va + 24) 8⟩
    let ok := decide (1 ≤ h.n) && decide (h.n ≤ 4096) && decide (h.nwin ≤ 8) && granRead s f (va + 3) 5 == 0 &&
      inGranary h.nodes (64 * h.n) 64 && (if h.nwin = 0 then h.wins == 0 else inGranary h.wins (32 * h.nwin) 32) &&
      (h.result == 0 || inGranary h.result 8 8)
    if ok then some h else none

/-- The payload of a node keeps Table 14-4; bits [63:16] of a count that is not indirect are zero, bits [63:48] beside the address
of an indirect one too, and word 0 of a subgraph is any address of the granary. DESIGN CHOICE (assumption 106). -/
def payOk (s : State) (part : Option Nat) (f typ : Nat) (indir commit : Bool) (pay : List Word) : Bool :=
  let w0 := pay.getD 0 0
  let w1 := pay.getD 1 0
  let w2 := pay.getD 2 0
  let here := fun c => coreIn s part c && coreField s c == f
  match typ with
  | 0 => pay.all (· == 0)
  | 1 =>
    w0.extractLsb' 0 5 == 0 && w0.extractLsb' 6 2 == 0 && hdrChan w0 != 63 && here (hdrDest w0) &&
      w1.extractLsb' 40 4 == 0 && w1.extractLsb' 0 37 == 0 &&
      (if indir then w2.extractLsb' 48 16 == 0 && inGranary w2.toNat 4 4 else w2.extractLsb' 16 48 == 0)
  | 5 => !indir && !commit && inGranary w0.toNat 1 1 && w1 == 0 && w2 == 0 && pay.getD 3 0 == 0
  | _ =>
    let cls := (w0.extractLsb' 8 4).toNat
    (if typ = 2 then cls == 1 || cls == 2 || cls == 5 else if typ = 3 then cls == 3 else cls == 4) &&
      here (w0.extractLsb' 16 32).toNat && (!indir || inGranary (w1.extractLsb' 0 48).toNat 24 1)

/-- A successor entry as read, or none where its own fields break R219. -/
def readSucc (s : State) (f va n : Nat) : Option (Nat × Nat) :=
  let e := granRead s f va 4
  if 2 ^ 18 ≤ e ∨ n ≤ e % 4096 ∨ 47 < e / 4096 then none else some (e % 4096, e / 4096)

/-- Record j of a graph, or the cause of its failure: 3 GREC, 4 GSUCC (R236). -/
def readNode (s : State) (part : Option Nat) (f g j : Nat) (h : GHdr) : Except Nat Node :=
  let va := h.nodes + 64 * j
  let b4 := granRead s f (va + 4) 1
  let fl := granRead s f (va + 5) 1
  let rt := granRead s f (va + 6) 1
  let wmask := granRead s f (va + 7) 1
  let succ := granRead s f (va + 0x10) 6
  let ns := granRead s f (va + 0x16) 2
  let pay := (List.range 4).map fun k => BitVec.ofNat 64 (granRead s f (va + 0x20 + 8 * k) 8)
  let commit := fl % 2 == 1
  let indir := fl / 2 % 2 == 1
  let live := granRead s f va 4 + b4 / 16 + rt / 16 + granRead s f (va + 10) 6 + granRead s f (va + 0x18) 8
  let ok := live == 0 && decide (b4 % 16 ≤ 5) && fl / 4 == 0 && (commit || wmask == 0) && wmask / 2 ^ h.nwin == 0 &&
    decide (ns ≤ h.n - 1) && (ns == 0 || inGranary succ (4 * ns) 4) && payOk s part f (b4 % 16) indir commit pay
  if !ok then .error 3
  else
    match (List.range ns).mapM fun k => readSucc s f (succ + 4 * k) h.n with
    | none => .error 4
    | some succs => .ok
      { graph := g, idx := j, typ := b4 % 16, commit := commit, indir := indir, limit := rt % 16, used := 0
        wmask := BitVec.ofNat 8 wmask, init := granRead s f (va + 8) 2, pending := granRead s f (va + 8) 2, trig := 0
        exited := 0, succs := succs, arrived := [], ext := 0, pay := pay, state := .armed, count := 0, retired := false
        surplus := false, trigd := false, job := none, sub := none, staged := false, order := none }

/-- The records of a graph from record `j` on, or the first failure as an index and a cause. -/
def readNodes (s : State) (part : Option Nat) (f g : Nat) (h : GHdr) : Nat → Nat → Except (Nat × Nat) (List Node)
  | 0, _ => .ok []
  | k + 1, j =>
    match readNode s part f g j h with
    | .error c => .error (j, c)
    | .ok u => match readNodes s part f g h k (j + 1) with
      | .error e => .error e
      | .ok us => .ok (u :: us)

/-- A window entry: the address of its pair and its size (R231). -/
def readWin (s : State) (f : Nat) (h : GHdr) (w : Nat) : Option (Nat × Nat) :=
  let va := h.wins + 32 * w
  let pair := granRead s f va 8
  let size := granRead s f (va + 8) 8
  if granRead s f (va + 16) 16 = 0 ∧ inGranary pair 16 16 ∧ 1 ≤ size ∧ size ≤ 2 ^ 20 ∧
      inGranary (granRead s f pair 8) size 1 ∧ inGranary (granRead s f (pair + 8) 8) size 1 then some (pair, size)
  else none

/-- The windows of a graph, or the first failure. -/
def readWins (s : State) (f : Nat) (h : GHdr) : Nat → Nat → Except (Nat × Nat) (List (Nat × Nat))
  | 0, _ => .ok []
  | k + 1, w =>
    match readWin s f h w with
    | none => .error (w, 5)
    | some p => match readWins s f h k (w + 1) with
      | .error e => .error e
      | .ok ps => .ok (p :: ps)

/-- The successor entries of a graph in record order: the node that lists it, the successor and the edge. -/
def allSuccs (us : List Node) : List (Nat × Nat × Nat) := us.flatMap fun u => u.succs.map fun e => (u.idx, e.1, e.2)

/-- The first node whose list repeats a (successor, edge) pair that stands earlier. -/
def dupSucc : List (Nat × Nat) → List (Nat × Nat × Nat) → List Nat
  | _, [] => []
  | seen, (j, p) :: rest => if seen.contains p then j :: dupSucc seen rest else dupSucc (p :: seen) rest

/-- The successors of some nodes of a list, by index. -/
def reachFrom (us : List Node) : Nat → List Nat → List Nat
  | 0, seen => seen
  | fuel + 1, seen =>
    let more := ((us.filter fun u => seen.contains u.idx).flatMap fun u => u.succs.map Prod.fst).dedup.filter fun i =>
      !seen.contains i
    if more.isEmpty then seen else reachFrom us fuel (seen ++ more)

/-- A node lies on a cycle. -/
def onCycle (us : List Node) (u : Node) : Bool := (reachFrom us 4096 (u.succs.map Prod.fst).dedup).contains u.idx

/-- The failures of the checks that need the whole graph: node indices with cause 3 or 4 (R236). Every entry of a successor list counts as an
in-edge, one that occurs twice too. DESIGN CHOICE (assumption 108). -/
def wholeFaults (us : List Node) : List (Nat × Nat) :=
  let es := allSuccs us
  ((us.filter fun u => decide (u.init < (es.filter fun e => e.2.1 == u.idx).length)).map fun u => (u.idx, 3)) ++
    ((dupSucc [] es).map fun j => (j, 4)) ++ ((us.filter (onCycle us)).map fun u => (u.idx, 4))

/-- The least of some failures: the lowest index, and GREC before GSUCC. -/
def leastFault : List (Nat × Nat) → Option (Nat × Nat)
  | [] => none
  | p :: ps => some (ps.foldl (fun a b => if b.1 < a.1 ∨ (b.1 = a.1 ∧ b.2 < a.2) then b else a) p)

/-- The lowest run of n free slots (R216). -/
def freeRun (ns : AMap Node) (n : Nat) : Option Nat :=
  (List.range (4097 - n)).find? fun b => ns.all fun p => decide (p.1 < b) || decide (b + n ≤ p.1)

/-- A checked graph: its base, its nodes, its windows and the address of its outcome word. -/
def checkGraph (s : State) (part : Option Nat) (f va : Nat) : Except (Nat × Nat) (Nat × List Node × List (Nat × Nat) × GHdr) :=
  match readHdr s f va with
  | none => .error (0, 1)
  | some h =>
    match readNodes s part f s.nextId h h.n 0 with
    | .error e => .error e
    | .ok us =>
      match readWins s f h h.nwin 0 with
      | .error e => .error e
      | .ok ws =>
        match leastFault (wholeFaults us) with
        | some e => .error e
        | none => match freeRun (s.field f).nodes h.n with
          | none => .error (0, 2)
          | some b => .ok (b, us, ws, h)

/-- The ranges of the granary that the check of a graph reads: its header, its records, their successor entries, its windows and
their pairs. -/
def graphRanges (s : State) (f va : Nat) : List (Nat × Nat) :=
  if !inGranary va 32 32 then []
  else
    (va, 32) :: match readHdr s f va with
      | none => []
      | some h =>
        [(h.nodes, 64 * h.n), (h.wins, 32 * h.nwin)] ++
          ((List.range h.n).filterMap fun j =>
            let succ := granRead s f (h.nodes + 64 * j + 0x10) 6
            let ns := granRead s f (h.nodes + 64 * j + 0x16) 2
            if inGranary succ (4 * ns) 4 then some (succ, 4 * ns) else none) ++
          (List.range h.nwin).filterMap fun w =>
            let pair := granRead s f (h.wins + 32 * w) 8
            if inGranary pair 16 16 then some (pair, 16) else none

/-- A graph is launched: its nodes are armed. The answer is the state, the value of `glaunch`, and the slots with pending 0. -/
def State.launchGraph (s : State) (f va launcher : Nat) (parent : Option Task) : State × Word × List Nat :=
  let s := s.reeveReads f (graphRanges s f va)
  match checkGraph s (fieldPart s f) f va with
  | .error (i, c) => (s, BitVec.ofNat 64 (2 ^ 63 + i * 2 ^ 16 + c), [])
  | .ok (b, us, ws, h) =>
    let g : Graph := ⟨f, b, h.n, h.nodes, ws, h.result, launcher, parent, none, false⟩
    let s' := s.modField f fun fs =>
      { fs with graphs := fs.graphs.put s.nextId g, nodes := us.foldl (fun m u => m.put (b + u.idx) u) fs.nodes
                windows := (fs.windows ++ ws).dedup }
    ({ s' with nextId := s.nextId + 1 }, BitVec.ofNat 64 (idOf f b), (us.filter fun u => u.pending == 0).map fun u => b + u.idx)

/-! ### Tokens, triggering and firing -/

/-- A node still records a token that it cannot count down (R222). -/
def recordsTokens (st : NodeState) : Bool := st == .faulted || st == .cancelled || st == .cancelPending

/-- A token on an in-edge reaches a node; the answer names it if its pending reaches 0. One that finds pending at 0, or its edge's bit
set, is discarded as surplus (R222). -/
def State.edgeToken (s : State) (f n e : Nat) : State × List Nat :=
  match s.node f n with
  | none => (s, [])
  | some u =>
    let surplus := u.arrived.contains e || (!recordsTokens u.state && !(u.state == .armed && decide (0 < u.pending)))
    if surplus then (s.modNode f n fun u => { u with surplus := true }, [])
    else if recordsTokens u.state then (s.modNode f n fun u => { u with arrived := u.arrived ++ [e] }, [])
    else
      (s.modNode f n fun u => { u with arrived := u.arrived ++ [e], pending := u.pending - 1 }, if u.pending = 1 then [n] else [])

/-- Tokens from outside the graph reach a node: those that find pending at 0 are discarded as surplus (R222). -/
def State.outsideTokens (s : State) (f n count : Nat) : State × List Nat :=
  match s.node f n with
  | none => (s, [])
  | some u =>
    if recordsTokens u.state then (s.modNode f n fun u => { u with ext := min (u.ext + count) u.init }, [])
    else
      let k := if u.state = .armed then min count u.pending else 0
      (s.modNode f n fun u =>
          { u with ext := min (u.ext + k) u.init, pending := u.pending - k, surplus := u.surplus || decide (k < count) },
        if 0 < k ∧ k = u.pending then [n] else [])

/-- A node triggers: its tokens go to its successors, in list order (R225). -/
def State.trigger (s : State) (f n : Nat) : State × List Nat :=
  match s.node f n with
  | none => (s, [])
  | some u =>
    let b := graphBase s f u.graph
    u.succs.foldl (fun r e =>
      let t := r.1.edgeToken f (b + e.1) e.2
      (t.1, r.2 ++ t.2)) (s.modNode f n fun u => { u with trigd := true }, [])

/-- A node triggers and is done. -/
def State.finishNode (s : State) (f n : Nat) : State × List Nat :=
  let r := s.trigger f n
  (r.1.modNode f n fun u => { u with state := .done }, r.2)

/-- The windows of a node. -/
def winsOf (u : Node) : List Nat := (List.range 8).filter fun w => u.wmask.getLsbD w

/-- A window of a node is held by another commit node that has not retired (R223): by its number, in the graph of the node.
DEDUCED (assumption 45). -/
def winsHeld (s : State) (f n : Nat) (u : Node) : Bool :=
  (graphNodes s f u.graph).any fun p => p.1 != n && p.2.staged && (p.2.wmask &&& u.wmask) != 0

/-- The bytes of a front buffer copied to the back buffer (R223). DESIGN CHOICE (assumption 126). -/
def State.stageWin (s : State) (f : Nat) (pair size : Nat) : State :=
  let front := granRead s f pair 8
  let back := granRead s f (pair + 8) 8
  (s.reeveReads f [(pair, 16), (front, size)]).granWrite f ((span (granKey f back) size).zip (s.readKeys (.reeve f) (span (granKey f front) size)))

/-- A node's windows are staged (R223). -/
def State.stage (s : State) (f n : Nat) (u : Node) : State :=
  let ws := ((s.graph f u.graph).map Graph.wins).getD []
  let s := (winsOf u).foldl (fun s w => match ws[w]? with
    | some (pair, size) => s.stageWin f pair size
    | none => s) s
  s.modNode f n fun u => { u with staged := u.wmask != 0 }

/-! ### Faults and walks -/

/-- A visited node of a cone changes (R229); `own` is the walk of a `gcancel`, whose cone gives up its retries (R237). -/
def State.visit (s : State) (f n : Nat) (own : Bool) : State :=
  match s.node f n with
  | none => s
  | some u =>
    let t := taskOf f n u
    let s := if own then s.modNode f n fun u => { u with order := none } else s
    match u.state with
    | .faulted | .cancelled | .cancelPending | .idle => s
    | st =>
      if u.retired then s
      else
        let s := ((s.removeRecords f t).unwait u t).modNode f n fun u =>
          if st = .running then { u with state := .cancelPending } else { u with state := .cancelled, staged := false }
        s.cancelNode t.node

/-- A cone is walked (R229), without the node itself or, for a `gcancel`, with it (R237). -/
def State.walk (s : State) (f n : Nat) (own : Bool) : State :=
  (cone s f n).foldl (fun s m => if m = n ∧ !own then s else s.visit f m own) s

/-- A node faults (R228). -/
def State.faultNode (s : State) (f n kind cause : Nat) : State :=
  match s.node f n with
  | none => s
  | some u =>
    let t := taskOf f n u
    match u.state with
    | .faulted | .cancelled | .cancelPending | .idle => s
    | _ =>
      if u.retired then s
      else
        let s := (s.removeRecords f t).unwait u t
        let s := s.modNode f n fun u =>
          { u with state := .faulted, order := if u.used < u.limit then some s.nextId else none }
        let s := { s with nextId := s.nextId + 1 }
        let s := s.modField f fun fs =>
          { fs with graphs := match fs.graphs.get? u.graph with
            | some g => fs.graphs.put u.graph { g with first := g.first.orElse fun _ => some (kind, cause, t.node) }
            | none => fs.graphs }
        let launcher := ((s.graph f u.graph).map Graph.launcher).getD 0
        let w2 := BitVec.ofNat 64 (kind * 256 + cause)
        let s := s.report (.reeve f) (sgOf launcher) launcher
          (serviceWords causeGfault launcher 0 (BitVec.ofNat 64 t.node) w2 (BitVec.ofNat 64 u.used))
        s.walk f n false

/-! ### Launching a fired node -/

/-- The command word of a node of types 2 to 4: its own id as target, sealed, and with indirect set the bytes it names (R223,
R224). -/
def nodeWord (s : State) (f n : Nat) (u : Node) : Vec :=
  let w0 := u.pay.getD 0 0
  let w1 := u.pay.getD 1 0
  let hi : BitVec 192 :=
    if u.indir then BitVec.ofNat 192 (granRead s f (w1.extractLsb' 0 48).toNat 24)
    else u.pay.getD 3 0 ++ u.pay.getD 2 0 ++ w1
  hi ++ w0.extractLsb' 48 16 ++ BitVec.ofNat 32 (idOf f n) ++ w0.extractLsb' 13 3 ++ 1#1 ++ w0.extractLsb' 0 12

/-- A type 1 node sends its records to the pool of its cluster (R220, R337). -/
def State.placeRecords (s : State) (f n : Nat) : State :=
  match s.node f n with
  | none => s
  | some u => s.post (.reeve f) false (.records (nodeCluster u) ((List.range u.count).map (nodeRecord s f n u)))

/-- A team of some records joins those of their cluster, if it has not yet (R234). -/
def ClusterSt.join (cl : ClusterSt) (now : Nat) (r : TaskRec) : ClusterSt :=
  if r.tb = 0 || cl.teams.any fun t => t.task == r.task then cl
  else { cl with teams := cl.teams ++ [⟨r.task, r.tb, none, now⟩] }

/-- Records reach the pool of a cluster, in order, as it has space (R147, R220); the wait of its Gleaner ends (R148). -/
def execRecordArrival (m : Nat) (s : State) : Out :=
  .next <|
    match s.msg? m with
    | none => s
    | some x => match x.body with
      | .records cluster rs =>
        let now := (s.field (sgField s (cluster / 16))).time.toNat
        let room := 256 - (poolRecs s cluster).length
        let here := rs.take room
        let s := if here.isEmpty then s else s.modCluster cluster fun cl =>
          { here.foldl (fun cl r => cl.join now r) cl with
            pool := cl.pool ++ here, empty := if cl.backoff then 0 else cl.empty, backoff := false }
        if rs.length ≤ room then s.dropMsg m
        else { s with net := s.net.map fun y => if y.id = m then { y with body := .records cluster (rs.drop room) } else y }
      | _ => s

/-- A node whose windows are staged issues its launch (R223). The answer names the nodes that are ready then.
DESIGN CHOICE (assumption 43). -/
def State.issueNode (s : State) (f n : Nat) : State × List Nat :=
  match s.node f n with
  | none => (s, [])
  | some u =>
    match u.typ with
    | 0 => s.finishNode f n
    | 1 =>
      let a := ((u.pay.getD 2 0).extractLsb' 0 48).toNat
      let c := if u.indir then granRead s f a 4 else ((u.pay.getD 2 0).extractLsb' 0 16).toNat
      let s := if u.indir then s.reeveReads f [(a, 4)] else s
      if 65535 < c then (s.faultNode f n 3 0x20, [])
      else
        let s := s.modNode f n fun u => { u with count := c }
        if c = 0 then s.finishNode f n
        else if !nodeBound s u then (s.faultNode f n 3 0x27, [])
        else ((s.modNode f n fun u => { u with state := .running }).placeRecords f n, [])
    | 5 =>
      let launcher := ((s.graph f u.graph).map Graph.launcher).getD 0
      let key := s.nextId
      let r := s.launchGraph f (u.pay.getD 0 0).toNat launcher (some (taskOf f n u))
      if r.2.1.msb then (r.1.faultNode f n 3 0x21, [])
      else (r.1.modNode f n fun u => { u with state := .running, sub := some key }, r.2.2)
    | _ =>
      let w := nodeWord s f n u
      let s := if u.indir then s.reeveReads f [(((u.pay.getD 1 0).extractLsb' 0 48).toNat, 24)] else s
      let c := ((u.pay.getD 0 0).extractLsb' 16 32).toNat
      let cls := cmdClass w
      let s := s.queueNode c cls w (taskOf f n u)
      (s.admitUpTo c cls (s.classQ c cls).waiting.length, [])

/-- A node with pending 0 fires; it stays fired while a window of its is held (R223). -/
def State.fire (s : State) (f n : Nat) : State × List Nat :=
  match s.node f n with
  | none => (s, [])
  | some u =>
    if (u.state = .armed ∧ u.pending = 0) ∨ u.state = .fired then
      let s := s.modNode f n fun u => { u with state := .fired }
      if winsHeld s f n u then (s, []) else (s.stage f n u).issueNode f n
    else (s, [])

/-! ### What follows from a change -/

/-- A node may retire (R232). -/
def retirable (s : State) (f : Nat) (u : Node) : Bool :=
  u.state == .done && !u.retired && (predsOf s f u).all fun p => p.2.1.retired

/-- The addresses of a window pair, swapped. -/
def swapCells (s : State) (f pair : Nat) : List (Nat × Byte) :=
  cellsAt (granKey f pair) (bytesOf 8 (granRead s f (pair + 8) 8) ++ bytesOf 8 (granRead s f pair 8))

/-- A node retires; the windows of a commit node are published in one step (R232). -/
def State.retireNode (s : State) (f n : Nat) (u : Node) : State :=
  let ws := ((s.graph f u.graph).map Graph.wins).getD []
  let s := (s.reeveReads f ((winsOf u).filterMap fun w => ws[w]?.map fun p => (p.1, 16))).granWrite f ((winsOf u).flatMap fun w => match ws[w]? with
    | some (pair, _) => swapCells s f pair
    | none => [])
  s.modNode f n fun u => { u with retired := true, staged := false }

/-- The code of a state (Table 14-5). -/
def NodeState.code : NodeState → Nat
  | .idle => 0
  | .armed => 1
  | .fired => 2
  | .running => 3
  | .done => 4
  | .faulted => 5
  | .cancelPending => 6
  | .cancelled => 7

/-- The live fields of a record, written back when the graph ends (R218, R224). -/
def nodeCells (f n : Nat) (base nodes : Nat) (u : Node) : List (Nat × Byte) :=
  let va := nodes + 64 * (n - base)
  let put := fun off len v => cellsAt (granKey f (va + off)) (bytesOf len v)
  let bits := (u.arrived.dedup.map fun e => 2 ^ e).sum
  put 0 4 (idOf f n) ++ put 4 1 (u.typ + 16 * u.state.code) ++ put 6 1 (u.limit + 16 * u.used) ++ put 10 2 u.pending ++
    put 12 2 u.trig ++ put 14 2 u.exited ++ put 0x18 6 bits ++ put 0x1E 2 u.ext ++
    (if u.typ = 1 ∧ u.indir then put 0x36 2 u.count else [])

/-- The graph has ended (R233): nothing of it can change any more. -/
def graphOver (s : State) (f g : Nat) : Bool :=
  (graphNodes s f g).all fun p => match p.2.state with
    | .armed | .fired | .running | .cancelPending => false
    | _ => p.2.order.isNone

/-- The outcome of a graph (R233). -/
def outcomeOf (us : List (Nat × Node)) : Nat :=
  if us.all fun p => p.2.state == .done then 1
  else if us.any fun p => p.2.state == .faulted && p.2.used == p.2.limit then 2 else 3

/-- A graph ends (R233): its records and outcome word are written, its slots freed, and the node that launched it learns of it. -/
def State.endGraph (s : State) (f gk : Nat) (g : Graph) : State × List Nat :=
  let us := graphNodes s f gk
  let out := outcomeOf us
  let (kind, cause, first) := g.first.getD (0, 0, 2 ^ 32 - 1)
  let word := out + kind * 2 ^ 8 + cause * 2 ^ 16 + first * 2 ^ 24
  let s := s.granWrite f (us.flatMap fun p => nodeCells f p.1 g.base g.nodes p.2)
  let s := if g.result = 0 then s else s.granWrite f (cellsAt (granKey f g.result) (bytesOf 8 word))
  let s := s.modField f fun fs =>
    { fs with nodes := fs.nodes.filter fun p => p.2.graph != gk, graphs := fs.graphs.del gk }
  match g.parent with
  | none => (s, [])
  | some t =>
    match s.node f (nodeSlot t.node) with
    | some u =>
      if u.graph = t.graph ∧ u.state = .running then
        if out = 1 then s.finishNode f (nodeSlot t.node) else (s.faultNode f (nodeSlot t.node) 3 0x22, [])
      else (s, [])
    | none => (s, [])

/-- A node that the cancellation of its whole graph would change. -/
def cancellable (u : Node) : Bool :=
  u.order.isSome || (match u.state with
    | .armed | .fired | .running => true
    | .done => !u.retired
    | _ => false)

/-- The subgraph of a cancel-pending node, while a node of it is not cancelled yet (R229). -/
def subToWalk (s : State) (f : Nat) : Option (Nat × Graph) :=
  (s.field f).graphs.find? fun p =>
    ((graphNodes s f p.1).any fun q => cancellable q.2) && (match p.2.parent with
      | some t => match s.node f (nodeSlot t.node) with
        | some u => u.graph == t.graph && u.state == .cancelPending
        | none => false
      | none => false)

/-- A graph gives up its retries and cancels its every node. -/
def State.cancelGraph (s : State) (f gk : Nat) : State :=
  let s := s.modField f fun fs => { fs with graphs := match fs.graphs.get? gk with
    | some g => fs.graphs.put gk { g with gcan := true }
    | none => fs.graphs }
  (graphNodes s f gk).foldl (fun s p => s.visit f p.1 true) s

/-- What the Reeve does next of itself, once no node waits to fire: a subgraph is cancelled, a cancel-pending node whose work has
ended is cancelled, a done node retires, a node fires whose windows have become free, of several the one in the lowest slot, or a graph ends.
DESIGN CHOICE (assumption 119). -/
def State.reeveMore (s : State) (f : Nat) : Option (State × List Nat) :=
  let ns := (s.field f).nodes
  match subToWalk s f with
  | some p => some (s.cancelGraph f p.1, [])
  | none =>
    match ns.find? fun p => p.2.state == .cancelPending && !nodeActive s f p.1 p.2 with
    | some p => some (s.modNode f p.1 fun u => { u with state := .cancelled, staged := false }, [])
    | none =>
      match ns.find? fun p => retirable s f p.2 with
      | some p => some (s.retireNode f p.1 p.2, [])
      | none =>
        match ns.find? fun p => p.2.state == .fired && p.2.wmask != 0 && !p.2.staged && !winsHeld s f p.1 p.2 with
        | some p => some (s, [p.1])
        | none =>
          match (s.field f).graphs.find? fun g => graphOver s f g.1 with
          | some g => some (s.endGraph f g.1 g.2)
          | none => none

/-- The Reeve acts until nothing is left to do: nodes that are ready fire in order. What a move leaves to do comes in a later one.
DEDUCED (assumption 42). -/
def State.reeveRun (s : State) (f : Nat) : Nat → List Nat → State
  | 0, ready => s.modField f fun fs => { fs with todo := some ready }
  | fuel + 1, n :: rest =>
    let r := s.fire f n
    r.1.reeveRun f fuel (rest ++ r.2)
  | fuel + 1, [] =>
    match s.reeveMore f with
    | some r => r.1.reeveRun f fuel r.2
    | none => s

/-! ### Teams -/

/-- An unstarted record of a task stands in a queue of a cluster. -/
def queuedRecords (s : State) (cl : Nat) (t : Task) : List (Nat × Nat × QEntry) :=
  (List.range 8).flatMap fun r =>
    (s.core (cl * 8 + r)).chans.flatMap fun p =>
      (p.2.queue.filter fun e => e.task == some t && e.taken.isNone).map fun e => (cl * 8 + r, p.1, e)

/-- An activation of a task runs on a cluster. -/
def runsOn (s : State) (cl : Nat) (t : Task) : Bool :=
  (List.range 8).any fun r => (s.core (cl * 8 + r)).slots.toList.any fun sl => sl.live && sl.task == some t

/-- A team has no activation and no record left on its cluster. -/
def teamGone (s : State) (cl : Nat) (t : Task) : Bool :=
  !((s.cluster cl).pool.any fun r => r.task == t) && (queuedRecords s cl t).isEmpty && !runsOn s cl t &&
    !(s.net.any fun m => carries t m || m.body.recs.any fun r => r.task == t)

/-- The cells of a team's region (R234). -/
def regionKeys (cl tb : Nat) : List Nat := span ((Place.bay (cl / 16)).key (cl % 16 * 0x80000)) (tb * 4096)

/-- A team takes up residence: its region is loaded if it has one, and its cycles begin (R234). -/
def State.settleTeam (s : State) (cl : Nat) : State :=
  match (s.cluster cl).teams with
  | [] => s.modCluster cl fun q => { q with expired := false }
  | t :: rest =>
    let now := (s.field (sgField s (cl / 16))).time.toNat
    let s := match t.region with
      | some bs => s.setCells ((regionKeys cl t.tb).zip bs)
      | none => s
    s.modCluster cl fun q => { q with teams := { t with region := none, since := now } :: rest, expired := false }

/-- Teams that are gone leave a cluster, and the next one becomes resident; with none waiting the resident one keeps the cluster (R234). -/
def State.pruneTeams (s : State) (cl : Nat) : State :=
  let ts := (s.cluster cl).teams
  let kept := ts.filter fun t => !teamGone s cl t.task
  if kept.length = ts.length then s
  else
    let s := s.modCluster cl fun q => { q with teams := kept }
    let s := if kept.length ≤ 1 then s.modCluster cl fun q => { q with expired := false } else s
    if kept.head?.map Team.task == ts.head?.map Team.task then s else s.settleTeam cl

/-- What the Reeve of a field has left to do is taken up. -/
def State.takeTodo (s : State) (f : Nat) : State :=
  if (s.field f).todo.isNone then s else s.modField f fun fs => { fs with todo := none }

/-- The Reeve of a field settles after a change: first what it has left to do, then what the change makes ready.
DEDUCED (assumption 42). -/
def State.reeve (s : State) (f : Nat) (ready : List Nat) : State :=
  let s := (s.takeTodo f).reeveRun f 65536 (((s.field f).todo.getD []) ++ ready)
  (fieldClusters s f).foldl (fun s cl => s.pruneTeams cl) s

/-- The Reeve of a field goes on with what a move has left to do. -/
def execReeveRest (f : Nat) (s : State) : Out := .next (if (s.field f).todo.isNone then s else s.reeve f [])

/-! ### Events at the Reeve -/

/-- A live node that a message names. -/
def liveNode (s : State) (id : Nat) : Option Node := s.node (nodeField id) (nodeSlot id)

/-- The node of a task, of the run of its graph. -/
def taskNode (s : State) (t : Task) : Option Node := (liveNode s t.node).filter fun u => u.graph == t.graph

/-- A node's own job has ended without report: its pass was saved (R225). -/
def passSaved (s : State) (f n : Nat) (u : Node) : Bool := u.typ == 3 && u.state == .running && u.job.isSome && !nodeActive s f n u

/-- TOKEN_ARRIVAL (R222, R225): tokens from outside the graph, the completion of a node's own job, or the token of a pass that was
saved and resumed. -/
def execTokenArrival (m : Nat) (s : State) : Out :=
  .next <|
    match s.msg? m with
    | none => s
    | some x => match x.body with
      | .token id count edge graph rep =>
        let f := nodeField id
        let t := s.finishMsg x (.reeve f)
        match liveNode s id with
        | none => match rep with
          | some c => t.report (.reeve f) (sgOf c) c (serviceWords causeGdrop c 0 0 0 (BitVec.ofNat 64 id))
          | none => t
        | some u =>
          if graph.any (· != u.graph) then t
          else
            let r := match edge with
              | some e => t.edgeToken f (nodeSlot id) e
              | none => t.outsideTokens f (nodeSlot id) count
            r.1.reeve f r.2
      | .passToken id =>
        let f := nodeField id
        let t := s.dropMsg m
        match liveNode s id with
        | none => match x.src with
          | .engine c _ => t.report (.reeve f) (sgOf c) c (serviceWords causeGdrop c 0 0 0 (BitVec.ofNat 64 id))
          | _ => t
        | some u =>
          let r := if passSaved t f (nodeSlot id) u then t.finishNode f (nodeSlot id) else t.outsideTokens f (nodeSlot id) 1
          r.1.reeve f r.2
      | .ownJob tk c cls j =>
        let f := nodeField tk.node
        let t := s.dropMsg m
        match taskNode s tk with
        | none => t
        | some u =>
          if u.state = .running ∧ u.job = some (c, cls, j) then
            let r := t.finishNode f (nodeSlot tk.node)
            r.1.reeve f r.2
          else t.reeve f []
      | _ => s

/-- Messages about one task arrive in order: no earlier one of the same source is under way. -/
def taskFirst (s : State) (m : Msg) (t : Task) : Bool :=
  !(netBefore s.net m.id).any fun x => x.src == m.src && aboutTask t x.body

/-- ACTIVATION_TRIGGER (R225, R228): in a faulted node a `gtrig` still counts, while an exit changes nothing but `exited`. -/
def execActivationTrigger (m : Nat) (s : State) : Out :=
  .next <|
    match s.msg? m with
    | none => s
    | some x => match x.body with
      | .trigger tk trig exit =>
        if !taskFirst s x tk then s
        else
          let f := nodeField tk.node
          let n := nodeSlot tk.node
          let t := s.dropMsg m
          match taskNode s tk with
          | none => t.reeve f []
          | some u =>
            let counts := trig && (u.state != .faulted || !exit)
            let u := { u with trig := if counts then u.trig + 1 else u.trig, exited := if exit then u.exited + 1 else u.exited }
            let t := t.modNode f n fun _ => u
            if u.state = .running then
              let r := if u.trig = u.count ∧ !u.trigd then t.trigger f n else (t, [])
              let t := if u.exited = u.count then r.1.modNode f n fun u => { u with state := .done } else r.1
              t.reeve f r.2
            else t.reeve f []
      | _ => s

/-- A fault report about a task comes after what its source has sent before about that task. -/
def reportFirst (s : State) (m : Msg) : Bool :=
  match m.body with
  | .fault n (some g) _ _ => taskFirst s m ⟨n, g⟩
  | _ => true

/-- FAULT_REPORT (R162, R228, R239): a report for no live node is dropped without a message. -/
def execFaultReport (m : Nat) (s : State) : Out :=
  .next <|
    match s.msg? m with
    | none => s
    | some x => match x.body with
      | .fault id graph kind cause =>
        if !reportFirst s x then s
        else
          let f := nodeField id
          let t := s.dropMsg m
          match liveNode s id with
          | none => t.reeve f []
          | some u => if graph.any (· != u.graph) then t.reeve f [] else (t.faultNode f (nodeSlot id) kind cause).reeve f []
      | _ => s

/-- A faulted node that is due for its retry (R230). -/
def retryDue (s : State) (f n : Nat) : Bool :=
  match s.node f n with
  | none => false
  | some u => match u.order with
    | none => false
    | some o =>
      let us := graphNodes s f u.graph
      u.state == .faulted && decide (u.used < u.limit) && !nodeActive s f n u &&
        us.all fun p => p.2.state != .cancelPending && (match p.2.order with
          | some q => decide (o ≤ q)
          | none => true)

/-- A node reset by a retry (R230); `within` are the slots of the cone. -/
def resetNode (s : State) (f : Nat) (within : List Nat) (u : Node) : Node :=
  let inner := ((predsOf s f u).filter fun p => within.contains p.1).map fun p => p.2.2
  let arrived := u.arrived.filter fun e => !inner.contains e
  { u with
    arrived := arrived, pending := u.init - arrived.dedup.length - u.ext, trig := 0, exited := 0, trigd := false
    state := .armed, job := none, sub := none, staged := false, order := none }

/-- NODE_RETRY (R230): the nodes of the cone are reset, but for those in the cone of another fault that awaits its retry.
DESIGN CHOICE (assumption 107). -/
def execNodeRetry (node : Nat) (s : State) : Out :=
  .next <|
    let f := nodeField node
    let n := nodeSlot node
    if retryDue s f n then
      let s := s.modNode f n fun u => { u with used := u.used + 1, order := none }
      match s.node f n with
      | none => s
      | some v =>
        let c := cone s f n
        let others := ((graphNodes s f v.graph).filter fun p => p.2.order.isSome).flatMap fun p => cone s f p.1
        let reset := (List.range 4096).filter fun m => c.contains m && !others.contains m
        let t := reset.foldl (fun t m => t.modNode f m (resetNode s f c)) s
        t.reeve f (reset.filter fun m => ((t.node f m).map Node.pending) == some 0)
    else s

/-- The channel of a record is bound on some core to which the record may go: its own one, for a record of a level of domain core, and
otherwise those of the cluster whose pool first received it (R147). -/
def recBound (s : State) (r : TaskRec) : Bool :=
  let cores := match r.only with
    | some d => [d]
    | none => (List.range 8).map (r.home * 8 + ·)
  cores.any fun c => (s.chan c (hdrChan r.hdr)).hrec.isSome

/-- A launch has changed a handler table of a cluster: nodes whose unstarted records have no core to go to fault with GCHAN
(R147), also where the records are under way to a pool. -/
def State.recheckPool (s : State) (cl : Nat) : State :=
  let f := sgField s (cl / 16)
  let lost := (s.field f).nodes.filter fun p =>
    let gone := fun (r : TaskRec) => r.task == taskOf f p.1 p.2 && r.home == cl && !recBound s r
    p.2.typ == 1 && p.2.state == .running &&
      (((fieldClusters s f).any fun c => (s.cluster c).pool.any gone) || s.net.any fun m => m.body.recs.any gone)
  if lost.isEmpty then s else (lost.foldl (fun s p => s.faultNode f p.1 3 0x27) s).reeve f []

/-! ### The forms of a core -/

/-- `gtok` (R235). -/
def execGtok (rn rc : Reg) (s : State) : Out :=
  .next <|
    let c := s.cur.core
    let id := (s.rx rn).setWidth 32
    let n := (s.rx rc).setWidth 16
    if !nodeIdOk s (corePart s c) id.toNat then s.trap causeGnode (s.rx rn)
    else if n = 0 then s.retire
    else s.buffer (.token id n)

/-- `glaunch` (R236): the request leaves at once and the slot waits for the answer. -/
def execGlaunch (rd rs : Reg) (s : State) : Out :=
  .next <|
    let c := s.cur.core
    (s.post (.core c) false (.glaunchReq c s.cur.slot.val (s.rx rs))).modSlot fun sl =>
      { sl with wait := .glaunch rd, sent := s.nextId :: sl.sent }

/-- `gcancel` (R237). -/
def execGcancel (rs : Reg) (s : State) : Out :=
  .next <|
    let c := s.cur.core
    let id := ((s.rx rs).setWidth 32).toNat
    if !nodeIdOk s (corePart s c) id then s.trap causeGnode (s.rx rs)
    else (s.post (.core c) false (.gcancelReq id)).modSlot fun sl => { sl with sent := s.nextId :: sl.sent }.retire

/-- `gstat` (R238). -/
def execGstat (rd rs : Reg) (s : State) : Out :=
  .next <|
    let c := s.cur.core
    let id := ((s.rx rs).setWidth 32).toNat
    if !nodeIdOk s (corePart s c) id then s.trap causeGnode (s.rx rs)
    else (s.post (.core c) false (.gstatReq c s.cur.slot.val id)).modSlot fun sl => { sl with wait := .gstat rd }

/-- `gtrig` (R239). -/
def execGtrig (s : State) : Out :=
  .next <|
    match s.slot.task with
    | some t =>
      if s.slot.trigd then s.retire
      else if s.sendsOut .fld then s
      else
        let s := s.perform (s.ownWrites s.agent) (.within .fld s.agent)
        (s.post (.core s.cur.core) false (.trigger t true false)).modSlot fun sl =>
          { sl with trigd := true, sent := s.nextId :: sl.sent }.retire
    | none => s.retire

/-! ### Requests and answers -/

/-- GRAPH_LAUNCH_REQUEST (R236). -/
def execGraphLaunchRequest (m : Nat) (s : State) : Out :=
  .next <|
    match s.msg? m with
    | none => s
    | some x => match x.body with
      | .glaunchReq c k a =>
        let f := coreField s c
        let r := (s.dropMsg m).launchGraph f a.toNat c none
        (r.1.reeve f r.2.2).post (.reeve f) false (.glaunchAns c k r.2.1)
      | _ => s

/-- A slot that waits for an answer gets it in rd. -/
def State.answer (s : State) (c k : Nat) (v : Word) (waits : Wait → Option Reg) : State :=
  if 4 ≤ k then s
  else match waits (s.slotOf c (slotIx k)).wait with
    | some rd => s.modSlotOf c (slotIx k) fun sl => if sl.spent then sl else sl.answered rd v
    | none => s

/-- GLAUNCH_ANSWER (R236). -/
def execGlaunchAnswer (m : Nat) (s : State) : Out :=
  .next <|
    match s.msg? m with
    | none => s
    | some x => match x.body with
      | .glaunchAns c k v => (s.dropMsg m).answer c k v fun w => match w with
        | .glaunch rd => some rd
        | _ => none
      | _ => s

/-- GCANCEL_REQUEST (R237). -/
def execGcancelRequest (m : Nat) (s : State) : Out :=
  .next <|
    match s.msg? m with
    | none => s
    | some x => match x.body with
      | .gcancelReq id =>
        let f := nodeField id
        let t := s.dropMsg m
        match liveNode s id with
        | none => t
        | some u =>
          let t := t.modField f fun fs => { fs with graphs := match fs.graphs.get? u.graph with
            | some g => fs.graphs.put u.graph { g with gcan := true }
            | none => fs.graphs }
          (t.walk f (nodeSlot id) true).reeve f []
      | _ => s

/-- The status word of a node (Table 14-7). -/
def gstatWord (s : State) (id : Nat) : Word :=
  match liveNode s id with
  | none => 0
  | some u =>
    let cp := ((graphNodes s (nodeField id) u.graph).filter fun p => p.2.state == .cancelPending).length
    BitVec.ofNat 16 u.pending ++ BitVec.ofNat 16 u.trig ++ BitVec.ofNat 8 (min cp 255) ++ BitVec.ofNat 4 u.used ++
      BitVec.ofNat 4 u.limit ++ BitVec.ofBool u.retired ++ BitVec.ofBool u.surplus ++ BitVec.ofBool u.commit ++
      BitVec.ofBool u.trigd ++ BitVec.ofNat 4 u.typ ++ 0#4 ++ BitVec.ofNat 4 u.state.code

/-- GSTAT_REQUEST (R238). -/
def execGstatRequest (m : Nat) (s : State) : Out :=
  .next <|
    match s.msg? m with
    | none => s
    | some x => match x.body with
      | .gstatReq c k id => (s.dropMsg m).post (.reeve (nodeField id)) false (.gstatAns c k (gstatWord s id))
      | _ => s

/-- GSTAT_ANSWER (R238). -/
def execGstatAnswer (m : Nat) (s : State) : Out :=
  .next <|
    match s.msg? m with
    | none => s
    | some x => match x.body with
      | .gstatAns c k v => (s.dropMsg m).answer c k v fun w => match w with
        | .gstat rd => some rd
        | _ => none
      | _ => s

/-! ### Swapping teams (R234) -/

/-- TEAM_RESIDENCY_EXPIRY: the resident team's 65,536 cycles have ended while another team waits. -/
def execTeamResidencyExpiry (cluster : Nat) (s : State) : Out :=
  .next <|
    let now := (s.field (sgField s (cluster / 16))).time.toNat
    match (s.cluster cluster).teams with
    | t :: _ :: _ => if 65536 ≤ now - t.since then s.modCluster cluster fun q => { q with expired := true } else s
    | _ => s

/-- The queued records of a team go back to its unstarted records. DEDUCED (assumption 48). -/
def State.unstart (s : State) (cl : Nat) (t : Task) : State :=
  (queuedRecords s cl t).foldl (fun s p =>
    match taskNode s t with
    | some u =>
      let r := nodeRecord s (nodeField t.node) (nodeSlot t.node) u ((p.2.2.words.getD 1 0).toNat)
      let s := s.modChan p.1 p.2.1 fun q => { q with queue := q.queue.filter fun e => e.seq ≠ p.2.2.seq }
      (s.grantRoom p.1 p.2.1 1).modCluster cl fun q => { q with pool := q.pool ++ [r] }
    | none => s) s

/-- TEAM_SWAP: once the expired team's last activation has ended, its region is saved and the longest waiter's is loaded. An error in the
region is reported as the Reeve reads it, and its bytes are taken as they are. DESIGN CHOICE (assumption 50). -/
def execTeamSwap (cluster : Nat) (s : State) : Out :=
  .next <|
    match (s.cluster cluster).teams with
    | t :: u :: rest =>
      if (s.cluster cluster).expired && !runsOn s cluster t.task && !(s.net.any (carries t.task)) then
        let s := (s.unstart cluster t.task).meetAll (.reeve (sgField s (cluster / 16))) (regionKeys cluster t.tb)
        let region := (regionKeys cluster t.tb).map s.byte
        (s.modCluster cluster fun q => { q with teams := u :: rest ++ [{ t with region := some region }] }).settleTeam cluster
      else s
    | _ => s

end Sys2Proof.Machine
end

