-- ==== Sys2Proof/Machine/Loft.lean ====
section
/-!
DEFINITION. The loft bank engines (R250 to R256): pass programs, firmware programs, and the class 4 commands. A command processes what it
has left of its row pairs in one step, after any number of single ones before; which of them it has processed when it stops early is left
open (R252, R256).
-/
namespace Sys2Proof.Machine

/-! ### Pass programs (R250, R251) -/

/-- A pass record: its control word and imm. -/
abbrev Record := BitVec 64 × BitVec 64

/-- A field of a control word. -/
def ctl (r : Record) (lo n : Nat) : Nat := r.1.toNat / 2 ^ lo % 2 ^ n

/-- An invalid record (R251). -/
def recordInvalid (r : Record) : Bool :=
  let op := ctl r 0 8
  decide (6 < op) || ctl r 42 6 != 0 || (op != 5 && (ctl r 10 32 != 0 || ctl r 48 16 != 0)) ||
    (if op = 3 then ctl r 8 2 == 3 else if op = 5 then ctl r 9 1 != 0 else ctl r 8 2 != 0) ||
    (op != 1 && op != 2 && r.2 != 0)

/-- A bit set to a value. -/
def putBit (v : BitVec 64) (i : Nat) (b : Bool) : BitVec 64 :=
  if b then v ||| BitVec.ofNat 64 (2 ^ i) else v &&& ~~~BitVec.ofNat 64 (2 ^ i)

/-- A `tt` pass on a lane: the source bits are read before either destination is written. -/
def ttPass (r : Record) (v : BitVec 64) (t : Bool) : BitVec 64 :=
  let bit := fun lo => (v.getLsbD (ctl r lo 6)).toNat
  let i := 4 * bit 10 + 2 * bit 16 + bit 22
  if ctl r 8 1 = 1 ∧ !t then v
  else
    let v := if ctl r 40 1 = 1 then putBit v (ctl r 28 6) (r.1.getLsbD (48 + i)) else v
    if ctl r 41 1 = 1 then putBit v (ctl r 34 6) (r.1.getLsbD (56 + i)) else v

/-- A program on one lane (Table 16-4): the lane word, its tag, and the registers K and M. -/
def runProg : List Record → BitVec 64 → BitVec 64 → BitVec 64 → Bool → BitVec 64 × Bool
  | [], _, _, v, t => (v, t)
  | r :: rs, k, m, v, t =>
    match ctl r 0 8 with
    | 0 => (v, t)
    | 1 => runProg rs r.2 m v t
    | 2 => runProg rs k r.2 v t
    | 3 =>
      let c := (v ^^^ k) &&& m == 0
      runProg rs k m v (match ctl r 8 2 with
        | 0 => c
        | 1 => t && c
        | _ => t || c)
    | 4 => runProg rs k m (if t then (v &&& ~~~m) ||| (k &&& m) else v) t
    | 5 => runProg rs k m (ttPass r v t) t
    | _ => runProg rs k m v (!t)

/-! ### What a command does to a lane -/

/-- The effect of a command on a lane's 32 bits, row B word high, and the lane's tag after it. -/
abbrev LaneFn := BitVec 32 → BitVec 32 × Bool

/-- `lass` (R252). -/
def lassLane (w : Vec) : LaneFn := fun v =>
  let key := BitVec.ofNat 32 (fld w 128 32)
  let cm := BitVec.ofNat 32 (fld w 160 32)
  let wv := BitVec.ofNat 32 (fld w 192 32)
  let wm := BitVec.ofNat 32 (fld w 224 32)
  if (v ^^^ key) &&& cm = 0 then ((v &&& ~~~wm) ||| (wv &&& wm), true) else (v, false)

/-- `w + d` for FP16 w and FP32 d, rounded once to FP16 (R253). -/
def addWeight (w d : Nat) : Nat := encFloat layFp16 .rne ((decFloat layFp16 w).add .rne (dec32 d))

/-- The reward of a lane (R253, R269): q in FP32; the trace is zeroed where `clear` is set. -/
def rewardLane (q : Nat) (clear : Bool) : LaneFn := fun v =>
  let e := (v.extractLsb' 16 16).toNat
  let w := (v.extractLsb' 0 16).toNat
  let w := if e = 0x4000 then w else addWeight w (rne32 ((dec32 q).mul (dec32 (decode32 e))))
  (BitVec.ofNat 16 (if clear then 0x4000 else e) ++ BitVec.ofNat 16 w, true)

/-- A signed L_min in 16 bits, clamped (R123). -/
def lminOf (x : Nat) : Int := clamp (-16383) 16383 (toSigned 16 (x % 2 ^ 16))

/-- The fade of a lane (R253). -/
def fadeLane (d : Nat) (lm : Int) : LaneFn := fun v =>
  (BitVec.ofNat 16 (fadeTl16 (v.extractLsb' 16 16).toNat 1 d lm) ++ v.extractLsb' 0 16, true)

/-- A pass program on a lane (R250): scratch is zero and the tag 1 at open. -/
def progLane (recs : List Record) (param : BitVec 64) : LaneFn := fun v =>
  let r := runProg recs param (BitVec.allOnes 64) (v.setWidth 64) true
  (r.1.setWidth 32, r.2)

/-! ### Row pairs -/

/-- The keys of a row pair of a core's loft. -/
def rowPairKeys (c p : Nat) : List Nat := span ((Place.loft c).key (p * 4096)) 4096

/-- The 16-bit words of some bytes. -/
def halves : List Byte → List (BitVec 16)
  | a :: b :: rest => (b ++ a) :: halves rest
  | _ => []

/-- The lanes of a row pair's bytes, row B word high (R243). -/
def lanesOf (bs : List Byte) : List (BitVec 32) := ((halves (bs.take 2048)).zip (halves (bs.drop 2048))).map fun p => p.2 ++ p.1

/-- The bytes of a row pair from its lanes. -/
def bytesOfLanes (ls : List (BitVec 32)) : List Byte :=
  (ls.flatMap fun l => [l.extractLsb' 0 8, l.extractLsb' 8 8]) ++ ls.flatMap fun l => [l.extractLsb' 16 8, l.extractLsb' 24 8]

/-- The writes of a row pair's bytes that are not visible to all yet. -/
def rowWrites (s : State) (c p : Nat) : List Nat :=
  let k := (Place.loft c).key (p * 4096)
  (s.hidden.filter fun h => h.old.any fun x => decide (k ≤ x.1) && decide (x.1 < k + 4096)).map Hidden.id

/-- An engine opens a row pair, applies a lane function and closes it (R250); the answer counts the tags. The writes that stand at
the open are performed before it, and the close is performed with respect to every agent (R245). DEDUCED (assumption 35). -/
def State.rowPair (s : State) (c p : Nat) (f : LaneFn) : State × Nat :=
  let s := s.perform (rowWrites s c p) .all
  let keys := rowPairKeys c p
  let out := (lanesOf (keys.map s.byte)).map f
  (s.setCells (keys.zip (bytesOfLanes (out.map Prod.fst))), (out.filter Prod.snd).length)

/-- Row pairs processed in ascending order, with the sum of the counts. -/
def State.rowPairs (s : State) (c : Nat) (f : LaneFn) (ps : List Nat) : State × Nat :=
  ps.foldl (fun r p =>
    let t := r.1.rowPair c p f
    (t.1, r.2 + t.2)) (s, 0)

/-- The bad granule of a row pair. -/
def rowBad (s : State) (c p : Nat) : Option BadGranule := s.badRead (.loft c) (rowPairKeys c p)

/-- Some row pairs of a list, which ones is open: those that a command that stops early has processed (R256).
DESIGN CHOICE (assumption 34). -/
def someRows (n : Nat) (ps : List Nat) : List Nat := ps.filter fun p => (Config.freeWord (n + p)).getLsbD 0

/-! ### Class 4 commands -/

/-- A record of a program in TCM, as path B reads it. -/
def readRecord (s : State) (c addr : Nat) : Record :=
  let n := natOfBytes (s.readKeys (.loft c) (span ((Place.tcm c).key addr) 16))
  (BitVec.ofNat 64 n, BitVec.ofNat 64 (n / 2 ^ 64))

/-- The records of a program up to and with `end`: 0x07 ACCESS where it leaves the TCM, 0x11 LPROG where no `end` comes. -/
def readProg (s : State) (c : Nat) : Nat → Nat → Except Nat (List Record)
  | 0, _ => .error 0x11
  | fuel + 1, addr =>
    if 0x10000 < addr + 16 then .error 0x07
    else
      let r := readRecord s c addr
      if ctl r 0 8 = 0 then .ok [r]
      else match readProg s c fuel (addr + 16) with
        | .ok rs => .ok (r :: rs)
        | .error e => .error e

/-- The program number and address of an `lsweep`. -/
def fwOf (w : Vec) : Nat := fld w 144 8
def progOf (w : Vec) : Nat := fld w 128 16

/-- The program of an `lsweep` with fw 0, or the fault it gives. -/
def progRead (s : State) (c : Nat) (w : Vec) : Except Nat (List Record) :=
  match readProg s c 256 (progOf w) with
  | .error e => .error e
  | .ok rs => if rs.any recordInvalid then .error 0x11 else .ok rs

/-- The checks of Table 16-8 before the program is read. -/
def loftFields (w : Vec) : Option Nat :=
  let sweep := cmdOpcode w == 0x41
  let fw := fwOf w
  let param := fld w 192 64
  let bad := fld w 108 4 != 0 || fld w 80 16 != 0 || fld w 50 14 != 0 || (!w.getLsbD 48 && fld w 64 16 != 0) ||
    (sweep && (fld w 152 40 != 0 || decide (2 < fw) || (fw != 0 && progOf w != 0) ||
      (fw == 1 && param / 2 ^ 33 != 0) || (fw == 2 && param / 2 ^ 32 != 0)))
  let count := if fld w 112 16 = 0 then 4096 else fld w 112 16
  if bad then some 0x10
  else if 4096 < fld w 96 12 + count then some 0x12
  else if (sweep && progOf w % 16 != 0) ∨ fld w 64 16 % 8 ≠ 0 then some 0x13
  else none

/-- The command runs a program of its own. -/
def hasProg (w : Vec) : Bool := cmdOpcode w == 0x41 && fwOf w == 0

/-- The program of a command: as its engine reads it, or as it was taken again at a restore (R254, R257). -/
def progFor (s : State) (c : Nat) (m : Cmd) : Except Nat (List Record) :=
  match m.run with
  | some r => .ok r.prog
  | none => progRead s c m.word

/-- The checks of a class 4 command (Table 16-8). -/
def loftCheck (s : State) (c : Nat) (m : Cmd) : Option Nat :=
  m.fails.orElse fun _ => (loftFields m.word).orElse fun _ =>
    if hasProg m.word then
      match progFor s c m with
      | .error e => some e
      | .ok _ => none
    else none

/-- The bytes of a command's program, which path B reads as its engine takes it. -/
def progKeys (s : State) (c : Nat) (m : Cmd) : List Nat :=
  if hasProg m.word && m.run.isNone then
    match progRead s c m.word with
    | .ok rs => span ((Place.tcm c).key (progOf m.word)) (16 * rs.length)
    | .error _ => []
  else []

/-- What a class 4 command does to a lane. -/
def loftLane (s : State) (c : Nat) (m : Cmd) : LaneFn :=
  let w := m.word
  let param := fld w 192 64
  if cmdOpcode w ≠ 0x41 then lassLane w
  else if fwOf w = 1 then rewardLane (param % 2 ^ 32) (param / 2 ^ 32 % 2 == 1)
  else if fwOf w = 2 then fadeLane (param % 2 ^ 16) (lminOf (param / 2 ^ 16))
  else match progFor s c m with
    | .ok rs => progLane rs (BitVec.ofNat 64 param)
    | .error _ => fun v => (v, true)

/-- The row pairs that a command has closed, and those that it has yet to close. -/
def Cmd.closed (m : Cmd) : List Nat := (m.run.map Running.closed).getD []
def Cmd.rowsLeft (m : Cmd) : List Nat := (rangeOf m.word).filter fun p => !m.closed.contains p

/-- The lanes that a command has counted so far. -/
def Cmd.counted (m : Cmd) : Nat := (m.run.map Running.count).getD 0

/-- The program of a command, as its engine has it once the checks have passed (R254). -/
def progRecs (s : State) (c : Nat) (m : Cmd) : List Record :=
  if hasProg m.word then (match progFor s c m with
    | .ok rs => rs
    | .error _ => []) else []

/-- A command that has closed some more of its row pairs, with their count; their interlocks end (R255). -/
def Cmd.closes (m : Cmd) (ps : List Nat) (n : Nat) (prog : List Record) : Cmd :=
  { m with run := some ⟨m.closed ++ ps, m.counted + n, prog⟩, il := m.il.filter fun p => !ps.contains p }

/-- A command that has failed processes no further row pair and releases its interlocks; its job faults when its turn comes (R255, R256). -/
def Cmd.stops (m : Cmd) (cause : Nat) : Cmd := { m with fails := some cause, il := [] }

/-- A command of a core's class 4 queue, by its place, has failed, and with it the later commands of its job, which that fault discards in their
turn (R160, R255). -/
def State.stopCmd (s : State) (c k : Nat) (m : Cmd) (cause : Nat) : State :=
  s.modClassQ c 4 fun q =>
    let queue := q.queue.mapIdx fun j n => if j = k then m.stops cause else if k < j && n.job == m.job then n.stops cause else n
    { q with queue := queue }

/-- A command is yet to process a row pair. -/
def Cmd.covers (m : Cmd) (p : Nat) : Bool := m.fails.isNone && !m.dead && m.rowsLeft.contains p

/-- A command of a core's class 4 queue, by its place, becomes another one. -/
def State.setCmd (s : State) (c k : Nat) (m : Cmd) : State := s.modClassQ c 4 fun q => { q with queue := q.queue.set k m }

/-- A command of a core's class 4 queue takes a row pair by itself: it is checked, if it has not been yet, and then opens and closes the row
pair (R252, R255). One that fails a check, or finds an error there, stops. DESIGN CHOICE (assumption 120). -/
def State.closeRow (s : State) (c k : Nat) (m : Cmd) (p : Nat) : State :=
  let prog := progKeys s c m
  match if m.run.isSome then none else (commonCheck s c m.word).orElse fun _ => loftCheck s c m with
  | some cause => s.stopCmd c k m cause
  | none => match (s.badRead (.loft c) prog).orElse fun _ => rowBad s c p with
    | some b => (s.meetBad b).stopCmd c k m 0x05
    | none =>
      let t := (s.noteRead (.loft c) prog).rowPair c p (loftLane s c m)
      (t.1.setCmd c k (m.closes [p] t.2 (progRecs s c m))).ofJob s c 4 m.job

/-- A class 4 command (R252, R256): one that names a node that was cancelled since it began stops at a row-pair boundary. -/
def State.loftCmd (s : State) (c : Nat) (m : Cmd) : State :=
  let w := m.word
  let ag := Agent.loft c
  let prog := progKeys s c m
  match s.badRead ag prog with
  | some b => s.cmdUncorr c 4 m b
  | none =>
    let f := loftLane s c m
    let ps := m.rowsLeft
    let s := s.noteRead ag prog
    let n := s.free
    if m.dead then
      let t := s.rowPairs c f (someRows n (ps.filter fun p => (rowBad s c p).isNone))
      { t.1 with free := n + 4096 }.performed c 4 m
    else
      match ps.findSome? (rowBad s c) with
      | some b =>
        let t := s.rowPairs c f (someRows n (ps.filter fun p => (rowBad s c p).isNone))
        { t.1 with free := n + 4096 }.cmdUncorr c 4 m b
      | none =>
        let t := s.rowPairs c f ps
        let u := if w.getLsbD 48 then
          t.1.writeCells ag (cellsAt ((Place.tcm c).key (fld w 64 16)) (bytesOf 8 (m.counted + t.2))) else t.1
        u.performed c 4 m

/-- The row pairs that the engines of the 16 banks close before they pause at a row-pair boundary: of each bank the first few in
ascending order, how many is open (R257, R274). DESIGN CHOICE (assumption 34). -/
def pausedRows (n : Nat) (ps : List Nat) (may : Nat → Bool) : List Nat :=
  (List.range 16).flatMap fun b =>
    let q := (ps.filter fun p => p / 256 == b).takeWhile may
    q.take ((Config.freeWord (n + b)).toNat % (q.length + 1))

/-- The command at the head of a core's class 4 queue, if its engines are at work on it as the context is switched out, pauses at a
row-pair boundary (R257). -/
def State.pauseLoft (s : State) (c : Nat) : State :=
  match (s.classQ c 4).queue with
  | [] => s
  | m :: rest =>
    let n := s.free
    if !loftReady s c || (commonCheck s c m.word).isSome || (loftCheck s c m).isSome ||
        (s.badRead (.loft c) (progKeys s c m)).isSome || !(Config.freeWord (n + 16)).getLsbD 0 then s
    else
      let ps := pausedRows n m.rowsLeft fun p => (rowBad s c p).isNone
      let t := (s.noteRead (.loft c) (progKeys s c m)).rowPairs c (loftLane s c m) ps
      { t.1.modClassQ c 4 fun q => { q with queue := m.closes ps t.2 (progRecs s c m) :: rest } with free := n + 17 }

/-- The engines take the head of a core's class 4 queue, if the row takes its opcode. -/
def State.loftUnit (s : State) (c : Nat) (takes : Nat → Bool) : State :=
  match headOp s c 4 with
  | some op => if loftReady s c && takes op then s.runCmd c 4 (loftCheck s c) fun s m => s.loftCmd c m else s
  | none => s

/-- LASS; a command with an opcode of no class 4 row is taken here and faults (R21). -/
def execLass (core : Nat) (s : State) : Out := .next (s.loftUnit core (· != 0x41))

/-- LSWEEP (R252). -/
def execLsweep (core : Nat) (s : State) : Out := .next (s.loftUnit core (· == 0x41))

end Sys2Proof.Machine
end

