-- ==== Sys2Proof/Machine/Reward.lean ====
section
/-!
DEFINITION. Rewards (R260 to R273): `rwd`, their arrival on channel 63, the cut of a core, and the sweep of its loft.
-/
namespace Sys2Proof.Machine

/-- `rwd` (R264): mode 0 keeps the traces, mode 1 clears them. -/
def execRwd (rs rl : Reg) (clear : BitVec 1) (s : State) : Out :=
  .next <|
    let l := s.rx rl
    let t := l.extractLsb' 16 32
    if t ≠ noTarget ∧ !nodeIdOk s (corePart s s.cur.core) t.toNat then s.trap causeGnode l
    else s.buffer (.reward ((s.rx rs).setWidth 32) (clear == 1) (l.setWidth 8) t)

/-! ### Arrival (R265, R266) -/

/-- A reward message of the same source stands before one and has not reached a core yet. -/
def rewardBefore (s : State) (m : Msg) (core : Nat) : Bool :=
  (netBefore s.net m.id).any fun x => x.src == m.src && (match x.body with
    | .reward _ _ _ _ _ _ got => !got.contains core
    | _ => false)

/-- REWARD_ARRIVAL (R266): the reward joins channel 63 of a core, which holds at most 4; those refused earliest come first. It takes no
arrival number (Table 4-5). DESIGN CHOICE (assumption 90). -/
def execRewardArrival (b core : Nat) (s : State) : Out :=
  .next <|
    match s.msg? b with
    | none => s
    | some m => match m.body with
      | .reward part r clear key tgt src got =>
        let co := s.core core
        if !coreIn s (some part) core || got.contains core || rewardBefore s m core then s
        else if 4 ≤ co.rewards.length ∨ (!co.rwdHeld.isEmpty ∧ co.rwdHeld.head? ≠ some b) then
          if co.rwdHeld.contains b then s else s.modCore core fun co => { co with rwdHeld := co.rwdHeld ++ [b] }
        else
          let s := s.modCore core fun co =>
            { co with rewards := co.rewards ++ [⟨r, clear, key, tgt, src⟩], rwdHeld := co.rwdHeld.filter (· ≠ b) }
          let got := core :: got
          if (partCores s part).all got.contains then s.finishMsg m (.core core)
          else
            { s with net := s.net.map fun x =>
              if x.id = b then { x with body := .reward part r clear key tgt src got } else x }
      | _ => s

/-! ### The directory (R260) -/

/-- A little-endian field of a directory. -/
def dirField (bs : List Byte) (off n : Nat) : Nat := areaField bs off n

/-- The directory of a core, as its engines find it. -/
def dirBytes (s : State) (c : Nat) : List Byte := s.readKeys (.loft c) (rowPairKeys c 4095)

/-- The offset of a group entry. -/
def groupOff (g : Nat) : Nat := 0x140 + 64 * g

/-- The first row pair and the count of a group. -/
def groupRange (bs : List Byte) (g : Nat) : Nat × Nat := (dirField bs (groupOff g) 2, dirField bs (groupOff g + 2) 2)

/-- The offset of the layer entry of a group. -/
def layerOff (bs : List Byte) (g : Nat) : Nat := 0x40 + 16 * dirField bs (groupOff g + 4) 1

/-- Two ranges share a row pair. -/
def rangesMeet (a b : Nat × Nat) : Bool := decide (a.1 < b.1 + b.2) && decide (b.1 < a.1 + a.2)

/-- A group breaks a condition of its own, or shares a row pair with one of lower index (R260). -/
def groupBad (bs : List Byte) (g : Nat) : Bool :=
  let nlay := dirField bs 4 1
  let r := groupRange bs g
  decide (nlay ≤ dirField bs (groupOff g + 4) 1) || dirField bs (layerOff bs g + 9) 1 % 2 == 0 || r.2 == 0 ||
    decide (4095 < r.2) || decide (4095 < r.1 + r.2) || dirField bs (groupOff g + 6) 2 / 2 ^ 12 != 0 ||
    (List.range g).any fun h => rangesMeet (groupRange bs h) r

/-- The index of the first failure of a directory: 0xFFFF for its header (R272). -/
def dirFault (bs : List Byte) : Option Nat :=
  if 16 < dirField bs 4 1 ∨ 59 < dirField bs 6 2 then some 0xFFFF
  else (List.range (dirField bs 6 2)).find? (groupBad bs)

/-- The effective L_min of a stored one (R262). -/
def lminEff (x : Nat) : Int :=
  let v := toSigned 16 x
  clamp (-16383) 16383 (if v < -16384 then -6144 else v)

/-- The fade amount of a group, in cardinal 64-bit arithmetic (R30, R262). -/
def fadeAmount (step stamp d : Nat) : Nat := if step < stamp then 65535 else min ((step - stamp) * d % 2 ^ 64) 65535

/-- The groups of a directory with a key, with the parameters of a cut (R262, R267). -/
def cutGroups (bs : List Byte) (m : Reward) : List SweepGroup :=
  ((List.range (dirField bs 6 2)).filter fun g => dirField bs (layerOff bs g + 8) 1 == m.key.toNat).map fun g =>
    let o := groupOff g
    let r := groupRange bs g
    { idx := g, first := r.1, count := r.2, q := BitVec.ofNat 32 (fmul32 (dirField bs (o + 12) 4) m.r.toNat)
      amt := fadeAmount (dirField bs (layerOff bs g) 8) (dirField bs (o + 16) 8) (dirField bs (o + 6) 2 % 4096)
      lmin := lminEff (dirField bs (o + 8) 2) }

/-- The key of a byte of a core's directory. -/
def dirKey (c off : Nat) : Nat := (Place.loft c).key (4095 * 4096 + off)

/-- The cut fields of a group (Table 17-3). -/
def cutCells (c : Nat) (g : SweepGroup) : List (Nat × Byte) :=
  cellsAt (dirKey c (groupOff g.idx + 0x20)) (bytesOf 4 1 ++ bytesOf 4 g.q.toNat ++ bytesOf 2 g.first ++ bytesOf 2 g.count ++
    bytesOf 2 g.amt ++ bytesOf 2 (ofSigned 16 g.lmin))

/-! ### The cut (R267, R268) -/

/-- The reward at the head of a core's channel 63 is removed, and the hold for it ends. -/
def State.dropReward (s : State) (c : Nat) : State :=
  s.modCore c fun co => { co with rewards := co.rewards.drop 1, cutHold := false }

/-- The version word of a core's directory. -/
def dirVersion (s : State) (c : Nat) : Nat := dirField (dirBytes s c) 0 4

/-- The offsets of a directory that a cut reads: the header, and, where that is in range, the entries in use; of all these not the bytes that
are ignored, and not the cut fields, which it writes (R260, Tables 17-1 to 17-3). An error in them is reported, and the bytes are taken
as they are. DEDUCED (assumption 52). -/
def dirReads (bs : List Byte) : List Nat :=
  let nlay := dirField bs 4 1
  let ngrp := dirField bs 6 2
  [0, 1, 2, 3, 4, 6, 7] ++
    if dirField bs 0 4 ≠ 1 ∨ 16 < nlay ∨ 59 < ngrp then []
    else ((List.range nlay).flatMap fun l => span (0x40 + 16 * l) 10) ++
      (List.range ngrp).flatMap fun g => span (groupOff g) 5 ++ span (groupOff g + 6) 4 ++ span (groupOff g + 12) 12

/-- The loft writes of a core's slots, and of its copy jobs that are complete, that are not visible to all yet (R268). -/
def coreLoftWrites (s : State) (c : Nat) : List Nat :=
  (s.hidden.filter fun h => inLoft h && (match h.writer with
    | .slot d _ => d == c
    | _ => h.jobs.any fun j => j.1 == c && j.2.1 == 2 && !(s.classQ c 2).lives j.2.2)).map Hidden.id

/-- REWARD_HOLD (R267): with no sweep outstanding, the reward at the head holds dispatch, or goes where there are no layers. The loft
writes of the core's slots and complete copies are performed before the directory's version is read (R268). -/
def execRewardHold (core : Nat) (s : State) : Out :=
  .next <|
    let co := s.core core
    if co.rewards.isEmpty || co.cutHold || co.sweep.isSome then s
    else
      let s := (s.perform (coreLoftWrites s core) .all).meetAll (.loft core) (span (dirKey core 0) 4)
      if dirVersion s core ≠ 1 then s.dropReward core
      else s.modCore core fun co => { co with cutHold := true }

/-- REWARD_CUT (R267, R268). -/
def execRewardCut (core : Nat) (s : State) : Out :=
  .next <|
    let co := s.core core
    match co.rewards with
    | [] => s
    | m :: _ =>
      if !co.cutHold || !coreQuiet s core then s
      else
        let s := s.perform (coreLoftWrites s core) .all
        let bs := dirBytes s core
        let s := s.meetAll (.loft core) ((dirReads bs).map (dirKey core))
        if dirField bs 0 4 ≠ 1 then s.dropReward core
        else match dirFault bs with
          | some g =>
            (s.dropReward core).report (.loft core) (sgOf core) core
              (serviceWords causeRwddir core 0 (0#24 ++ m.key ++ m.r) 0 (BitVec.ofNat 64 g))
          | none =>
            match cutGroups bs m with
            | [] => s.dropReward core
            | gs =>
              let s := s.setCells (gs.flatMap (cutCells core))
              let rows := gs.flatMap fun g => (List.range g.count).map (g.first + ·)
              (s.dropReward core).modCore core fun co =>
                { co with sweep := some ⟨m, gs, (co.jobs.get (clsIx 4)).queue.length, rows⟩ }

/-! ### The sweep (R269 to R272) -/

/-- What a sweep does to a lane of a group (R269). -/
def sweepLane (g : SweepGroup) (clear : Bool) : LaneFn := fun v =>
  let e := (v.extractLsb' 16 16).toNat
  let w := (v.extractLsb' 0 16).toNat
  let e1 := fadeTl16 e 1 g.amt g.lmin
  let w := if e1 = 0x4000 then w else addWeight w (rne32 ((dec32 g.q.toNat).mul (dec32 (decode32 e1))))
  (BitVec.ofNat 16 (if clear then 0x4000 else e) ++ BitVec.ofNat 16 w, true)

/-- A row pair of a sweep: one with an uncorrectable error stays as it is and is reported (R272). -/
def State.sweepRow (s : State) (c p : Nat) (g : SweepGroup) (clear : Bool) : State :=
  match rowBad s c p with
  | some b =>
    (s.meetBad b).report (.loft c) (sgOf c) c (serviceWords causeRwderr c 0 0 0 (BitVec.ofNat 64 p))
  | none => (s.rowPair c p (sweepLane g clear)).1

/-- The sweep of a core closes some of its row pairs. -/
def State.sweepRows (s : State) (c : Nat) (w : Sweep) (ps : List Nat) : State :=
  let s := w.grps.foldl (fun s g =>
    ((List.range g.count).map (g.first + ·)).foldl (fun s p => if ps.contains p then s.sweepRow c p g w.rew.clear else s) s) s
  s.modCore c fun co => { co with sweep := some { w with left := w.left.filter fun p => !ps.contains p } }

/-! ### Row pairs one by one (R252, R255, R268) -/

/-- A copy command at the head of its queue waits on a row pair (R255). -/
def copyAwaits (s : State) (c p : Nat) : Bool :=
  let q := s.classQ c 2
  match q.queue with
  | [] => false
  | m :: _ =>
    let a := copyArgs m.word
    let reach := fun (va : Int) (n : Nat) => ((span va.toNat n).filterMap rowPairOf).contains p
    q.lives m.job && q.hold.isNone && ((commonCheck s c m.word).orElse fun _ => copyCheck m).isNone &&
      (match (copyPlan s c m.word).1 with
        | .wait =>
          if a.op = 0x21 ∧ (firstInterlock s c a.ilist (4 * a.n)).isSome then reach a.ilist (4 * a.n)
          else (copyMoves a (if a.op = 0x21 then listOffs s c a else [])).any fun v => reach v.src v.n || reach v.dst v.n
        | _ => false)

/-- An access of a core waits on a row pair (R255, R268). -/
def rowAwaited (s : State) (c p : Nat) : Bool :=
  ((s.core c).slots.toList.any fun sl => sl.wait == .interlock p) || copyAwaits s c p

/-- The sweep of a core processes a row pair next: it stands ahead of the command at a place of the queue, and is yet to close it (R268). -/
def sweepNext (s : State) (c p : Nat) (k : Option Nat) : Bool :=
  match (s.core c).sweep with
  | some w => w.left.contains p && (match k with
    | some k => decide (w.ahead ≤ k)
    | none => true)
  | none => false

/-- The loft engines of a core process one row pair: the first command or sweep of the core, in the order of R254, that is yet to process it
does. One at work processes any of its row pairs (R252); a row pair that an access waits on is processed before its turn, up to the last
command that interlocks it (R255, R268). DESIGN CHOICE (assumption 120). -/
def execRowClose (core p : Nat) (s : State) : Out :=
  .next <|
    let q := (s.classQ core 4).queue
    let k := q.findIdx? fun m => m.covers p
    if sweepNext s core p k then
      match (s.core core).sweep with
      | some w => if w.ahead = 0 || rowAwaited s core p then s.sweepRows core w [p] else s
      | none => s
    else match k with
      | none => s
      | some k =>
        let locked := ((q.drop k).any fun m => m.il.contains p) || sweepNext s core p none
        match q[k]? with
        | some m =>
          if (k = 0 && loftReady s core) || (locked && rowAwaited s core p) then s.closeRow core k m p else s
        | none => s

/-- SWEEP_START (R269, R271): once the class 4 commands ahead of it have ended, the sweep closes its row pairs. -/
def execSweepStart (core : Nat) (s : State) : Out :=
  .next <|
    match (s.core core).sweep with
    | none => s
    | some w => if w.ahead = 0 ∧ !w.left.isEmpty then s.sweepRows core w w.left else s

/-- A sweep that has started as the context is switched out pauses at a row-pair boundary (R257, R274): whether it has started, and how
far its banks have come, are open. DESIGN CHOICE (assumption 34). -/
def State.pauseSweep (s : State) (c : Nat) : State :=
  match (s.core c).sweep with
  | none => s
  | some w =>
    let n := s.free
    if w.ahead = 0 ∧ (Config.freeWord (n + 16)).getLsbD 0 then
      { s.sweepRows c w (pausedRows n w.left fun _ => true) with free := n + 17 }
    else s

/-- The busy byte of a group is cleared (R270); where its granule is in error, that is reported in place of the write (R246, R290). -/
def State.clearBusy (s : State) (c : Nat) (g : SweepGroup) : State :=
  let cells : List (Nat × Byte) := [(dirKey c (groupOff g.idx + 0x20), 0)]
  (s.meetParts (.loft c) cells).setCells (spareBads s (.loft c) cells)

/-- SWEEP_COMPLETE (R270): busy is cleared in each group, and the token is sent. -/
def execSweepComplete (core : Nat) (s : State) : Out :=
  .next <|
    match (s.core core).sweep with
    | none => s
    | some w =>
      if w.ahead = 0 ∧ w.left.isEmpty then
        let s := w.grps.foldl (fun s g => s.clearBusy core g) s
        let s := s.modCore core fun co => { co with sweep := none }
        if w.rew.tgt = noTarget then s
        else s.post (.engine core 4) false (.token w.rew.tgt.toNat 1 none none (some core))
      else s

end Sys2Proof.Machine
end

