-- ==== Sys2Proof/Machine/Collective.lean ====
section
/-!
DEFINITION. The collective engines (R304 to R308): `kred` and `kbc` join an instance, which completes or faults as a whole.
-/
namespace Sys2Proof.Machine

/-! ### Operands (Table 20-4) -/

/-- The operands of a collective command. -/
structure CollArgs where
  opcode : Nat
  op     : Nat
  src    : Nat
  dst    : Nat
  root   : Nat
  col0   : Nat
  row0   : Nat
  w      : Nat
  h      : Nat
  n      : Nat
  tag    : Nat

def collArgs (w : Vec) : CollArgs :=
  ⟨cmdOpcode w, fld w 52 4, fld w 64 48, fld w 128 48, fld w 112 10, fld w 176 8, fld w 184 8, fld w 192 8, fld w 200 8,
    fld w 208 16, fld w 240 16⟩

/-- The element size. -/
def CollArgs.es (a : CollArgs) : Nat := if a.op = 1 then 8 else 4

/-- The bytes of the elements. -/
def CollArgs.len (a : CollArgs) : Nat := a.n * a.es

/-- The positions of a region. -/
def regionPos (a : CollArgs) : List Nat :=
  (pairs a.h a.w).map fun p => (a.row0 + p.1) * 24 + a.col0 + p.2

/-- The participants of a collective, in ascending logical id (R305). -/
def participants (s : State) (a : CollArgs) : List Nat := (regionPos a).filterMap (sgAt s)

/-- The region lies in a partition. -/
def regionIn (s : State) (part : Option Nat) (a : CollArgs) : Bool :=
  decide (a.col0 + a.w ≤ 24) && decide (a.row0 + a.h ≤ 42) && part.isSome &&
    (regionPos a).all fun p => fieldPart s (fieldOfPos p) == part

/-- The checks of a class 5 command (Table 20-5). -/
def collCheck (s : State) (c : Nat) (m : Cmd) : Option Nat :=
  let w := m.word
  let a := collArgs w
  let bad := fld w 224 16 ≠ 0 ∨ fld w 122 6 ≠ 0 ∨ fld w 56 8 ≠ 0 ∨ fld w 48 4 ≠ 0 ∨ (if a.opcode = 0x51 then 1 else 6) < a.op ∨
    a.n = 0 ∨ 4096 < a.n ∨ a.w = 0 ∨ 24 < a.w ∨ a.h = 0 ∨ 42 < a.h
  if bad then some 0x10
  else if !regionIn s (corePart s c) a || !(participants s a).contains a.root then some 0x12
  else if a.src % a.es ≠ 0 ∨ a.dst % a.es ≠ 0 then some 0x13
  else if !inBay a.src 1 0 a.len || !inBay a.dst 1 0 a.len then some 0x07
  else none

/-! ### Joining an instance (R305, R308) -/

/-- The parts of two commands that must agree: all but the common fields, and the operation. -/
def sameCommand (v w : Vec) : Bool := v.toNat / 2 ^ 48 == w.toNat / 2 ^ 48 && cmdOpcode v == cmdOpcode w

/-- An instance that a command of a supergroup joins: of its tag and partition, without the supergroup yet, and with a participant
in common. -/
def joins (s : State) (part sg : Nat) (a : CollArgs) (i : Inst) : Bool :=
  i.part == part && i.tag == a.tag && i.members.all (fun m => m.sg != sg) &&
    (match i.members with
      | m :: _ => (participants s (collArgs m.word)).contains sg || (participants s a).contains m.sg
      | [] => false)

/-- A participant's command faults, and its instance is over for it. -/
def State.faultMember (s : State) (m : Member) (cause : Nat) : State := s.faultJob m.core 5 m.job cause

/-- An instance ends with a fault of every present participant: CANCEL for one whose node was cancelled (R308). -/
def State.closeInst (s : State) (k : Nat) (i : Inst) (cause : Nat) : State :=
  i.members.foldl (fun s m =>
    s.faultMember m (if (s.classQ m.core 5).jobs.any fun j => j.id == m.job && j.doomed then 0x06 else cause))
    { s with insts := s.insts.del k }

/-- A command at the head of a core's class 5 queue joins (R305). One that differs from the first faults all present (R308).
DEDUCED (assumption 53). -/
def State.joinInst (s : State) (c : Nat) (m : Cmd) : State :=
  let a := collArgs m.word
  let part := (corePart s c).getD 0
  let me : Member := ⟨sgOf c, c, m.job, m.word⟩
  match s.insts.find? fun p => joins s part (sgOf c) a p.2 with
  | none =>
    let now := (s.field (sgField s a.root)).time.toNat
    { s with insts := s.insts.put s.nextId ⟨part, a.tag, [me], now⟩, nextId := s.nextId + 1 }
  | some (k, i) =>
    let j : Inst := { i with members := i.members ++ [me] }
    if i.members.all fun x => sameCommand x.word m.word then { s with insts := s.insts.put k j }
    else s.closeInst k j 0x14

/-- The head of a core's class 5 queue has joined an instance already. -/
def joined (s : State) (c : Nat) : Bool :=
  match (s.classQ c 5).queue with
  | m :: _ => s.insts.any fun i => i.2.members.any fun x => x.core == c && x.job == m.job
  | [] => true

/-- A core's class 5 command is taken by the engine of its field, if the row takes its opcode. -/
def State.collUnit (s : State) (c : Nat) (takes : Nat → Bool) : State :=
  match headOp s c 5 with
  | some op => if takes op && !joined s c && !(s.classQ c 5).due then s.runCmd c 5 (collCheck s c) fun s m => s.joinInst c m else s
  | none => s

/-- KRED (R306); a command with an opcode of no class 5 row is taken here and faults (R21). -/
def execKred (core : Nat) (s : State) : Out := .next (s.collUnit core (· != 0x51))

/-- KBC (R307). -/
def execKbc (core : Nat) (s : State) : Out := .next (s.collUnit core (· == 0x51))

/-! ### The instance (R306 to R308) -/

/-- `combine` (R306). -/
def combine (op acc x : Nat) : Nat :=
  match op with
  | 0 => (acc + x) % 2 ^ 32
  | 1 => (acc + x) % 2 ^ 64
  | 2 => fadd32 acc x
  | 3 => if toSigned 32 x < toSigned 32 acc then x else acc
  | 4 => if toSigned 32 acc < toSigned 32 x then x else acc
  | 5 => rne32 ((dec32 acc).minimum (dec32 x))
  | _ => rne32 ((dec32 acc).maximum (dec32 x))

/-- The bay keys of the elements at an address of a supergroup. -/
def collKeys (sg addr len : Nat) : List Nat := span (bayKey (sg * 128) addr) len

/-- The engine that serves a supergroup. -/
def collAgent (s : State) (sg : Nat) : Agent := .coll (sgField s sg)

/-- The elements at an address of a supergroup, as its engine reads them. -/
def collRead (s : State) (sg addr n es : Nat) : List Nat :=
  (List.range n).map fun j => natOfBytes (s.readKeys (collAgent s sg) (span (bayKey (sg * 128) addr + j * es) es))

/-- Element `j` at src of a participant of `kred`, once the elements of the root's dst below it hold `done`, which its own src may share
(R306). -/
def kredElem (s : State) (a : CollArgs) (done : List Byte) (g j : Nat) : Nat :=
  natOfBytes ((List.range a.es).map fun n =>
    let x := a.src + j * a.es + n
    if g = a.root ∧ a.dst ≤ x ∧ x < a.dst + done.length then done.getD (x - a.dst) 0
    else s.readByte (collAgent s g) (bayKey (g * 128) x))

/-- The elements that `kred` leaves at the root's dst, one after another: each combined over the participants in ascending logical id
(R306). -/
def kredElems (s : State) (a : CollArgs) (ps : List Nat) : List Nat :=
  (List.range a.n).foldl (fun out j =>
    let elem := kredElem s a (out.flatMap (bytesOf a.es))
    out ++ [(ps.drop 1).foldl (fun acc g => combine a.op acc (elem g j)) (elem (ps.headD 0) j)]) []

/-- The elements written at an address of a supergroup, performed in the partition (R308). -/
def State.collWrite (s : State) (sg addr es : Nat) (xs : List Nat) : State :=
  let ag := collAgent s sg
  (s.writeCells ag ((collKeys sg addr (xs.length * es)).zip (xs.flatMap (bytesOf es)))).perform [s.nextId] (.within .part ag)

/-- The bad granule that an instance meets (R156). -/
def instBad (s : State) (a : CollArgs) (ps : List Nat) : Option BadGranule :=
  let reads := if a.opcode = 0x50 then ps else [a.root]
  let writes := if a.opcode = 0x50 then [a.root] else ps
  (reads.findSome? fun g => s.badRead (collAgent s g) (collKeys g a.src a.len)).orElse fun _ =>
    writes.findSome? fun g => s.badPart (collAgent s g) (collKeys g a.dst a.len)

/-- The engine of a participant has read its src, which is an access of the participant's job (R154). -/
def State.collNote (s : State) (a : CollArgs) (ms : List Member) (g : Nat) : State :=
  let t := s.noteRead (collAgent s g) (collKeys g a.src a.len)
  match ms.find? fun m => m.sg == g with
  | some m => t.ofJob s m.core 5 m.job
  | none => t

/-- The effect of an instance (R306, R307). -/
def State.collEffect (s : State) (a : CollArgs) (ms : List Member) (ps : List Nat) : State :=
  if a.opcode = 0x50 then (ps.foldl (fun s g => s.collNote a ms g) s).collWrite a.root a.dst a.es (kredElems s a ps)
  else ps.foldl (fun t g => t.collWrite g a.dst a.es (collRead s a.root a.src a.n a.es)) (s.collNote a ms a.root)

/-- All participants of an instance have joined. -/
def instFull (s : State) (i : Inst) : Bool :=
  match i.members with
  | m :: _ => (participants s (collArgs m.word)).all fun g => i.members.any fun x => x.sg == g
  | [] => false

/-- A participant's node has been cancelled (R308). -/
def instDoomed (s : State) (i : Inst) : Bool :=
  i.members.any fun m => (s.classQ m.core 5).jobs.any fun j => j.id == m.job && j.doomed

/-- COLLECTIVE_INSTANCE (R306 to R308): an instance with all its participants takes effect and every command completes; a cancelled
participant faults with CANCEL and the others with KTIME. -/
def execCollectiveInstance (inst : Nat) (s : State) : Out :=
  .next <|
    match s.insts.get? inst with
    | none => s
    | some i =>
      if instDoomed s i then s.closeInst inst i 0x17
      else if !instFull s i then s
      else match i.members with
        | [] => s
        | m :: _ =>
          let a := collArgs m.word
          let ps := participants s a
          match instBad s a ps with
          | some b => (s.meetBad b).closeInst inst i 0x05
          | none =>
            let t := s.collEffect a i.members ps
            let s := { t with insts := t.insts.del inst }
            i.members.foldl (fun s m => match (s.classQ m.core 5).queue with
              | h :: _ => s.performed m.core 5 h
              | [] => s) s

/-- KTIME (R308): an instance that stayed partial for 2^24 cycles of the root's field. -/
def execKtime (inst : Nat) (s : State) : Out :=
  .next <|
    match s.insts.get? inst with
    | none => s
    | some i =>
      let root := match i.members with
        | m :: _ => (collArgs m.word).root
        | [] => 0
      let now := (s.field (sgField s root)).time.toNat
      if instFull s i || decide (now - i.since < 2 ^ 24) then s else s.closeInst inst i 0x17

end Sys2Proof.Machine
end

