-- ==== Sys2Proof/Machine/Crypto.lean ====
section
/-!
DEFINITION. The cryptographic functions of chapter 19, over bytes and numbers: SHA-512 (FIPS 180-4), and signatures by RSASSA-PSS of
PKCS #1 v2.2 with RSA-4096, SHA-512, MGF1 with SHA-512 and a salt of 64 bytes (R281 to R283).
-/
namespace Sys2Proof.Machine

/-- The big-endian number of some bytes. -/
def natOfBE (bs : List Byte) : Nat := bs.foldl (fun n b => n * 256 + b.toNat) 0

/-- The `n` big-endian bytes of a number. -/
def bytesBE (n v : Nat) : List Byte := (List.range n).map fun i => BitVec.ofNat 8 (v / 256 ^ (n - 1 - i))

/-! ### SHA-512 -/

/-- Round constants 0 to 15 of SHA-512. -/
def sha512K0 : List Nat :=
  [0x428A2F98D728AE22, 0x7137449123EF65CD, 0xB5C0FBCFEC4D3B2F, 0xE9B5DBA58189DBBC,
   0x3956C25BF348B538, 0x59F111F1B605D019, 0x923F82A4AF194F9B, 0xAB1C5ED5DA6D8118,
   0xD807AA98A3030242, 0x12835B0145706FBE, 0x243185BE4EE4B28C, 0x550C7DC3D5FFB4E2,
   0x72BE5D74F27B896F, 0x80DEB1FE3B1696B1, 0x9BDC06A725C71235, 0xC19BF174CF692694]

/-- Round constants 16 to 31 of SHA-512. -/
def sha512K1 : List Nat :=
  [0xE49B69C19EF14AD2, 0xEFBE4786384F25E3, 0x0FC19DC68B8CD5B5, 0x240CA1CC77AC9C65,
   0x2DE92C6F592B0275, 0x4A7484AA6EA6E483, 0x5CB0A9DCBD41FBD4, 0x76F988DA831153B5,
   0x983E5152EE66DFAB, 0xA831C66D2DB43210, 0xB00327C898FB213F, 0xBF597FC7BEEF0EE4,
   0xC6E00BF33DA88FC2, 0xD5A79147930AA725, 0x06CA6351E003826F, 0x142929670A0E6E70]

/-- Round constants 32 to 47 of SHA-512. -/
def sha512K2 : List Nat :=
  [0x27B70A8546D22FFC, 0x2E1B21385C26C926, 0x4D2C6DFC5AC42AED, 0x53380D139D95B3DF,
   0x650A73548BAF63DE, 0x766A0ABB3C77B2A8, 0x81C2C92E47EDAEE6, 0x92722C851482353B,
   0xA2BFE8A14CF10364, 0xA81A664BBC423001, 0xC24B8B70D0F89791, 0xC76C51A30654BE30,
   0xD192E819D6EF5218, 0xD69906245565A910, 0xF40E35855771202A, 0x106AA07032BBD1B8]

/-- Round constants 48 to 63 of SHA-512. -/
def sha512K3 : List Nat :=
  [0x19A4C116B8D2D0C8, 0x1E376C085141AB53, 0x2748774CDF8EEB99, 0x34B0BCB5E19B48A8,
   0x391C0CB3C5C95A63, 0x4ED8AA4AE3418ACB, 0x5B9CCA4F7763E373, 0x682E6FF3D6B2B8A3,
   0x748F82EE5DEFB2FC, 0x78A5636F43172F60, 0x84C87814A1F0AB72, 0x8CC702081A6439EC,
   0x90BEFFFA23631E28, 0xA4506CEBDE82BDE9, 0xBEF9A3F7B2C67915, 0xC67178F2E372532B]

/-- Round constants 64 to 79 of SHA-512. -/
def sha512K4 : List Nat :=
  [0xCA273ECEEA26619C, 0xD186B8C721C0C207, 0xEADA7DD6CDE0EB1E, 0xF57D4F7FEE6ED178,
   0x06F067AA72176FBA, 0x0A637DC5A2C898A6, 0x113F9804BEF90DAE, 0x1B710B35131C471B,
   0x28DB77F523047D84, 0x32CAAB7B40C72493, 0x3C9EBE0A15C9BEBC, 0x431D67C49C100D4C,
   0x4CC5D4BECB3E42B6, 0x597F299CFC657E2A, 0x5FCB6FAB3AD6FAEC, 0x6C44198C4A475817]

/-- The initial hash value of SHA-512. -/
def sha512Init : List Nat :=
  [0x6A09E667F3BCC908, 0xBB67AE8584CAA73B, 0x3C6EF372FE94F82B, 0xA54FF53A5F1D36F1,
   0x510E527FADE682D1, 0x9B05688C2B3E6C1F, 0x1F83D9ABFB41BD6B, 0x5BE0CD19137E2179]

/-- A word of 64 bits rotated right. -/
def rotr64 (x n : Nat) : Nat := (x >>> n) ||| (x <<< (64 - n)) % 2 ^ 64

/-- The functions of a round and of the message schedule. -/
def shaSum0 (x : Nat) : Nat := (rotr64 x 28 ^^^ rotr64 x 34) ^^^ rotr64 x 39
def shaSum1 (x : Nat) : Nat := (rotr64 x 14 ^^^ rotr64 x 18) ^^^ rotr64 x 41
def shaSig0 (x : Nat) : Nat := (rotr64 x 1 ^^^ rotr64 x 8) ^^^ (x >>> 7)
def shaSig1 (x : Nat) : Nat := (rotr64 x 19 ^^^ rotr64 x 61) ^^^ (x >>> 6)

/-- The working variables of SHA-512. -/
structure ShaVars where
  a : Nat
  b : Nat
  c : Nat
  d : Nat
  e : Nat
  f : Nat
  g : Nat
  h : Nat

/-- One round, with its constant and its word of the schedule. -/
def ShaVars.round (v : ShaVars) (k w : Nat) : ShaVars :=
  let t1 := v.h + shaSum1 v.e + ((v.e &&& v.f) ^^^ ((2 ^ 64 - 1 - v.e) &&& v.g)) + k + w
  let t2 := shaSum0 v.a + ((v.a &&& v.b) ^^^ (v.a &&& v.c) ^^^ (v.b &&& v.c))
  ⟨(t1 + t2) % 2 ^ 64, v.a, v.b, v.c, (v.d + t1) % 2 ^ 64, v.e, v.f, v.g⟩

/-- The next sixteen words of the schedule, one on. -/
def shaNext (w : List Nat) : List Nat :=
  w.drop 1 ++ [(shaSig1 (w.getD 14 0) + w.getD 9 0 + shaSig0 (w.getD 1 0) + w.getD 0 0) % 2 ^ 64]

/-- The rounds of a block, over their constants. -/
def shaRounds : List Nat → List Nat → ShaVars → ShaVars
  | [], _, v => v
  | k :: ks, w, v => shaRounds ks (shaNext w) (v.round k (w.getD 0 0))

/-- The hash value after a block of sixteen words. -/
def shaBlock (h w : List Nat) : List Nat :=
  let v := shaRounds (sha512K0 ++ sha512K1 ++ sha512K2 ++ sha512K3 ++ sha512K4) w
    ⟨h.getD 0 0, h.getD 1 0, h.getD 2 0, h.getD 3 0, h.getD 4 0, h.getD 5 0, h.getD 6 0, h.getD 7 0⟩
  (h.zip [v.a, v.b, v.c, v.d, v.e, v.f, v.g, v.h]).map fun p => (p.1 + p.2) % 2 ^ 64

/-- A message with its padding: a 1 bit, zeros, and its length in bits over 16 bytes, to a multiple of 128 bytes. -/
def shaPad (bs : List Byte) : List Byte :=
  bs ++ 0x80 :: List.replicate ((239 - bs.length % 128) % 128) 0 ++ bytesBE 16 (8 * bs.length)

/-- A block of a padded message as words. -/
def shaWords (bs : List Byte) : List Nat := (List.range 16).map fun i => natOfBE ((bs.drop (8 * i)).take 8)

/-- SHA-512. -/
def sha512 (bs : List Byte) : List Byte :=
  let m := shaPad bs
  ((List.range (m.length / 128)).foldl (fun h i => shaBlock h (shaWords ((m.drop (128 * i)).take 128))) sha512Init).flatMap
    (bytesBE 8)

/-! ### RSASSA-PSS -/

/-- A power modulo `m`; the first number bounds the bits of the exponent. -/
def powMod (m : Nat) : Nat → Nat → Nat → Nat
  | 0, _, _ => 1 % m
  | k + 1, b, e =>
    if e = 0 then 1 % m
    else if e % 2 = 1 then b * powMod m k (b * b % m) (e / 2) % m
    else powMod m k (b * b % m) (e / 2)

/-- MGF1 with SHA-512: `n` bytes of mask. -/
def mgf1 (seed : List Byte) (n : Nat) : List Byte :=
  ((List.range ((n + 63) / 64)).flatMap fun i => sha512 (seed ++ bytesBE 4 i)).take n

/-- The hash that a PSS encoding holds: of eight zero bytes, the hash of the message, and the salt. -/
def pssHash (msg salt : List Byte) : List Byte := sha512 (List.replicate 8 0 ++ sha512 msg ++ salt)

/-- Bytes with the top bit cleared: the encoding has 4095 bits. -/
def clearTop : List Byte → List Byte
  | [] => []
  | b :: bs => (b &&& 0x7F) :: bs

/-- EMSA-PSS encoding of a message with a salt, 512 bytes. -/
def pssEncode (msg salt : List Byte) : List Byte :=
  let h := pssHash msg salt
  let db := List.replicate 382 0 ++ 1 :: salt
  clearTop (List.zipWith (· ^^^ ·) db (mgf1 h 447)) ++ h ++ [0xBC]

/-- EMSA-PSS verification: the encoding is that of the message with the salt that it holds. -/
def pssOk (msg em : List Byte) : Bool :=
  let h := (em.drop 447).take 64
  let db := clearTop (List.zipWith (· ^^^ ·) (em.take 447) (mgf1 h 447))
  em.length == 512 && em.getLast? == some 0xBC && (em.headD 0).toNat < 128 && db.take 383 == List.replicate 382 0 ++ [1] &&
    h == pssHash msg (db.drop 383)

/-- A public key of RSA-4096 as bytes: the modulus, 512 bytes, and then the exponent, both big-endian. DESIGN CHOICE (assumption 25). -/
def keyModulus (key : List Byte) : Nat := natOfBE (key.take 512)
def keyExponent (key : List Byte) : Nat := natOfBE (key.drop 512)

/-- A signature of 512 bytes, big-endian as PKCS #1 gives, verifies under a public key (R281). -/
def verify (key msg sig : List Byte) : Bool :=
  let n := keyModulus key
  let s := natOfBE sig
  sig.length == 512 && decide (2 ^ 4095 ≤ n) && decide (s < n) && pssOk msg (bytesBE 512 (powMod n 4096 s (keyExponent key)))

/-- The public half of a key, as bytes. -/
def publicHalf (k : PrivKey) : List Byte := bytesBE 512 k.n ++ bytesBE 512 k.e

/-- A private key as bytes: the modulus and the two exponents, 512 bytes each. DESIGN CHOICE (assumption 25). -/
def privateOf (bs : List Byte) : PrivKey := ⟨natOfBE (bs.take 512), natOfBE ((bs.drop 512).take 512), natOfBE (bs.drop 1024)⟩

/-- The signature of a message under a key, with a salt (R282). -/
def signWith (k : PrivKey) (msg salt : List Byte) : List Byte :=
  bytesBE 512 (powMod k.n 4096 (natOfBE (pssEncode msg salt)) k.d)

end Sys2Proof.Machine
end

