-- ==== Sys2Proof/Machine/Fabric.lean ====
section
/-!
DEFINITION. The fabric and the host mailbox engine (chapter 20): static routes (R297, R298), work queues (R311), the host's windows
(R309, R310), reply rings (R312), the copy service (R313), and peer messages (R314).
-/
namespace Sys2Proof.Machine

/-! ### Static routes -/

/-- The entry of a static route of a partition; an absent one is not programmed. -/
def routeEntry (s : State) (part : Option Nat) (n : Nat) : Word :=
  match part with
  | some p => match s.parts.get? p with
    | some q => q.routes.getD n 0
    | none => 0
  | none => 0

/-- The core that sent a message, by its source. -/
def senderOf (m : Msg) (h : Word) : Nat :=
  match m.src with
  | .core c => c
  | _ => hdrDest h

/-- A static route fails at a router: its message is discarded and reported with ROUTEERR (R298). -/
def State.routeErr (s : State) (m : Msg) (pos : Nat) (h : Word) (route : BitVec 12) : State :=
  let c := senderOf m h
  (s.finishMsg m (.report (.router pos))).report (.router pos) (sgOf c) c
    (serviceWords causeRouteerr c 0 h 0 (route.setWidth 64))

/-- STATIC_ROUTE (R298): the message comes to the end of its route, by its legs or by the table round a dead router. -/
def execStaticRoute (m : Nat) (s : State) : Out :=
  .next <|
    match s.msg? m with
    | none => s
    | some x => match x.body with
      | .static c ch h ws route =>
        let d := senderOf x h
        let part := corePart s d
        let pos := posOf s (sgOf d)
        let legs := legsOf (routeEntry s part route.toNat)
        let go := { s with net := s.net.map fun y => if y.id = m then { y with body := .chan c ch h ws none } else y }
        match legsEnd pos legs with
        | none => s.routeErr x pos h route
        | some e =>
          if sgAt s e != some (sgOf c) || fieldPart s (fieldOfPos e) != part then s.routeErr x pos h route
          else match followLegs s (legHops legs) (Head.start pos) with
            | .arrives => go
            | .leaves g => if (routeCost (routeOk s g.pos e) g e).isSome then go else s.routeErr x g.pos h route
      | _ => s

/-- A static route entry programmed, or refused for a break of Table 20-2 (R297); one with no legs is not programmed. -/
def State.programRoute (s : State) (part n : Nat) (entry : Word) : State :=
  if (s.parts.get? part).isSome && decide (n < 4096) && routeEntryOk entry then
    (s.modPart part fun q =>
      { q with routes := if (legsOf entry).isEmpty then q.routes.del n else q.routes.put n entry }).tell (.route part n true)
  else s.tell (.route part n false)

/-- STATIC_ROUTE_PROGRAM (R297). -/
def execStaticRouteProgram (part n : Nat) (entry : Word) (s : State) : Out := .next (s.programRoute part n entry)

/-! ### Work queues -/

/-- Work queues of the module. -/
def queueCount : Nat := 262144

/-- The target of a binding lies in the partition, and is not channel 63 (R311, R53). -/
def targetOk (s : State) (part : Nat) : QTarget → Bool
  | .chan c ch => coreIn s (some part) c && decide (ch < 63)
  | .node id => nodeIdOk s (some part) id
  | .reward => true

/-- A queue of a partition by its local index. -/
def queueAt (s : State) (part idx : Nat) : Option (Nat × QBinding) :=
  s.queues.findSome? fun q => match q.2.bind with
    | some b => if b.part = part ∧ b.localIdx = idx then some (q.1, b) else none
    | none => none

/-- The work queues bound to a partition, changed. -/
def State.modQueuesOf (s : State) (part : Nat) (f : QBinding → QueueSt → QueueSt) : State :=
  { s with queues := s.queues.map fun q => match q.2.bind with
    | some b => if b.part = part then (q.1, f b q.2) else q
    | none => q }

/-- A queue may be bound (R311). DEDUCED (assumption 57). -/
def bindOk (s : State) (q : Nat) (b : QBinding) : Bool :=
  decide (q < queueCount) && decide (b.localIdx ≤ 65534) && (s.parts.get? b.part).isSome && targetOk s b.part b.target &&
    (s.queue q).bind.isNone && (queueAt s b.part b.localIdx).isNone

/-- A queue bound. -/
def State.bindQueue (s : State) (q : Nat) (b : QBinding) : State :=
  s.modQueue q fun _ => { QueueSt.reset with bind := some b }

/-- A queue bound to its partition and target, or refused (R311). -/
def State.tryBind (s : State) (q : Nat) (b : QBinding) : State :=
  if bindOk s q b then (s.bindQueue q b).tell (.queueBound q true) else s.tell (.queueBound q false)

/-- QUEUE_BIND (R311). -/
def execQueueBind (q : Nat) (b : QBinding) (s : State) : Out := .next (s.tryBind q b)

/-- The endpoint handle of a queue (R312). -/
def queueHandle (b : QBinding) : Nat := 0x10000 + b.localIdx

/-- A word of a post. -/
def postWord (bs : List Byte) (i : Nat) : Word := BitVec.ofNat 64 (natOfBytes ((bs.drop (8 * i)).take 8))

/-- A post keeps to Table 20-7. -/
def postOk (s : State) (b : QBinding) (bs : List Byte) : Bool :=
  let w := postWord bs
  let rest := fun i => (List.range 8).all fun j => decide (j < i) || w j == 0
  match b.target with
  | .chan .. => (w 0).extractLsb' 9 23 == 0 && (w 0).extractLsb' 3 5 == 0
  | .node _ => (w 0).extractLsb' 16 48 == 0 && rest 1
  | .reward =>
    let t := (w 0).extractLsb' 16 32
    (w 0).extractLsb' 48 16 == 0 && (w 0).extractLsb' 1 7 == 0 && (w 1).extractLsb' 32 32 == 0 && rest 2 &&
      (t == noTarget || nodeIdOk s (some b.part) t.toNat)

/-- The field of a queue's target; a reward source counts in the lowest field of its partition. DEDUCED (assumption 58). -/
def targetField (s : State) (b : QBinding) : Nat :=
  match b.target with
  | .chan c _ => coreField s c
  | .node id => nodeField id
  | .reward => b.part

/-- A discarded post or write, counted (R311). -/
def QueueSt.discard (q : QueueSt) : QueueSt := { q with bad := if q.bad = 0xFFFF then q.bad else q.bad + 1 }

/-- HOST_POST (R311): one write to the window of a queue. A watchdog that has expired stays so (R302). -/
def execHostPost (addr : Nat) (bytes : List Byte) (s : State) : Out :=
  .next <|
    let n := addr / 64
    let q := s.queue n
    if queueCount ≤ n then s
    else if q.wasReset then s.modQueue n QueueSt.discard
    else match q.bind with
      | some b =>
        if addr % 64 = 0 ∧ bytes.length = 64 ∧ q.posts.length < 16 ∧ postOk s b bytes = true then
          s.modQueue n fun q =>
            { q with posts := q.posts ++ [bytes], acc := q.acc + 1, since := (s.field (targetField s b)).time.toNat }
        else s.modQueue n QueueSt.discard
      | none => s.modQueue n QueueSt.discard

/-- The status word of a queue (Table 20-8). -/
def queueStatusWord (s : State) (n : Nat) : Word :=
  let q := s.queue n
  let out := match q.bind with
    | some b => match s.parts.get? b.part with
      | some p => p.out
      | none => false
    | none => false
  let st := if q.bind.isNone then 0 else if q.wasReset then 3 else if out then 2 else 1
  q.acc ++ q.bad ++ BitVec.ofNat 8 (16 - q.posts.length) ++ 0#20 ++ BitVec.ofNat 4 st

/-- The header of a message from a post (R311): the bound channel, route class 10 and the queue's handle. -/
def postHdr (b : QBinding) (ch : Nat) (w0 : Word) (n : Nat) : Word :=
  delivered (w0.extractLsb' 32 32 ++ BitVec.ofNat 17 0 ++ BitVec.ofNat 6 ch ++ w0.extractLsb' 8 1 ++ 0#8) (queueHandle b) 2 n

/-- The oldest post of a queue leaves for its target. -/
def State.sendPost (s : State) (n : Nat) (b : QBinding) (bs : List Byte) : State :=
  let w := postWord bs
  let s := s.modQueue n fun q => { q with posts := q.posts.drop 1 }
  match b.target with
  | .chan c ch =>
    let len := ((w 0).extractLsb' 0 3).toNat
    let ws := (List.range len).map fun i => w (i + 1)
    let rel := match (s.chan c ch).hrec with
      | some r => r.rel
      | none => false
    let s := if rel then s.modChan c ch fun q => { q with reserved := q.reserved ++ [s.nextId] } else s
    s.post (.queue n) false (.chan c ch (postHdr b ch (w 0) len) ws none)
  | .node id =>
    let count := ((w 0).extractLsb' 0 16).toNat
    if count = 0 then s else s.post (.queue n) false (.token id count none none none)
  | .reward =>
    s.post (.queue n) false (.reward b.part ((w 1).setWidth 32) ((w 0).getLsbD 0) ((w 0).extractLsb' 8 8)
      ((w 0).extractLsb' 16 32) (queueHandle b) [])

/-- The target of a partition's queue can take a post: a bound reliable channel has room for it (R54, R311), as has every channel 63
for a reward (R266). -/
def targetTakes (s : State) (part : Nat) : QTarget → Bool
  | .chan c ch => match (s.chan c ch).hrec with
    | some r => !r.rel || (s.chan c ch).room
    | none => true
  | .node _ => true
  | .reward => !s.cores.any fun p => corePart s p.1 == some part && decide (4 ≤ p.2.rewards.length)

/-- A partition's context is on the machine. -/
def partRuns (s : State) (part : Nat) : Bool :=
  match s.parts.get? part with
  | some p => !p.out
  | none => false

/-- QUEUE_POST_DELIVERY (R311). -/
def execQueuePostDelivery (q : Nat) (s : State) : Out :=
  .next <|
    match (s.queue q).bind, (s.queue q).posts with
    | some b, p :: _ => if targetTakes s b.part b.target && partRuns s b.part then s.sendPost q b p else s
    | _, _ => s

/-! ### Host memory and reply rings -/

/-- The key of a byte of host memory. -/
def hostKey (addr : Nat) : Nat := Place.host.key addr

/-- Bytes of host memory, as a number. -/
def hostNat (s : State) (addr n : Nat) : Nat := natOfBytes ((span (hostKey addr) n).map s.byte)

/-- A slot of a reply ring (R312): the delivered header with the payload count, and seven payload words. -/
def replySlot (h : Word) (ws : List Word) : List Byte :=
  (((h &&& ~~~(7 : Word)) ||| BitVec.ofNat 64 ws.length) :: sevenWords ws).flatMap fun w => bytesOf 8 w.toNat

/-- REPLY_RING_WRITE (R312): the next slot of the ring, then the count. A queue handle that no queue has gives NOEP.
DEDUCED (assumption 59). -/
def execReplyRingWrite (m : Nat) (s : State) : Out :=
  .next <|
    match s.msg? m with
    | none => s
    | some x => match x.body with
      | .queueMsg part i h ws =>
        match queueAt s part i with
        | none => (s.finishMsg x (.queue i)).noep (.hostEngine part) h (0x10000 + i)
        | some (n, b) =>
          let pos := (s.queue n).ringPos
          let s := s.setCells (cellsAt (hostKey (b.ringBase + 64 * (pos % max b.ringSlots 1))) (replySlot h ws))
          let s := s.setCells (cellsAt (hostKey b.countAddr) (bytesOf 8 (hostNat s b.countAddr 8 + 1)))
          (s.modQueue n fun q => { q with ringPos := pos + 1 }).finishMsg x (.queue n)
      | _ => s

/-! ### The data window -/

/-- The bytes of a range of a partition's paged space as the mailbox engine resolves them (R309): keys, none for a byte of a
discarded page that is read, or nothing if a page is not present or not permitted. -/
def hostKeys (s : State) (part : Nat) (write : Bool) (va n : Nat) : Option (List (Option Nat)) :=
  (span va n).mapM fun a =>
    if winOf a == .paged then
      (leafOf (s.pageTable (some part)) (a / 0x10000)).bind fun l =>
        if !leafAllows l (if write then .store else .load) then none
        else match l.state with
          | .present => some (some (leafKey s l a))
          | .discarded => if write then none else some none
          | _ => none
    else none

/-- A write of the mailbox engine on path H, performed with respect to every agent of the partition (R310). -/
def State.hostWrite (s : State) (part : Nat) (ks : List (Option Nat)) (bs : List Byte) : State :=
  let ag := Agent.host part
  let s := s.writeCells ag ((realKeys ks).zip bs)
  s.perform (s.ownWrites ag) (.within .part ag)

/-- HOST_DATA_WRITE (R309, R310): a refused write is discarded (Table 20-3). -/
def execHostDataWrite (part va : Nat) (bytes : List Byte) (s : State) : Out :=
  .next <|
    match hostKeys s part true va bytes.length with
    | some ks => match s.badPart (.host part) (realKeys ks) with
      | some b => s.meetBad b
      | none => s.hostWrite part ks bytes
    | none => s

/-- The bytes of a refused read: all ones (Table 20-3). -/
def allOnesBytes (n : Nat) : List Byte := List.replicate n 0xFF

/-- HOST_DATA_READ (R309, R310). DEDUCED (assumption 61). -/
def execHostDataRead (part va size : Nat) (s : State) : Out :=
  .next <|
    let ag := Agent.host part
    match hostKeys s part false va size with
    | some ks => match s.badRead ag (realKeys ks) with
      | some b => (s.meetBad b).tell (.hostRead part va (allOnesBytes size) false)
      | none => (s.noteRead ag (realKeys ks)).tell (.hostRead part va (s.readRes ag ks) true)
    | none => s.tell (.hostRead part va (allOnesBytes size) false)

/-! ### The copy service (R313) -/

/-- COPY_SERVICE_REQUEST (R313): the message reaches the service, which begins its copy. -/
def execCopyServiceRequest (m : Nat) (s : State) : Out :=
  .next <|
    match s.msg? m with
    | none => s
    | some x => match x.body with
      | .copyReq part core _ ws =>
        let s := s.finishMsg x (.copyService part)
        { s with copies := s.copies.put s.nextId ⟨part, core, ws⟩, nextId := s.nextId + 1 }
      | _ => s

/-- The fields of a copy request. -/
def CopyOp.w (o : CopyOp) (i : Nat) : Word := o.words.getD i 0
def CopyOp.len (o : CopyOp) : Nat := ((o.w 3).extractLsb' 32 16).toNat + 1
def CopyOp.dev (o : CopyOp) : Nat := (o.w 1).toNat
def CopyOp.far (o : CopyOp) : Nat := (o.w 2).toNat

/-- A copy of device bytes, given to `put`; with the status (R313): 1 done, 2 an error, 3 a refused page. -/
def State.copyOutOf (s : State) (o : CopyOp) (put : State → List Byte → State) : State × Nat :=
  let ag := Agent.host o.part
  match hostKeys s o.part false o.dev o.len with
  | none => (s, 3)
  | some ks => match s.badRead ag (realKeys ks) with
    | some b => (s.meetBad b, 2)
    | none => (put (s.noteRead ag (realKeys ks)) (s.readRes ag ks), 1)

/-- A copy of host bytes into the device. -/
def State.copyInto (s : State) (o : CopyOp) : State × Nat :=
  match hostKeys s o.part true o.dev o.len with
  | none => (s, 3)
  | some ks => match s.badPart (.host o.part) (realKeys ks) with
    | some b => (s.meetBad b, 2)
    | none => (s.hostWrite o.part ks ((span (hostKey o.far) o.len).map s.byte), 1)

/-- A copy into a peer's partition. Its status is what the peer answers, which nothing here settles: 1, 2 or 3; bytes are delivered
with status 1. -/
def State.copyPeer (s : State) (o : CopyOp) : State × Nat :=
  let ep := match s.parts.get? o.part with
    | some p => p.endpoints.get? ((o.w 3).extractLsb' 0 16).toNat
    | none => none
  match ep with
  | none => (s, 2)
  | some e =>
    let st := (Config.freeWord s.free).toNat % 3 + 1
    let r := { s with free := s.free + 1 }.copyOutOf o fun s bs =>
      if st = 1 then s.tell (.peerCopy e.port e.part o.far bs) else s
    (r.1, if r.2 = 1 then st else r.2)

/-- The bytes of a copy are moved, with the status. DEDUCED (assumption 60). -/
def State.copyMove (s : State) (o : CopyOp) : State × Nat :=
  match (o.w 0).toNat with
  | 0 => s.copyOutOf o fun s bs => s.setCells (cellsAt (hostKey o.far) bs)
  | 1 => s.copyInto o
  | 2 => s.copyPeer o
  | _ => (s, 2)

/-- The completion message of a copy goes to its channel on the sender core, with the service's handle. -/
def copyDoneBody (o : CopyOp) (status : Nat) : Body :=
  let ch := ((o.w 5).extractLsb' 0 6).toNat
  .chan o.core ch (delivered (BitVec.ofNat 64 (ch * 512)) 0x1FFFF 2 1) [BitVec.ofNat 64 status] none

/-- COPY_SERVICE_COMPLETE (R313): every write is performed; then the token and the completion message leave. -/
def execCopyServiceComplete (c : Nat) (s : State) : Out :=
  .next <|
    match s.copies.get? c with
    | none => s
    | some o =>
      let r := { s with copies := s.copies.del c }.copyMove o
      let t := (o.w 4).setWidth 32
      let s := if t ≠ noTarget ∧ nodeIdOk r.1 (some o.part) t.toNat then
        r.1.post (.copyService o.part) false (.token t.toNat 1 none none (some o.core)) else r.1
      if (o.w 5).getLsbD 63 then s else s.post (.copyService o.part) false (copyDoneBody o r.2)

/-! ### Peer modules -/

/-- An earlier message of the sender for the same channel of a peer endpoint is still on its way (R68, R314). -/
def peerWaits (s : State) (x : Msg) (part n : Nat) (h : Word) : Bool :=
  (netBefore s.net x.id).any fun y => y.src == x.src && (match y.body with
    | .peerMsg p k g _ _ _ => p == part && k == n && hdrChan g == hdrChan h
    | _ => false)

/-- PEER_ACK (R314): a message for a peer endpoint has left the module and its peer acknowledges it. -/
def execPeerAck (m : Nat) (s : State) : Out :=
  .next <|
    match s.msg? m with
    | none => s
    | some x => match x.body with
      | .peerMsg part n h ws _ _ =>
        if peerWaits s x part n h then s
        else match s.parts.get? part with
          | some p => match p.endpoints.get? n with
            | some e => (s.finishMsg x (.peer n)).tell (.peerOut e.port e.part e.core h ws)
            | none => s.finishMsg x (.peer n)
          | none => s.finishMsg x (.peer n)
      | _ => s

/-- The partition of the peer module that a message is for is reset and does not take it (R301): the message is discarded, and the sender's
service core gets NOEP with the endpoint handle in word 3 (Table 20-3). DEDUCED (assumption 92). -/
def execPeerRefusal (m : Nat) (s : State) : Out :=
  .next <|
    match s.msg? m with
    | none => s
    | some x => match x.body with
      | .peerMsg part n h _ _ _ => if peerWaits s x part n h then s else (s.finishMsg x (.peer n)).noep (.hostEngine part) h n
      | _ => s

/-- The host's status read (R311, Table 20-8): the host reads the 8 bytes of a queue's window. -/
def execQueueStatus (q : Nat) (s : State) : Out :=
  .next (if q < queueCount then s.tell (.queueStatus q (queueStatusWord s q)) else s)

/-- The handle under which a partition's table names a core of a peer module; 0xFFFF where it names none (R314). -/
def handleOf (s : State) (part : Nat) (e : Endpoint) : Nat :=
  ((s.parts.get? part).bind fun p => (p.endpoints.find? fun x => x.2 == e).map Prod.fst).getD 0xFFFF

/-- A core of a peer module sends a message into a partition (R314): it comes onto the network with the sender's handle in its header
(R51), or is answered with NOEP where the partition does not take it (Table 20-3). DEDUCED (assumption 92). -/
def execPeerMessage (part : Nat) (e : Endpoint) (core : Nat) (hdr : Word) (words : List Word) (s : State) : Out :=
  .next <|
    let n := handleOf s part e
    if partRuns s part && coreIn s (some part) core && decide (words.length ≤ 7) then
      s.post (.peerCore e) false (.chan core (hdrChan hdr) (delivered hdr n 2 words.length) words none)
    else s.tell (.peerNoep e n)

/-- A peer module's copy service writes bytes into a partition (R313): on path H, with status 1, 2 for an error or a partition that does not
take it, and 3 for a refused page. DEDUCED (assumption 92). -/
def execPeerCopy (part va : Nat) (bytes : List Byte) (s : State) : Out :=
  .next <|
    if !partRuns s part then s.tell (.peerCopyIn part va 2)
    else match hostKeys s part true va bytes.length with
      | none => s.tell (.peerCopyIn part va 3)
      | some ks => match s.badPart (.host part) (realKeys ks) with
        | some b => (s.meetBad b).tell (.peerCopyIn part va 2)
        | none => (s.hostWrite part ks bytes).tell (.peerCopyIn part va 1)

end Sys2Proof.Machine
end

