-- ==== Sys2Proof/Machine/Launch.lean ====
section
/-!
DEFINITION. Launches: images (R23, R24), the checks of R26 with signatures (R281), placements (R29), silo mappings (R288), and the
loading of a core (R28, R29, R289, R303).
-/
namespace Sys2Proof.Machine

/-! ### Images (R23) -/

/-- A little-endian field of an image. -/
def img (bs : List Byte) (off n : Nat) : Nat := areaField bs off n

/-- A part of an image lies wholly within it. -/
def within (bs : List Byte) (off n : Nat) : Bool := decide (off + n ≤ bs.length)

/-- A section table entry (Table 2-15). -/
structure Section where
  kind : Nat
  zero : Nat
  addr : Nat
  size : Nat
  file : Nat

def sectN (bs : List Byte) : Nat := img bs 0x24 4
def sectAt (bs : List Byte) (i : Nat) : Section :=
  let o := img bs 0x20 4 + 16 * i
  ⟨img bs o 1, img bs (o + 1) 3, img bs (o + 4) 4, img bs (o + 8) 4, img bs (o + 12) 4⟩

/-- The sections of an image. -/
def sections (bs : List Byte) : List Section := (List.range (min (sectN bs) 64)).map (sectAt bs)

/-- The bytes of a section: its contents, or zeros (Table 2-15). -/
def Section.bytes (bs : List Byte) (x : Section) : List Byte :=
  if x.file = 0 then List.replicate x.size 0 else (bs.drop x.file).take x.size

/-- A handler record as it stands in an image (Table 2-16). -/
structure HRec where
  ch     : Nat
  flags  : Nat
  qdecl  : Nat
  pc     : Nat
  budget : Nat
  baydem : Nat
  regdem : Nat
  zero   : Nat

def hndN (bs : List Byte) : Nat := img bs 0x2C 4
def hndAt (bs : List Byte) (i : Nat) : HRec :=
  let o := img bs 0x28 4 + 16 * i
  ⟨img bs o 1, img bs (o + 1) 1, img bs (o + 2) 2, img bs (o + 4) 4, img bs (o + 8) 4, img bs (o + 12) 2, img bs (o + 14) 1,
    img bs (o + 15) 1⟩

/-- The first text section. -/
def textSect (bs : List Byte) : Option Section := (sections bs).find? fun x => x.kind == 1

/-- The declared port occupancies (offset 0x30). -/
def portsOf (bs : List Byte) : PortDecl := ⟨img bs 0x30 1, img bs 0x31 1, img bs 0x32 1, img bs 0x33 1⟩

/-- The image runs in compatibility mode (R27). -/
def compatOf (bs : List Byte) : Bool := img bs 0x0C 4 % 2 == 1 || img bs 4 2 == 1

/-- A level table entry: domain, scope, zero and units (Table 2-17). -/
def levelAt (bs : List Byte) (i : Nat) : Nat × Nat × Nat × Nat :=
  let o := 0x40 + 8 * i
  (img bs o 1, img bs (o + 1) 1, img bs (o + 2) 2, img bs (o + 4) 4)

/-- The used entries of a level table. -/
def levelsOf (bs : List Byte) : List (Nat × Nat × Nat) :=
  ((List.range 8).map (levelAt bs)).filterMap fun l => if l.1 = 0 then none else some (l.1, l.2.1, l.2.2.2)

/-- A T8 load entry: the table, its zero bytes and the offset of its data. -/
def t8At (bs : List Byte) (i : Nat) : Nat × Nat × Nat :=
  let o := img bs 0x38 4 + 8 * i
  (img bs o 1, img bs (o + 1) 3, img bs (o + 4) 4)

def t8N (bs : List Byte) : Nat := img bs 0x3C 4

/-- The required channels of an image, as bits; none without a bitmap. -/
def bitmapOf (bs : List Byte) : Option Nat := if img bs 0x34 4 = 0 then none else some (img bs (img bs 0x34 4) 64)

/-! ### Placements (R29) -/

/-- The positions of a rectangle. -/
def rectPos (col row w h : Nat) : List Nat := (List.range h).flatMap fun j => (List.range w).map fun i => (row + j) * 24 + col + i

/-- The placed cores of a placement in a partition; none if it breaks R29. -/
def placedCores (s : State) (part : Nat) (pl : Word) : Option (List Nat) :=
  let b := fun i => (pl.extractLsb' (8 * i) 8).toNat
  let cores :=
    if pl = 0 then some (partCores s part)
    else if b 7 ≠ 0 ∨ b 2 = 0 ∨ b 3 = 0 ∨ 24 < b 0 + b 2 ∨ 42 < b 1 + b 3 then none
    else
      let ps := rectPos (b 0) (b 1) (b 2) (b 3)
      if ps.all fun p => fieldPart s (fieldOfPos p) == some part then
        some (((ps.filterMap (sgAt s)).flatMap fun sg => (List.range 128).map (sg * 128 + ·)).filter fun c =>
          pl.getLsbD (32 + c / 8 % 16) && pl.getLsbD (48 + c % 8))
      else none
  cores.filter fun l => !l.isEmpty

/-- The units of a domain that some cores make up (Table 2-17). -/
def unitsOf (s : State) (dom : Nat) (cores : List Nat) : Nat :=
  match dom with
  | 1 => cores.length
  | 2 => (cores.map (· / 8)).dedup.length
  | 3 => (cores.map (· / 32)).dedup.length
  | 4 => (cores.map (· / 128)).dedup.length
  | 5 => (cores.map (coreField s)).dedup.length
  | _ => 1

/-! ### Silo frames (R284, R288) -/

/-- The state of a channel. -/
def chanState (s : State) (ch : Nat) : ChanState := s.ctl.silo.getD ch .full

/-- The channels that a launch may take frames from. -/
def permitted (s : State) (req : Option Nat) : List Nat :=
  (List.range 512).filter fun ch => chanState s ch == .full && (match req with
    | some m => m.testBit ch
    | none => true)

/-- The free frames of some channels, counted. -/
def freeFrames (s : State) (chs : List Nat) : Nat :=
  chs.length * chanFrames - ((usedFrames s).filter fun f => chs.contains (frameChan f)).length

/-- Free silo frames of some channels, `n` of them in an aligned run; which run is open. DESIGN CHOICE (assumption 70). -/
def someFrames (s : State) (chs : List Nat) (n : Nat) : Option Nat :=
  let used := usedFrames s
  let k := (Config.freeWord s.free).toNat % (chs.length + 1)
  let start := (Config.freeWord (s.free + 1)).toNat
  let runFree := fun f => (List.range n).all fun i => !used.contains (f + i)
  (chs.drop k ++ chs.take k).findSome? fun ch =>
    ((List.range (used.length + 1)).map fun i => ch * chanFrames + (start + i) % (chanFrames / n) * n).find? runFree

/-- The pages of paged space that a silo section touches (Table 22-1). -/
def siloPages (x : Section) : List Nat := pagesOf (0x100000000 + x.addr) x.size

/-- A page is mapped: its leaf is not in state not present. -/
def mapped (s : State) (part pn : Nat) : Option Leaf := (leafOf (s.pageTable (some part)) pn).filter fun l => l.state != .notPresent

/-- The pages of some silo sections that want a frame. -/
def wanted (s : State) (part : Nat) (xs : List Section) : List Nat :=
  ((xs.flatMap siloPages).dedup).filter fun pn => (mapped s part pn).isNone

/-! ### The checks (Table 2-19, R281) -/

/-- A list of checks up to the first that fails. -/
def firstFail : List (Option (Nat × Nat)) → Option (Nat × Nat)
  | [] => none
  | some e :: _ => some e
  | none :: cs => firstFail cs

/-- A check that fails with a code and an argument. -/
def failIf (b : Bool) (code arg : Nat) : Option (Nat × Nat) := if b then some (code, arg) else none

/-- The check of each index of a range: the first that breaks. -/
def failAt (n code : Nat) (bad : Nat → Bool) : Option (Nat × Nat) := ((List.range n).find? bad).map fun i => (code, i)

/-- The argument for a count or a table as a whole. -/
def wholeArg : Nat := 0xFFFFFFFF

/-- The bits of a number from the lowest on, among its first 128. -/
def lowBit (m : Nat) : Option Nat := (List.range 128).find? m.testBit

/-- The end of the last part of an image: header, tables, bitmap, T8 data and contents. -/
def partsEnd (bs : List Byte) : Nat :=
  let parts := [128, img bs 0x20 4 + 16 * min (sectN bs) 64, img bs 0x28 4 + 16 * min (hndN bs) 64,
    (if img bs 0x34 4 = 0 then 0 else img bs 0x34 4 + 64), (if t8N bs = 0 then 0 else img bs 0x38 4 + 8 * min (t8N bs) 4)] ++
    ((sections bs).map fun x => if x.file = 0 then 0 else x.file + x.size) ++
    (List.range (min (t8N bs) 4)).map fun i => (t8At bs i).2.2 + 1284
  parts.foldl max 0

/-- The magic of a signature trailer (Table 19-2). -/
def trailerMagic : Nat := 0x31535A4D

/-- An image has a trailer: its last 528 bytes have the magic, or belong to none of its parts. DEDUCED (assumption 63). -/
def hasTrailer (bs : List Byte) : Bool :=
  decide (528 ≤ bs.length) && (img bs (bs.length - 528) 4 == trailerMagic || decide (partsEnd bs + 528 ≤ bs.length))

/-- SIGN (R281): the signature of an image, or its lack where the partition wants one. Bytes 5 to 15 of the trailer are not looked at.
DESIGN CHOICE (assumption 63). -/
def checkSign (s : State) (p : PartSt) (bs : List Byte) : Option (Nat × Nat) :=
  let o := bs.length - 528
  if hasTrailer bs then
    let slot := img bs (o + 4) 1
    match (if slot < 4 ∧ img bs o 4 = trailerMagic then s.ctl.keys.get? slot else none) with
    | some key => failIf (!verify key (bs.take o) ((bs.drop (o + 16)).take 512)) 10 slot
    | none => some (10, slot)
  else failIf p.signed 10 0xFF

/-- MAGIC. An image of fewer than 128 bytes, which has no whole header, fails it. DEDUCED (assumption 63). -/
def checkMagic (bs : List Byte) : Option (Nat × Nat) :=
  failIf (decide (bs.length < 128) || img bs 0 4 != 0x31435A4D || img bs 8 4 != 128 || img bs 0x0C 4 / 2 != 0) 1 0

/-- ISSUE. -/
def checkIssue (bs : List Byte) : Option (Nat × Nat) :=
  failIf ((img bs 4 2 != 1 && img bs 4 2 != 2) || img bs 6 2 != 0) 2 (img bs 4 2)

/-- FEATURE (R25, R27): `cap_hi` is 0. -/
def checkFeature (cap : Word) (bs : List Byte) : Option (Nat × Nat) :=
  let miss := img bs 0x10 16 &&& (2 ^ 128 - 1 - cap.toNat)
  match lowBit miss with
  | some b => some (3, b)
  | none => failIf (compatOf bs && !(img bs 0x10 16).testBit 11) 3 11

/-- PORTS. -/
def checkPorts (bs : List Byte) : Option (Nat × Nat) :=
  if compatOf bs then none
  else (failAt 4 4 fun i => decide ([16, 16, 8, 8].getD i 0 < img bs (0x30 + i) 1)).map fun e => (e.1, 28 + e.2)

/-- SILO. -/
def checkSilo (s : State) (bs : List Byte) : Option (Nat × Nat) :=
  match bitmapOf bs with
  | none => none
  | some m =>
    if within bs (img bs 0x34 4) 64 then failAt 512 5 fun b => m.testBit b && chanState s b != .full else some (5, wholeArg)

/-- An entry of the level table breaks Table 2-17 or R24; of two used entries that do not rise, or of a used one after an unused one, the
later entry does. DEDUCED (assumption 65). -/
def levelBad (bs : List Byte) (i : Nat) : Bool :=
  let l := levelAt bs i
  if l.1 = 0 then l != (0, 0, 0, 0)
  else decide (6 < l.1) || decide (6 < l.2.1) || l.2.2.1 != 0 || decide (l.2.1 + 1 < l.1) ||
    (decide (0 < i) && (let q := levelAt bs (i - 1); q.1 == 0 || decide (l.1 ≤ q.1)))

/-- LEVEL: the table, then the placement, then the units it holds. DESIGN CHOICE (assumption 111). -/
def checkLevel (s : State) (req : LaunchReq) (bs : List Byte) : Option (Nat × Nat) :=
  firstFail [failAt 8 6 (levelBad bs),
    match placedCores s req.part req.placement with
    | none => some (6, 8)
    | some cores => failAt 8 6 fun i =>
        let l := levelAt bs i
        l.1 != 0 && decide (unitsOf s l.1 cores < l.2.2.2)]

/-- A handler record breaks Table 2-16 (R52, R53, R145), or names the channel of an earlier one, or starts outside the text. -/
def handlerBad (bs : List Byte) (i : Nat) : Bool :=
  let r := hndAt bs i
  decide (62 < r.ch) || decide (3 < r.flags) || r.qdecl == 0 || decide (16 < r.qdecl) || r.budget == 0 || decide (32 < r.baydem) ||
    decide (28 < r.regdem) || r.zero != 0 || (match textSect bs with
      | some x => decide (x.size ≤ r.pc)
      | none => true) || (List.range i).any fun j => (hndAt bs j).ch == r.ch

/-- HANDLER. -/
def checkHandler (bs : List Byte) : Option (Nat × Nat) :=
  if hndN bs < 1 ∨ 64 < hndN bs ∨ within bs (img bs 0x28 4) (16 * hndN bs) = false then some (7, wholeArg)
  else failAt (hndN bs) 7 (handlerBad bs)

/-- The size of the space of a kind of section (Tables 2-15 and 5-9). -/
def spaceOf (kind : Nat) : Nat :=
  match kind with
  | 1 | 2 => 0x10000
  | 3 => 0x800000
  | 4 => 0x3000000
  | 5 => 0x1000000
  | _ => 0x100000000000 - 0x100000000

/-- Two kinds of section lie in one space. -/
def sameSpace (a b : Nat) : Bool := a == b || (decide (a ≤ 2) && decide (b ≤ 2))

/-- Two ranges share a byte. -/
def meets (a n b m : Nat) : Bool := decide (0 < n) && decide (0 < m) && decide (a < b + m) && decide (b < a + n)

/-- A section entry breaks check 8, with the mapping checks of R288. DEDUCED (assumption 65). -/
def sectionBad (s : State) (part : Nat) (bs : List Byte) (i : Nat) : Bool :=
  let x := sectAt bs i
  let before := (sections bs).take i
  x.kind == 0 || decide (6 < x.kind) || x.zero != 0 || decide (spaceOf x.kind < x.addr + x.size) ||
    (x.file != 0 && !within bs x.file x.size) ||
    (before.any fun y => sameSpace x.kind y.kind && meets x.addr x.size y.addr y.size) ||
    (x.kind == 3 && (List.range 16).any fun k => meets x.addr x.size (k * 0x80000 + 0x70000) 0x10000) ||
    (x.kind == 6 && ((siloPages x).any (fun pn => match mapped s part pn with
        | some l => !(l.r && l.w)
        | none => false) ||
      decide (freeFrames s (permitted s (bitmapOf bs)) <
        (wanted s part ((before ++ [x]).filter fun y => y.kind == 6)).length)))

/-- SECTION. -/
def checkSection (s : State) (part : Nat) (bs : List Byte) : Option (Nat × Nat) :=
  if sectN bs < 1 ∨ 64 < sectN bs ∨ within bs (img bs 0x20 4) (16 * sectN bs) = false then some (8, wholeArg)
  else failAt (sectN bs) 8 (sectionBad s part bs)

/-- A T8 load entry breaks check 9; of two that name one table, the later does. DEDUCED (assumption 65). -/
def tableBad (bs : List Byte) (i : Nat) : Bool :=
  let t := t8At bs i
  decide (3 < t.1) || t.2.1 != 0 || !within bs t.2.2 1284 || (List.range i).any fun j => (t8At bs j).1 == t.1

/-- TABLE. -/
def checkTable (bs : List Byte) : Option (Nat × Nat) :=
  if 4 < t8N bs ∨ (t8N bs ≠ 0 ∧ within bs (img bs 0x38 4) (8 * t8N bs) = false) then some (9, wholeArg)
  else failAt (t8N bs) 9 (tableBad bs)

/-- The checks of a launch in their order: the first failure, with its argument. -/
def launchCheck (s : State) (req : LaunchReq) (p : PartSt) (bs : List Byte) : Option (Nat × Nat) :=
  (checkSign s p bs).orElse fun _ => (checkMagic bs).orElse fun _ => (checkIssue bs).orElse fun _ =>
    (checkFeature p.cap bs).orElse fun _ => (checkPorts bs).orElse fun _ => (checkSilo s bs).orElse fun _ =>
    (checkLevel s req bs).orElse fun _ => (checkHandler bs).orElse fun _ => (checkSection s req.part bs).orElse fun _ =>
    checkTable bs

/-! ### LAUNCH -/

/-- The launch status (R303): the cause in bytes 0 to 3, the argument in bytes 8 to 15; bytes 4 to 7 are not stated.
DESIGN CHOICE (assumption 64). -/
def State.launchStatus (s : State) (addr code arg : Nat) : State :=
  let s' := s.setCells (cellsAt (hostKey addr) (bytesOf 4 code ++ (List.range 4).map (fun i => Config.freeByte (s.free + i)) ++
    bytesOf 8 arg))
  { s' with free := s.free + 4 }

/-- The hops from a supergroup to the nearest elevator of a silo site that works (R288). -/
def siteHops (s : State) (site sg : Nat) : Nat :=
  (((List.range 42).filter fun f => elevatorLive s f site).map fun f => hopsTo s (posOf s sg) (elevatorAt f site)).foldl min 8065

/-- A page of a silo section takes a frame, which one is open, and the home of the placement whose router is fewest hops from an elevator of
the frame's silo site, the lowest logical id on ties (R288). -/
def State.mapPage (s : State) (part : Nat) (chs sgs : List Nat) (pn : Nat) : State :=
  match someFrames s chs 1 with
  | none => s
  | some f =>
    let home := (nearestSg (siteHops s (frameChan f / 32)) sgs).getD 0
    let l : Leaf := { state := .present, tier := .silo, home := home, frame := f, big := false, x := false, w := true, r := true
                      lost := false }
    { s.setLeaf part pn l with free := s.free + 2 }

/-- The silo sections of an image are mapped: pages that want a frame get one, and a discarded page is present again (R288). -/
def State.mapSections (s : State) (part : Nat) (bs : List Byte) (cores : List Nat) : State :=
  let xs := (sections bs).filter fun x => x.kind == 6
  let chs := permitted s (bitmapOf bs)
  let sgs := (List.range 960).filter (cores.map sgOf).contains
  (wanted s part xs).foldl (fun s pn => s.mapPage part chs sgs pn) s

/-- The image of a request as the loader reads it; none if a page of it cannot be read. -/
def imageBytes (s : State) (req : LaunchReq) : Option (List Byte) :=
  (hostKeys s req.part false req.imageVA req.imageLen).map fun ks => s.readRes (.host req.part) ks

/-- Dispatch is held on the placed cores, for a launch (R29). -/
def State.holdCores (s : State) (l : Nat) (cores : List Nat) : State :=
  cores.foldl (fun s c => s.modCore c fun co => { co with loadHold := some l }) s

/-- A launch that has passed its checks. DEDUCED (assumption 66). -/
def State.beginLoad (s : State) (req : LaunchReq) (bs : List Byte) (cores : List Nat) : State :=
  let l := s.nextId
  let s := (s.mapSections req.part bs cores).holdCores l cores
  { s with loads := s.loads.put l ⟨req, bs, cores, cores⟩, nextId := l + 1 }.modQueuesOf req.part fun _ q =>
    { q with wasReset := false }

/-- A launch that has failed: nothing is loaded (R28); a failed signature is logged (Table 19-4). -/
def State.launchFailed (s : State) (req : LaunchReq) (e : Nat × Nat) : State :=
  let s := if e.1 = 10 then s.tell (.alarm 1) else s
  s.launchStatus req.statusAddr e.1 e.2

/-- LAUNCH (R26, R28, R29, R303). It waits while the partition's context is switched out or another launch holds a core of its
placement. -/
def execLaunch (req : LaunchReq) (s : State) : Out :=
  .next <|
    match s.parts.get? req.part with
    | none => s
    | some p =>
      if p.out then s
      else match imageBytes s req with
        | none => s.launchFailed req (1, 0)
        | some bs => match launchCheck s req p bs with
          | some e => s.launchFailed req e
          | none => match placedCores s req.part req.placement with
            | none => s
            | some cores =>
              if cores.any fun c => (s.core c).loadHold.isSome then s else s.beginLoad req bs cores

/-! ### LAUNCH_LOAD -/

/-- The cells of the sections of some kinds, loaded from a key on. -/
def sectCells (bs : List Byte) (kinds : List Nat) (key : Nat) : List (Nat × Byte) :=
  ((sections bs).filter fun x => kinds.contains x.kind).flatMap fun x => cellsAt (key + x.addr) (x.bytes bs)

/-- The cells of the silo sections, through the page table. -/
def siloCells (s : State) (part : Nat) (bs : List Byte) : List (Nat × Byte) :=
  ((sections bs).filter fun x => x.kind == 6).flatMap fun x =>
    ((x.bytes bs).zipIdx (0x100000000 + x.addr)).filterMap fun p =>
      (leafOf (s.pageTable (some part)) (p.2 / 0x10000)).map fun l => (leafKey s l p.2, p.1)

/-- A memory page is present and zero-filled (R94). -/
def State.zeroPage (s : State) (part pn : Nat) : State :=
  match leafOf (s.pageTable (some part)) pn with
  | none => s
  | some l =>
    let at_ := if l.big then pn - pn % 32 else pn
    let n := if l.big then 0x200000 else 0x10000
    let key := leafKey s l (at_ * 0x10000)
    let has := fun k => decide (key ≤ k) && decide (k < key + n)
    let s := (s.newContents has s.lost (if s.lost.isEmpty then [] else (span key n).map fun k => (k, 0))).clearBads has
    s.setLeaf part at_ { l with state := .present }

/-- The discarded pages under the silo sections are present again, zero-filled. -/
def State.reviveSections (s : State) (part : Nat) (bs : List Byte) : State :=
  ((((sections bs).filter fun x => x.kind == 6).flatMap siloPages).dedup.filter fun pn =>
    match mapped s part pn with
    | some l => l.state == .discarded
    | none => false).foldl (fun s pn => s.zeroPage part pn) s

/-- The sections of a launch that a core's loading writes: its own, and those of its supergroup, field and partition if it is the
first of them to load. The loader is no agent of R126, so that reservations stay. DEDUCED (assumptions 67 and 110). -/
def State.loadSections (s : State) (l : Loading) (c : Nat) : State :=
  let bs := l.image
  let first := fun (same : Nat → Bool) => (l.placed.filter same).all l.cores.contains
  let s := if first fun _ => true then s.reviveSections l.req.part bs else s
  let own := sectCells bs [1, 2] ((Place.tcm c).key 0) ++ sectCells bs [5] ((Place.loft c).key 0)
  let bay := if first fun d => sgOf d == sgOf c then sectCells bs [3] ((Place.bay (sgOf c)).key 0) else []
  let gran := if first fun d => coreField s d == coreField s c then
    sectCells bs [4] ((Place.granary (coreField s c)).key 0) else []
  let silo := if first fun _ => true then siloCells s l.req.part bs else []
  let tabs := (List.range (t8N bs)).flatMap fun i =>
    let t := t8At bs i
    cellsAt ((Place.table (c * 4 + t.1)).key 0) ((bs.drop t.2.2).take 1284)
  let covers := (sections bs).any fun x => x.kind == 5 && decide (x.addr ≤ 0xFFF000) && decide (0xFFF000 < x.addr + x.size)
  let dir := if covers then [] else cellsAt ((Place.loft c).key 0xFFF000) (bytesOf 4 0)
  { s.setCells (own ++ bay ++ gran ++ silo ++ tabs ++ dir) with resv := s.resv }

/-- The handler record that an image gives a channel. -/
def recFor (bs : List Byte) (ch : Nat) : Option (HandlerRec × Bool) :=
  ((List.range (hndN bs)).map (hndAt bs)).findSome? fun r =>
    if r.ch = ch then
      let text := ((textSect bs).map Section.addr).getD 0
      some ({ rel := r.flags % 2 == 1, qdecl := r.qdecl, pc := BitVec.ofNat 48 (text + r.pc), budget := BitVec.ofNat 32 r.budget
              baydem := r.baydem, regdem := r.regdem, ports := portsOf bs, compat := compatOf bs }, r.flags / 2 % 2 == 1)
    else none

/-- A saturating addition to a drop count. -/
def satAdd (n : BitVec 32) (k : Nat) : BitVec 32 := BitVec.ofNat 32 (min (n.toNat + k) (2 ^ 32 - 1))

/-- A channel bound from a record (R29, R56); its drops are counted from this launch on (Table 4-4). -/
def Chan.rebind (q : Chan) (r : HandlerRec × Bool) : Chan :=
  let kept := q.queue.take r.1.qdecl
  { q with
    hrec := some r.1, en := r.2, pend := false, busy := false, queue := kept
    reserved := q.reserved.take (r.1.qdecl - kept.length)
    refused := if r.1.rel then q.refused else []
    drops := if r.1.rel then 0 else satAdd 0 (q.queue.length - kept.length) }

/-- A channel unbound (R29): its drops are counted from this launch on (Table 4-4), and its enable bit is clear.
DESIGN CHOICE (assumption 101). -/
def Chan.unbind (_ : Chan) : Chan := Chan.reset

/-- The sender of a message that a channel has held back sends it again (R54). -/
def State.sendAgain (s : State) (c m : Nat) : State :=
  let src := match s.msg? m with
    | some x => match x.src with
      | .core d => d
      | _ => c
    | none => c
  s.post (.core c) false (.flow src m true)

/-- A channel takes its entry of a new handler table. Messages it had held back come again where it no longer holds messages back,
or as there is room. DEDUCED (assumption 68). -/
def State.loadChan (s : State) (c : Nat) (bs : List Byte) (ch : Nat) : State :=
  let q := s.chan c ch
  match recFor bs ch with
  | some r =>
    let t := s.modChan c ch fun q => q.rebind r
    if r.1.rel then t.grantRoom c ch q.refused.length else q.refused.foldl (fun s m => s.sendAgain c m) t
  | none =>
    if (s.core c).chans.keys.contains ch then
      q.refused.foldl (fun s m => s.sendAgain c m) (s.modChan c ch Chan.unbind)
    else s

/-- The handler table of a core is replaced whole; channel 62 of a service core keeps its record (R29, R155). -/
def State.loadTable (s : State) (c : Nat) (bs : List Byte) : State :=
  let chs := (List.range 63).filter fun ch => !(isServiceCore c && ch == 62)
  let s := chs.foldl (fun s ch => s.loadChan c bs ch) s
  s.modCore c fun co =>
    { co with lastHi := 63, lastLo := 63, ports := portsOf bs, compat := compatOf bs, quota := if compatOf bs then 1 else 0
              levels := levelsOf bs, loadHold := none }

/-- The spill blocks of a field are granted while a core of it runs a compatibility-mode image (R289). -/
def State.spillOf (s : State) (f : Nat) : State :=
  s.modField f fun fs => { fs with spill := s.cores.any fun c => coreField s c.1 == f && c.2.compat }

/-- Every placed core holds its sections and T8 tables: their handler tables are replaced, which ends their holds; the status is written
and the image is measured (R28, R29, R303, Table 19-3). -/
def State.loadTables (s : State) (k : Nat) (l : Loading) : State :=
  let s := l.placed.foldl (fun s c => s.loadTable c l.image) s
  let s := (l.placed.map (coreField s)).dedup.foldl State.spillOf s
  let s := ({ s with loads := s.loads.del k }.modPart l.req.part fun p =>
    { p with images := p.images.put k (sha512 l.image) }).launchStatus l.req.statusAddr 0 0
  (l.placed.map clusterOf).dedup.foldl State.recheckPool s

/-- LAUNCH_LOAD (R28, R29): once no activation runs on a placed core, its sections and T8 tables are loaded; with the last one come the
handler tables of all, so that no message is dispatched before that. DEDUCED (assumption 67). -/
def execLaunchLoad (core : Nat) (s : State) : Out :=
  .next <|
    match (s.core core).loadHold with
    | none => s
    | some k => match s.loads.get? k with
      | none => s
      | some l =>
        if l.cores.contains core && coreQuiet s core then
          let rest := l.cores.filter (· ≠ core)
          let s := { s.loadSections l core with loads := s.loads.put k { l with cores := rest } }
          if rest.isEmpty then s.loadTables k l else s
        else s

end Sys2Proof.Machine
end

