-- ==== Sys2Proof/Machine/Partition.lean ====
section
/-!
DEFINITION. Partitions: their creation (R300), reset and what it leaves undefined (R301, R293), removal (R288), the watchdog (R302),
and switching a context out and back (R257, R274, R302).
-/
namespace Sys2Proof.Machine

/-! ### What belongs to a partition -/

/-- A core, a cluster or a ring of a partition. -/
def coreOf (s : State) (part c : Nat) : Bool := sgIn s part (sgOf c)
def clusterIn (s : State) (part cl : Nat) : Bool := sgIn s part (cl / 16)

/-- The partition that a message under way is for. -/
def bodyPart (s : State) : Body → Option Nat
  | .chan c .. | .static c .. | .flow c .. | .spawnReq c .. | .spawnAns c .. | .glaunchReq c .. | .glaunchAns c .. | .gstatReq c ..
  | .gstatAns c .. => corePart s c
  | .queueMsg p .. | .copyReq p .. | .peerMsg p .. | .noEndpoint p .. | .reward p .. => some p
  | .token n .. | .passToken n | .fault n .. | .gcancelReq n => fieldPart s (nodeField n)
  | .ownJob t .. | .trigger t .. => fieldPart s (nodeField t.node)
  | .stealReq t _ | .stealAns t _ | .records t _ => corePart s (t * 8)

/-- A message under way belongs to a partition. -/
def msgPart (s : State) (part : Nat) (m : Msg) : Bool := bodyPart s m.body == some part

/-- The supergroup that keeps a report buffer, or its partition. -/
def reporterPart (s : State) : Reporter → Option Nat
  | .mailbox c | .loft c => corePart s c
  | .hostEngine p => some p
  | .copyUnit cl => corePart s (cl * 8)
  | .ring sg => corePart s (sg * 128)
  | .reeve f => fieldPart s f
  | .router p => fieldPart s (fieldOfPos p)

/-- The fields of a partition. -/
def partFields (s : State) (part : Nat) : List Nat := ((s.parts.get? part).map PartSt.fields).getD []

/-- The record of the service image for channel 62 of a service core (R155). DESIGN CHOICE (assumption 24). -/
def serviceRecord : HandlerRec :=
  { rel := true, qdecl := 16, pc := 0, budget := BitVec.allOnes 32, baydem := 0, regdem := 0, ports := .none, compat := false }

/-- The service image is loaded on every service core of a partition. -/
def State.loadService (s : State) (part : Nat) : State :=
  (partSgs s part).foldl (fun s sg => s.modChan (serviceCore sg) 62 fun q =>
    { q with hrec := some serviceRecord, en := true }) s

/-! ### Reset (R301) -/

/-- The ranges of a tier that a partition's pages hold. -/
def tierRanges (s : State) (part : Nat) (t : Tier) : List (Nat × Nat) :=
  (s.pageTable (some part)).leaves.filterMap fun e =>
    if e.2.tier == t && e.2.state != .notPresent then
      some (e.2.frame * 0x10000, if e.2.big then 0x200000 else 0x10000)
    else none

/-- What a reset of a partition leaves undefined (R293, R259, R158). DESIGN CHOICE (assumption 74). -/
def lostOf (s : State) (part : Nat) : Lost :=
  { sgs := partSgs s part, fields := partFields s part, silo := tierRanges s part .silo, second := tierRanges s part .second
    n := s.nextId }

/-- The bytes of a commit window that a reset keeps: its pair and its front buffer (R231, R293). -/
def windowCells (s : State) (f : Nat) (w : Nat × Nat) : List (Nat × Byte) :=
  let key := fun va => (Place.granary f).key (va - 0x04000000)
  let front := natOfBytes ((span (key w.1) 8).map s.byte)
  (span (key w.1) 16 ++ span (key front) w.2).map fun k => (k, s.byte k)

/-- The commit windows of a partition. DEDUCED (assumption 75). -/
def windowsOf (s : State) (part : Nat) : List (Nat × Byte) :=
  (partFields s part).flatMap fun f => (s.field f).windows.flatMap (windowCells s f)

/-- A work queue of a partition after its reset (Table 20-3). DEDUCED (assumption 62). -/
def QueueSt.afterReset (q : QueueSt) : QueueSt := { QueueSt.reset with bind := q.bind, wasReset := true }

/-- A table with the entries of another put into it. -/
def AMap.merge {α : Type} (m n : AMap α) : AMap α := n.foldl (fun m p => m.put p.1 p.2) m

/-- Everything that a partition's cores, clusters, rings and messages hold is gone. -/
def State.emptied (s : State) (part : Nat) : State :=
  { s with
    cores := s.cores.filter fun p => !coreOf s part p.1
    clusters := s.clusters.filter fun p => !clusterIn s part p.1
    rings := s.rings.filter fun p => !sgIn s part p.1
    net := s.net.filter fun m => !msgPart s part m
    reports := s.reports.filter fun r => reporterPart s r.1 != some part
    insts := s.insts.filter fun i => i.2.part != part
    loads := s.loads.filter fun l => l.2.req.part != part
    copies := s.copies.filter fun c => c.2.part != part
    resv := s.resv.filter fun r => !coreOf s part r.core
    saved := s.saved.del part
    turn := s.turn.filter fun t => !coreOf s part t.1
    ctl := { s.ctl with faults := s.ctl.faults.filter fun f => !coreOf s part f.2.core } }

/-- The Reeves and clocks of a partition at their reset values (R208); its power settings stay. -/
def State.resetFields (s : State) (part : Nat) : State :=
  (partFields s part).foldl (fun s f => s.modField f fun fs =>
    { FieldSt.reset with
      clock := fs.clock, above := fs.above, migrate := fs.migrate, heldOff := fs.heldOff, windows := fs.windows }) s

/-- The answers to what is in flight between a partition and the outside when it is reset (R301, Table 20-3): status 2 for its copies, and
NOEP to the senders of peer messages. -/
def resetAnswers (s : State) (part : Nat) : List Report :=
  let net := s.net.filter (msgPart s part) ++ ((s.saved.get? part).map Context.net).getD []
  ((s.copies.filter fun c => c.2.part == part).map fun c => Report.copyStatus part c.2.core 2) ++ net.filterMap fun m =>
    match m.body, m.src with
    | .copyReq _ c _ _, _ => some (.copyStatus part c 2)
    | .chan _ _ h _ _, .peerCore e => some (.peerNoep e (h.extractLsb' 15 17).toNat)
    | _, _ => none

/-- A partition is reset (R301): its work is discarded, its state returns to its reset values, its memory is undefined but for
commit windows, and the service image is loaded again. Page tables, bindings, routes and endpoints stay. DEDUCED (assumption 82). -/
def State.resetPart (s : State) (part : Nat) : State :=
  match s.parts.get? part with
  | none => s
  | some _ =>
    let l := lostOf s part
    let keep := windowsOf s part
    let s := (resetAnswers s part).foldl State.tell s
    let t := (s.emptied part).newContents l.has (l :: s.lost) keep
    let t := { t with nextId := t.nextId + 1 }.modQueuesOf part fun _ q => q.afterReset
    (((t.resetFields part).modPart part fun p => { p with images := [], out := false }).loadService part).tell (.resetAnswer part)

/-- Every partition is reset. -/
def State.resetAll (s : State) : State := s.parts.keys.foldl (fun s p => s.resetPart p) s

/-- PARTITION_RESET (R301). -/
def execPartitionReset (part : Nat) (s : State) : Out := .next (s.resetPart part)

/-! ### Creation and removal -/

/-- Fields as a rectangle of the 6 by 7 mesh of fields. -/
def fieldRect (fs : List Nat) : Bool :=
  let cs := fs.map (· % 6)
  let rs := fs.map (· / 6)
  let c0 := cs.foldl min 5
  let c1 := cs.foldl max 0
  let r0 := rs.foldl min 6
  let r1 := rs.foldl max 0
  !fs.isEmpty && fs.all (fun f => decide (f < 42)) && decide fs.Nodup &&
    decide (fs.length = (c1 - c0 + 1) * (r1 - r0 + 1))

/-- The positions of some fields. -/
def fieldPositions (fs : List Nat) : List Nat := (List.range 1008).filter fun p => fs.contains (fieldOfPos p)

/-- A request for a partition may be granted (R300). -/
def partReqOk (s : State) (req : PartReq) : Bool :=
  s.ctl.phase == 7 && fieldRect req.fields && (req.fields.all fun f => (fieldPart s f).isNone) &&
    allJoined s (fieldPositions req.fields)

/-- The id of a partition: its lowest field (R300). -/
def partId (req : PartReq) : Nat := req.fields.foldl min 41

/-- A new partition, with an empty page table. No reserved bit of its capability is set (R25), bits 9 and 10 are as the request has them, and W is 2^26 unless the
request says otherwise (R302). DESIGN CHOICE (assumption 96). -/
def newPart (req : PartReq) (root : Nat) : PartSt :=
  { fields := req.fields, cap := req.cap &&& 0xFFF, guarded := req.guarded
    watchdog := if req.watchdog = 0 then 2 ^ 26 else req.watchdog
    routes := []
    endpoints := req.endpoints.foldl (fun m e => if e.1 < 0xFFFF then m.put e.1 e.2 else m) []
    askFaults := req.askFaults, test := req.test, signed := req.signed, pages := .new root, images := [], out := false }

/-- PARTITION_CREATE (R300). -/
def execPartitionCreate (req : PartReq) (s : State) : Out :=
  .next <|
    let p := partId req
    if partReqOk s req then
      let s := { s with parts := s.parts.put p (newPart req ((freshTables s 1).headD 0)) }.loadService p
      let s := req.routes.foldl (fun s r => s.programRoute p r.1 r.2) s
      let s := req.binds.foldl (fun s b => s.tryBind b.1 { b.2 with part := p }) s
      s.tell (.partition p true)
    else s.tell (.partition p false)

/-- PARTITION_REMOVAL (R288): its fields are free and its mappings are dropped; their clocks run on (R208). -/
def execPartitionRemoval (part : Nat) (s : State) : Out :=
  .next <|
    match s.parts.get? part with
    | none => s
    | some _ =>
      let t := (s.emptied part).resetFields part
      let t := (partFields s part).foldl (fun t f => t.modField f fun fs => { fs with windows := [], time := (s.field f).time }) t
      { t with
        parts := t.parts.del part
        queues := t.queues.filter fun (q : Nat × QueueSt) => (q.2.bind.map QBinding.part) != some part }.tell (.removed part)

/-! ### The watchdog (R302) -/

/-- The watchdog of a queue: its binding and its W, in a guarded partition whose context is on the machine.
DEDUCED (assumption 84). -/
def watchdogOf (s : State) (q : Nat) : Option (QBinding × Nat) :=
  (s.queue q).bind.bind fun b => (s.parts.get? b.part).bind fun p =>
    if p.guarded && !p.out then some (b, p.watchdog) else none

/-- WATCHDOG_EXPIRY (R302): W cycles of the target's field in which the queue held a post and accepted none. -/
def execWatchdogExpiry (q : Nat) (s : State) : Out :=
  .next <|
    match watchdogOf s q with
    | some (b, w) =>
      let t := (s.field (targetField s b)).time.toNat
      let st := s.queue q
      if !st.posts.isEmpty && st.expired.isNone && decide (w ≤ t - st.since) then
        s.modQueue q fun q => { q with expired := some t }
      else s
    | none => s

/-- WATCHDOG_RESET (R302): a further W cycles have not brought the switch about. -/
def execWatchdogReset (q : Nat) (s : State) : Out :=
  .next <|
    match watchdogOf s q, (s.queue q).expired with
    | some (b, w), some t =>
      if w ≤ (s.field (targetField s b)).time.toNat - t then s.resetPart b.part else s
    | _, _ => s

/-! ### Contexts (R257, R274, R302) -/

/-- A ring stands where its pass may be pre-empted: idle, or at a lap boundary (R292). -/
def ringAtLap (s : State) (sg : Nat) : Bool :=
  match (s.ring sg).pass with
  | some p => p.phase == .lapBoundary
  | none => true

/-- No activation runs on a core. -/
def coreIdle (s : State) (c : Nat) : Bool := (s.core c).slots.toList.all fun sl => !sl.live

/-- The cores of some fields stand at a pre-emption point: between activations, with the rings at lap boundaries (R292), and no
Reeve in the midst of what it does. -/
def atPoints (s : State) (fs : List Nat) : Bool :=
  (s.cores.keys.filter fun c => fs.contains (coreField s c)).all (coreIdle s) &&
    (s.rings.keys.filter fun sg => fs.contains (sgField s sg)).all (ringAtLap s) && fs.all fun f => (s.field f).todo.isNone

/-- A bitmap of row pairs in 512 bytes. -/
def rowBits (ps : List Nat) : List Byte :=
  bytesOf 512 (ps.dedup.foldl (fun n p => n + 2 ^ p) 0)

/-- The record of a running sweep (Table 17-6). -/
def sweepRecord : Option Sweep → List Byte
  | none => List.replicate 32 0
  | some w => bytesOf 4 w.rew.r.toNat ++ bytesOf 1 w.rew.clear.toNat ++ bytesOf 1 w.rew.key.toNat ++ bytesOf 2 0 ++
      bytesOf 4 w.rew.tgt.toNat ++ bytesOf 4 w.rew.src ++ List.replicate 16 0

/-- The row pairs of a sweep. -/
def sweepRows (w : Sweep) : List Nat := w.grps.flatMap fun g => (List.range g.count).map (g.first + ·)

/-- The row pairs of each bank that a running sweep has closed. -/
def closedBanks : Option Sweep → List Byte
  | none => List.replicate 32 0
  | some w => (List.range 16).flatMap fun b =>
      bytesOf 2 ((sweepRows w).filter fun p => p / 256 == b && !w.left.contains p).length

/-- The class 4 command that a core's engines are at work on, no sweep being ahead of it (R268), and the words queued behind it. -/
def runningCmd (s : State) (c : Nat) : Option Cmd :=
  if loftReady s c then (s.classQ c 4).queue.head?.bind fun m => if m.run.isSome then some m else none else none
def queuedWords (s : State) (c : Nat) : List Cmd :=
  if (runningCmd s c).isSome then (s.classQ c 4).queue.drop 1 else (s.classQ c 4).queue

/-- The loft context save area of a core (Table 16-10). A sweep that waits behind a running command is held by the context alone; one that
waits behind queued commands has state 2.
DEDUCED (assumption 77). -/
def loftArea (s : State) (c : Nat) : List Byte :=
  let co := s.core c
  let q := (s.classQ c 4).queue
  let run := runningCmd s c
  let w := if run.isSome then none else co.sweep
  let rows := q.flatMap Cmd.il ++ (co.sweep.map Sweep.left).getD []
  let banks := match run with
    | some m => (List.range 16).flatMap fun b => bytesOf 2 (m.closed.filter fun p => p / 256 == b).length
    | none => closedBanks w
  bytesOf 4 1 ++ bytesOf 4 1152 ++ bytesOf 4 c ++ bytesOf 1 (if run.isSome then 1 else if w.isSome then 2 else 0) ++
    bytesOf 1 (queuedWords s c).length ++ bytesOf 2 0 ++ bytesOf 4 ((run.map fun m => m.job.toNat).getD 0) ++ bytesOf 4 0 ++
    bytesOf 8 ((run.map Cmd.counted).getD 0) ++ bytesOf 32 ((run.map fun m => m.word.toNat).getD 0) ++ banks ++ sweepRecord w ++
    rowBits rows ++ ((queuedWords s c).flatMap fun m => bytesOf 32 m.word.toNat) ++
    List.replicate (512 - 32 * (queuedWords s c).length) 0

/-- A context as the controller saves it. DEDUCED (assumption 76). -/
def contextOf (s : State) (part : Nat) : Context :=
  let cores := s.cores.filter fun p => coreOf s part p.1
  { cores := cores
    clusters := s.clusters.filter fun p => clusterIn s part p.1
    rings := s.rings.filter fun p => sgIn s part p.1
    nodes := (partFields s part).map fun f => (f, (s.field f).nodes)
    graphs := (partFields s part).map fun f => (f, (s.field f).graphs)
    net := s.net.filter (msgPart s part)
    reports := s.reports.filter fun r => reporterPart s r.1 == some part
    insts := s.insts.filter fun i => i.2.part == part
    resv := []
    loft := cores.map fun p => (p.1, loftArea s p.1) }

/-- The controller takes a context off the machine, once the loft engines have paused (R257). -/
def State.switchOut (s : State) (part : Nat) : State :=
  let s := (s.cores.keys.filter (coreOf s part)).foldl (fun s c => (s.pauseLoft c).pauseSweep c) s
  let x := contextOf s part
  let t := s.emptied part
  let t := { t with loads := s.loads, copies := s.copies, saved := t.saved.put part x, ctl := s.ctl }
  let t := t.modQueuesOf part fun _ q => { q with expired := none }
  let t := (partFields s part).foldl (fun t f => t.modField f fun fs => { fs with nodes := [], graphs := [] }) t
  t.modPart part fun p => { p with out := true }

/-- CONTEXT_SWITCH_OUT (R302): the partition's work stands at its pre-emption points, and no launch is loading it. -/
def execContextSwitchOut (part : Nat) (s : State) : Out :=
  .next <|
    match s.parts.get? part with
    | none => s
    | some p =>
      if p.out || !atPoints s p.fields || s.loads.any fun l => l.2.req.part == part then s else s.switchOut part

/-- A loft context save area that a restore takes (R257). -/
def areaTaken (bs : List Byte) : Bool := areaField bs 0 4 == 1 && areaField bs 4 4 == 1152

/-- A group of a sweep as its cut fields hold it (R274, Table 17-3); none if its busy is not 1. DEDUCED (assumption 77). -/
def cutGroup (bs : List Byte) (g : Nat) : Option SweepGroup :=
  let o := groupOff g + 0x20
  if dirField bs o 1 = 1 then
    some { idx := g, first := dirField bs (o + 8) 2, count := dirField bs (o + 10) 2, q := BitVec.ofNat 32 (dirField bs (o + 4) 4)
           amt := dirField bs (o + 12) 2, lmin := toSigned 16 (dirField bs (o + 14) 2) }
  else none

/-- A row pair of an area's bitmap, and the first row pairs of each bank in a list, as many as the area's progress says. -/
def areaRow (bs : List Byte) (p : Nat) : Bool := areaField bs (0x80 + p / 8) 1 / 2 ^ (p % 8) % 2 == 1
def areaClosed (bs : List Byte) (ps : List Nat) : List Nat :=
  (List.range 16).flatMap fun b => (ps.filter fun p => p / 256 == b).take (areaField bs (0x40 + 2 * b) 2)

/-- Row pairs with those that the context holds as closed before the others. -/
def closedFirst (closed ps : List Nat) : List Nat := closed ++ ps.filter fun p => !closed.contains p

/-- The reward of a sweep record (Table 17-6). -/
def areaReward (bs : List Byte) : Reward :=
  ⟨BitVec.ofNat 32 (areaField bs 0x60 4), areaField bs 0x64 1 == 1, BitVec.ofNat 8 (areaField bs 0x65 1),
    BitVec.ofNat 32 (areaField bs 0x68 4), areaField bs 0x6C 4⟩

/-- A sweep as it resumes from the area's bitmap and progress, with its reward from the record and the parameters of its cut fields
(R257, R274). -/
def resumedSweep (s : State) (c : Nat) (bs : List Byte) (w : Sweep) : Sweep :=
  let left := w.left
  let w := { w with grps := (List.range 59).filterMap (cutGroup (dirBytes s c)) }
  if areaField bs 0x0C 1 = 2 then
    let gone := areaClosed bs (closedFirst ((sweepRows w).filter fun p => !left.contains p) (sweepRows w))
    { w with rew := areaReward bs, left := (sweepRows w).filter fun p => areaRow bs p && !gone.contains p }
  else w

/-- A restored core's sweep resumes. -/
def State.resumeSweep (s : State) (c : Nat) (bs : List Byte) : State :=
  s.modCore c fun co => { co with sweep := co.sweep.map (resumedSweep s c bs) }

/-- The words of an area: that of a running command, and those queued. -/
def areaWords (bs : List Byte) : List Vec :=
  (if areaField bs 0x0C 1 = 1 then [BitVec.ofNat 256 (areaField bs 0x20 32)] else []) ++
    (List.range (areaField bs 0x0D 1)).map fun i => BitVec.ofNat 256 (areaField bs (0x280 + 32 * i) 32)

/-- The running command of an area: its program is taken again from TCM, and it goes on from the progress of each bank (R257); one that is no
program any more is taken as empty. DESIGN CHOICE (assumption 109). -/
def areaRun (s : State) (c : Nat) (bs : List Byte) (m : Cmd) : Cmd :=
  let prog := if hasProg m.word then (match progRead s c m.word with
    | .ok rs => rs
    | .error _ => []) else []
  { m with
    job := BitVec.ofNat 16 (areaField bs 0x10 4)
    run := some ⟨areaClosed bs (closedFirst m.closed (rangeOf m.word)), areaField bs 0x18 8, prog⟩ }

/-- A class 4 command as it resumes: its word and its interlocks from the area; the first one may be running. What one that is not running has
processed before its turn is held by the context alone. DEDUCED (assumption 77). -/
def resumedCmd (s : State) (c : Nat) (bs : List Byte) (first : Bool) (m : Cmd) (w : Vec) : Cmd :=
  let m := { m with word := w }
  let m := if first && areaField bs 0x0C 1 == 1 then areaRun s c bs m else m
  { m with il := if m.fails.isSome then [] else (rowsOf m.word).filter fun r => areaRow bs r && !m.closed.contains r }

/-- A restored core's class 4 commands resume (R257). -/
def State.resumeLoft (s : State) (c : Nat) (bs : List Byte) : State :=
  s.modClassQ c 4 fun q =>
    { q with queue := (q.queue.zip (areaWords bs)).zipIdx.map fun p => resumedCmd s c bs (p.2 == 0) p.1.1 p.1.2 }

/-- A context is put back. -/
def State.switchIn (s : State) (part : Nat) (x : Context) : State :=
  let t := { s with
    cores := AMap.merge s.cores x.cores
    clusters := AMap.merge s.clusters x.clusters
    rings := AMap.merge s.rings x.rings
    net := s.net ++ x.net, reports := s.reports ++ x.reports
    insts := AMap.merge s.insts x.insts
    saved := s.saved.del part }
  let t := t.modQueuesOf part fun b q => { q with since := (s.field (targetField s b)).time.toNat }
  let t := x.nodes.foldl (fun t p => t.modField p.1 fun fs => { fs with nodes := p.2 }) t
  let t := x.graphs.foldl (fun t p => t.modField p.1 fun fs => { fs with graphs := p.2 }) t
  let t := x.loft.foldl (fun t a => (t.resumeLoft a.1 a.2).resumeSweep a.1 a.2) t
  t.modPart part fun p => { p with out := false }

/-- CONTEXT_RESTORE (R257, R274): a save area that is refused resets the partition. -/
def execContextRestore (part : Nat) (s : State) : Out :=
  .next <|
    match s.saved.get? part with
    | none => s
    | some x => if x.loft.all fun a => areaTaken a.2 then s.switchIn part x else s.resetPart part

end Sys2Proof.Machine
end

