-- ==== Sys2Proof/Machine/Controller.lean ====
section
/-!
DEFINITION. The Tolbean controller (chapter 19): cold boot and the harvest map (R279, R280), keys, quotes and alarms (R281 to R283,
R259), failures of silos, ports and routers (R284, R285, R299), page tables and migration (R286, R287, R95), page-fault answers
(R335), injections (R290), power and heat (R291, R292), and the visibility of writes (R129).
-/
namespace Sys2Proof.Machine

/-! ### Cold boot -/

/-- The live routers, given the dead ones. -/
def liveOf (dead : List Nat) : List Nat := (List.range 1008).filter fun p => !dead.contains p

/-- The routers made dead because some live router is out of their reach (R294): the one that reaches fewest, again and again, until
all are joined. DEDUCED (assumption 72). -/
def pruneRouters : Nat → List Nat → List Nat
  | 0, dead => dead
  | fuel + 1, dead =>
    let live := liveOf dead
    let worst := (live.map fun a => (a, (unreached live a).length)).foldl (fun b x => match b with
      | some y => if y.2 < x.2 then some x else b
      | none => some x) none
    match worst with
    | some (a, n) => if n = 0 then dead else pruneRouters fuel (a :: dead)
    | none => dead

/-- The harvest map (R280, R215): good positions from the first on are enabled, 960 of them; every other position is a hole. -/
def harvest (rep : BootReport) : List Nat × AMap Bool :=
  let dead := pruneRouters 1008 (rep.deadRouters.filter (· < 1008))
  let good := (liveOf dead).filter fun p => !rep.badColumns.contains p
  let on := good.take 960
  (on, ((List.range 1008).filter fun p => !on.contains p).map fun p => (p, dead.contains p))

/-- An image verifies against the root public key whose digest is in fuses (R281). -/
def rootSigned (digest key : List Byte) (m : SignedImage) : Bool := sha512 key == digest && verify key m.bytes m.sig

/-- The phase of a cold boot that fails; 7 if none does (Table 19-1, R280, R281). DESIGN CHOICE (assumption 127). -/
def bootPhase (digest : List Byte) (rep : BootReport) : Nat :=
  if !rootSigned digest rep.rootKey rep.firmware then 1
  else if (harvest rep).1.length < 960 then 3
  else if !(rootSigned digest rep.rootKey rep.loftFw && rootSigned digest rep.rootKey rep.service) then 5
  else 7

/-- All of the module's memory. -/
def lostAll (n : Nat) : Lost := ⟨List.range 960, List.range 42, [(0, 2 ^ 60)], [(0, 2 ^ 60)], n⟩

/-- An alarm of a source of Table 19-4, in its order; it erases the keys where the policy says so (R283). -/
def State.alarm (s : State) (src : Nat) : State :=
  let s := s.tell (.alarm src)
  if s.ctl.policy.getLsbD src then { s with ctl := { s.ctl with identity := none, attestation := none } } else s

/-- What the tests of a boot find, with the routers that have failed at run time before it (R299). -/
def bootFinds (s : State) (rep : BootReport) : BootReport := { rep with deadRouters := rep.deadRouters ++ s.ctl.failed }

/-- The images that a boot has loaded by a phase, in the order of a quote: the firmware once it is verified in phase 1, the others in phase 5
(Table 19-1). -/
def bootImages (old : List (List Byte)) (rep : BootReport) (n : Nat) : List (List Byte) :=
  if 5 < n then [rep.firmware.bytes, rep.loftFw.bytes, rep.service.bytes]
  else if 1 < n then rep.firmware.bytes :: old.drop 1
  else old

/-- COLD_BOOT (R279, R280, R258, R284, R285): no partition is left, memory is undefined (R259), and a failing phase halts the boot, with
the effects of the phases before it alone. DEDUCED (assumption 73). -/
def execColdBoot (rep : BootReport) (s : State) : Out :=
  .next <|
    let rep := bootFinds s rep
    let n := bootPhase s.ctl.rootDigest rep
    let l := lostAll s.nextId
    let t := s.newContents l.has (l :: s.lost) []
    let c : Ctl := { Ctl.reset with
      phase := n
      holes := if 3 < n then (harvest rep).2 else s.ctl.holes
      silo := if 4 < n then rep.silo.foldl (fun m p => m.put p.1 p.2) [] else s.ctl.silo
      badPorts := if 6 < n then rep.cxlDown else s.ctl.badPorts
      deadElevators := if 3 < n then rep.deadElevators else s.ctl.deadElevators
      failed := s.ctl.failed, keys := s.ctl.keys, policy := s.ctl.policy
      rootDigest := s.ctl.rootDigest, images := bootImages s.ctl.images rep n
      identity := s.ctl.identity, attestation := s.ctl.attestation
      repair := if 2 < n then [] else s.ctl.repair }
    let t := { State.reset with
      cur := s.cur, mem := t.mem, lost := t.lost, ctl := c, sched := s.sched, nextId := s.nextId + 1, free := s.free }
    if n = 7 then t
    else
      let t := t.tell (.bootFailed n)
      if n = 1 ∨ n = 5 then t.alarm 0 else t

/-! ### Keys, quotes and alarms -/

/-- KEY_PROVISIONING (R281, R282): an image key slot, 0 to 3; slot number 4 stands for the identity key and 5 for the attestation key of a
module whose keys were erased. DESIGN CHOICE (assumption 25). -/
def execKeyProvisioning (slot : Nat) (key : List Byte) (s : State) : Out :=
  .next <|
    if slot < 4 then { s with ctl := { s.ctl with keys := s.ctl.keys.put slot key } }
    else if slot = 4 then { s with ctl := { s.ctl with identity := some (privateOf key) } }
    else if slot = 5 then { s with ctl := { s.ctl with attestation := some (privateOf key) } }
    else s

/-- The harvest map as bytes: 0 enabled, 1 transit, 2 dead, by position. DEDUCED (assumption 81). -/
def harvestBytes (s : State) : List Byte :=
  (List.range 1008).map fun p => match s.ctl.holes.get? p with
    | none => 0
    | some false => 1
    | some true => 2

/-- The measurements of a quote (Table 19-3). -/
def measurements (s : State) (part : Nat) : List Byte :=
  s.ctl.images.flatMap sha512 ++ sha512 (harvestBytes s) ++ ((((s.parts.get? part).map PartSt.images).getD []).map Prod.snd).flatten

/-- A nonce of 64 bytes: a longer one is cut, a shorter one filled with zeros. DESIGN CHOICE (assumption 81). -/
def nonce64 (bs : List Byte) : List Byte := (bs ++ List.replicate 64 0).take 64

/-- The salt of a signature, 64 bytes. -/
def saltAt (n : Nat) : List Byte := (List.range 64).map fun i => Config.freeByte (n + i)

/-- The certificate chain of a quote (R282): the attestation key with the identity key's signature of it, and the certificates of the identity
key. DESIGN CHOICE (assumption 25). -/
def certChain (identity attestation : PrivKey) (salt : List Byte) : List (List Byte) :=
  (publicHalf attestation ++ signWith identity (publicHalf attestation) salt) :: Config.identityChain (publicHalf identity)

/-- ATTESTATION_REQUEST (R282): the nonce and the measurements, their signature by the attestation key, and the certificate chain; KEYLESS
while a key is erased. -/
def execAttestationRequest (part : Nat) (nonce : List Byte) (s : State) : Out :=
  .next <| match s.ctl.identity, s.ctl.attestation with
    | some i, some a =>
      let q := nonce64 nonce ++ measurements s part
      { s with free := s.free + 128 }.tell (.quote part q (signWith a q (saltAt s.free)) (certChain i a (saltAt (s.free + 64))))
    | _, _ => s.tell .keyless

/-- POLICY_WRITE (R283): the request is signed with the key in slot 0. -/
def execPolicyWrite (bits : BitVec 6) (sig : List Byte) (s : State) : Out :=
  .next <|
    match s.ctl.keys.get? 0 with
    | some key =>
      if verify key (bytesOf 1 bits.toNat) sig then
        { s with ctl := { s.ctl with policy := bits } }.tell (.policy true)
      else s.tell (.policy false)
    | none => s.tell (.policy false)

/-- VOLTAGE_GLITCH (R283). -/
def execVoltageGlitch (s : State) : Out := .next (s.alarm 2).resetAll

/-- CLOCK_GLITCH (R283). -/
def execClockGlitch (field : Nat) (s : State) : Out :=
  .next <| match fieldPart s field with
    | some p => (s.alarm 3).resetPart p
    | none => s.alarm 3

/-- LID_SENSOR_OPENED (R283). -/
def execLidSensorOpened (s : State) : Out := .next (s.alarm 5).resetAll

/-- BOND_INTEGRITY_ALARM (R259, R283): reported, with repair at the next cold boot. -/
def execBondIntegrityAlarm (pos : Nat) (s : State) : Out :=
  .next <|
    let s := (s.alarm 4).tell (.canary pos)
    { s with ctl := { s.ctl with repair := s.ctl.repair ++ [pos] } }

/-! ### Pages: moving and answering -/

/-- The TLBs of a partition's cores and clusters are invalidated (R95). -/
def State.flushTlbs (s : State) (part : Nat) : State :=
  { s with
    cores := s.cores.map fun c => if coreOf s part c.1 then (c.1, { c.2 with itlb := [], dtlb := [] }) else c
    clusters := s.clusters.map fun c => if clusterIn s part c.1 then (c.1, { c.2 with l2tlb := [] }) else c }

/-- The requesters that a page's counters have seen: how many, and the sums of their rows and columns; with none, its home alone stands for
them. DESIGN CHOICE (assumption 70). -/
def requesters (s : State) (l : Leaf) (cs : List Nat) : Nat × Nat × Nat :=
  if cs.getD 5 0 = 0 then (1, rowOf (posOf s l.home), colOf (posOf s l.home)) else (cs.getD 5 0, cs.getD 6 0, cs.getD 7 0)

/-- A migration of a page begins (R287), with the counters that its requesters have left: its state is moving, and the TLBs are
invalidated. -/
def State.beginMove (s : State) (part pn : Nat) (cs : List Nat) : State :=
  match leafOf (s.pageTable (some part)) pn with
  | some l =>
    if l.state == .present then
      ((s.setLeaf part pn { l with state := .moving }).modPart part fun p =>
        { p with moves := p.moves.put (pageKey l pn) (requesters s l cs) }).flushTlbs part
    else s
  | none => s

/-- The hops from the centroid of some requesters to a position, times their number (R287). -/
def fromCentroid (r : Nat × Nat × Nat) (pos : Nat) : Nat :=
  let d := fun (a b : Nat) => (a - b) + (b - a)
  d (r.1 * rowOf pos) r.2.1 + d (r.1 * colOf pos) r.2.2

/-- The position of a list that is nearest to a centroid, the first of them. -/
def nearestPos (r : Nat × Nat × Nat) (ps : List Nat) : Option Nat :=
  ps.foldl (fun b p => match b with
    | some q => if fromCentroid r p < fromCentroid r q then some p else b
    | none => some p) none

/-- The home of a frame that a router serves: the supergroup of the partition at that router, or else the one that has the fewest hops to it
(R287). -/
def homeAt (s : State) (part pos : Nat) : Option Nat := nearestSg (fun g => hopsTo s (posOf s g) pos) (partSgs s part)

/-- The home of a frame of a field's granary: a supergroup of that field, in whose granary a page of the tier lies. -/
def homeIn (s : State) (part f pos : Nat) : Option Nat :=
  nearestSg (fun g => hopsTo s (posOf s g) pos) ((partSgs s part).filter fun g => sgField s g == f)

/-- The bytes of a range of keys are copied to another one, in which a page comes to stand; the reservations move with them (R80, R287). -/
def State.copyFrames (s : State) (src dst n : Nat) : State :=
  let keep :=
    if s.lost.isEmpty then
      (s.mem.filter fun c => decide (src ≤ c.1) && decide (c.1 < src + n)).map fun c => (c.1 - src + dst, c.2)
    else (List.range n).map fun i => (dst + i, s.byte (src + i))
  let has := fun k => decide (dst ≤ k) && decide (k < dst + n)
  ((s.newContents has s.lost keep).clearBads has).moveResv src dst n

/-- The granary frames that the granary pages of a partition hold, by field. -/
def granaryUsed (s : State) (part f : Nat) : List Nat :=
  ((s.pageTable (some part)).leaves.filter fun e =>
    e.2.tier == .granary && e.2.state != .notPresent && sgField s e.2.home == f).flatMap fun e =>
      (List.range (if e.2.big then 32 else 1)).map (e.2.frame + ·)

/-- The free frames of the partition's granaries for a page of `n` of them, below the spill blocks where such are granted (R289): field and
frame. -/
def granaryFree (s : State) (part n : Nat) : List (Nat × Nat) :=
  (partFields s part).flatMap fun f =>
    let used := granaryUsed s part f
    let top := if (s.field f).spill then 576 else 768
    ((List.range (top / n)).map fun i => (f, i * n)).filter fun p => (List.range n).all fun i => !used.contains (p.2 + i)

/-- The full channels of a silo site. -/
def siteChans (s : State) (site : Nat) : List Nat := ((List.range 32).map (site * 32 + ·)).filter fun ch => chanState s ch == .full

/-- The nearest router of a partition's fields by which a site that has a free run of `n` frames is reached, with that site. -/
def nearestSite (s : State) (part n : Nat) (r : Nat × Nat × Nat) : Option (Nat × Nat) :=
  let sites := (List.range 16).filter fun k => (someFrames s (siteChans s k) n).isSome
  let ends := sites.flatMap fun k => (partFields s part).map fun f => (k, siloRouter s f k)
  (nearestPos r (ends.map Prod.snd)).bind fun p => ends.find? fun e => e.2 == p

/-- A migration moves a page to a free frame of the silo site nearest to its requesters; none where no frame is free. -/
def State.moveSilo (s : State) (part page : Nat) (l : Leaf) (r : Nat × Nat × Nat) : State :=
  let n := if l.big then 32 else 1
  match nearestSite s part n r with
  | none => s
  | some (site, pos) =>
    match someFrames s (siteChans s site) n with
    | none => s
    | some f =>
      { (s.copyFrames (Place.silo.key (l.frame * 0x10000)) (Place.silo.key (f * 0x10000)) (n * 0x10000)).setLeaf part page
          { l with frame := f, home := (homeAt s part pos).getD l.home, state := .present } with free := s.free + 2 }

/-- The routers that serve the slices of a field's granary (R212): each frame has bytes in every slice. -/
def granaryRouters (s : State) (f : Nat) : List Nat := (List.range 8).map (sliceRouter s f)

/-- A migration moves a page to a free frame of the granary nearest to its requesters; with none free it stays. Every frame of a granary is
as near as another: which one is open. -/
def State.moveGranary (s : State) (part page : Nat) (l : Leaf) (r : Nat × Nat × Nat) : State :=
  let n := if l.big then 32 else 1
  let free := granaryFree s part n
  match nearestPos r ((free.map Prod.fst).dedup.flatMap (granaryRouters s)) with
  | none => s.setLeaf part page { l with state := .present }
  | some pos =>
    let cands := free.filter fun c => (granaryRouters s c.1).contains pos
    match cands[(Config.freeWord s.free).toNat % max cands.length 1]? with
    | none => s.setLeaf part page { l with state := .present }
    | some (f, fr) => match homeIn s part f pos with
      | none => s.setLeaf part page { l with state := .present }
      | some home =>
        { (s.copyFrames ((Place.granary (sgField s l.home)).key (l.frame * 0x10000)) ((Place.granary f).key (fr * 0x10000))
            (n * 0x10000)).setLeaf part page { l with frame := fr, home := home, state := .present } with free := s.free + 1 }

/-- MIGRATION_COMPLETE (R287): the bytes are copied to the free frame nearest to the centroid of the requesters, frame and home are
rewritten, and the page is present. Where the silo sites join the mesh is open. DESIGN CHOICE (assumption 70). -/
def execMigrationComplete (part page : Nat) (s : State) : Out :=
  .next <|
    match leafOf (s.pageTable (some part)) page with
    | none => s
    | some l =>
      if l.state != .moving then s
      else
        let k := pageKey l page
        let r := (((s.parts.get? part).map PartSt.moves).bind fun m => m.get? k).getD (requesters s l [])
        let t := match l.tier with
          | .silo => s.moveSilo part page l r
          | .granary => s.moveGranary part page l r
          | .second => s.setLeaf part page { l with state := .present }
        match (leafOf (t.pageTable (some part)) page).map Leaf.state with
        | some .moving => t
        | _ => t.modPart part fun p => { p with moves := p.moves.del k }

/-- A page's counts call for a migration (R287). -/
def hotPage (cs : List Nat) : Bool :=
  let m := cs.getD 0 0
  decide (256 ≤ m) && decide (m * 3 ≤ ((cs.drop 1).take 4).foldl max 0 * 4)

/-- HOTNESS_SCAN (R287): the counters of the pages homed in a field are read and cleared. -/
def execHotnessScan (field : Nat) (s : State) : Out :=
  .next <|
    match fieldPart s field with
    | none => s
    | some p =>
      let homes := s.hot.filter fun h => sgField s h.1 == field
      let hot := homes.flatMap fun h => h.2.filter fun e => hotPage e.2
      let s := { s with hot := s.hot.filter fun h => sgField s h.1 != field }
      hot.foldl (fun s e => match leafOf (s.pageTable (some p)) e.1 with
        | some l => if l.tier == .second then s else s.beginMove p e.1 e.2
        | none => s) s

/-- A partition may see a leaf: one of the second tier only with feature bit 9 (R285). -/
def tierOk (p : PartSt) (l : Leaf) : Bool := !(l.tier == .second) || p.cap.getLsbD 9

/-- TRANSLATION_CHANGE (R95, R286): the owner sets or removes a leaf. One that does not fit Table 19-5 or names memory of a page table is
refused, and the second tier is seen only with feature bit 9 (R285). DEDUCED (assumption 80). -/
def execTranslationChange (part page : Nat) (leaf : Option Leaf) (s : State) : Out :=
  .next <|
    match s.parts.get? part, leaf with
    | none, _ => s
    | some p, some l => if tierOk p l && mayMap s l then s.setLeaf part page l else s
    | some _, none => s.modPart part fun p => { p with pages := dropLeaf p.pages page }

/-- The kind of an access that a held fault names. -/
def accOfNum (n : Nat) : Acc :=
  match n with
  | 0 => .load
  | 1 => .store
  | 2 => .fetch
  | 3 => .vload
  | 4 => .vstore
  | _ => .amo

/-- The controller's answer to a fault on a present page (R335). -/
def presentAnswer (l : Leaf) (a : Acc) : Nat := if leafAllows l a then 0 else if a == .fetch then 2 else 1

/-- The answer leaves as the reply of R93 or R172, and the fault is settled. -/
def State.answerFault (s : State) (k : Nat) (f : HeldFault) (v : Nat) : State :=
  let mark := if f.copy then markCopy else markSlot
  let h := delivered (BitVec.ofNat 64 (mark * 2 ^ 48 + f.slot * 2 ^ 32 + 62 * 512 + 256)) (serviceCore (sgOf f.core)) 0 1
  { s with ctl := { s.ctl with faults := s.ctl.faults.del k } }.post .controller false
    (.chan f.core 62 h [BitVec.ofNat 64 v] none)

/-- No leaf is present: the owner is asked, if it wishes to be, or the answer is 1. -/
def State.absent (s : State) (k : Nat) (f : HeldFault) (lost : Bool) : State :=
  let part := (corePart s f.core).getD 0
  if ((s.parts.get? part).map PartSt.askFaults).getD false && !lost then
    { s with ctl := { s.ctl with faults := s.ctl.faults.put k { f with asked := true } } }.tell (.pageFault part f.va.toNat)
  else s.answerFault k f 1

/-- A fault is answered from the leaf of its page, which is present or discarded: 0 if the page was moving when the access met it (R286,
R335). -/
def State.answerLeaf (s : State) (k : Nat) (f : HeldFault) (part pn : Nat) (l : Leaf) : State :=
  let a := accOfNum f.kind
  if f.moved then s.answerFault k f 0
  else
    let s := if l.state == .discarded && (a.writes || a == .fetch) then s.zeroPage part pn else s
    s.answerFault k f (presentAnswer l a)

/-- CONTROLLER_FAULT_ANSWER (R335): from the page table as it stands; a fault that the owner was asked about waits while no leaf is
there, unless its page is lost (R284). -/
def execControllerFaultAnswer (f : Nat) (s : State) : Out :=
  .next <|
    match s.ctl.faults.get? f with
    | none => s
    | some h =>
      let part := corePart s h.core
      let pn := h.va.toNat / 0x10000
      if !h.seen then s
      else match leafOf (s.pageTable part) pn with
        | none => if h.asked then s else s.absent f h false
        | some l => match l.state with
          | .present | .discarded => s.answerLeaf f h (part.getD 0) pn l
          | .moving => { s with ctl := { s.ctl with faults := s.ctl.faults.put f { h with moved := true } } }
          | .notPresent => if h.asked && !l.lost then s else s.absent f h l.lost

/-- OWNER_MAP_DECISION (R335): the owner maps the page of a fault it was told of, or declines. A leaf that the partition may not see is
refused (R285), and so is one that does not fit (R286). DEDUCED (assumption 80). -/
def execOwnerMapDecision (f : Nat) (leaf : Option Leaf) (s : State) : Out :=
  .next <|
    match s.ctl.faults.get? f with
    | none => s
    | some h =>
      if !h.asked then s
      else match leaf, (corePart s h.core).bind fun p => (s.parts.get? p).map fun q => (p, q) with
        | some l, some (p, q) =>
          if !(tierOk q l && mayMap s l) then s
          else
            let s := s.setLeaf p (h.va.toNat / 0x10000) l
            if l.state == .present then s.answerLeaf f h p (h.va.toNat / 0x10000) l else s
        | _, _ => s.answerFault f h 1

/-! ### Failures -/

/-- The partitions with a page that a test takes. -/
def partsWithPage (s : State) (test : Leaf → Bool) : List Nat :=
  (s.parts.filter fun p => p.2.pages.leaves.any fun e => e.2.state != .notPresent && test e.2).map Prod.fst

/-- A discarded page leaves the frame that it holds, of which there is nothing to copy, for a free one; the reservations on it go with it
(R80, R284, R287). -/
def State.moveDiscarded (s : State) (part pn : Nat) : State :=
  match leafOf (s.pageTable (some part)) pn with
  | some l =>
    if l.state == .discarded && l.tier == .silo then
      match someFrames s ((List.range 512).filter fun ch => chanState s ch == .full) (if l.big then 32 else 1) with
      | some f =>
        let n := if l.big then 0x200000 else 0x10000
        { (s.moveResv (Place.silo.key (l.frame * 0x10000)) (Place.silo.key (f * 0x10000)) n).setLeaf part pn { l with frame := f } with
          free := s.free + 2 }
      | none => s
    else s
  | none => s

/-- A page leaves a channel that is retired: a migration under R287, with the counters that its home holds for it. -/
def State.moveAway (s : State) (part pn : Nat) : State :=
  match leafOf (s.pageTable (some part)) pn with
  | some l => s.beginMove part pn ((s.hot.getD l.home []).getD (pageKey l pn) [])
  | none => s

/-- CHANNEL_RETIREMENT (R284): pages of the channel are migrated, those of `lost` become not present; of a narrowed channel, the
pages on the pseudo-channel that is out of service, which are not known. DESIGN CHOICE (assumption 71). -/
def execChannelRetirement (ch : Nat) (dst : ChanState) (lost : List (Nat × Nat)) (s : State) : Out :=
  .next <|
    if dst == .full then s
    else
      let s := { s with ctl := { s.ctl with silo := s.ctl.silo.put ch dst } }
      let n := s.free
      let pages := s.parts.flatMap fun p => (p.2.pages.leaves.filter fun e =>
        (leafFrames e.2).any fun f => frameChan f == ch).map fun e => (p.1, e.1)
      let hit := pages.filter fun q => dst == .retired || lost.contains q || (Config.freeWord (n + q.1 * 2 ^ 32 + q.2)).getLsbD 0
      let s := { s with free := n + 2 ^ 40 }
      hit.foldl (fun s q =>
        if lost.contains q then
          match leafOf (s.pageTable (some q.1)) q.2 with
          | some l => (s.setLeaf q.1 q.2 { l with state := .notPresent, lost := true }).flushTlbs q.1
          | none => s
        else (s.moveDiscarded q.1 q.2).moveAway q.1 q.2) s

/-- ELEVATOR_FAILURE (R284): every partition with a page on the site is reset. -/
def execElevatorFailure (site : Nat) (s : State) : Out :=
  .next <|
    let ps := partsWithPage s fun l => (leafFrames l).any fun f => frameChan f / 32 == site
    let s := { s with ctl := { s.ctl with badSites := (site :: s.ctl.badSites).dedup } }
    ps.foldl (fun s p => s.resetPart p) s

/-- The CXL port of a frame of the second tier: 256 GB behind each. -/
def framePort (f : Nat) : Nat := f / 4194304

/-- CXL_PORT_LOSS (R285): every partition with a page behind the port is reset. -/
def execCxlPortLoss (port : Nat) (s : State) : Out :=
  .next <|
    let ps := partsWithPage s fun l => l.tier == .second && framePort l.frame == port
    let s := { s with ctl := { s.ctl with badPorts := (port :: s.ctl.badPorts).dedup } }
    ps.foldl (fun s p => s.resetPart p) s

/-- The silo sites that hold pages of a partition, or its page table. -/
def partSites (s : State) (part : Nat) : List Nat :=
  let pt := s.pageTable (some part)
  let frames := (pt.leaves.map Prod.snd).flatMap leafFrames ++ pt.tables.map (· / 0x10000)
  (frames.map fun f => frameChan f / 32).dedup

/-- The traffic of a partition, as pairs of routers, both ways: among its supergroups and Reeves (R295, R337), and of those of each field
with the slices of its granary (R212) and with the elevators to the silo sites that it uses (R284). -/
def trafficOf (s : State) (part : Nat) : List (Nat × Nat) :=
  let fields := partFields s part
  let ends := (partSgs s part).map (posOf s) ++ fields.map (reeveRouter s)
  let gran := fields.flatMap fun f => (ends.filter fun a => fieldOfPos a == f).flatMap fun a =>
    (List.range 8).flatMap fun k => [(a, sliceRouter s f k), (sliceRouter s f k, a)]
  let silo := fields.flatMap fun f => (ends.filter fun a => fieldOfPos a == f).flatMap fun a =>
    (partSites s part).flatMap fun k => [(a, siloRouter s f k), (siloRouter s f k, a)]
  (ends.flatMap fun a => ends.map fun b => (a, b)) ++ gran ++ silo

/-- The table routes of a partition's traffic pass a router. -/
def routedThrough (s : State) (part pos : Nat) : Bool :=
  (trafficOf s part).any fun p => (routePath (routeOk s p.1 p.2) p.2 1008 (Head.start p.1)).contains pos

/-- ROUTER_FAILURE (R299): the tables stand until the next cold boot, at which the router is dead. -/
def execRouterFailure (pos : Nat) (s : State) : Out :=
  .next <|
    let t := (s.parts.keys.filter fun p => routedThrough s p pos).foldl (fun s p => s.resetPart p) s
    { t with ctl := { t.ctl with failed := (pos :: t.ctl.failed).dedup } }

/-- The granule that an injection of a partition names: its key and its size (R290). DESIGN CHOICE (assumption 124). -/
def granuleAt (s : State) (part key : Nat) : Option (Nat × Nat) :=
  let n := key / 2 ^ 64
  let m := n / 16
  let off := key % 2 ^ 64
  let eight := fun size (b : Bool) => if b && key % 8 == 0 && decide (off < size) then some (key, 8) else none
  match n % 16 with
  | 0 => eight 0x10000 (coreOf s part m)
  | 1 => eight 0x800000 (sgIn s part m)
  | 2 => eight 0x3000000 (fieldPart s m == some part)
  | 3 => eight 0x1000000 (coreOf s part m)
  | 7 => if coreOf s part (m / 4) then some (key - off, 4096) else none
  | 8 => if clusterIn s part (m / 8) then some (key - off, 16384) else none
  | _ => none

/-- INJECTION_REQUEST (R290). -/
def execInjectionRequest (part addr : Nat) (cls : InjClass) (s : State) : Out :=
  .next <|
    match s.parts.get? part, granuleAt s part addr with
    | some p, some (k, n) =>
      if p.test then { s with bad := ⟨k, n, cls, true⟩ :: s.bad }.tell (.injection true) else s.tell (.injection false)
    | _, _ => s.tell (.injection false)

/-! ### Power and heat -/

/-- A masked window holds off a requested migration of a field (R292). -/
def maskedIn (s : State) (f : Nat) : Bool :=
  s.cores.any fun c => coreField s c.1 == f && c.2.slots.toList.any fun sl => sl.live && sl.crit

/-- The cap on the k of a field (Table 19-6, R292). -/
def capOn (s : State) (f : Nat) : Nat :=
  let fs := s.field f
  if fs.migrate && (fs.heldOff || maskedIn s f) then 4
  else if fs.above.contains 100 then 8
  else if fs.above.contains 95 then 12
  else 16

/-- The clock of a field set to k sixteenths, within 4 and the cap. -/
def State.setClock (s : State) (f k : Nat) : State :=
  s.modField f fun fs =>
    { fs with clock := max 4 (min k (capOn s f)), heldOff := fs.heldOff || (fs.migrate && maskedIn s f) }

/-- POWER_REVISION (R291): the k of each field, in order of the fields. -/
def execPowerRevision (ks : List Nat) (s : State) : Out :=
  .next ((ks.take 42).zipIdx.foldl (fun s p => s.setClock p.2 p.1) s)

/-- THERMAL_THRESHOLD (R291, Table 19-6). -/
def execThermalThreshold (field celsius : Nat) (s : State) : Out :=
  .next <|
    if celsius = 110 then
      match fieldPart s field with
      | some p => s.resetPart p
      | none => s
    else if celsius = 95 ∨ celsius = 100 then
      let s := s.modField field fun fs =>
        { fs with above := (celsius :: fs.above).dedup, migrate := fs.migrate || celsius == 100 }
      s.setClock field (s.field field).clock
    else s

/-- THERMAL_CLEAR (R291): the action of a threshold is cleared. -/
def execThermalClear (field celsius : Nat) (s : State) : Out :=
  .next (s.modField field fun fs =>
    { fs with above := fs.above.filter (· ≠ celsius), migrate := fs.migrate && celsius != 100
              heldOff := fs.heldOff && celsius != 100 })

/-- THERMAL_MIGRATION (R292): the field's work stands at its pre-emption points and is moved, which changes only time; a masked window
holds the migration off, and k is capped at 4 until it has taken place. DEDUCED (assumption 78). -/
def execThermalMigration (field : Nat) (s : State) : Out :=
  .next <|
    if !(s.field field).migrate then s
    else if maskedIn s field then s.setClock field (s.field field).clock
    else if atPoints s [field] then s.modField field fun fs => { fs with migrate := false, heldOff := false }
    else s

/-! ### Visibility -/

/-- WRITE_PERFORMED (R129): a write becomes visible to more agents. -/
def execWritePerformed (w : Nat) (view : View) (s : State) : Out :=
  .next (if s.hidden.any fun h => h.id == w then s.perform [w] view else s)

end Sys2Proof.Machine
end

