-- ==== Sys2Proof/Machine/Dispatch.lean ====
section
/-!
DEFINITION. `exec`: one call of a meaning for each instruction and event of the opcode table.
-/
namespace Sys2Proof.Machine

/-- The effect of an instruction, or of an event. -/
def exec (i : Instr) (s : State) : Host.Outcome State Fault Refusal :=
  match i with
  | .lui rd imm => Sys2Proof.Machine.execLui rd imm s
  | .auipc rd imm => Sys2Proof.Machine.execAuipc rd imm s
  | .jal rd off => Sys2Proof.Machine.execJal rd off s
  | .jalr rd rs imm => Sys2Proof.Machine.execJalr rd rs imm s
  | .beq rs rt off => Sys2Proof.Machine.execBeq rs rt off s
  | .bne rs rt off => Sys2Proof.Machine.execBne rs rt off s
  | .blt rs rt off => Sys2Proof.Machine.execBlt rs rt off s
  | .bge rs rt off => Sys2Proof.Machine.execBge rs rt off s
  | .bltu rs rt off => Sys2Proof.Machine.execBltu rs rt off s
  | .bgeu rs rt off => Sys2Proof.Machine.execBgeu rs rt off s
  | .lb rd rs imm => Sys2Proof.Machine.execLb rd rs imm s
  | .lh rd rs imm => Sys2Proof.Machine.execLh rd rs imm s
  | .lw rd rs imm => Sys2Proof.Machine.execLw rd rs imm s
  | .ld rd rs imm => Sys2Proof.Machine.execLd rd rs imm s
  | .lbu rd rs imm => Sys2Proof.Machine.execLbu rd rs imm s
  | .lhu rd rs imm => Sys2Proof.Machine.execLhu rd rs imm s
  | .lwu rd rs imm => Sys2Proof.Machine.execLwu rd rs imm s
  | .sb rt rs imm => Sys2Proof.Machine.execSb rt rs imm s
  | .sh rt rs imm => Sys2Proof.Machine.execSh rt rs imm s
  | .sw rt rs imm => Sys2Proof.Machine.execSw rt rs imm s
  | .sd rt rs imm => Sys2Proof.Machine.execSd rt rs imm s
  | .addi rd rs imm => Sys2Proof.Machine.execAddi rd rs imm s
  | .slti rd rs imm => Sys2Proof.Machine.execSlti rd rs imm s
  | .sltiu rd rs imm => Sys2Proof.Machine.execSltiu rd rs imm s
  | .xori rd rs imm => Sys2Proof.Machine.execXori rd rs imm s
  | .ori rd rs imm => Sys2Proof.Machine.execOri rd rs imm s
  | .andi rd rs imm => Sys2Proof.Machine.execAndi rd rs imm s
  | .slli rd rs sh => Sys2Proof.Machine.execSlli rd rs sh s
  | .srli rd rs sh => Sys2Proof.Machine.execSrli rd rs sh s
  | .srai rd rs sh => Sys2Proof.Machine.execSrai rd rs sh s
  | .add rd rs rt => Sys2Proof.Machine.execAdd rd rs rt s
  | .sub rd rs rt => Sys2Proof.Machine.execSub rd rs rt s
  | .sll rd rs rt => Sys2Proof.Machine.execSll rd rs rt s
  | .slt rd rs rt => Sys2Proof.Machine.execSlt rd rs rt s
  | .sltu rd rs rt => Sys2Proof.Machine.execSltu rd rs rt s
  | .xor_ rd rs rt => Sys2Proof.Machine.execXor rd rs rt s
  | .srl rd rs rt => Sys2Proof.Machine.execSrl rd rs rt s
  | .sra rd rs rt => Sys2Proof.Machine.execSra rd rs rt s
  | .or_ rd rs rt => Sys2Proof.Machine.execOr rd rs rt s
  | .and_ rd rs rt => Sys2Proof.Machine.execAnd rd rs rt s
  | .addiw rd rs imm => Sys2Proof.Machine.execAddiw rd rs imm s
  | .slliw rd rs sh => Sys2Proof.Machine.execSlliw rd rs sh s
  | .srliw rd rs sh => Sys2Proof.Machine.execSrliw rd rs sh s
  | .sraiw rd rs sh => Sys2Proof.Machine.execSraiw rd rs sh s
  | .addw rd rs rt => Sys2Proof.Machine.execAddw rd rs rt s
  | .subw rd rs rt => Sys2Proof.Machine.execSubw rd rs rt s
  | .sllw rd rs rt => Sys2Proof.Machine.execSllw rd rs rt s
  | .srlw rd rs rt => Sys2Proof.Machine.execSrlw rd rs rt s
  | .sraw rd rs rt => Sys2Proof.Machine.execSraw rd rs rt s
  | .mul rd rs rt => Sys2Proof.Machine.execMul rd rs rt s
  | .mulh rd rs rt => Sys2Proof.Machine.execMulh rd rs rt s
  | .mulhsu rd rs rt => Sys2Proof.Machine.execMulhsu rd rs rt s
  | .mulhu rd rs rt => Sys2Proof.Machine.execMulhu rd rs rt s
  | .div rd rs rt => Sys2Proof.Machine.execDiv rd rs rt s
  | .divu rd rs rt => Sys2Proof.Machine.execDivu rd rs rt s
  | .rem rd rs rt => Sys2Proof.Machine.execRem rd rs rt s
  | .remu rd rs rt => Sys2Proof.Machine.execRemu rd rs rt s
  | .mulw rd rs rt => Sys2Proof.Machine.execMulw rd rs rt s
  | .divw rd rs rt => Sys2Proof.Machine.execDivw rd rs rt s
  | .divuw rd rs rt => Sys2Proof.Machine.execDivuw rd rs rt s
  | .remw rd rs rt => Sys2Proof.Machine.execRemw rd rs rt s
  | .remuw rd rs rt => Sys2Proof.Machine.execRemuw rd rs rt s
  | .lrW aq rl rd rs => Sys2Proof.Machine.execLrW aq rl rd rs s
  | .lrD aq rl rd rs => Sys2Proof.Machine.execLrD aq rl rd rs s
  | .scW aq rl rd rt rs => Sys2Proof.Machine.execScW aq rl rd rt rs s
  | .scD aq rl rd rt rs => Sys2Proof.Machine.execScD aq rl rd rt rs s
  | .amoswapW aq rl rd rt rs => Sys2Proof.Machine.execAmoswapW aq rl rd rt rs s
  | .amoswapD aq rl rd rt rs => Sys2Proof.Machine.execAmoswapD aq rl rd rt rs s
  | .amoaddW aq rl rd rt rs => Sys2Proof.Machine.execAmoaddW aq rl rd rt rs s
  | .amoaddD aq rl rd rt rs => Sys2Proof.Machine.execAmoaddD aq rl rd rt rs s
  | .amoxorW aq rl rd rt rs => Sys2Proof.Machine.execAmoxorW aq rl rd rt rs s
  | .amoxorD aq rl rd rt rs => Sys2Proof.Machine.execAmoxorD aq rl rd rt rs s
  | .amoandW aq rl rd rt rs => Sys2Proof.Machine.execAmoandW aq rl rd rt rs s
  | .amoandD aq rl rd rt rs => Sys2Proof.Machine.execAmoandD aq rl rd rt rs s
  | .amoorW aq rl rd rt rs => Sys2Proof.Machine.execAmoorW aq rl rd rt rs s
  | .amoorD aq rl rd rt rs => Sys2Proof.Machine.execAmoorD aq rl rd rt rs s
  | .amominW aq rl rd rt rs => Sys2Proof.Machine.execAmominW aq rl rd rt rs s
  | .amominD aq rl rd rt rs => Sys2Proof.Machine.execAmominD aq rl rd rt rs s
  | .amomaxW aq rl rd rt rs => Sys2Proof.Machine.execAmomaxW aq rl rd rt rs s
  | .amomaxD aq rl rd rt rs => Sys2Proof.Machine.execAmomaxD aq rl rd rt rs s
  | .amominuW aq rl rd rt rs => Sys2Proof.Machine.execAmominuW aq rl rd rt rs s
  | .amominuD aq rl rd rt rs => Sys2Proof.Machine.execAmominuD aq rl rd rt rs s
  | .amomaxuW aq rl rd rt rs => Sys2Proof.Machine.execAmomaxuW aq rl rd rt rs s
  | .amomaxuD aq rl rd rt rs => Sys2Proof.Machine.execAmomaxuD aq rl rd rt rs s
  | .fence fm p x rs rd => Sys2Proof.Machine.execFence fm p x rs rd s
  | .fenceTso rs rd => Sys2Proof.Machine.execFenceTso rs rd s
  | .fenceI imm rs rd => Sys2Proof.Machine.execFenceI imm rs rd s
  | .ecall => Sys2Proof.Machine.execEcall s
  | .ebreak => Sys2Proof.Machine.execEbreak s
  | .csrrw rd csr rs => Sys2Proof.Machine.execCsrrw rd csr rs s
  | .csrrs rd csr rs => Sys2Proof.Machine.execCsrrs rd csr rs s
  | .csrrc rd csr rs => Sys2Proof.Machine.execCsrrc rd csr rs s
  | .csrrwi rd csr z => Sys2Proof.Machine.execCsrrwi rd csr z s
  | .csrrsi rd csr z => Sys2Proof.Machine.execCsrrsi rd csr z s
  | .csrrci rd csr z => Sys2Proof.Machine.execCsrrci rd csr z s
  | .send rh rp n => Sys2Proof.Machine.execSend rh rp n s
  | .sendr rh rp n rr => Sys2Proof.Machine.execSendr rh rp n rr s
  | .sendv rh vs n => Sys2Proof.Machine.execSendv rh vs n s
  | .exit => Sys2Proof.Machine.execExit s
  | .exitSucc rs => Sys2Proof.Machine.execExitSucc rs s
  | .spawn rd rc rpc => Sys2Proof.Machine.execSpawn rd rc rpc s
  | .waitm rd rs => Sys2Proof.Machine.execWaitm rd rs s
  | .critOn => Sys2Proof.Machine.execCritOn s
  | .critOff => Sys2Proof.Machine.execCritOff s
  | .chmask rd rs rv => Sys2Proof.Machine.execChmask rd rs rv s
  | .chpend rd rs rv => Sys2Proof.Machine.execChpend rd rs rv s
  | .gtok rn rc => Sys2Proof.Machine.execGtok rn rc s
  | .glaunch rd rs => Sys2Proof.Machine.execGlaunch rd rs s
  | .gcancel rs => Sys2Proof.Machine.execGcancel rs s
  | .gstat rd rs => Sys2Proof.Machine.execGstat rd rs s
  | .gtrig => Sys2Proof.Machine.execGtrig s
  | .rwd rs rl clear => Sys2Proof.Machine.execRwd rs rl clear s
  | .vadd pg ew vd vs1 vs2 => Sys2Proof.Machine.execVadd pg ew vd vs1 vs2 s
  | .vaddSat pg ew vd vs1 vs2 => Sys2Proof.Machine.execVaddSat pg ew vd vs1 vs2 s
  | .vaddSatc pg ew vd vs1 vs2 => Sys2Proof.Machine.execVaddSatc pg ew vd vs1 vs2 s
  | .vsub pg ew vd vs1 vs2 => Sys2Proof.Machine.execVsub pg ew vd vs1 vs2 s
  | .vsubSat pg ew vd vs1 vs2 => Sys2Proof.Machine.execVsubSat pg ew vd vs1 vs2 s
  | .vsubSatc pg ew vd vs1 vs2 => Sys2Proof.Machine.execVsubSatc pg ew vd vs1 vs2 s
  | .vmul pg ew vd vs1 vs2 => Sys2Proof.Machine.execVmul pg ew vd vs1 vs2 s
  | .vmulh pg ew vd vs1 vs2 => Sys2Proof.Machine.execVmulh pg ew vd vs1 vs2 s
  | .vmulhC pg ew vd vs1 vs2 => Sys2Proof.Machine.execVmulhC pg ew vd vs1 vs2 s
  | .vand pg ew vd vs1 vs2 => Sys2Proof.Machine.execVand pg ew vd vs1 vs2 s
  | .vor pg ew vd vs1 vs2 => Sys2Proof.Machine.execVor pg ew vd vs1 vs2 s
  | .vxor pg ew vd vs1 vs2 => Sys2Proof.Machine.execVxor pg ew vd vs1 vs2 s
  | .vsll pg ew vd vs1 vs2 => Sys2Proof.Machine.execVsll pg ew vd vs1 vs2 s
  | .vsrl pg ew vd vs1 vs2 => Sys2Proof.Machine.execVsrl pg ew vd vs1 vs2 s
  | .vsra pg ew vd vs1 vs2 => Sys2Proof.Machine.execVsra pg ew vd vs1 vs2 s
  | .vmin pg ew vd vs1 vs2 => Sys2Proof.Machine.execVmin pg ew vd vs1 vs2 s
  | .vminC pg ew vd vs1 vs2 => Sys2Proof.Machine.execVminC pg ew vd vs1 vs2 s
  | .vmax pg ew vd vs1 vs2 => Sys2Proof.Machine.execVmax pg ew vd vs1 vs2 s
  | .vmaxC pg ew vd vs1 vs2 => Sys2Proof.Machine.execVmaxC pg ew vd vs1 vs2 s
  | .vcmpEq pg ew pd c vs1 vs2 => Sys2Proof.Machine.execVcmpEq pg ew pd c vs1 vs2 s
  | .vcmpNe pg ew pd c vs1 vs2 => Sys2Proof.Machine.execVcmpNe pg ew pd c vs1 vs2 s
  | .vcmpLt pg ew pd c vs1 vs2 => Sys2Proof.Machine.execVcmpLt pg ew pd c vs1 vs2 s
  | .vcmpLe pg ew pd c vs1 vs2 => Sys2Proof.Machine.execVcmpLe pg ew pd c vs1 vs2 s
  | .vsel pk vd vs1 vs2 => Sys2Proof.Machine.execVsel pk vd vs1 vs2 s
  | .vfadd pg vd vs1 vs2 => Sys2Proof.Machine.execVfadd pg vd vs1 vs2 s
  | .vfsub pg vd vs1 vs2 => Sys2Proof.Machine.execVfsub pg vd vs1 vs2 s
  | .vfmul pg vd vs1 vs2 => Sys2Proof.Machine.execVfmul pg vd vs1 vs2 s
  | .vfma pg vd vs1 vs2 => Sys2Proof.Machine.execVfma pg vd vs1 vs2 s
  | .vfmin pg vd vs1 vs2 => Sys2Proof.Machine.execVfmin pg vd vs1 vs2 s
  | .vfmax pg vd vs1 vs2 => Sys2Proof.Machine.execVfmax pg vd vs1 vs2 s
  | .vfrcp pg vd vs => Sys2Proof.Machine.execVfrcp pg vd vs s
  | .vfcmpEq pg pd vs1 vs2 => Sys2Proof.Machine.execVfcmpEq pg pd vs1 vs2 s
  | .vfcmpLt pg pd vs1 vs2 => Sys2Proof.Machine.execVfcmpLt pg pd vs1 vs2 s
  | .vfcmpLe pg pd vs1 vs2 => Sys2Proof.Machine.execVfcmpLe pg pd vs1 vs2 s
  | .vfcmpUn pg pd vs1 vs2 => Sys2Proof.Machine.execVfcmpUn pg pd vs1 vs2 s
  | .vcvt pg vd vs => Sys2Proof.Machine.execVcvt pg vd vs s
  | .venc8 pg vd vs => Sys2Proof.Machine.execVenc8 pg vd vs s
  | .vdec8 pg vd vs => Sys2Proof.Machine.execVdec8 pg vd vs s
  | .vtfade pg vd vs1 vs2 => Sys2Proof.Machine.execVtfade pg vd vs1 vs2 s
  | .vtacc pg vd vs1 vs2 => Sys2Proof.Machine.execVtacc pg vd vs1 vs2 s
  | .vtdec pg vd vs => Sys2Proof.Machine.execVtdec pg vd vs s
  | .vtenc pg vd vs => Sys2Proof.Machine.execVtenc pg vd vs s
  | .vld pg vd rs off => Sys2Proof.Machine.execVld pg vd rs off s
  | .vst pg vd rs off => Sys2Proof.Machine.execVst pg vd rs off s
  | .vlds pg ew vd rs rt => Sys2Proof.Machine.execVlds pg ew vd rs rt s
  | .vsts pg ew vd rs rt => Sys2Proof.Machine.execVsts pg ew vd rs rt s
  | .vldx pg ew vd rs vi => Sys2Proof.Machine.execVldx pg ew vd rs vi s
  | .vstx pg ew vd rs vi => Sys2Proof.Machine.execVstx pg ew vd rs vi s
  | .vbc pg ew vd rs => Sys2Proof.Machine.execVbc pg ew vd rs s
  | .vmvx ew rd vs k => Sys2Proof.Machine.execVmvx ew rd vs k s
  | .vmxv ew vd rs k => Sys2Proof.Machine.execVmxv ew vd rs k s
  | .vperm pg ew vd vs vi => Sys2Proof.Machine.execVperm pg ew vd vs vi s
  | .vrot pg ew vd vs k => Sys2Proof.Machine.execVrot pg ew vd vs k s
  | .vvote pg ew vd vs m => Sys2Proof.Machine.execVvote pg ew vd vs m s
  | .vmatch pg ew vd vs => Sys2Proof.Machine.execVmatch pg ew vd vs s
  | .vredAdd pg ew vd vs => Sys2Proof.Machine.execVredAdd pg ew vd vs s
  | .vredFadd pg vd vs => Sys2Proof.Machine.execVredFadd pg vd vs s
  | .vredMin pg ew vd vs => Sys2Proof.Machine.execVredMin pg ew vd vs s
  | .vredMax pg ew vd vs => Sys2Proof.Machine.execVredMax pg ew vd vs s
  | .pand pd ps pt => Sys2Proof.Machine.execPand pd ps pt s
  | .por pd ps pt => Sys2Proof.Machine.execPor pd ps pt s
  | .pnot pd ps => Sys2Proof.Machine.execPnot pd ps s
  | .pset pd rs => Sys2Proof.Machine.execPset pd rs s
  | .credAdd rd rs => Sys2Proof.Machine.execCredAdd rd rs s
  | .credFadd rd rs => Sys2Proof.Machine.execCredFadd rd rs s
  | .credMin rd rs => Sys2Proof.Machine.execCredMin rd rs s
  | .credMax rd rs => Sys2Proof.Machine.execCredMax rd rs s
  | .cbar => Sys2Proof.Machine.execCbar s
  | .cbc rd rs rc => Sys2Proof.Machine.execCbc rd rs rc s
  | .cxch rd rs rc => Sys2Proof.Machine.execCxch rd rs rc s
  | .cmd rd vs => Sys2Proof.Machine.execCmd rd vs s
  | .jwait n cls => Sys2Proof.Machine.execJwait n cls s
  | .jpoll rd rs cls => Sys2Proof.Machine.execJpoll rd rs cls s
  | .fenceS sc pr pw qr qw => Sys2Proof.Machine.execFenceS sc pr pw qr qw s
  | .ifenceS sc => Sys2Proof.Machine.execIfenceS sc s
  | .xfence p x => Sys2Proof.Machine.execXfence p x s
  | .fmt fin fout tab rm rs mode => Sys2Proof.Machine.execFmt fin fout tab rm rs mode s
  | .amoScSwapW sc rd rt rs => Sys2Proof.Machine.execAmoScSwapW sc rd rt rs s
  | .amoScAddW sc rd rt rs => Sys2Proof.Machine.execAmoScAddW sc rd rt rs s
  | .amoScXorW sc rd rt rs => Sys2Proof.Machine.execAmoScXorW sc rd rt rs s
  | .amoScAndW sc rd rt rs => Sys2Proof.Machine.execAmoScAndW sc rd rt rs s
  | .amoScOrW sc rd rt rs => Sys2Proof.Machine.execAmoScOrW sc rd rt rs s
  | .amoScMinW sc rd rt rs => Sys2Proof.Machine.execAmoScMinW sc rd rt rs s
  | .amoScMaxW sc rd rt rs => Sys2Proof.Machine.execAmoScMaxW sc rd rt rs s
  | .amoScMinCW sc rd rt rs => Sys2Proof.Machine.execAmoScMinCW sc rd rt rs s
  | .amoScMaxCW sc rd rt rs => Sys2Proof.Machine.execAmoScMaxCW sc rd rt rs s
  | .amoScFaddW sc rd rt rs => Sys2Proof.Machine.execAmoScFaddW sc rd rt rs s
  | .amoScSwapD sc rd rt rs => Sys2Proof.Machine.execAmoScSwapD sc rd rt rs s
  | .amoScAddD sc rd rt rs => Sys2Proof.Machine.execAmoScAddD sc rd rt rs s
  | .amoScXorD sc rd rt rs => Sys2Proof.Machine.execAmoScXorD sc rd rt rs s
  | .amoScAndD sc rd rt rs => Sys2Proof.Machine.execAmoScAndD sc rd rt rs s
  | .amoScOrD sc rd rt rs => Sys2Proof.Machine.execAmoScOrD sc rd rt rs s
  | .amoScMinD sc rd rt rs => Sys2Proof.Machine.execAmoScMinD sc rd rt rs s
  | .amoScMaxD sc rd rt rs => Sys2Proof.Machine.execAmoScMaxD sc rd rt rs s
  | .amoScMinCD sc rd rt rs => Sys2Proof.Machine.execAmoScMinCD sc rd rt rs s
  | .amoScMaxCD sc rd rt rs => Sys2Proof.Machine.execAmoScMaxCD sc rd rt rs s
  | .messageArrival m => Sys2Proof.Machine.execMessageArrival m s
  | .flowControlReturn m => Sys2Proof.Machine.execFlowControlReturn m s
  | .exitSendRelease core k => Sys2Proof.Machine.execExitSendRelease core k s
  | .dispatch core => Sys2Proof.Machine.execDispatch core s
  | .successorStart core k => Sys2Proof.Machine.execSuccessorStart core k s
  | .waitmTake core ch => Sys2Proof.Machine.execWaitmTake core ch s
  | .critOnGrant core k => Sys2Proof.Machine.execCritOnGrant core k s
  | .spawnRequest m => Sys2Proof.Machine.execSpawnRequest m s
  | .spawnAnswer m => Sys2Proof.Machine.execSpawnAnswer m s
  | .budget core k => Sys2Proof.Machine.execBudget core k s
  | .tlbWalkComplete core va fetch => Sys2Proof.Machine.execTlbWalkComplete core va fetch s
  | .faultReply m => Sys2Proof.Machine.execFaultReply m s
  | .tlbInvalidation core => Sys2Proof.Machine.execTlbInvalidation core s
  | .scrubError addr => Sys2Proof.Machine.execScrubError addr s
  | .serviceReportSend who => Sys2Proof.Machine.execServiceReportSend who s
  | .mld cluster => Sys2Proof.Machine.execMld cluster s
  | .mldt cluster => Sys2Proof.Machine.execMldt cluster s
  | .mst cluster => Sys2Proof.Machine.execMst cluster s
  | .mma cluster => Sys2Proof.Machine.execMma cluster s
  | .mzero cluster => Sys2Proof.Machine.execMzero cluster s
  | .maccSt cluster => Sys2Proof.Machine.execMaccSt cluster s
  | .cpy cluster => Sys2Proof.Machine.execCpy cluster s
  | .cpyg cluster => Sys2Proof.Machine.execCpyg cluster s
  | .cpys cluster => Sys2Proof.Machine.execCpys cluster s
  | .cpyt cluster => Sys2Proof.Machine.execCpyt cluster s
  | .copyFaultReply m => Sys2Proof.Machine.execCopyFaultReply m s
  | .jobComplete core cls job => Sys2Proof.Machine.execJobComplete core cls job s
  | .taskRecordDelivery cluster => Sys2Proof.Machine.execTaskRecordDelivery cluster s
  | .stealProbe cluster => Sys2Proof.Machine.execStealProbe cluster s
  | .stealRequest m => Sys2Proof.Machine.execStealRequest m s
  | .stealAnswer m => Sys2Proof.Machine.execStealAnswer m s
  | .stealBackoff cluster => Sys2Proof.Machine.execStealBackoff cluster s
  | .clusterRoundComplete cluster => Sys2Proof.Machine.execClusterRoundComplete cluster s
  | .rgin sg => Sys2Proof.Machine.execRgin sg s
  | .rgmatch sg => Sys2Proof.Machine.execRgmatch sg s
  | .rggo sg => Sys2Proof.Machine.execRggo sg s
  | .rgout sg => Sys2Proof.Machine.execRgout sg s
  | .rgsave sg => Sys2Proof.Machine.execRgsave sg s
  | .rgrest sg => Sys2Proof.Machine.execRgrest sg s
  | .movesBegin sg => Sys2Proof.Machine.execMovesBegin sg s
  | .moveDone sg => Sys2Proof.Machine.execMoveDone sg s
  | .holdDone sg => Sys2Proof.Machine.execHoldDone sg s
  | .encounterAccept sg station => Sys2Proof.Machine.execEncounterAccept sg station s
  | .passBy sg station => Sys2Proof.Machine.execPassBy sg station s
  | .encounterRetire sg entry => Sys2Proof.Machine.execEncounterRetire sg entry s
  | .ringSaveAtBoundary sg => Sys2Proof.Machine.execRingSaveAtBoundary sg s
  | .ringCancel sg => Sys2Proof.Machine.execRingCancel sg s
  | .tokenArrival m => Sys2Proof.Machine.execTokenArrival m s
  | .activationTrigger m => Sys2Proof.Machine.execActivationTrigger m s
  | .faultReport m => Sys2Proof.Machine.execFaultReport m s
  | .nodeRetry node => Sys2Proof.Machine.execNodeRetry node s
  | .graphLaunchRequest m => Sys2Proof.Machine.execGraphLaunchRequest m s
  | .glaunchAnswer m => Sys2Proof.Machine.execGlaunchAnswer m s
  | .gcancelRequest m => Sys2Proof.Machine.execGcancelRequest m s
  | .gstatRequest m => Sys2Proof.Machine.execGstatRequest m s
  | .gstatAnswer m => Sys2Proof.Machine.execGstatAnswer m s
  | .teamResidencyExpiry cluster => Sys2Proof.Machine.execTeamResidencyExpiry cluster s
  | .teamSwap cluster => Sys2Proof.Machine.execTeamSwap cluster s
  | .lass core => Sys2Proof.Machine.execLass core s
  | .lsweep core => Sys2Proof.Machine.execLsweep core s
  | .interlockRelease core k => Sys2Proof.Machine.execInterlockRelease core k s
  | .rewardArrival b core => Sys2Proof.Machine.execRewardArrival b core s
  | .rewardHold core => Sys2Proof.Machine.execRewardHold core s
  | .rewardCut core => Sys2Proof.Machine.execRewardCut core s
  | .sweepStart core => Sys2Proof.Machine.execSweepStart core s
  | .sweepComplete core => Sys2Proof.Machine.execSweepComplete core s
  | .staticRoute m => Sys2Proof.Machine.execStaticRoute m s
  | .kred core => Sys2Proof.Machine.execKred core s
  | .kbc core => Sys2Proof.Machine.execKbc core s
  | .collectiveInstance inst => Sys2Proof.Machine.execCollectiveInstance inst s
  | .ktime inst => Sys2Proof.Machine.execKtime inst s
  | .launch req => Sys2Proof.Machine.execLaunch req s
  | .launchLoad core => Sys2Proof.Machine.execLaunchLoad core s
  | .partitionCreate req => Sys2Proof.Machine.execPartitionCreate req s
  | .partitionReset part => Sys2Proof.Machine.execPartitionReset part s
  | .watchdogExpiry q => Sys2Proof.Machine.execWatchdogExpiry q s
  | .watchdogReset q => Sys2Proof.Machine.execWatchdogReset q s
  | .contextSwitchOut part => Sys2Proof.Machine.execContextSwitchOut part s
  | .contextRestore part => Sys2Proof.Machine.execContextRestore part s
  | .hostDataWrite part va bytes => Sys2Proof.Machine.execHostDataWrite part va bytes s
  | .hostDataRead part va size => Sys2Proof.Machine.execHostDataRead part va size s
  | .hostPost addr bytes => Sys2Proof.Machine.execHostPost addr bytes s
  | .queuePostDelivery q => Sys2Proof.Machine.execQueuePostDelivery q s
  | .replyRingWrite m => Sys2Proof.Machine.execReplyRingWrite m s
  | .copyServiceRequest m => Sys2Proof.Machine.execCopyServiceRequest m s
  | .copyServiceComplete c => Sys2Proof.Machine.execCopyServiceComplete c s
  | .peerAck m => Sys2Proof.Machine.execPeerAck m s
  | .staticRouteProgram part n entry => Sys2Proof.Machine.execStaticRouteProgram part n entry s
  | .queueBind q b => Sys2Proof.Machine.execQueueBind q b s
  | .coldBoot rep => Sys2Proof.Machine.execColdBoot rep s
  | .attestationRequest part nonce => Sys2Proof.Machine.execAttestationRequest part nonce s
  | .policyWrite bits sig => Sys2Proof.Machine.execPolicyWrite bits sig s
  | .voltageGlitch => Sys2Proof.Machine.execVoltageGlitch s
  | .clockGlitch field => Sys2Proof.Machine.execClockGlitch field s
  | .lidSensorOpened => Sys2Proof.Machine.execLidSensorOpened s
  | .bondIntegrityAlarm pos => Sys2Proof.Machine.execBondIntegrityAlarm pos s
  | .channelRetirement ch dst lost => Sys2Proof.Machine.execChannelRetirement ch dst lost s
  | .elevatorFailure site => Sys2Proof.Machine.execElevatorFailure site s
  | .cxlPortLoss port => Sys2Proof.Machine.execCxlPortLoss port s
  | .routerFailure pos => Sys2Proof.Machine.execRouterFailure pos s
  | .hotnessScan field => Sys2Proof.Machine.execHotnessScan field s
  | .migrationComplete part page => Sys2Proof.Machine.execMigrationComplete part page s
  | .injectionRequest part addr cls => Sys2Proof.Machine.execInjectionRequest part addr cls s
  | .controllerFaultAnswer f => Sys2Proof.Machine.execControllerFaultAnswer f s
  | .ownerMapDecision f leaf => Sys2Proof.Machine.execOwnerMapDecision f leaf s
  | .powerRevision ks => Sys2Proof.Machine.execPowerRevision ks s
  | .thermalThreshold field celsius => Sys2Proof.Machine.execThermalThreshold field celsius s
  | .thermalClear field celsius => Sys2Proof.Machine.execThermalClear field celsius s
  | .thermalMigration field => Sys2Proof.Machine.execThermalMigration field s
  | .illegalInstruction w => Sys2Proof.Machine.execIllegalInstruction w s
  | .writePerformed w view => Sys2Proof.Machine.execWritePerformed w view s
  | .translationChange part page leaf => Sys2Proof.Machine.execTranslationChange part page leaf s
  | .keyProvisioning slot key => Sys2Proof.Machine.execKeyProvisioning slot key s
  | .partitionRemoval part => Sys2Proof.Machine.execPartitionRemoval part s

end Sys2Proof.Machine
end

