-- ==== Sys2Proof/Machine/Depend.lean ====
section
/-!
DEFINITION. What an instruction of a slot reads and writes, as its core needs to know it around `exec`: the dependencies of R131 and
R132 from the reads of a slot to its later accesses and messages, what fences owe (R134, R154), and the errors of the register file
(R101).
-/
namespace Sys2Proof.Machine

/-! ### What an instruction names -/

/-- What an instruction reads and writes: x registers, vector registers or ports, and predicates; the x registers, and whether a
vector register, that its address comes from; whether it writes the prefix, reads or writes memory on path L, sends on path N,
posts a message itself, pushes a command, or is a conditional branch or an indirect jump. -/
structure Uses where
  xs     : List Reg := []
  xd     : Option Reg := none
  vs     : List Reg := []
  vd     : Option Reg := none
  ps     : List PReg := []
  pd     : Option PReg := none
  addr   : List Reg := []
  index  : Bool := false
  vout   : Bool := false
  reads  : Bool := false
  writes : Bool := false
  net    : Bool := false
  posts  : Bool := false
  cmd    : Bool := false
  ctl    : Bool := false

/-- The payload registers of a send. -/
def regsFrom (rp : Reg) (n : BitVec 3) : List Reg := (List.range n.toNat).map fun i => rp + BitVec.ofNat 5 i

/-- A vector destination whose inactive lanes keep what it holds is read as well (R102). -/
def merged (pg : PReg) (vd : Reg) : List Reg := if pg = 0 then [] else [vd]

/-- What each instruction names (Tables 2-2 to 2-10, 5-7a, 6-2 to 6-6); an event of the device is none of a slot. -/
def usesOf (i : Instr) : Uses :=
  match i with
  | .lui rd _ | .auipc rd _ | .jal rd _ | .csrrwi rd _ _ | .csrrsi rd _ _ | .csrrci rd _ _ => { xd := some rd }
  | .jalr rd rs _ => { xs := [rs], xd := some rd, ctl := true }
  | .beq rs rt _ | .bne rs rt _ | .blt rs rt _ | .bge rs rt _ | .bltu rs rt _ | .bgeu rs rt _ => { xs := [rs, rt], ctl := true }
  | .lb rd rs _ | .lh rd rs _ | .lw rd rs _ | .ld rd rs _ | .lbu rd rs _ | .lhu rd rs _ | .lwu rd rs _ | .lrW _ _ rd rs
  | .lrD _ _ rd rs => { xs := [rs], xd := some rd, addr := [rs], reads := true }
  | .sb rt rs _ | .sh rt rs _ | .sw rt rs _ | .sd rt rs _ => { xs := [rt, rs], addr := [rs], writes := true }
  | .addi rd rs _ | .slti rd rs _ | .sltiu rd rs _ | .xori rd rs _ | .ori rd rs _ | .andi rd rs _ | .slli rd rs _ | .srli rd rs _
  | .srai rd rs _ | .addiw rd rs _ | .slliw rd rs _ | .srliw rd rs _ | .sraiw rd rs _ | .csrrw rd _ rs | .csrrs rd _ rs
  | .csrrc rd _ rs | .waitm rd rs | .credAdd rd rs | .credFadd rd rs | .credMin rd rs | .credMax rd rs
  | .jpoll rd rs _ => { xs := [rs], xd := some rd }
  | .add rd rs rt | .sub rd rs rt | .sll rd rs rt | .slt rd rs rt | .sltu rd rs rt | .xor_ rd rs rt | .srl rd rs rt | .sra rd rs rt
  | .or_ rd rs rt | .and_ rd rs rt | .addw rd rs rt | .subw rd rs rt | .sllw rd rs rt | .srlw rd rs rt | .sraw rd rs rt | .mul rd rs rt
  | .mulh rd rs rt | .mulhsu rd rs rt | .mulhu rd rs rt | .div rd rs rt | .divu rd rs rt | .rem rd rs rt | .remu rd rs rt
  | .mulw rd rs rt | .divw rd rs rt | .divuw rd rs rt | .remw rd rs rt | .remuw rd rs rt => { xs := [rs, rt], xd := some rd }
  | .scW _ _ rd rt rs | .scD _ _ rd rt rs => { xs := [rt, rs], xd := some rd, addr := [rs], writes := true }
  | .amoswapW _ _ rd rt rs | .amoswapD _ _ rd rt rs | .amoaddW _ _ rd rt rs | .amoaddD _ _ rd rt rs | .amoxorW _ _ rd rt rs
  | .amoxorD _ _ rd rt rs | .amoandW _ _ rd rt rs | .amoandD _ _ rd rt rs | .amoorW _ _ rd rt rs | .amoorD _ _ rd rt rs
  | .amominW _ _ rd rt rs | .amominD _ _ rd rt rs | .amomaxW _ _ rd rt rs | .amomaxD _ _ rd rt rs | .amominuW _ _ rd rt rs
  | .amominuD _ _ rd rt rs | .amomaxuW _ _ rd rt rs | .amomaxuD _ _ rd rt rs | .amoScSwapW _ rd rt rs | .amoScAddW _ rd rt rs
  | .amoScXorW _ rd rt rs | .amoScAndW _ rd rt rs | .amoScOrW _ rd rt rs | .amoScMinW _ rd rt rs | .amoScMaxW _ rd rt rs
  | .amoScMinCW _ rd rt rs | .amoScMaxCW _ rd rt rs | .amoScFaddW _ rd rt rs | .amoScSwapD _ rd rt rs | .amoScAddD _ rd rt rs
  | .amoScXorD _ rd rt rs | .amoScAndD _ rd rt rs | .amoScOrD _ rd rt rs | .amoScMinD _ rd rt rs | .amoScMaxD _ rd rt rs
  | .amoScMinCD _ rd rt rs | .amoScMaxCD _ rd rt rs => { xs := [rt, rs], xd := some rd, addr := [rs], reads := true, writes := true }
  | .fence _ _ _ _ _ | .fenceTso _ _ | .fenceI _ _ _ | .ebreak | .critOn | .critOff | .cbar | .jwait _ _ | .fenceS _ _ _ _ _
  | .ifenceS _ | .xfence _ _ | .illegalInstruction _ => {}
  | .ecall => { xs := [10], net := true, posts := true }
  | .send rh rp n => { xs := rh :: regsFrom rp n }
  | .sendr rh rp n rr => { xs := rh :: rr :: regsFrom rp n }
  | .sendv rh vs _ => { xs := [rh], vs := [vs] }
  | .exit => { net := true }
  | .exitSucc rs => { xs := [rs], net := true }
  | .spawn rd rc rpc => { xs := [rc, rpc, 10, 11, 12, 13], xd := some rd, net := true, posts := true }
  | .chmask rd rs rv | .chpend rd rs rv => { xs := [rs, rv], xd := some rd }
  | .gtok rn rc => { xs := [rn, rc] }
  | .glaunch rd rs | .gstat rd rs => { xs := [rs], xd := some rd, net := true, posts := true }
  | .gcancel rs => { xs := [rs], net := true, posts := true }
  | .gtrig => { net := true, posts := true }
  | .rwd rs rl _ => { xs := [rs, rl] }
  | .vadd pg _ vd vs1 vs2 | .vaddSat pg _ vd vs1 vs2 | .vaddSatc pg _ vd vs1 vs2 | .vsub pg _ vd vs1 vs2 | .vsubSat pg _ vd vs1 vs2
  | .vsubSatc pg _ vd vs1 vs2 | .vmul pg _ vd vs1 vs2 | .vmulh pg _ vd vs1 vs2 | .vmulhC pg _ vd vs1 vs2 | .vand pg _ vd vs1 vs2
  | .vor pg _ vd vs1 vs2 | .vxor pg _ vd vs1 vs2 | .vsll pg _ vd vs1 vs2 | .vsrl pg _ vd vs1 vs2 | .vsra pg _ vd vs1 vs2
  | .vmin pg _ vd vs1 vs2 | .vminC pg _ vd vs1 vs2 | .vmax pg _ vd vs1 vs2 | .vmaxC pg _ vd vs1 vs2 | .vfadd pg vd vs1 vs2
  | .vfsub pg vd vs1 vs2 | .vfmul pg vd vs1 vs2 | .vfmin pg vd vs1 vs2 | .vfmax pg vd vs1 vs2 | .vtfade pg vd vs1 vs2
  | .vtacc pg vd vs1 vs2 => { vs := vs1 :: vs2 :: merged pg vd, ps := [pg], vd := some vd }
  | .vcmpEq pg _ pd _ vs1 vs2 | .vcmpNe pg _ pd _ vs1 vs2 | .vcmpLt pg _ pd _ vs1 vs2 | .vcmpLe pg _ pd _ vs1 vs2
  | .vfcmpEq pg pd vs1 vs2 | .vfcmpLt pg pd vs1 vs2 | .vfcmpLe pg pd vs1 vs2
  | .vfcmpUn pg pd vs1 vs2 => { vs := [vs1, vs2], ps := [pg], pd := some pd }
  | .vsel pk vd vs1 vs2 => { vs := [vs1, vs2], ps := [pk], vd := some vd }
  | .vfma pg vd vs1 vs2 => { vs := [vd, vs1, vs2], ps := [pg], vd := some vd }
  | .vfrcp pg vd vs | .vcvt pg vd vs | .venc8 pg vd vs | .vdec8 pg vd vs | .vtdec pg vd vs | .vtenc pg vd vs | .vrot pg _ vd vs _
  | .vmatch pg _ vd vs => { vs := vs :: merged pg vd, ps := [pg], vd := some vd }
  | .vld pg vd rs _ => { xs := [rs], addr := [rs], vs := merged pg vd, ps := [pg], vd := some vd, reads := true }
  | .vst pg vd rs _ => { xs := [rs], addr := [rs], vs := [vd], ps := [pg], writes := true }
  | .vlds pg _ vd rs rt => { xs := [rs, rt], addr := [rs, rt], vs := merged pg vd, ps := [pg], vd := some vd, reads := true }
  | .vsts pg _ vd rs rt => { xs := [rs, rt], addr := [rs, rt], vs := [vd], ps := [pg], writes := true }
  | .vldx pg _ vd rs vi => { xs := [rs], addr := [rs], index := true, vs := vi :: merged pg vd, ps := [pg], vd := some vd, reads := true }
  | .vstx pg _ vd rs vi => { xs := [rs], addr := [rs], index := true, vs := [vd, vi], ps := [pg], writes := true }
  | .vbc pg _ vd rs => { xs := [rs], vs := merged pg vd, ps := [pg], vd := some vd }
  | .vmvx _ rd vs _ => { vs := [vs], xd := some rd }
  | .vmxv _ vd rs _ => { xs := [rs], vs := [vd], vd := some vd }
  | .vperm pg _ vd vs vi => { vs := vs :: vi :: merged pg vd, ps := [pg], vd := some vd }
  | .vvote pg _ vd vs _ | .vredAdd pg _ vd vs | .vredFadd pg vd vs | .vredMin pg _ vd vs
  | .vredMax pg _ vd vs => { vs := [vs], ps := [pg], vd := some vd }
  | .pand pd ps pt | .por pd ps pt => { ps := [ps, pt], pd := some pd }
  | .pnot pd ps => { ps := [ps], pd := some pd }
  | .pset pd rs => { xs := [rs], pd := some pd }
  | .cbc rd rs rc | .cxch rd rs rc => { xs := [rs, rc], xd := some rd }
  | .cmd rd vs => { vs := [vs], xd := some rd, cmd := true }
  | .fmt _ _ _ _ rs _ => { xs := [rs], vout := true }
  | _ => {}

/-! ### Errors in the register file (R101) -/

/-- The granules of a slot's register file that an instruction reads. A write of a predicate rewrites half a granule, whose other half
it reads; a form that takes one lane of a register reads all of it. DESIGN CHOICE (assumption 114). -/
def granulesOf (u : Uses) : List Nat :=
  (u.xs.filter (· ≠ 0)).map offX ++
    (u.vs.filter fun r => !isPort r).flatMap (fun r => (List.range 4).map fun i => offV r.toNat + 8 * i) ++
    ((u.ps ++ u.pd.toList).filter (· ≠ 0)).map offP

/-- The key of a granule of the current slot's register file. -/
def State.regKey (s : State) (off : Nat) : Nat := (Place.regs (s.cur.core * 4 + s.cur.slot.val)).key off

/-- The register error that an instruction of the current slot meets, if any. -/
def State.regError (s : State) (i : Instr) : Option BadGranule :=
  ((granulesOf (usesOf i)).find? fun g => s.slot.bad.contains g).map fun g => ⟨s.regKey g, 8, .any, false⟩

/-! ### Dependencies (R131, R132) -/

/-- The writes that an x register's value depends on. -/
def Flow.ofX (f : Flow) (r : Reg) : List Nat := if r = 0 then [] else f.x.getD r.toNat []

/-- The writes that an instruction's operands depend on. -/
def Flow.operands (f : Flow) (u : Uses) : List Nat :=
  (u.xs.flatMap f.ofX ++ if u.vs.isEmpty && u.ps.isEmpty then [] else f.vec).dedup

/-- The writes that its address depends on. -/
def Flow.address (f : Flow) (u : Uses) : List Nat := (u.addr.flatMap f.ofX ++ if u.index then f.vec else []).dedup

/-- An instruction of a slot is one that a fence before it holds back (R134, R154). The end of an activation is one where a send has been
buffered since, which it lets leave (R133). -/
def Owed.holds (o : Owed) (sl : Slot) (i : Instr) : Bool :=
  let u := usesOf i
  let out := match i with
    | .exit | .exitSucc _ => decide (o.sends < sl.sends.length)
    | _ => u.net
  o.later.reads && u.reads || o.later.writes && u.writes || o.later.net && out || o.later.cmds && u.cmd

/-- What the current slot's fences owe before an instruction. -/
def State.dues (s : State) (i : Instr) : List Owed := s.slot.owed.filter fun o => o.holds s.slot i

/-- What some fences of the current slot owe is performed; no later read that they hold back has taken its value before (R134, R154). -/
def State.pay (s : State) (due : List Owed) : State :=
  let s := due.foldl (fun s o => s.perform o.ids o.view) s
  s.modSlot fun sl => { sl with
    owed := sl.owed.filter fun o => !due.contains o
    early := if due.any fun o => o.later.reads then [] else sl.early }

/-- Before an instruction of the current slot: what its fences owe before it (R134, R154); for a read, the writes that its address depends
on are performed first (R131 case 3); and the writes that its operands depend on stand by for what it writes (cases 3 and 4). -/
def State.before (s : State) (i : Instr) : State :=
  if s.slot.flow = .none ∧ s.slot.owed = [] then s
  else
    let u := usesOf i
    let f := s.slot.flow
    let s := s.pay (s.dues i)
    let s := if u.reads then s.perform (f.address u) (.within .sys s.agent) else s
    s.modSlot fun sl => { sl with flow := { sl.flow with ops := f.operands u } }

/-- The writes that reads of an agent between two states returned. -/
def readBetween (ag : Agent) (s t : State) : List Nat :=
  (t.hidden.filter fun h =>
    decide ((((s.hidden.find? fun g => g.id == h.id).map fun g => g.readers.count ag).getD 0) < h.readers.count ag)).map Hidden.id

/-- The dependencies of the values that an instruction leaves: on what its read returned, or on what its operands depend on. `sent` is
the place of a send that it has buffered, `live` the writes that are not yet visible to all. -/
def Flow.moveOn (f : Flow) (u : Uses) (got : List Nat) (sent : Option Nat) (live : Nat → Bool) : Flow :=
  let ops := f.ops
  let res := if u.reads then got else ops
  let keep := fun (l : List Nat) => (l.filter live).dedup
  let vout := u.vd.isSome || u.pd.isSome || u.vout
  { x := match u.xd with
      | some r => if r = 0 then f.x else if (keep res).isEmpty then f.x.del r.toNat else f.x.put r.toNat (keep res)
      | .none => f.x
    vec := keep (if vout then res ++ f.vec else f.vec)
    ctl := keep (if u.ctl then ops ++ f.ctl else f.ctl)
    ops := []
    sends := match sent with
      | some n => if (keep (ops ++ f.ctl)).isEmpty then f.sends
        else (List.range n).map (fun j => f.sends.getD j []) ++ [keep (ops ++ f.ctl)]
      | .none => f.sends }

/-- After an instruction of the slot `s.cur`, which turned `s` into `t`: once it has retired, the dependencies of its results and of
the send that it buffered; and those of the messages that it has posted (R133). One that has joined a cluster round, or waits for the
answer to a request, keeps those of its operands for the result. -/
def State.after (s t : State) (i : Instr) : State :=
  let c := s.cur.core
  let k := s.cur.slot
  if t.hidden = [] ∧ s.slot.flow = .none then t
  else
    let u := usesOf i
    let live := fun id => t.hidden.any fun h => h.id == id
    let deps := ((s.slot.flow.ops ++ s.slot.flow.ctl).filter live).dedup
    let got := readBetween s.agent s t
    let new := if u.posts ∧ deps ≠ [] then (t.net.filter fun m => decide (s.nextId ≤ m.id)).map Msg.id else []
    let t : State := { t with
      hidden := t.hidden.map fun (h : Hidden) => { h with readers := h.readers.dedup }
      carried := new.foldl (fun (m : AMap (List Nat)) id => m.put id deps) t.carried }
    let n := s.slot.sends.length
    let sent := if n < (t.slotOf c k).sends.length then some n else none
    if !(t.slotOf c k).live then t
    else if (t.slotOf c k).instret = s.slot.instret then
      match (t.slotOf c k).wait with
      | .round _ | .spawn _ | .glaunch _ | .gstat _ => t
      | _ => t.modSlotOf c k fun sl => { sl with flow := { sl.flow with ops := [] } }
    else t.modSlotOf c k fun sl => { sl with flow := sl.flow.moveOn u got sent live }

/-- Every slot of a core. -/
def coreView (c : Nat) : View := .within .core (.slot c 0)

/-- Where a message is performed when it is there: at every slot of the core that it is for, or at the agent; one for a peer module, at
every agent of the system (Table 7-1). -/
def destView (s : State) (b : Body) : Option View :=
  match b with
  | .peerMsg p .. => some (.within .sys (.net p))
  | b => match bodyAgent s b with
    | some (.slot c _) => some (coreView c)
    | some a => some (.one a)
    | none => none

/-- A message is still on its way, or waits for an outbound entry. -/
def underWay (s : State) (id : Nat) : Bool :=
  (s.net.any fun m => m.id == id) || s.cores.any fun c => c.2.backlog.any fun m => m.id == id

/-- The cores that hold a reward, of all that it is for once it is under way no more (R264). -/
def rewardAt (s t : State) (id p : Nat) : List Nat :=
  match (t.msg? id).map Msg.body with
  | some (.reward _ _ _ _ _ _ got) => got
  | _ => partCores s p

/-- Where a message has got between two states: a reward, at one core after another. -/
def arrivedAt (s t : State) (id : Nat) : List View :=
  match (s.msg? id).map Msg.body with
  | none => []
  | some (.reward p _ _ _ _ _ got) => ((rewardAt s t id p).filter fun c => !got.contains c).map coreView
  | some b => if underWay t id then [] else (destView s b).toList

/-- Between two states, the writes that a message depends on are performed where the message has got (R131, R133). -/
def State.settle (s t : State) : State :=
  t.carried.foldl (fun t e =>
    let u := (arrivedAt s t e.1).foldl (fun u v => u.perform e.2 v) t
    if underWay t e.1 then u else { u with carried := u.carried.del e.1 }) t

end Sys2Proof.Machine
end

