-- ==== Sys2Proof/Machine/Streams.lean ====
section
/-!
DEFINITION. The two streams of a slot (R83): what its other stream still does while one of them stalls on a port (R84, R85). Apart from
that a slot executes its instructions one at a time in program order.
-/
namespace Sys2Proof.Machine

/-! ### Which stream an instruction is in -/

/-- An instruction has a part in the access stream, and one in the execute stream (R83). -/
structure Streams where
  access  : Bool
  execute : Bool
deriving DecidableEq, Repr

/-- The streams of an instruction (R83). A load into `lq` and a store from `sq` are made by the access stream alone, any other vector
memory form needs both. -/
def streamsOf (i : Instr) : Streams :=
  match i with
  | .vld _ vd _ _ | .vlds _ _ vd _ _ | .vldx _ _ vd _ _ => ⟨true, vd ≠ 28⟩
  | .vst _ vd _ _ | .vsts _ _ vd _ _ | .vstx _ _ vd _ _ => ⟨true, vd ≠ 29⟩
  | .vmvx _ _ vs _ => ⟨vs = 30, vs ≠ 30⟩
  | .vmxv _ vd _ _ => ⟨vd = 31, vd ≠ 31⟩
  | .vadd .. | .vaddSat .. | .vaddSatc .. | .vsub .. | .vsubSat .. | .vsubSatc .. | .vmul .. | .vmulh .. | .vmulhC .. | .vand ..
  | .vor .. | .vxor .. | .vsll .. | .vsrl .. | .vsra .. | .vmin .. | .vminC .. | .vmax .. | .vmaxC .. | .vcmpEq .. | .vcmpNe ..
  | .vcmpLt .. | .vcmpLe .. | .vsel .. | .vfadd .. | .vfsub .. | .vfmul .. | .vfma .. | .vfmin .. | .vfmax .. | .vfrcp ..
  | .vfcmpEq .. | .vfcmpLt .. | .vfcmpLe .. | .vfcmpUn .. | .vcvt .. | .venc8 .. | .vdec8 .. | .vtfade .. | .vtacc .. | .vtdec ..
  | .vtenc .. | .vbc .. | .vperm .. | .vrot .. | .vvote .. | .vmatch .. | .vredAdd .. | .vredFadd .. | .vredMin .. | .vredMax ..
  | .pand .. | .por .. | .pnot .. | .pset .. | .credAdd .. | .credFadd .. | .credMin .. | .credMax .. | .cbar | .cbc .. | .cxch ..
  | .fmt .. | .cmd .. => ⟨false, true⟩
  | _ => ⟨true, false⟩

/-! ### A stall on a port -/

/-- The ports that an instruction pops, and the one that it pushes. -/
def popsOf (u : Uses) : List Reg := u.vs.filter fun r => isPort r && u.vd ≠ some r
def pushOf (u : Uses) : List Reg := u.vd.toList.filter isPort

/-- The port on which an instruction of the current slot stalls: one that it pops and that has too few entries, or the one that it pushes
and that has no room (R84, R85). -/
def stalledPort (s : State) (i : Instr) : Option Reg :=
  let u := usesOf i
  ((popsOf u).find? fun r => decide (portLen s.slot r < (popsOf u).count r)).orElse fun _ => (pushOf u).find? fun r => !portRoom s r

/-- The stall is one of the execute stream: it pops `lq` and `aq`, and pushes `sq` and `bq` (Table 5-7). -/
def stallsExecute (i : Instr) (r : Reg) : Bool := (r == 28 || r == 31) != (usesOf i).vd.toList.contains r

/-- The number of a CSR that an instruction accesses, and whether it writes it (R77). -/
def csrOf (i : Instr) : Option (BitVec 12 × Bool) :=
  match i with
  | .csrrw _ c _ | .csrrwi _ c _ => some (c, true)
  | .csrrs _ c r | .csrrc _ c r | .csrrsi _ c r | .csrrci _ c r => some (c, r ≠ 0)
  | _ => none

/-- It reads or writes `jobstat`, or writes what a `cmd` takes along: `tdesc` or `rgpat` (R98, R159, R192). -/
def csrOfJobs (i : Instr) : Bool :=
  match csrOf i with
  | some (c, w) => c == 0x804 || (w && ((0x808#12 ≤ c && c ≤ 0x80B#12) || c == 0x811))
  | none => false

/-- What an instruction names. A `waitm` writes x10 to x17 beside its rd (R72). -/
def namesOf (i : Instr) : Names :=
  let u := usesOf i
  { xs := (u.xd.toList ++ match i with
      | .waitm .. => [10, 11, 12, 13, 14, 15, 16, 17]
      | _ => []).filter (· ≠ 0)
    vs := u.vd.toList.filter fun r => !isPort r
    ps := u.pd.toList.filter (· ≠ 0)
    ports := popsOf u ++ pushOf u
    mem := u.reads || u.writes
    jobs := u.cmd || csrOfJobs i || match i with
      | .jwait .. | .jpoll .. | .xfence .. => true
      | _ => false
    bar := i == .cbar }

/-! ### The bytes of an access -/

/-- The size of an element of a memory form, and its elements: those of `vld` and `vst` are bytes (R106), a scalar access is one. -/
def State.elemsOf (s : State) (i : Instr) : Nat × List Elem :=
  let one := fun (n : Nat) (va : Word) => (n, [(⟨0, va⟩ : Elem)])
  match i with
  | .lb _ rs imm | .lbu _ rs imm | .sb _ rs imm => one 1 (s.rx rs + sext12 imm)
  | .lh _ rs imm | .lhu _ rs imm | .sh _ rs imm => one 2 (s.rx rs + sext12 imm)
  | .lw _ rs imm | .lwu _ rs imm | .sw _ rs imm => one 4 (s.rx rs + sext12 imm)
  | .ld _ rs imm | .sd _ rs imm => one 8 (s.rx rs + sext12 imm)
  | .vld pg _ rs off | .vst pg _ rs off => (1, byteElems (s.slot.rp pg) (vmBase s rs off))
  | .vlds pg ew _ rs rt | .vsts pg ew _ rs rt => (widthOf ew / 8, laneElems (widthOf ew) (s.slot.rp pg) (strideAddr s rs rt))
  | .vldx pg ew _ rs vi | .vstx pg ew _ rs vi =>
    (widthOf ew / 8, laneElems (widthOf ew) (s.slot.rp pg) (indexAddr s rs vi (widthOf ew)))
  | .lrD _ _ _ rs | .scD _ _ _ _ rs | .amoswapD _ _ _ _ rs | .amoaddD _ _ _ _ rs | .amoxorD _ _ _ _ rs | .amoandD _ _ _ _ rs
  | .amoorD _ _ _ _ rs | .amominD _ _ _ _ rs | .amomaxD _ _ _ _ rs | .amominuD _ _ _ _ rs | .amomaxuD _ _ _ _ rs
  | .amoScSwapD _ _ _ rs | .amoScAddD _ _ _ rs | .amoScXorD _ _ _ rs | .amoScAndD _ _ _ rs | .amoScOrD _ _ _ rs
  | .amoScMinD _ _ _ rs | .amoScMaxD _ _ _ rs | .amoScMinCD _ _ _ rs | .amoScMaxCD _ _ _ rs => one 8 (s.rx rs)
  | i => (4, (usesOf i).addr.map fun rs => ⟨0, s.rx rs⟩)

/-- The keys of the bytes of each element that a memory form reaches; an alias window reaches a unit as a whole (R247). -/
def State.elemsReached (s : State) (i : Instr) : List (List Nat) :=
  let e := s.elemsOf i
  let a : Acc := if (usesOf i).writes then .store else .load
  e.2.map fun x => match resolve s s.cur.core a x.va.toNat e.1 with
    | .keys ks => realKeys ks
    | .alias_ k o => aliasKeys s.cur.core k (o - o % aliasUnit k)
    | _ => []

/-- The keys of the bytes that a memory form reaches. -/
def State.bytesReached (s : State) (i : Instr) : List Nat := (s.elemsReached i).flatten.dedup

/-- The names of an instruction that stands behind, with the bytes of one whose address side runs (R83). -/
def State.namesAt (s : State) (i : Instr) : Names :=
  if (streamsOf i).access && (streamsOf i).execute then { namesOf i with keys := s.bytesReached i } else namesOf i

/-! ### What stands behind -/

/-- What the instructions that stand behind are still to write, with what the other stream has written since left out, but for the data
of its loads, which come in the stream that stalls; and what they are to do. -/
def Behind.toCome (b : Behind) : Names :=
  b.items.foldl (fun n i => match i with
    | .todo _ _ m => { m with
        xs := m.xs ++ n.xs, vs := m.vs ++ n.vs, ps := m.ps ++ n.ps, ports := m.ports ++ n.ports
        mem := m.mem || n.mem, jobs := m.jobs || n.jobs, bar := m.bar || n.bar, keys := m.keys ++ n.keys }
    | .ran w late => { n with
        xs := n.xs.filter fun r => !(w.xs.map Prod.fst).contains r
        vs := if late then w.vs.map Prod.fst ++ n.vs else n.vs.filter fun r => !(w.vs.map Prod.fst).contains r
        ps := n.ps.filter fun r => !(w.ps.map Prod.fst).contains r })
    { xs := [], vs := [], ps := [], ports := [], mem := false, jobs := false, bar := false }

/-- The last instruction that stands behind is a prefix, so that the next one of its stream is to follow it (R97). -/
def Behind.prefixed (b : Behind) : Bool :=
  match b.items.filterMap fun i => match i with
      | .todo _ w _ => some w
      | .ran .. => none with
  | [] => false
  | l => match decode (l.getLastD 0) with
    | some (.fmt ..) => true
    | _ => false

/-- The aq and rl bits of an atomic (R78). -/
def orderBits (i : Instr) : BitVec 1 × BitVec 1 :=
  match i with
  | .lrW aq rl _ _ | .lrD aq rl _ _ | .scW aq rl _ _ _ | .scD aq rl _ _ _ | .amoswapW aq rl _ _ _ | .amoswapD aq rl _ _ _
  | .amoaddW aq rl _ _ _ | .amoaddD aq rl _ _ _ | .amoxorW aq rl _ _ _ | .amoxorD aq rl _ _ _ | .amoandW aq rl _ _ _
  | .amoandD aq rl _ _ _ | .amoorW aq rl _ _ _ | .amoorD aq rl _ _ _ | .amominW aq rl _ _ _ | .amominD aq rl _ _ _
  | .amomaxW aq rl _ _ _ | .amomaxD aq rl _ _ _ | .amominuW aq rl _ _ _ | .amominuD aq rl _ _ _ | .amomaxuW aq rl _ _ _
  | .amomaxuD aq rl _ _ _ => (aq, rl)
  | _ => (0, 0)

/-- An atomic with rl set, which is ordered behind every earlier access (R131 case 6). -/
def releases (i : Instr) : Bool := (orderBits i).2 == 1

/-- An atomic with aq set, which every later access is ordered behind (R131 case 6). -/
def acquires (i : Instr) : Bool := (orderBits i).1 == 1

/-- An instruction acts on what others before it have done beside their registers: a fence, a `cbar`, a `gtrig` and a release on accesses
of memory, a command, a seal and a CSR of the jobs on jobs. -/
def waitsFor (n : Names) (i : Instr) : Bool :=
  match i with
  | .fence .. | .fenceTso .. | .fenceI .. | .fenceS .. | .ifenceS .. | .cbar | .gtrig => n.mem
  | .xfence .. => n.mem || n.jobs
  | .jwait .. | .jpoll .. | .cmd .. => n.jobs
  | i => (csrOfJobs i && n.jobs) || (releases i && n.mem)

/-- An access of path L is ordered behind what stands behind: by a `cbar` (R151), or by a common byte (R131 cases 1 and 2). -/
def State.ordered (s : State) (n : Names) (i : Instr) : Bool :=
  ((usesOf i).reads || (usesOf i).writes) && (n.bar || (!n.keys.isEmpty && (s.bytesReached i).any n.keys.contains))

/-- An instruction of the other stream needs something that stands behind: a value, an earlier access of a port, an earlier access of
memory that it is ordered behind, or an earlier command or seal. -/
def State.needs (s : State) (n : Names) (i : Instr) : Bool :=
  let u := usesOf i
  u.xs.any n.xs.contains || u.vs.any n.vs.contains || u.ps.any n.ps.contains || (popsOf u ++ pushOf u).any n.ports.contains ||
    waitsFor n i || s.ordered n i

/-- The address of a vector memory form needs a value that stands behind: of its x registers, its predicate or its index vector. -/
def addrNeeds (n : Names) (i : Instr) : Bool :=
  let u := usesOf i
  u.addr.any n.xs.contains || u.ps.any n.ps.contains || match i with
    | .vldx _ _ _ _ vi | .vstx _ _ _ _ vi => n.vs.contains vi
    | _ => false

/-- An instruction that no stream passes while something stands behind: the end of an activation and a trap need all that is before
them, and a stalled access stream settles no branch and no indirect jump, and ends no instruction fence (R136). -/
def barrier (b : Behind) (i : Instr) : Bool :=
  match i with
  | .exit | .exitSucc .. | .ebreak | .illegalInstruction .. => true
  | .fenceI .. | .ifenceS .. => !b.exec
  | .jal _ off => off.getLsbD 0 && !b.exec
  | i => (usesOf i).ctl && !b.exec

/-- The stream that stalls is one that the instruction is in. -/
def Behind.holds (b : Behind) (i : Instr) : Bool := if b.exec then (streamsOf i).execute else (streamsOf i).access

/-- The pc after an instruction that stands behind: a `jal` needs nothing to go to its target (R78). -/
def nextPc (pc : BitVec 48) (i : Instr) : BitVec 48 :=
  match i with
  | .jal _ off => pc + (off ++ 0#1).signExtend 48
  | _ => pc + 4

/-- The instruction at the pc of the current slot stands behind, with the stream that stalls; the other stream goes on after it. -/
def State.putBehind (s : State) (b : Behind) (w : BitVec 32) (i : Instr) : State :=
  s.modSlot fun sl =>
    { sl with pc := nextPc sl.pc i, pfx := none, behind := some { b with items := b.items ++ [.todo sl.pc w (s.namesAt i)] } }

/-- An instruction that stalls on a port stalls its stream alone (R84): for ever in native mode, where every push and pop that could end
the stall comes after it (R85), and in compatibility mode until spill blocks are free (R87). DESIGN CHOICE (assumption 95). -/
def State.fallBehind (s : State) (w : BitVec 32) (i : Instr) : State :=
  match stalledPort s i with
  | some r => s.putBehind ⟨stallsExecute i r, [], s.slot.regs, false, s.slot.instret, none⟩ w i
  | none => s

end Sys2Proof.Machine
end

