-- ==== Sys2Proof/Machine/Flight.lean ====
section
/-!
DEFINITION. The order of a slot's accesses where R131 leaves it open. An instruction may retire and take effect later: it is under way
as a `Flight` until it lands, and no later instruction can tell but by the order of accesses. A load may take its value before it
is reached: an `Early` read. What an instruction needs of those before it, the orders of R131, and the fences (R134, R154) say when.
-/
namespace Sys2Proof.Machine

/-- The state in which a meaning ends. Every meaning of this model ends in a next state. -/
def stateOf (o : Out) (s : State) : State :=
  match o with
  | .next t => t
  | _ => s

/-- A slot has an instruction to issue. -/
def slotReady (s : State) (c : Nat) (k : Fin 4) : Bool :=
  (s.slotOf c k).live && (s.slotOf c k).wait == .none

/-! ### Early reads -/

/-- A load, which may take its value early; an atomic takes its own when it writes. -/
def mayBeEarly (i : Instr) : Bool :=
  match i with
  | .lrW .. | .lrD .. => false
  | i => (usesOf i).reads && !(usesOf i).writes

/-- An early read gives a load the value of an element, whose address depends on no read that has taken its value since (R131 case 3). -/
def Early.serves (e : Early) (u : Uses) (keys : List Nat) : Bool :=
  !keys.isEmpty && keys.all e.keys.contains && !u.addr.any e.xs.contains && !(e.vec && (u.index || u.ps.any (· ≠ 0)))

/-- The early reads that give a load its value, by their places, element by element: they give it the whole of it or nothing. -/
def State.earlyFor (s : State) (i : Instr) : List Nat :=
  if s.slot.early.isEmpty || !mayBeEarly i then []
  else ((s.elemsReached i).mapM fun ks => s.slot.early.findIdx? fun e => e.serves (usesOf i) ks).getD []

/-- Cells of memory as a load is to find them: in their places stand the bytes of early reads, and no write to them is under way. -/
def State.withCells (s : State) (cs : List (Nat × Byte)) : State :=
  { s with
    mem := memWrite s.base s.mem cs
    hidden := s.hidden.map fun h => { h with old := h.old.filter fun c => !(cs.map Prod.fst).contains c.1 } }

/-- Memory and its writes under way as they were, after a load. -/
def State.backTo (t s : State) : State :=
  { t with
    mem := s.mem
    hidden := t.hidden.map fun h => match s.hidden.find? fun g => g.id == h.id with
      | some g => { h with old := g.old }
      | none => h }

/-- A load whose elements all have early values takes those. It has read the writes that they returned (R129, R131). -/
def State.execEarly (s : State) (i : Instr) (ns : List Nat) : State :=
  let got := (s.elemsReached i).zip (ns.filterMap fun n => s.slot.early[n]?)
  let cells := got.flatMap fun p => (p.2.keys.zip p.2.bytes).filter fun c => p.1.contains c.1
  let t := (stateOf (exec i (s.withCells cells)) s).backTo s
  if (t.slotOf s.cur.core s.cur.slot).instret = s.slot.instret then t
  else (got.foldl (fun t p => t.noteSpan s.agent p.1 p.2.ids) t).noteIds s.agent (got.flatMap fun p => p.2.ids)

/-- The effect of an instruction on its own. -/
def State.effect (s : State) (i : Instr) : State :=
  match s.earlyFor i with
  | [] => stateOf (exec i s) s
  | ns => s.execEarly i ns

/-- An instruction before which no later access takes its value: an atomic with aq set (R131 case 6), a `waitm` (R133), a `cbar` (R151), and
a command, whose interlock acts at once (R255). -/
def endsEarly (i : Instr) : Bool :=
  match i with
  | .waitm .. | .cbar | .cmd .. => true
  | i => acquires i

/-- An early read with some registers among those that depend on a read that has taken its value since, or no longer among them. -/
def Early.mark (e : Early) (n : Names) (vec late : Bool) : Early :=
  if late then { e with xs := (n.xs ++ e.xs).dedup, vec := e.vec || vec }
  else { e with xs := e.xs.filter fun r => !n.xs.contains r }

/-- What an instruction leaves of an early read, `newer` if it has itself taken a value of memory since that read: none where it has
accessed a byte of it (R128, R131 cases 1 and 2), and otherwise what its results depend on follows from its operands. -/
def Early.past (e : Early) (i : Instr) (keys : List Nat) (newer : Bool) : Option Early :=
  let u := usesOf i
  if newer && keys.any e.keys.contains then none
  else
    let late := if u.reads then newer
      else u.xs.any e.xs.contains || (e.vec && (!u.vs.isEmpty || u.ps.any (· ≠ 0)))
    some (e.mark (namesOf i) (u.vd.isSome || u.pd.isSome || u.vout) late)

/-- The early reads of the slot `s.cur` after an instruction that turned `s` into `t`. -/
def State.earlyAfter (s t : State) (i : Instr) : State :=
  let c := s.cur.core
  let k := s.cur.slot
  if (t.slotOf c k).early.isEmpty then t
  else if endsEarly i then t.modSlotOf c k fun sl => { sl with early := [] }
  else
    let used := s.earlyFor i
    let keys := s.bytesReached i
    t.modSlotOf c k fun sl =>
      { sl with early := sl.early.zipIdx.filterMap fun p => p.1.past i keys (used.isEmpty || used.any fun n => decide (p.2 ≤ n)) }

/-- A read takes its value early: the bytes at an address as its slot sees them now, each write that it returns being visible from now on
throughout the smallest instance with its writer and the slot (R129). Registers that depend on a write not yet visible to all count as
if their reads came after it. -/
def execEarlyRead (c k va n : Nat) (s : State) : Out :=
  .next <|
    let k := slotIx k
    let sl := s.slotOf c k
    let ag := Agent.slot c k.val
    if sl.live && sl.wait == .none && sl.behind.isNone && [1, 2, 4, 8].contains n && va % n == 0 && (firstInterlock s c va n).isNone then
      match resolve s c .load va n with
      | .keys ks =>
        let keys := realKeys ks
        if keys.length ≠ n || (s.badRead ag keys).isSome then s
        else
          let ids := (returnedIds s ag keys).dedup
          (ids.foldl (fun s i => s.readBy ag i) s).modSlotOf c k fun sl =>
            { sl with early := sl.early ++ [⟨keys, s.readKeys ag keys, ids, sl.flow.x.keys.map (BitVec.ofNat 5), !sl.flow.vec.isEmpty⟩] }
      | _ => s
    else s

/-! ### What an instruction needs of those under way -/

/-- `lr` and `sc`, which act on the slot's reservation (R80). -/
def reserves (i : Instr) : Bool :=
  match i with
  | .lrW .. | .lrD .. | .scW .. | .scD .. => true
  | _ => false

/-- An instruction that acts on everything before it: the end of an activation, a `cbar` (R151), a `gtrig` (R226), an instruction fence
(R137), and a release (R131 case 6). -/
def needsAll (i : Instr) : Bool :=
  match i with
  | .exit | .exitSucc _ | .cbar | .gtrig | .fenceI .. | .ifenceS _ => true
  | i => releases i

/-- A byte of a loft. -/
def isLoftKey (key : Nat) : Bool := key / 2 ^ 64 % 16 == 3

/-- An instruction under way is to write something that another one reads. -/
def Flight.feeds (f : Flight) (u : Uses) : Bool :=
  u.xs.any f.names.xs.contains || u.vs.any f.names.vs.contains || u.ps.any f.names.ps.contains

/-- Two instructions act on a common port, whose accesses keep their order (R84). -/
def Flight.onPort (f : Flight) (i : Instr) : Bool := (namesOf i).ports.any f.names.ports.contains

/-- An instruction comes after one under way whatever its registers: they touch a common byte (R131 cases 1 and 2), it is a release, or both
act on the reservation. -/
def Flight.orders (f : Flight) (s : State) (i : Instr) : Bool :=
  needsAll i || (reserves i && reserves f.instr) || (!f.names.keys.isEmpty && (s.bytesReached i).any f.names.keys.contains)

/-- An instruction cannot take effect before one under way: it needs what that one writes, or writes it itself, or comes after it; a command
comes after the accesses of a loft (R255). -/
def Flight.stops (f : Flight) (s : State) (i : Instr) : Bool :=
  let n := namesOf i
  f.feeds (usesOf i) || f.feeds { xs := n.xs, vs := n.vs, ps := n.ps } || f.onPort i || f.orders s i ||
    ((usesOf i).cmd && f.names.keys.any isLoftKey)

/-! ### Landing -/

/-- What is under way of a slot comes to know what an instruction has written: those after it, up to the next that writes the same, and
what is left of it for the slot's own registers. -/
def handOn (w : Written) (vec : List Nat) : List Flight → Written × List Flight
  | [] => (w, [])
  | f :: fs =>
    let r := handOn (w.less [.ran ⟨f.names.xs.map fun r => (r, 0, []), f.names.vs.map fun r => (r, 0), f.names.ps.map fun r => (r, 0)⟩])
      vec fs
    (r.1, { f with regs := f.regs.put w, flow := { f.flow with vec := (vec ++ f.flow.vec).dedup } } :: r.2)

/-- A fence that names an instruction under way names instead what it has read and written. -/
def Owed.landed (o : Owed) (id : Nat) (got wrote : List Nat) : Owed :=
  if o.flights.contains id then
    { o with
      flights := o.flights.filter (· ≠ id)
      ids := o.ids ++ (if o.reads then got else []) ++ if o.writes then wrote else [] }
  else o

/-- The current slot `sl` after an instruction of it that was under way has taken effect in `v`: with what that one has written, and all
else as it was. -/
def Slot.landed (sl v : Slot) (f : Flight) (got wrote : List Nat) : Slot :=
  let before := sl.flights.takeWhile fun g => g.id ≠ f.id
  let r := handOn (v.regs.written f.names) v.flow.vec ((sl.flights.dropWhile fun g => g.id ≠ f.id).drop 1)
  let out := v.withRegs (sl.regs.put r.1)
  { out with
    instret := sl.instret, amoscope := sl.amoscope, wait := sl.wait
    flow := { sl.flow with x := out.flow.x, vec := (v.flow.vec ++ sl.flow.vec).dedup }
    flights := before ++ r.2
    owed := sl.owed.map fun o => o.landed f.id got wrote
    early := (sl.early.filter fun e => !f.names.keys.any e.keys.contains).map fun e =>
      e.mark f.names (!f.names.vs.isEmpty || !f.names.ps.isEmpty || !f.names.ports.isEmpty) true }

/-- An instruction under way takes effect, at its own place: it lands, or it traps, or its slot waits for the reply to its page fault (R92);
where it can do none of this now, it stays under way. -/
def State.landNow (s : State) (f : Flight) : State :=
  let sl := s.slot
  let u := (s.modSlot fun sl => { sl.withRegs f.regs with
    flow := { f.flow with x := f.regs.fx }, amoscope := f.scope, wait := .none, owed := [], early := [] }).before f.instr
  let q := stateOf (exec f.instr u) u
  let t := u.after q f.instr
  let v := t.slot
  if !v.live then t
  else if v.instret ≠ sl.instret then
    let wrote := (q.hidden.filter fun h => h.writer == s.agent && decide (s.nextId ≤ h.id)).map Hidden.id
    t.modSlot fun v => sl.landed v f (readBetween s.agent u q) wrote
  else match v.wait with
    | .page _ => if sl.wait == .none then t.modSlot fun v => { sl with wait := v.wait } else s
    | _ => s

/-- A fence's first set is performed but for what it owes of writes: nothing of it is under way. -/
def State.payable (s : State) (o : Owed) : Bool :=
  !(s.slot.flights.any fun f => o.flights.contains f.id) && !(s.net.any fun m => o.msgs.contains m.id && match o.view with
    | .within sc _ => msgIn s sc m
    | _ => true)

/-- An instruction under way lands, after those that come before it and once what the fences before it owe is performed; the first number
bounds how many come before one another. -/
def State.land : Nat → State → Nat → State
  | 0, s, _ => s
  | n + 1, s, id =>
    match s.slot.flights.find? fun f => f.id == id with
    | none => s
    | some f =>
      let due := s.slot.owed.filter fun o => f.fences.contains o.id
      let s := (f.olds ++ due.flatMap Owed.flights).foldl (fun s o => s.land n o) s
      match s.slot.flights.find? fun f => f.id == id with
      | none => s
      | some f =>
        let due := s.slot.owed.filter fun o => f.fences.contains o.id
        if (s.slot.flights.any fun g => f.olds.contains g.id) || due.any fun o => !s.payable o then s
        else (s.pay due).landNow f

/-- Those of the instructions under way in the current slot that a test names land, if they can. -/
def State.landThese (s : State) (p : Flight → Bool) : State :=
  (s.slot.flights.filter p).foldl (fun s f => s.land s.slot.flights.length f.id) s

/-- Every instruction under way in the current slot lands, if it can. -/
def State.landAll (s : State) : State := s.landThese fun _ => true

/-- Every instruction under way lands, if it can, and no early read stays: a move is to come that is no matter of the order of accesses. -/
def State.landEverywhere (s : State) : State :=
  s.cores.keys.foldl (fun s c => ([0, 1, 2, 3] : List (Fin 4)).foldl (fun s k =>
    let sl := s.slotOf c k
    if sl.flights.isEmpty && sl.early.isEmpty then s
    else { { s with cur := ⟨c, k⟩ }.landAll.modSlotOf c k fun sl => { sl with early := [] } with cur := s.cur }) s) s

/-- An instruction of a slot that is under way lands. -/
def execFlightLand (c k id : Nat) (s : State) : Out :=
  .next { { s with cur := ⟨c, slotIx k⟩ }.land (s.slotOf c (slotIx k)).flights.length id with cur := s.cur }

/-- The first set of a fence that has retired is performed, before an access of its second set asks for it (R134, R154). -/
def execFencePaid (c k id : Nat) (s : State) : Out :=
  .next <|
    let u := { s with cur := ⟨c, slotIx k⟩ }
    { u.pay (u.slot.owed.filter fun o => o.id == id && u.payable o) with cur := s.cur }

/-! ### Running an instruction -/

/-- Before an instruction of the current slot, what it needs lands, and what its fences owe of those under way. -/
def State.readyFor (s : State) (i : Instr) : State :=
  let s := if s.slot.flights.isEmpty then s else s.landThese fun f => f.stops s i
  ((s.dues i).flatMap Owed.flights).foldl (fun s id => s.land s.slot.flights.length id) s

/-- Nothing under way keeps an instruction of the current slot. -/
def State.mayRun (s : State) (i : Instr) : Bool :=
  slotReady s s.cur.core s.cur.slot && !(s.slot.flights.any fun f => f.stops s i) && (s.dues i).all s.payable

/-- The current slot runs an instruction: one that reads a register in error traps with UNCORR, 0 as its value, before any check of its
own (R101); otherwise `exec` is its effect, with the orders of R131, R134 and R154 before it, and its dependencies after it. It stalls
while something under way keeps it. DEDUCED (assumption 19). -/
def State.runInstr (s : State) (i : Instr) : State :=
  let s := s.readyFor i
  if !s.mayRun i then s
  else match s.regError i with
    | some b => s.trapUncorr b 0
    | none =>
      let u := s.before i
      u.earlyAfter (u.after (u.effect i) i) i

/-- An instruction that works on registers alone. -/
def isPlain (i : Instr) : Bool :=
  let u := usesOf i
  (u.xd.isSome || u.vd.isSome || u.pd.isSome) && !u.reads && !u.writes && !u.net && !u.posts && !u.cmd && !u.ctl &&
    (csrOf i).isNone && (namesOf i).ports.isEmpty && match i with
      | .jal .. | .waitm .. | .jpoll .. | .chmask .. | .chpend .. | .credAdd .. | .credFadd .. | .credMin .. | .credMax .. | .cbc ..
      | .cxch .. => false
      | _ => true

/-- An instruction may take effect later than its turn: an access of memory but for an atomic with aq set, which later accesses must not
pass (R131 case 6), and one that works on registers alone. -/
def mayFly (i : Instr) : Bool := (((usesOf i).reads || (usesOf i).writes) && !acquires i) || isPlain i

/-- An instruction of the current slot retires and is under way from now on, where it would retire if it ran now. Its address is known, and
what it needs else comes before it; one that works on registers alone needs something that is under way. -/
def State.takeOff (s : State) (i : Instr) : Option State :=
  let s := s.landThese fun f => addrNeeds f.names i || f.onPort i
  if s.slot.flights.any (fun f => addrNeeds f.names i || f.onPort i) || (s.regError i).isSome || s.slot.pfx.isSome ||
      s.slot.behind.isSome || !mayFly i then none
  else
    let u := usesOf i
    let olds := (s.slot.flights.filter fun f => f.feeds u || f.orders s i).map Flight.id
    let t := stateOf (exec i s) s
    if (isPlain i && olds.isEmpty) || !t.slot.live || t.slot.instret = s.slot.instret then none
    else
      let f : Flight :=
        { id := s.nextId, instr := i, regs := s.slot.regs, flow := s.slot.flow, scope := s.slot.amoscope
          names := { namesOf i with keys := s.bytesReached i }, reads := u.reads, writes := u.writes, olds := olds
          fences := (s.dues i).map Owed.id }
      some { s.modSlot fun sl => { sl.retire with
               flights := sl.flights ++ [f]
               early := sl.early.map fun e => e.mark f.names (u.vd.isSome || u.pd.isSome) true } with
             nextId := s.nextId + 1 }

/-- A run of the current slot that ends its activation has everything that is under way before it. -/
def State.whole (s : State) (run : State → State) : State :=
  let t := run s
  if (t.slotOf s.cur.core s.cur.slot).live || s.slot.flights.isEmpty then t
  else
    let u := s.landAll
    if slotReady u s.cur.core s.cur.slot && u.slot.flights.isEmpty then run u else u

end Sys2Proof.Machine
end

