-- ==== Sys2Proof/Machine/Issue.lean ====
section
/-!
DEFINITION. The issue of an instruction by a core: arbitration among its slots (R58), the fetch (R90, R96, R136), the budget (R63)
and the prefix (R97) on the way to `exec`; and the time that every step takes.
-/
namespace Sys2Proof.Machine

/-- An instruction of a slot has issued: it has retired, or its slot has trapped, ended or begun to wait. One that only stalls is
not ready. -/
def issued (s t : State) (c : Nat) (k : Fin 4) : Bool :=
  (t.slotOf c k).instret != (s.slotOf c k).instret || !slotReady t c k

/-! ### Fetch -/

/-- What a fetch comes to: a word, with the state in which it stands in the fetch buffer, or the state in which it has trapped or
blocked its slot. -/
inductive Fetched where
  | word (s : State) (w : BitVec 32)
  | stop (s : State)

/-- The word at some keys, as the fetch path of a core reads it. -/
def fetchAt (s : State) (c : Nat) (ks : List (Option Nat)) : BitVec 32 :=
  wordOfBytes (s.readRes (.fetch c) ks)

/-- The words that a refill takes from an address on: up to 8, ending before the first that cannot be fetched, or whose bytes are in
error (R96). DEDUCED (assumption 79). -/
def refill (s : State) (c : Nat) : Nat → BitVec 48 → List (BitVec 48 × BitVec 32)
  | 0, _ => []
  | n + 1, pc =>
    match resolve s c .fetch pc.toNat 4 with
    | .keys ks =>
      if (s.badRead (.fetch c) (realKeys ks)).isSome then []
      else (pc, fetchAt s c ks) :: refill s c n (pc + 4)
    | _ => []

/-- The fetch of a page that is not there, or may not be executed (R90, R92, R96). -/
def State.fetchFault (s : State) (va : Nat) : State :=
  match s.leafFor s.cur.core true (va / 0x10000) with
  | some l =>
    if l.state == .present && !l.x then s.trap causeNoexec (BitVec.ofNat 64 va) else s.pageFault .fetch va
  | none => s.pageFault .fetch va

/-- The fetch of the current slot's next word: from its fetch buffer, or by a refill of it (R96). DESIGN CHOICE (assumption 12). -/
def State.fetch (s : State) : Fetched :=
  let c := s.cur.core
  let pc := s.slot.pc
  match s.slot.fbuf.find? fun e => e.1 == pc with
  | some e => .word s e.2
  | none =>
    match winOf pc.toNat with
    | .none => .stop (s.trap causeAccess s.slot.pcW)
    | .bay _ | .granary _ | .loft _ | .alias_ .. => .stop (s.trap causeNoexec s.slot.pcW)
    | _ =>
      let s := s.touchPages c true (pagesOf pc.toNat 4)
      match resolve s c .fetch pc.toNat 4 with
      | .keys ks =>
        match s.badRead (.fetch c) (realKeys ks) with
        | some b => .stop (s.trapUncorr b s.slot.pcW)
        | none => .word (s.modSlot fun sl => { sl with fbuf := refill s c 8 pc }) (fetchAt s c ks)
      | .fault b => .stop (s.fetchFault b)
      | _ => .stop (s.trap causeAccess s.slot.pcW)

/-! ### The word -/

/-- The word is of custom-1 form space F, which alone may follow a prefix (R97). -/
def inFormF (w : BitVec 32) : Bool := w.extractLsb' 0 7 == 0x2B && w.extractLsb' 27 2 == 3

/-- The prefix itself. -/
def isFmt : Instr → Bool
  | .fmt .. => true
  | _ => false

/-- A word runs: an illegal one, and one that a pending prefix does not permit, takes the illegal-instruction trap (R6, R97). `fmt`
itself sees the prefix. -/
def State.runWord (s : State) (w : BitVec 32) : State :=
  match decode w with
  | none => stateOf (execIllegalInstruction w s) s
  | some i =>
    if s.slot.pfx.isSome && !inFormF w && !isFmt i then stateOf (execIllegalInstruction w s) s
    else s.runInstr i

/-- An instruction that stalls on a port falls behind (R84) once nothing of its slot is under way. -/
def State.comesBehind (s : State) (w : BitVec 32) (i : Instr) : State :=
  if (stalledPort s i).isNone then s
  else
    let t := s.landAll
    if slotReady t t.cur.core t.cur.slot && t.slot.flights.isEmpty then (t.modSlot fun sl => { sl with early := [] }).fallBehind w i
    else t

/-- A word of a slot with nothing behind runs, and falls behind if it stalls on a port (R84). -/
def State.runFirst (s : State) (w : BitVec 32) : State :=
  let t := s.runWord w
  if issued s t s.cur.core s.cur.slot then t
  else match decode w with
    | some i => t.comesBehind w i
    | none => t

/-- A word of a slot with nothing behind takes effect later, if it may, and otherwise runs (R131). -/
def State.runLate (s : State) (w : BitVec 32) : State :=
  match (decode w).bind s.takeOff with
  | some t => t
  | none => s.runFirst w

/-- The oldest instruction that is not done is tried again, at its own place; if it still stalls, the slot is back where it was. -/
def State.runOldest (s : State) : State :=
  let s := s.modSlot fun sl => match sl.atOldest.behind with
    | some b => { sl.atOldest with behind := some { b with mark := sl.instret } }
    | none => sl
  match s.slot.behind.map Behind.items with
  | some (.todo _ w _ :: _) =>
    let t := (s.runWord w).modSlotOf s.cur.core s.cur.slot Slot.catchUp
    if issued s t s.cur.core s.cur.slot then t else t.modSlot Slot.turnBack
  | _ => s

/-- An instruction of the other stream is carried out before its turn; `late` says that its data side is in the stream that stalls. -/
def State.runBefore (s : State) (b : Behind) (i : Instr) (late : Bool) : State :=
  let s := s.modSlot fun sl => { sl with behind := some { b with mark := sl.instret, names := some { namesOf i with late := late } } }
  (s.runInstr i).modSlotOf s.cur.core s.cur.slot Slot.catchUp

/-- A vector memory form of both streams, of which the execute stream stalls: its address side goes on once it has its address. A load
that needs nothing else makes its access, and its data stand behind. Any other load, and a store, stands behind itself, once its access
meets no page fault and no trap. -/
def State.runAddress (s : State) (b : Behind) (w : BitVec 32) (i : Instr) : State :=
  if addrNeeds b.toCome i then s
  else if (usesOf i).reads && !s.needs b.toCome i then s.runBefore b i true
  else
    let t := s.runInstr i
    match t.slot.wait with
    | .page _ => t
    | .interlock _ => s.putBehind b w i
    | _ => if !t.slot.live || t.slot.instret == s.slot.instret then t else s.putBehind b w i

/-- A word of the other stream, while something stands behind: it stands behind as well, waits for what it needs, or runs (R83, R84).
DESIGN CHOICE (assumption 95). -/
def State.runAhead (s : State) (b : Behind) (w : BitVec 32) : State :=
  match decode w with
  | none => s
  | some i =>
    if (b.prefixed || s.slot.pfx.isSome) && !inFormF w && !isFmt i then s
    else if barrier b i then s
    else if b.holds i then
      if b.exec && (streamsOf i).access then s.runAddress b w i else s.putBehind b w i
    else if s.needs b.toCome i then s
    else s.runBefore b i false

/-- The other stream of the current slot goes on; no later instruction traps before what stands behind. -/
def State.goAhead (s : State) : State :=
  match s.slot.behind, s.fetch with
  | some b, .word t w =>
    let t := t.runAhead b w
    if (t.slotOf s.cur.core s.cur.slot).live then t else s
  | _, .stop t => if (t.slotOf s.cur.core s.cur.slot).live then t else s
  | none, _ => s

/-- The current slot comes to its next instruction: a spent budget traps (R63), and otherwise the word fetched runs as `first` has it;
where something stands behind, the oldest instruction of it, or else the next one of the other stream. -/
def State.runNext (first : State → BitVec 32 → State) (s : State) : State :=
  if s.slot.left = 0 then (s.rejoin s.cur.core s.cur.slot).trap causeBudget (s.slot.budget.setWidth 64)
  else
    let s := s.modSlot Slot.catchUp
    match s.slot.behind with
    | none => match s.fetch with
      | .stop t => t
      | .word t w => first t w
    | some _ =>
      let t := s.runOldest
      if issued s t s.cur.core s.cur.slot then t else t.goAhead

/-- The current slot runs its next instruction. -/
def State.runSlot (s : State) : State := s.whole (State.runNext State.runFirst)

/-- The current slot comes to its next instruction, which takes effect later if it may. -/
def State.runSlotLate (s : State) : State := s.whole (State.runNext State.runLate)

/-! ### Arbitration (R58) -/

/-- The order in which the slots of a core are served: slot 3, then the normal slots in round robin. -/
def issueOrder (s : State) (c : Nat) : List (Fin 4) :=
  let t := s.turn.getD c 0
  ([3, slotIx (t % 3), slotIx ((t + 1) % 3), slotIx ((t + 2) % 3)] : List (Fin 4)).filter (slotReady s c)

/-- The first slot of a list whose instruction is ready issues; the state, and that slot. -/
def issueFrom (run : State → State) (c : Nat) : List (Fin 4) → State → State × Option (Fin 4)
  | [], s => (s, none)
  | k :: ks, s =>
    let t := run { s with cur := ⟨c, k⟩ }
    if issued s t c k then (t, some k) else issueFrom run c ks t

/-! ### Time -/

/-- The budget of a slot after some cycles (R63). -/
def Slot.spend (sl : Slot) (n : Nat) : Slot :=
  if sl.live && !uncounted sl.wait then { sl with left := BitVec.ofNat 32 (sl.left.toNat - n) } else sl

/-- A normal slot of a core is ready, so that its cycles are not counted while slot 3 takes the issue (R63): its next instruction
would issue. One that stalls on a job, a queue, a port or a fence is not. -/
def couldIssue (s : State) (c : Nat) (k : Fin 4) : Bool :=
  decide (k.val < 3) && slotReady s c k && issued s ({ s with cur := ⟨c, k⟩ }.runSlot) c k

/-- The slots of a core after some cycles, but for those that `spared` names. -/
def CoreSt.spend (co : CoreSt) (n : Nat) (spared : Fin 4 → Bool) : CoreSt :=
  { co with slots := Vector.ofFn fun k => if spared k then co.slots.get k else (co.slots.get k).spend n }

/-- The arbiters of R146 for which no unit is left begin their passes anew. -/
def State.restArbs (s : State) : State := s.clusters.keys.foldl (fun s cl => (s.restMat cl).restCopy cl) s

/-- A step takes some cycles of each field's clock, how many is open: field times go on (R208), budgets are spent (R63), and
correctable errors are corrected and counted (R101, R156); and arbiters without a unit begin anew (R146). `hi` is a core on which slot 3
has issued. DESIGN CHOICE (assumption 7). -/
def State.tick (s : State) (hi : Option Nat) : State :=
  let s := s.restArbs
  { s with
    fields := (List.range 42).map fun f =>
      (f, { s.field f with time := (s.field f).time + BitVec.ofNat 64 (Config.cycles (s.free + f)) })
    cores := s.cores.map fun p =>
      (p.1, p.2.spend (Config.cycles (s.free + coreField s p.1)) fun k => hi == some p.1 && couldIssue s p.1 k)
    ctl := { s.ctl with corrected := s.ctl.corrected + Config.corrections s.free }
    free := s.free + 42 }

/-- A core issues, one of its slots running as `run` has it. -/
def State.issueBy (run : State → State) (s : State) (c : Nat) : State :=
  let r := issueFrom run c (issueOrder s c) s
  match r.2 with
  | some k =>
    if k = 3 then r.1.tick (some c) else { r.1 with turn := r.1.turn.put c ((k.val + 1) % 3) }.tick none
  | none => r.1.tick none

/-- A core issues. -/
def State.issue (s : State) (c : Nat) : State := s.issueBy State.runSlot c

/-! ### Events -/

/-- The row is an event or a command of an engine, and no instruction of a slot. -/
def isEvent (i : Instr) : Bool :=
  match i with
  | .illegalInstruction _ => false
  | i => (encode i).isNone

/-- A move that no row of the opcode table names. -/
def execInner (e : Inner) (s : State) : Out :=
  match e with
  | .serviceEnd c k => execServiceEnd c k s
  | .serviceEnable c => execServiceEnable c s
  | .recordArrival m => execRecordArrival m s
  | .peerMessage p e c h ws => execPeerMessage p e c h ws s
  | .elementAdd sg entry n => execElementAdd sg entry n s
  | .reeveRest f => execReeveRest f s
  | .rowClose c p => execRowClose c p s
  | .peerCopy p va bs => execPeerCopy p va bs s
  | .earlyRead c k va n => execEarlyRead c k va n s
  | .flightLand c k id => execFlightLand c k id s
  | .fencePaid c k id => execFencePaid c k id s
  | .peerRefusal m => execPeerRefusal m s
  | .queueStatus q => execQueueStatus q s

/-- An event that ends activations, or changes what a page, a register or a byte is: what slots have under way is done before it. -/
def disturbs (i : Instr) : Bool :=
  match i with
  | .budget .. | .faultReply .. | .clusterRoundComplete .. | .scrubError .. | .partitionReset .. | .watchdogReset .. | .contextSwitchOut ..
  | .contextRestore .. | .translationChange .. | .hotnessScan .. | .migrationComplete .. | .thermalMigration .. | .channelRetirement ..
  | .elevatorFailure .. | .cxlPortLoss .. | .injectionRequest .. | .coldBoot .. => true
  | _ => false

/-- A move of the machine. DESIGN CHOICE (assumption 6). -/
def State.run (s : State) (t : Turn) : State :=
  match t with
  | .issue c => s.issue c
  | .late c => s.issueBy State.runSlotLate c
  | .inner e => (s.settle (stateOf (execInner e s) s)).tick none
  | .event i =>
    if isEvent i then
      let s := if disturbs i then s.landEverywhere else s
      (s.settle (stateOf (exec i s) s)).tick none
    else s.tick none

end Sys2Proof.Machine
end

