-- ==== Sys2Proof/Machine/Pending.lean ====
section
/-!
DEFINITION. What may come next: the moves that the agents of the module can make in a state. Requests from outside (of the host, the
owner, the sensors, the peers) are not among them; they come by `sched` alone.
-/
namespace Sys2Proof.Machine

/-- The cores, clusters and supergroups that hold anything. -/
def busyCores (s : State) : List Nat := s.cores.keys
def busyClusters (s : State) : List Nat := (s.clusters.keys ++ (s.cores.keys.map clusterOf)).dedup
def busySgs (s : State) : List Nat := (s.rings.keys ++ (s.cores.keys.map sgOf)).dedup

/-- An event of the opcode table, ready to be applied. -/
abbrev Event := State → Out

/-- An event before which what slots have under way is done. -/
def calmly (e : Event) : Event := fun s => e s.landEverywhere

/-- What a message under way may do. -/
def messageEvents (s : State) (m : Msg) : List Event :=
  match m.body with
  | .chan .. => [execMessageArrival m.id, calmly (execFaultReply m.id), execCopyFaultReply m.id]
  | .static .. => [execStaticRoute m.id]
  | .queueMsg .. => [execReplyRingWrite m.id]
  | .copyReq .. => [execCopyServiceRequest m.id]
  | .peerMsg .. => [execPeerAck m.id, execPeerRefusal m.id]
  | .noEndpoint .. => [execMessageArrival m.id]
  | .reward p .. => (partCores s p).map fun c => execRewardArrival m.id c
  | .flow .. => [execFlowControlReturn m.id]
  | .spawnReq .. => [execSpawnRequest m.id]
  | .spawnAns .. => [execSpawnAnswer m.id]
  | .token .. | .ownJob .. | .passToken _ => [execTokenArrival m.id]
  | .trigger .. => [execActivationTrigger m.id]
  | .fault .. => [execFaultReport m.id]
  | .glaunchReq .. => [execGraphLaunchRequest m.id]
  | .glaunchAns .. => [execGlaunchAnswer m.id]
  | .gcancelReq _ => [execGcancelRequest m.id]
  | .gstatReq .. => [execGstatRequest m.id]
  | .gstatAns .. => [execGstatAnswer m.id]
  | .stealReq .. => [execStealRequest m.id]
  | .stealAns .. => [execStealAnswer m.id]
  | .records .. => [execRecordArrival m.id]

/-- The accesses of a slot that may take place out of their turn: what is under way lands, a fence's first set is performed, and a read takes
its value early. -/
def orderEvents (s : State) (c : Nat) (k : Fin 4) : List Event :=
  (s.slotOf c k).flights.map (fun f => execFlightLand c k.val f.id) ++
    (s.slotOf c k).owed.map (fun o => execFencePaid c k.val o.id) ++
    [execEarlyRead c k.val ((Config.freeWord s.free).toNat % 2 ^ 48) (2 ^ ((Config.freeWord (s.free + 1)).toNat % 4))]

/-- What a core may do beside issuing. -/
def coreEvents (s : State) (c : Nat) : List Event :=
  [execDispatch c, execLass c, execLsweep c, execRewardHold c, execRewardCut c, execSweepStart c,
    execSweepComplete c, execRowClose c ((Config.freeWord s.free).toNat % 4096), execKred c, execKbc c, execLaunchLoad c] ++
    ([0, 1, 2, 3].flatMap fun k =>
      [execExitSendRelease c k, execSuccessorStart c k, execCritOnGrant c k, calmly (execBudget c k), execInterlockRelease c k,
        execServiceEnd c k]) ++ (([0, 1, 2, 3] : List (Fin 4)).flatMap (orderEvents s c)) ++ [execServiceEnable c] ++
    ((s.core c).chans.keys.map fun ch => execWaitmTake c ch) ++
    ([1, 2, 3, 4, 5].flatMap fun k => (s.classQ c k).jobs.map fun j => execJobComplete c k j.id.toNat)

/-- What a cluster may do. -/
def clusterEvents (cl : Nat) : List Event :=
  [execMld cl, execMldt cl, execMst cl, execMma cl, execMzero cl, execMaccSt cl, execCpy cl, execCpyg cl, execCpys cl, execCpyt cl,
    execTaskRecordDelivery cl, execStealProbe cl, execStealBackoff cl, calmly (execClusterRoundComplete cl),
    execTeamResidencyExpiry cl, execTeamSwap cl]

/-- What a ring may do. -/
def ringEvents (s : State) (g : Nat) : List Event :=
  [execRgin g, execRgmatch g, execRggo g, execRgout g, execRgsave g, execRgrest g, execMovesBegin g, execMoveDone g, execHoldDone g,
    execRingSaveAtBoundary g, execRingCancel g] ++ ((List.range 16).flatMap fun st => [execEncounterAccept g st, execPassBy g st]) ++
    ((List.range (s.ring g).entries.length).flatMap fun e =>
      [execEncounterRetire g e, execElementAdd g e (Config.freeWord s.free).toNat])

/-- What the Reeves, collectives, work queues, copies and the controller may do. -/
def fabricEvents (s : State) : List Event :=
  (s.fields.flatMap fun f => f.2.nodes.map fun n => execNodeRetry (f.1 * 65536 + n.1)) ++
    (s.insts.keys.flatMap fun k => [execCollectiveInstance k, execKtime k]) ++
    (s.queues.keys.flatMap fun q => [execQueuePostDelivery q, execWatchdogExpiry q, calmly (execWatchdogReset q)]) ++
    (s.copies.keys.map fun k => execCopyServiceComplete k) ++
    (s.reports.map fun r => execServiceReportSend r.1) ++
    (s.ctl.faults.keys.map fun k => execControllerFaultAnswer k) ++
    (s.parts.flatMap fun p => p.2.pages.leaves.map fun e => calmly (execMigrationComplete p.1 e.1)) ++
    (s.fields.keys.map fun f => calmly (execThermalMigration f)) ++ (s.fields.keys.map fun f => execReeveRest f) ++
    (s.queues.filterMap fun q => if q.2.expired.isSome then q.2.bind.map fun b => calmly (execContextSwitchOut b.part) else none) ++
    s.hidden.map fun h => execWritePerformed h.id .all

/-- The events that may come of themselves. -/
def ownEvents (s : State) : List Event :=
  s.net.flatMap (messageEvents s) ++ (busyCores s).flatMap (coreEvents s) ++ (busyClusters s).flatMap clusterEvents ++
    (busySgs s).flatMap (ringEvents s) ++ fabricEvents s

/-- An event is enabled: it would change something. -/
def changes (s : State) (f : Event) : Bool := decide (stateOf (f s) s ≠ s)

/-- The moves that may come next: an issue of a core, of either kind, or an event, which takes its time. -/
def pending (s : State) : List (State → State) :=
  ((busyCores s).filter fun c => !(issueOrder s c).isEmpty).flatMap (fun c =>
      [fun s => s.issue c, fun s => s.issueBy State.runSlotLate c]) ++
    ((ownEvents s).filter (changes s)).map fun f s => (s.settle (stateOf (f s) s)).tick none

/-- The move of the machine when nothing is settled: the only one that is pending, one of several as `Config.choose` has it, or
none. -/
def State.advance (s : State) : State :=
  match pending s with
  | [] => s.tick none
  | [f] => f s
  | fs =>
    match fs[Config.choose s.free % fs.length]? with
    | some f => f { s with free := s.free + 1 }
    | none => s.tick none

/-- The next state: by the first move of `sched`, or by one that is pending. DESIGN CHOICE (assumption 5). -/
def State.next (s : State) : State :=
  match s.sched with
  | t :: rest => { s with sched := rest }.run t
  | [] => s.advance

/-! ### An instruction placed for the next step -/

/-- The slot of the current core that issues next; the current one if none is ready. -/
def nextSlot (s : State) : Fin 4 := (issueOrder s s.cur.core).headD s.cur.slot

/-- The address at which a word is placed: the slot's own, where that is a word of the TCM. -/
def placeAt (pc : BitVec 48) : BitVec 48 := if pc.toNat % 4 = 0 ∧ pc.toNat + 4 ≤ 0x10000 then pc else 0

/-- A partition of the field of the current core, where there is none: what a core needs to run. -/
def State.withPartition (s : State) : State :=
  if (corePart s s.cur.core).isSome then s
  else
    let f := coreField s s.cur.core
    let p : PartSt :=
      { fields := [f], cap := 0xFFF, guarded := false, watchdog := 2 ^ 26, routes := [], endpoints := [], askFaults := false
        test := false, signed := false, pages := .new ((freshTables s 1).headD 0), images := [], out := false }
    { s with parts := s.parts.put f p }

/-- A word stands where the current core fetches next, and its slot runs. -/
def State.placeWord (s : State) (w : Nat) : State :=
  let s := s.withPartition
  let c := s.cur.core
  let k := nextSlot s
  let pc := placeAt (s.slotOf c k).pc
  let cells := cellsAt ((Place.tcm c).key pc.toNat) (bytesOf 4 w)
  let keys := cells.map Prod.fst
  let s := s.setCells cells
  let s := { s with bad := s.bad.filter fun b => !keys.any fun a => decide (b.key ≤ a) && decide (a < b.key + b.size) }
  { s.modSlotOf c k fun sl =>
      { sl with live := true, wait := .none, pc := pc, pfx := none, fbuf := []
                left := if sl.left = 0 then BitVec.allOnes 32 else sl.left } with
    cur := ⟨c, k⟩, sched := [.issue c] }

end Sys2Proof.Machine
end

