-- ==== Sys2Proof/Safety.lean ====
section
/-!
DEFINITION. The vocabulary in which claims about the machine are stated: what a slot holds after an instruction, what else a step
leaves as it was, and the bytes that an access stores to.
-/
namespace Sys2Proof.Machine

/-- A slot after an instruction that writes `v` to rd (x0 ignores writes), which leaves no error in it (R101), and retires: the next one
is at pc + 4. -/
def Slot.after (sl : Slot) (rd : Reg) (v : Word) : Slot :=
  { sl with
    x := if rd = 0 then sl.x else sl.x.set rd.toNat v, pc := sl.pc + 4, instret := sl.instret + 1
    bad := if rd = 0 then sl.bad else sl.bad.filter fun b => b ≠ offX rd }

/-- A slot after an instruction that writes no x register and retires. -/
def Slot.next (sl : Slot) : Slot := { sl with pc := sl.pc + 4, instret := sl.instret + 1 }

/-- The slot for which `s` acts holds `sl` in `t`; every other slot, and what a core holds beside its slots, is as in `s`. -/
structure SlotIs (s t : State) (sl : Slot) : Prop where
  here : t.slotOf s.cur.core s.cur.slot = sl
  slots : ∀ c k, c ≠ s.cur.core ∨ k ≠ s.cur.slot → t.slotOf c k = s.slotOf c k
  cores : ∀ c, { t.core c with slots := (s.core c).slots } = s.core c

/-- `t` is `s` but for the slot for which `s` acts, which holds `sl`: no other slot, core, cluster, ring, field, partition or queue,
no message, no reservation and no byte of memory has changed. -/
structure OnlySlot (s t : State) (sl : Slot) : Prop extends SlotIs s t sl where
  rest : { t with cores := s.cores } = s

/-- `exec` of the instruction answers a next state that differs from `s` in the current slot alone, which then holds `sl`. -/
def Leaves (i : Instr) (s : State) (sl : Slot) : Prop := ∃ t, exec i s = .next t ∧ OnlySlot s t sl

/-- `exec` of the instruction answers a next state in which rd holds `v`, the instruction has retired, and nothing else has
changed. -/
def Gives (i : Instr) (s : State) (rd : Reg) (v : Word) : Prop := Leaves i s (s.slot.after rd v)

/-- The bytes of memory, in their newest values, are as before but for those of some keys. -/
def SameBytesBut (ks : List Nat) (s t : State) : Prop := ∀ a, a ∉ ks → t.byte a = s.byte a

/-- Every byte of memory, in its newest value, is as before. -/
def SameBytes (s t : State) : Prop := ∀ a, t.byte a = s.byte a

/-- An error stands that an agent meets where it reads the bytes of `reads` and each `writes i` is a write of its own: it is among the
bytes read, or a write covers it in part, so that it is read first (R156). -/
def MeetsError (s : State) (ag : Agent) (reads : Nat → Prop) (writes : Nat → Nat → Prop) : Prop :=
  ∃ b ∈ s.bad, injMatches ag b.cls = true ∧
    let has : Nat → Prop := fun k => b.key ≤ k ∧ k < b.key + b.size
    (∃ k, reads k ∧ has k) ∨ ∃ i, (∃ k, writes i k ∧ has k) ∧ ∃ k, has k ∧ ¬writes i k

/-- A page table as the controller's changes leave it: an entry stands under a pointer at each level above it, a page that is marked as lost
has a leaf, and a 2 MiB leaf names a frame of 2 MiB (R286). -/
structure TidyTable (pt : PageTable) : Prop where
  level2 : ∀ pn, pt.entry2 pn ≠ 0 → isPointer (pt.entry1 pn) = true
  level3 : ∀ pn, pt.entry3 pn ≠ 0 → isPointer (pt.entry2 pn) = true
  level4 : ∀ pn, pt.entry4 pn ≠ 0 → isPointer (pt.entry3 pn) = true
  lost : ∀ pn ∈ pt.lost, ∃ l, leafOf pt pn = some l ∧ l.lost = true ∧ (l.big = true → pn % 32 = 0)
  big : ∀ pn l, leafOf pt pn = some l → l.big = true → l.frame % 32 = 0

/-- In `t` the job of a command at the head of its class has faulted with a cause (R160, R161, Table 5-11): the fault registers and
the faults of the class tell of it, the command has left the queue, the job is none of those that are not complete, and neither a
byte of memory nor a write on its way nor a slot has changed. -/
structure JobFaulted (s t : State) (c cls : Nat) (m : Cmd) (rest : List Cmd) (cause : Nat) : Prop where
  job : (t.core c).fjob = m.job
  why : (t.core c).fcause = BitVec.ofNat 8 cause
  ofClass : (t.core c).fclass = BitVec.ofNat 4 cls
  sticky : (t.core c).fsticky = (s.core c).fsticky ||| BitVec.ofNat 5 (2 ^ (cls - 1))
  queue : (t.classQ c cls).queue = rest
  faults : (t.classQ c cls).faults = (m.job, BitVec.ofNat 8 cause) :: (s.classQ c cls).faults
  ended : ∀ k ∈ (t.classQ c cls).jobs, k.id = m.job → k.faulted = true
  mem : t.mem = s.mem
  lost : t.lost = s.lost
  hidden : t.hidden.map Hidden.id = s.hidden.map Hidden.id
  slots : ∀ d k, t.slotOf d k = s.slotOf d k

end Sys2Proof.Machine
end

