-- ==== Sys2Proof/Certificates/Slice0/Obligations.lean ====
section
/-!
DEFINITION. The statements for the provers: what the instructions and the events of the machine do, what they leave as it was, that
decoding and encoding agree, and the invariant that every step keeps.
-/

section
open Sys2Proof Sys2Proof.Machine

/-! ### The integer register forms -/

/-- R30, R78, Table 5-7a: the forms of OP-IMM, `lui` and `auipc`. Sums are of signed values modulo 2^64, comparisons are of signed or
cardinal values, the logical forms act bit by bit on the sign-extended immediate, and the shifts multiply by, or divide by, a power of 2.
Each writes rd, retires, and changes nothing else. R30, R78, Table 5-7a: the forms of OP. A register shift takes its amount modulo 64.
R30, R78, Table 5-7a: the W forms compute on the low 32 bits and sign-extend the 32-bit result. -/
def Obligations.RegisterFormsGiveTheirResults : Prop :=
  (∀ (s : State) (rd rs : Reg) (imm : BitVec 12) (up : BitVec 20) (sh : BitVec 6),
    Gives (.lui rd up) s rd (BitVec.ofInt 64 (up.toInt * 4096)) ∧
    Gives (.auipc rd up) s rd (BitVec.ofInt 64 (s.slot.pc.toNat + up.toInt * 4096)) ∧
    Gives (.addi rd rs imm) s rd (BitVec.ofInt 64 ((s.rx rs).toInt + imm.toInt)) ∧
    Gives (.slti rd rs imm) s rd (if (s.rx rs).toInt < imm.toInt then 1 else 0) ∧
    Gives (.sltiu rd rs imm) s rd (if (s.rx rs).toNat < (BitVec.ofInt 64 imm.toInt).toNat then 1 else 0) ∧
    Gives (.xori rd rs imm) s rd (BitVec.ofFnLE fun i => (s.rx rs).getLsbD i ^^ (imm.getLsbD (min i 11))) ∧
    Gives (.ori rd rs imm) s rd (BitVec.ofFnLE fun i => (s.rx rs).getLsbD i || (imm.getLsbD (min i 11))) ∧
    Gives (.andi rd rs imm) s rd (BitVec.ofFnLE fun i => (s.rx rs).getLsbD i && (imm.getLsbD (min i 11))) ∧
    Gives (.slli rd rs sh) s rd (BitVec.ofNat 64 ((s.rx rs).toNat * 2 ^ sh.toNat)) ∧
    Gives (.srli rd rs sh) s rd (BitVec.ofNat 64 ((s.rx rs).toNat / 2 ^ sh.toNat)) ∧
    Gives (.srai rd rs sh) s rd (BitVec.ofInt 64 ((s.rx rs).toInt / 2 ^ sh.toNat))) ∧
  (∀ (s : State) (rd rs rt : Reg),
    Gives (.add rd rs rt) s rd (BitVec.ofInt 64 ((s.rx rs).toInt + (s.rx rt).toInt)) ∧
    Gives (.sub rd rs rt) s rd (BitVec.ofInt 64 ((s.rx rs).toInt - (s.rx rt).toInt)) ∧
    Gives (.slt rd rs rt) s rd (if (s.rx rs).toInt < (s.rx rt).toInt then 1 else 0) ∧
    Gives (.sltu rd rs rt) s rd (if (s.rx rs).toNat < (s.rx rt).toNat then 1 else 0) ∧
    Gives (.xor_ rd rs rt) s rd (BitVec.ofFnLE fun i => (s.rx rs).getLsbD i ^^ (s.rx rt).getLsbD i) ∧
    Gives (.or_ rd rs rt) s rd (BitVec.ofFnLE fun i => (s.rx rs).getLsbD i || (s.rx rt).getLsbD i) ∧
    Gives (.and_ rd rs rt) s rd (BitVec.ofFnLE fun i => (s.rx rs).getLsbD i && (s.rx rt).getLsbD i) ∧
    Gives (.sll rd rs rt) s rd (BitVec.ofNat 64 ((s.rx rs).toNat * 2 ^ ((s.rx rt).toNat % 64))) ∧
    Gives (.srl rd rs rt) s rd (BitVec.ofNat 64 ((s.rx rs).toNat / 2 ^ ((s.rx rt).toNat % 64))) ∧
    Gives (.sra rd rs rt) s rd (BitVec.ofInt 64 ((s.rx rs).toInt / 2 ^ ((s.rx rt).toNat % 64)))) ∧
  (∀ (s : State) (rd rs rt : Reg) (imm : BitVec 12) (sh : BitVec 5),
    let lo : Reg → BitVec 32 := fun r => (s.rx r).setWidth 32
    let narrow : Int → Word := fun n => BitVec.ofInt 64 ((BitVec.ofInt 32 n).toInt)
    Gives (.addiw rd rs imm) s rd (narrow ((lo rs).toInt + imm.toInt)) ∧
    Gives (.slliw rd rs sh) s rd (narrow ((lo rs).toNat * 2 ^ sh.toNat)) ∧
    Gives (.srliw rd rs sh) s rd (narrow ((lo rs).toNat / 2 ^ sh.toNat)) ∧
    Gives (.sraiw rd rs sh) s rd (narrow ((lo rs).toInt / 2 ^ sh.toNat)) ∧
    Gives (.addw rd rs rt) s rd (narrow ((lo rs).toInt + (lo rt).toInt)) ∧
    Gives (.subw rd rs rt) s rd (narrow ((lo rs).toInt - (lo rt).toInt)) ∧
    Gives (.sllw rd rs rt) s rd (narrow ((lo rs).toNat * 2 ^ ((lo rt).toNat % 32))) ∧
    Gives (.srlw rd rs rt) s rd (narrow ((lo rs).toNat / 2 ^ ((lo rt).toNat % 32))) ∧
    Gives (.sraw rd rs rt) s rd (narrow ((lo rs).toInt / 2 ^ ((lo rt).toNat % 32))))

/-- R78, Table 5-7a: the multiplications of the M extension, by the exact product of the signed or cardinal operands. R78, Table 5-7a: the
divisions of the M extension round toward zero; a zero divisor gives −1, or 2^64 − 1, as the quotient and the dividend as the remainder;
and no operand traps. -/
def Obligations.ProductsAndDivisionsAreThoseOfTheIntegers : Prop :=
  (∀ (s : State) (rd rs rt : Reg),
    Gives (.mul rd rs rt) s rd (BitVec.ofInt 64 ((s.rx rs).toInt * (s.rx rt).toInt)) ∧
    Gives (.mulh rd rs rt) s rd (BitVec.ofInt 64 ((s.rx rs).toInt * (s.rx rt).toInt / 2 ^ 64)) ∧
    Gives (.mulhsu rd rs rt) s rd (BitVec.ofInt 64 ((s.rx rs).toInt * (s.rx rt).toNat / 2 ^ 64)) ∧
    Gives (.mulhu rd rs rt) s rd (BitVec.ofNat 64 ((s.rx rs).toNat * (s.rx rt).toNat / 2 ^ 64)) ∧
    Gives (.mulw rd rs rt) s rd
      (BitVec.ofInt 64 (BitVec.ofInt 32 (((s.rx rs).setWidth 32).toInt * ((s.rx rt).setWidth 32).toInt)).toInt)) ∧
  (∀ (s : State) (rd rs rt : Reg),
    let a := s.rx rs
    let b := s.rx rt
    let c : BitVec 32 := a.setWidth 32
    let d : BitVec 32 := b.setWidth 32
    let w : BitVec 32 → Word := fun n => BitVec.ofInt 64 n.toInt
    Gives (.div rd rs rt) s rd (if b = 0 then BitVec.ofInt 64 (-1) else BitVec.ofInt 64 (a.toInt.tdiv b.toInt)) ∧
    Gives (.divu rd rs rt) s rd (if b = 0 then BitVec.ofInt 64 (-1) else BitVec.ofNat 64 (a.toNat / b.toNat)) ∧
    Gives (.rem rd rs rt) s rd (if b = 0 then a else BitVec.ofInt 64 (a.toInt.tmod b.toInt)) ∧
    Gives (.remu rd rs rt) s rd (if b = 0 then a else BitVec.ofNat 64 (a.toNat % b.toNat)) ∧
    Gives (.divw rd rs rt) s rd (if d = 0 then BitVec.ofInt 64 (-1) else w (BitVec.ofInt 32 (c.toInt.tdiv d.toInt))) ∧
    Gives (.divuw rd rs rt) s rd (if d = 0 then BitVec.ofInt 64 (-1) else w (BitVec.ofNat 32 (c.toNat / d.toNat))) ∧
    Gives (.remw rd rs rt) s rd (if d = 0 then w c else w (BitVec.ofInt 32 (c.toInt.tmod d.toInt))) ∧
    Gives (.remuw rd rs rt) s rd (if d = 0 then w c else w (BitVec.ofNat 32 (c.toNat % d.toNat))))

/-! ### Jumps, branches and traps -/

/-- R5, R78, Table 5-7a: `jal` and `jalr` write pc + 4 to rd and go to their target; a branch compares, signed or cardinal, and goes to
its target or to pc + 4. A jump or taken branch whose target is not a multiple of 4 traps with MISFETCH, the target as the value, and
writes no link. That a target keeps its low 48 bits as the new pc, and that the whole 64-bit sum is the value of MISFETCH, are the model's
choice (assumption 11). -/
def Obligations.JumpsAndBranchesLinkAndTransfer : Prop :=
  ∀ (s : State) (rd rs rt : Reg) (imm off : BitVec 12) (far : BitVec 20),
    let link : Word := (s.slot.pc + 4).setWidth 64
    let goes : Instr → Reg → Word → Prop := fun i rd target =>
      if target.toNat % 4 = 0 then Leaves i s { s.slot.after rd link with pc := target.setWidth 48 }
      else exec i s = .next (s.trap causeMisfetch target)
    let branches : Instr → Bool → Prop := fun i taken =>
      if taken then goes i 0 (BitVec.ofInt 64 (s.slot.pc.toNat + off.toInt * 2)) else Leaves i s s.slot.next
    goes (.jal rd far) rd (BitVec.ofInt 64 (s.slot.pc.toNat + far.toInt * 2)) ∧
    goes (.jalr rd rs imm) rd (BitVec.ofNat 64 ((BitVec.ofInt 64 ((s.rx rs).toInt + imm.toInt)).toNat / 2 * 2)) ∧
    branches (.beq rs rt off) (decide (s.rx rs = s.rx rt)) ∧
    branches (.bne rs rt off) (decide (s.rx rs ≠ s.rx rt)) ∧
    branches (.blt rs rt off) (decide ((s.rx rs).toInt < (s.rx rt).toInt)) ∧
    branches (.bge rs rt off) (decide ((s.rx rt).toInt ≤ (s.rx rs).toInt)) ∧
    branches (.bltu rs rt off) (decide ((s.rx rs).toNat < (s.rx rt).toNat)) ∧
    branches (.bgeu rs rt off) (decide ((s.rx rt).toNat ≤ (s.rx rs).toNat))

/-- R65, R66, Table 4-7: `ebreak` and an illegal word take a trap. The slot is idle, its sends, ports and prefix gone and its registers as
they were; no byte of memory changes; its reservation is gone; no message stays taken by the slot; its channel is not busy; the first
channel of its chain is disabled, with its pending bit set again if a pending bit started the chain; and, but for a trap of channel 62 on
a service core, a service message with the cause, the core, the slot, `msgid`, the pc and the value is on its way, or waits for an
outbound entry. R227: the channel of a graph activation keeps its enable and pending bits; its task record is discarded, so that its queue
holds what it held but for the entries taken by the slot; and its node is told of the fault. A spawned child or its chain, which has no
first channel, returns nothing: each queue holds what it held but for the entries taken by the slot. R65: the message that started the
trapping activation's chain goes back to the head of the queue of the chain's first channel, held by nobody, where the chain took none by
`waitm`. -/
def Obligations.TrapsEndTheActivationAndReturnItsMessage : Prop :=
  (∀ (s : State) (w : BitVec 32), ∀ p ∈ ([(.ebreak, 0x0F, 0), (.illegalInstruction w, 0x01, w.setWidth 64)] : List (Instr × Nat × Word)),
    let c := s.cur.core
    let k := s.cur.slot
    let word0 : Word := BitVec.ofNat 24 0 ++ BitVec.ofNat 8 p.2.1 ++ BitVec.ofNat 17 c ++ BitVec.ofNat 13 0 ++ BitVec.ofNat 2 k.val
    ∃ t, exec p.1 s = .next t ∧
      t.slotOf c k = s.slot.idle ∧
      (∀ d j, d ≠ c ∨ j ≠ k → t.slotOf d j = s.slotOf d j) ∧
      t.mem = s.mem ∧ t.lost = s.lost ∧
      t.resv = s.resv.filter (fun r => r.core ≠ c ∨ r.slot ≠ k.val) ∧
      (∀ ch, ∀ e ∈ (t.chan c ch).queue, e.taken ≠ some k.val) ∧
      (∀ ch, s.slot.chan = some ch → (t.chan c ch).busy = false) ∧
      (∀ f, s.slot.first = some f → s.slot.task = none →
        (t.chan c f).en = false ∧ (t.chan c f).pend = ((s.chan c f).pend || s.slot.pending)) ∧
      (∀ f g, s.slot.first = some f → s.slot.task = some g →
        (t.chan c f).en = (s.chan c f).en ∧ (t.chan c f).pend = (s.chan c f).pend ∧
          (s.slot.taken = [] → (t.chan c f).queue = (s.chan c f).queue.filter fun e => e.taken ≠ some k.val) ∧
          ∃ m ∈ t.net, m.src = .core c ∧ m.body = .fault g.node (some g.graph) 1 p.2.1) ∧
      (s.slot.first = none → ∀ ch, (t.chan c ch).queue = (s.chan c ch).queue.filter fun e => e.taken ≠ some k.val) ∧
      (c < 2 ^ 17 → ¬(c % 128 = 0 ∧ s.slot.chan = some 62) →
        ∃ m ∈ t.net ++ (t.core c).backlog, m.src = .core c ∧
          m.body = serviceBody (sgOf c) c [word0, s.slot.msgid, s.slot.pc.setWidth 64, p.2.2])) ∧
  (∀ (s : State) (f : Nat) (n : BitVec 32) (e : QEntry),
    s.slot.first = some f → s.slot.trigger = some n → s.slot.task = none → s.slot.taken = [] →
    (s.chan s.cur.core f).queue.find? (fun e => e.seq == n) = some e →
    ∃ t, exec .ebreak s = .next t ∧ (t.chan s.cur.core f).queue.head? = some { e with taken := none })

/-- R82: with room in the outbound buffer, `ecall` puts a service message of cause 0x11, with x10 as its value, on the network and
retires; the message takes an outbound entry. With none it waits: nothing changes. -/
def Obligations.EcallQueuesAServiceMessageAndContinues : Prop :=
  ∀ (s : State),
    let c := s.cur.core
    let ws : List Word := [serviceWord0 0x11 c s.cur.slot.val, s.slot.msgid, s.slot.pc.setWidth 64, s.rx 10]
    if (s.core c).outb.length < 16 then
      ∃ t, exec .ecall s = .next t ∧
        t.net = s.net ++ [⟨s.nextId, .core c, true, false, serviceBody (sgOf c) c ws⟩] ∧
        t.slotOf c s.cur.slot = { s.slot.next with sent := s.nextId :: s.slot.sent } ∧
        (∀ d j, d ≠ c ∨ j ≠ s.cur.slot → t.slotOf d j = s.slotOf d j) ∧
        (∀ d, { t.core d with slots := (s.core d).slots } =
          if d = c then { s.core c with outb := (s.core c).outb ++ [s.nextId] } else s.core d) ∧
        { t with cores := s.cores, net := s.net, nextId := s.nextId } = s
    else exec .ecall s = .next s

/-! ### Loads and stores -/

/-- R78, R79, R88: an aligned load from TCM gives the little-endian bytes of the core's own TCM as its slot sees them, sign- or
zero-extended, and retires. Memory, messages, reservations and every other slot stay; what the load has seen of writes under way (R129) is
all that it adds. It applies where no byte read is in error (R101). -/
def Obligations.LoadsOfTcmGiveTheirBytes : Prop :=
  ∀ (s : State) (rd rs : Reg) (imm : BitVec 12),
    let va : Word := BitVec.ofInt 64 ((s.rx rs).toInt + imm.toInt)
    let key := (Place.tcm s.cur.core).key va.toNat
    let bits : Nat → Nat := fun n => natOfBytes ((List.range n).map fun i => s.readByte s.agent (key + i))
    let loads : Instr → Nat → Word → Prop := fun i n v =>
      va.toNat % n = 0 → va.toNat + n ≤ 0x10000 → s.badRead s.agent ((List.range n).map (key + ·)) = none →
        ∃ t, exec i s = .next t ∧ SlotIs s t (s.slot.after rd v) ∧ { t with cores := s.cores, hidden := s.hidden } = s
    loads (.lb rd rs imm) 1 (BitVec.ofInt 64 (BitVec.ofNat 8 (bits 1)).toInt) ∧
    loads (.lh rd rs imm) 2 (BitVec.ofInt 64 (BitVec.ofNat 16 (bits 2)).toInt) ∧
    loads (.lw rd rs imm) 4 (BitVec.ofInt 64 (BitVec.ofNat 32 (bits 4)).toInt) ∧
    loads (.ld rd rs imm) 8 (BitVec.ofNat 64 (bits 8)) ∧
    loads (.lbu rd rs imm) 1 (BitVec.ofNat 64 (bits 1)) ∧
    loads (.lhu rd rs imm) 2 (BitVec.ofNat 64 (bits 2)) ∧
    loads (.lwu rd rs imm) 4 (BitVec.ofNat 64 (bits 4))

/-- R78, R79, R80, R88: an aligned store to TCM writes the low 1, 2, 4 or 8 bytes of rt, little-endian, to the core's own TCM and retires.
Its own slot reads them; every other byte reads, for every agent, as before; reservations of other granules stay, and those of its granule
go. It applies where no granule that it covers in part is in error (R101). -/
def Obligations.StoresToTcmWriteTheirBytes : Prop :=
  ∀ (s : State) (rt rs : Reg) (imm : BitVec 12),
    let va : Word := BitVec.ofInt 64 ((s.rx rs).toInt + imm.toInt)
    let key := (Place.tcm s.cur.core).key va.toNat
    let stores : Instr → Nat → Prop := fun i n =>
      va.toNat % n = 0 → va.toNat + n ≤ 0x10000 → s.badPart s.agent ((List.range n).map (key + ·)) = none →
        ∃ t, exec i s = .next t ∧ SlotIs s t s.slot.next ∧
          (∀ j < n, t.byte (key + j) = BitVec.ofNat 8 ((s.rx rt).toNat / 256 ^ j) ∧
            t.readByte s.agent (key + j) = BitVec.ofNat 8 ((s.rx rt).toNat / 256 ^ j)) ∧
          (∀ a, a < key ∨ key + n ≤ a → t.byte a = s.byte a ∧ ∀ ag, t.readByte ag a = s.readByte ag a) ∧
          t.resv = s.resv.filter (fun r => r.granule ≠ key / 8) ∧
          { t with cores := s.cores, mem := s.mem, hidden := s.hidden, nextId := s.nextId, resv := s.resv, bad := s.bad } = s
    stores (.sb rt rs imm) 1 ∧ stores (.sh rt rs imm) 2 ∧ stores (.sw rt rs imm) 4 ∧ stores (.sd rt rs imm) 8

/-- R79, R80, R88, R139: a load, store, `lr`, `sc` or AMO at an address outside the alias windows traps with MISALIGN where the address is
not a multiple of its size, and otherwise with ACCESS where any of bits [63:48] is set; each with the address as its value. That MISALIGN
comes first where both hold is stated by R139 for `amo.sc` alone and is the model's choice elsewhere (assumption 19). (An `lr`, `sc` or
AMO with rl first performs what stands before it: those forms are here without rl.) -/
def Obligations.MisalignedAndUnmappedAccessesTrap : Prop :=
  ∀ (s : State) (rd rt rs : Reg) (imm : BitVec 12) (aq : BitVec 1) (sc : BitVec 3),
    let traps : Word → Nat → Instr → Prop := fun va n i =>
      (va.toNat % n ≠ 0 → inAlias va = false → exec i s = .next (s.trap 0x03 va)) ∧
      (va.toNat % n = 0 → 2 ^ 48 ≤ va.toNat → exec i s = .next (s.trap 0x04 va))
    let ea := s.rx rs + imm.signExtend 64
    (∀ i ∈ [Instr.lb rd rs imm, .lbu rd rs imm, .sb rt rs imm], traps ea 1 i) ∧
    (∀ i ∈ [Instr.lh rd rs imm, .lhu rd rs imm, .sh rt rs imm], traps ea 2 i) ∧
    (∀ i ∈ [Instr.lw rd rs imm, .lwu rd rs imm, .sw rt rs imm], traps ea 4 i) ∧
    (∀ i ∈ [Instr.ld rd rs imm, .sd rt rs imm], traps ea 8 i) ∧
    (∀ i ∈ [
      Instr.lrW aq 0 rd rs, .scW aq 0 rd rt rs, .amoswapW aq 0 rd rt rs, .amoaddW aq 0 rd rt rs, .amoxorW aq 0 rd rt rs,
      .amoandW aq 0 rd rt rs, .amoorW aq 0 rd rt rs, .amominW aq 0 rd rt rs, .amomaxW aq 0 rd rt rs, .amominuW aq 0 rd rt rs,
      .amomaxuW aq 0 rd rt rs, .amoScSwapW sc rd rt rs, .amoScAddW sc rd rt rs, .amoScXorW sc rd rt rs, .amoScAndW sc rd rt rs,
      .amoScOrW sc rd rt rs, .amoScMinW sc rd rt rs, .amoScMaxW sc rd rt rs, .amoScMinCW sc rd rt rs, .amoScMaxCW sc rd rt rs,
      .amoScFaddW sc rd rt rs], traps (s.rx rs) 4 i) ∧
    (∀ i ∈ [
      Instr.lrD aq 0 rd rs, .scD aq 0 rd rt rs, .amoswapD aq 0 rd rt rs, .amoaddD aq 0 rd rt rs, .amoxorD aq 0 rd rt rs,
      .amoandD aq 0 rd rt rs, .amoorD aq 0 rd rt rs, .amominD aq 0 rd rt rs, .amomaxD aq 0 rd rt rs, .amominuD aq 0 rd rt rs,
      .amomaxuD aq 0 rd rt rs, .amoScSwapD sc rd rt rs, .amoScAddD sc rd rt rs, .amoScXorD sc rd rt rs, .amoScAndD sc rd rt rs,
      .amoScOrD sc rd rt rs, .amoScMinD sc rd rt rs, .amoScMaxD sc rd rt rs, .amoScMinCD sc rd rt rs, .amoScMaxCD sc rd rt rs], traps (s.rx rs) 8 i)

/-- The frame of the scalar stores in every window: whatever state they answer, each byte outside those that the checks of the access
resolve (the unit's bytes in the alias windows, R247, R249) is as before, in its newest value. A store that traps, faults or waits changes
none. The frame of the forms that store nothing: loads, `lr`, jumps, `ecall`, `ebreak`, `fmt`, the CSR forms and the fences leave every
byte of memory as it was, in its newest value, also where they trap, fault or wait. -/
def Obligations.OnlyStoresChangeMemory : Prop :=
  (∀ (s t : State) (rt rs : Reg) (imm : BitVec 12),
    let va := s.rx rs + sext12 imm
    let stored : Nat → List Nat := fun n => match s.prepare .store va n with
      | .keys _ ks => realKeys ks
      | .alias_ _ w o => aliasKeys s.cur.core w o
      | .stop _ => []
    (exec (.sb rt rs imm) s = .next t → SameBytesBut (stored 1) s t) ∧
    (exec (.sh rt rs imm) s = .next t → SameBytesBut (stored 2) s t) ∧
    (exec (.sw rt rs imm) s = .next t → SameBytesBut (stored 4) s t) ∧
    (exec (.sd rt rs imm) s = .next t → SameBytesBut (stored 8) s t)) ∧
  (∀ (s t : State) (rd rs rt : Reg) (imm csr : BitVec 12) (far : BitVec 20) (a b : BitVec 1) (f g h : BitVec 4) (tab rm : BitVec 2)
    (sc : BitVec 3),
    ∀ i ∈ [Instr.lb rd rs imm, .lh rd rs imm, .lw rd rs imm, .ld rd rs imm, .lbu rd rs imm, .lhu rd rs imm, .lwu rd rs imm,
      .lrW a b rd rs, .lrD a b rd rs, .jal rd far, .jalr rd rs imm, .beq rs rt imm, .bne rs rt imm, .blt rs rt imm,
      .bge rs rt imm, .bltu rs rt imm, .bgeu rs rt imm, .ecall, .ebreak, .fmt f g tab rm rs tab, .csrrw rd csr rs,
      .csrrs rd csr rs, .csrrc rd csr rs, .csrrwi rd csr rs, .csrrsi rd csr rs, .csrrci rd csr rs, .fence f g h rs rd,
      .fenceTso rs rd, .fenceI imm rs rd, .fenceS sc a b a b, .ifenceS sc],
      exec i s = .next t → SameBytes s t)

/-! ### Atomics -/

/-- R78, R139, R140, Table 5-7a: an atomic on an aligned TCM address gives rd the old value, sign-extended, and stores the sum, swap,
logical result, or signed or cardinal extreme of the old value and rt; no other byte changes. The forms of the A extension act at
partition scope, those of `amo.sc` at the scope of their field, or of `amoscope` where the field is 111. The old value is the newest value
less the writes that do not bind the atomic at its scope: what those are (`State.atomByte`), and that nothing falls between the read and
the write of mutually atomic forms, is the model's choice (assumption 21). It applies where the bytes are not in error (R101) and, with
rl, no earlier message of the slot is under way (R131); an atomic with rl performs what stands before it first. -/
def Obligations.AtomicsUpdateTcmIndivisibly : Prop :=
  ∀ (s : State) (aq rl : BitVec 1) (sc : BitVec 3) (rd rt rs : Reg),
    let va := s.rx rs
    let key := (Place.tcm s.cur.core).key va.toNat
    let first := if rl = 1 then s.performSlot true true s.partView else s
    let own := scopeOfCode (if sc = 7 then s.slot.amoscope else sc)
    let old : (n : Nat) → State → Scope → BitVec (8 * n) := fun n u sp =>
      BitVec.ofNat (8 * n) (natOfBytes ((List.range n).map fun j => u.atomByte s.agent sp (key + j)))
    let amo : (n : Nat) → (BitVec (8 * n) → BitVec (8 * n) → BitVec (8 * n)) → State → Scope → Instr → Prop := fun n f u sp i =>
      let new := f (old n u sp) ((s.rx rt).setWidth (8 * n))
      ∃ t, exec i s = .next t ∧ SlotIs s t (s.slot.after rd ((old n u sp).signExtend 64)) ∧
        (∀ j < n, t.byte (key + j) = BitVec.ofNat 8 (new.toNat / 256 ^ j)) ∧
        (∀ a, a < key ∨ key + n ≤ a → t.byte a = s.byte a) ∧
        { t with cores := s.cores, mem := s.mem, hidden := s.hidden, nextId := s.nextId, resv := s.resv, bad := s.bad } = s
    let both : (n : Nat) → (BitVec (8 * n) → BitVec (8 * n) → BitVec (8 * n)) → Instr → Instr → Prop := fun n f i j =>
      amo n f first .part i ∧ amo n f s own j
    (rl = 1 → s.sendsOut .part = false) →
    (va.toNat % 4 = 0 → va.toNat + 4 ≤ 0x10000 → s.badRead s.agent ((List.range 4).map (key + ·)) = none →
      both 4 (fun _ z => z) (.amoswapW aq rl rd rt rs) (.amoScSwapW sc rd rt rs) ∧
      both 4 (fun o z => BitVec.ofNat _ (o.toNat + z.toNat)) (.amoaddW aq rl rd rt rs) (.amoScAddW sc rd rt rs) ∧
      both 4 (fun o z => o ^^^ z) (.amoxorW aq rl rd rt rs) (.amoScXorW sc rd rt rs) ∧
      both 4 (fun o z => o &&& z) (.amoandW aq rl rd rt rs) (.amoScAndW sc rd rt rs) ∧
      both 4 (fun o z => o ||| z) (.amoorW aq rl rd rt rs) (.amoScOrW sc rd rt rs) ∧
      both 4 (fun o z => if o.toInt < z.toInt then o else z) (.amominW aq rl rd rt rs) (.amoScMinW sc rd rt rs) ∧
      both 4 (fun o z => if o.toInt < z.toInt then z else o) (.amomaxW aq rl rd rt rs) (.amoScMaxW sc rd rt rs) ∧
      both 4 (fun o z => if o.toNat < z.toNat then o else z) (.amominuW aq rl rd rt rs) (.amoScMinCW sc rd rt rs) ∧
      both 4 (fun o z => if o.toNat < z.toNat then z else o) (.amomaxuW aq rl rd rt rs) (.amoScMaxCW sc rd rt rs) ∧
      amo 4 (fun o z => BitVec.ofNat _ (fadd32 o.toNat z.toNat)) s own (.amoScFaddW sc rd rt rs)) ∧
    (va.toNat % 8 = 0 → va.toNat + 8 ≤ 0x10000 → s.badRead s.agent ((List.range 8).map (key + ·)) = none →
      both 8 (fun _ z => z) (.amoswapD aq rl rd rt rs) (.amoScSwapD sc rd rt rs) ∧
      both 8 (fun o z => BitVec.ofNat _ (o.toNat + z.toNat)) (.amoaddD aq rl rd rt rs) (.amoScAddD sc rd rt rs) ∧
      both 8 (fun o z => o ^^^ z) (.amoxorD aq rl rd rt rs) (.amoScXorD sc rd rt rs) ∧
      both 8 (fun o z => o &&& z) (.amoandD aq rl rd rt rs) (.amoScAndD sc rd rt rs) ∧
      both 8 (fun o z => o ||| z) (.amoorD aq rl rd rt rs) (.amoScOrD sc rd rt rs) ∧
      both 8 (fun o z => if o.toInt < z.toInt then o else z) (.amominD aq rl rd rt rs) (.amoScMinD sc rd rt rs) ∧
      both 8 (fun o z => if o.toInt < z.toInt then z else o) (.amomaxD aq rl rd rt rs) (.amoScMaxD sc rd rt rs) ∧
      both 8 (fun o z => if o.toNat < z.toNat then o else z) (.amominuD aq rl rd rt rs) (.amoScMinCD sc rd rt rs) ∧
      both 8 (fun o z => if o.toNat < z.toNat then z else o) (.amomaxuD aq rl rd rt rs) (.amoScMaxCD sc rd rt rs))

/-- R80: `lr` on an aligned TCM address gives the value that an atomic of partition scope reads there, sign-extended, and leaves the slot
the one reservation of its granule. `sc` stores its operand and gives 0 where the slot's reservation is on the granule, and otherwise
gives 1 and changes no byte; the slot holds no reservation after it. Which value that read returns (`State.atomByte`), and that `sc` acts
on it indivisibly, is the model's choice (assumption 21), and so is that rl of `lr` and aq of `sc` order too (assumption 122). They apply
where the bytes are not in error (R101) and, with rl, no earlier message of the slot is under way (R131); with rl they perform what stands
before them first. -/
def Obligations.ReservationsPairLrWithSc : Prop :=
  ∀ (s : State) (aq rl : BitVec 1) (rd rt rs : Reg) (n : Nat),
    let va := s.rx rs
    let c := s.cur.core
    let key := (Place.tcm c).key va.toNat
    let mine : Reservation → Bool := fun r => decide (r.core = c ∧ r.slot = s.cur.slot.val)
    let ks := (List.range n).map (key + ·)
    let first := if rl = 1 then s.performSlot true true s.partView else s
    let lr := if n = 4 then Instr.lrW aq rl rd rs else .lrD aq rl rd rs
    let sc := if n = 4 then Instr.scW aq rl rd rt rs else .scD aq rl rd rt rs
    n = 4 ∨ n = 8 → va.toNat % n = 0 → va.toNat + n ≤ 0x10000 → s.badRead s.agent ks = none → s.badPart s.agent ks = none →
    (rl = 1 → s.sendsOut .part = false) →
      (∃ t, exec lr s = .next t ∧
        SlotIs s t (s.slot.after rd ((BitVec.ofNat (8 * n) (natOfBytes (ks.map (first.atomByte s.agent .part)))).signExtend 64)) ∧
        t.resv = ⟨c, s.cur.slot.val, key / 8⟩ :: s.resv.filter (fun r => !mine r) ∧
        { t with cores := s.cores, hidden := s.hidden, resv := s.resv } = s) ∧
      (if s.resv.any (fun r => mine r && r.granule == key / 8) then
        ∃ t, exec sc s = .next t ∧ SlotIs s t (s.slot.after rd 0) ∧
          (∀ j < n, t.byte (key + j) = BitVec.ofNat 8 ((s.rx rt).toNat / 256 ^ j)) ∧
          (∀ a, a < key ∨ key + n ≤ a → t.byte a = s.byte a) ∧
          t.resv = (s.resv.filter (fun r => r.granule ≠ key / 8)).filter (fun r => !mine r)
      else
        ∃ t, exec sc s = .next t ∧ SlotIs s t (s.slot.after rd 1) ∧ SameBytes s t ∧
          t.resv = s.resv.filter (fun r => !mine r))

/-! ### Control and status registers -/

/-- R76, R77, Tables 4-3 to 5-11: the Zicsr forms that name x0 or a zero immediate as their source read a CSR into rd and change nothing
else. Each CSR of Table 5-2 reads as its map says, field by field; `chstate` shows, for channel 63, the rewards that wait (R266); `tabdat`
is a word of a T8 table of the core, or 0; `cycle`, `time` and `fieldtime` agree; `cap_hi` is 0. Where instructions stand behind a stalled
stream (assumption 95), `instret` counts in program order (R83). That the rel bit of a channel without a record reads 0 is the model's
choice (assumption 101). R77 and the maps: a Zicsr form that writes gives rd the old value and writes, over the CSR, the source, or the
old value with the source's bits set or cleared. Of that, only the RW fields change: sel of `chstate`, the count of `evdrop`, the spawn
budget, the scope (a write of 7 stores 5), the sticky faults (by ones), `tabsel`, the fields of a tile descriptor, `engwt`, and `rgpat` (0
laps store 4, 0 patience 1). Nothing else of the machine changes but that the instruction retires. That a set or clear form writes the
ones of the old value to the sticky bits too is the model's choice (assumption 121). -/
def Obligations.CsrFormsReadAndWriteTheirFields : Prop :=
  (∀ (s : State) (rd : Reg),
    let c := s.cur.core
    let co := s.core c
    let sl := s.slot
    let bit : Bool → Nat := fun b => if b then 1 else 0
    let reads : BitVec 12 → Word → Prop := fun n v =>
      ∀ i ∈ [Instr.csrrs rd n 0, .csrrc rd n 0, .csrrsi rd n 0, .csrrci rd n 0], Gives i s rd v
    let q := s.chan c sl.sel.toNat
    let rel : Bool := match q.hrec with
      | some r => r.rel
      | none => false
    (sl.sel ≠ 63 → reads 0x800 (BitVec.ofNat 64 (bit q.en + 2 * bit q.pend + 4 * bit rel + 8 * bit q.hrec.isSome +
      16 * bit q.busy + 2 ^ 8 * (q.queue.length % 256) + 2 ^ 16 * sl.sel.toNat))) ∧
    reads 0x801 (q.drops.setWidth 64) ∧
    reads 0x802 (BitVec.ofNat 64 (sl.left.toNat + 2 ^ 32 * sl.spawnb.toNat)) ∧
    reads 0x803 (sl.amoscope.setWidth 64) ∧
    reads 0x804 (BitVec.ofNat 64 (bit co.badc + 2 * co.fsticky.toNat + 2 ^ 36 * co.fclass.toNat + 2 ^ 40 * co.fcause.toNat +
      2 ^ 48 * co.fjob.toNat)) ∧
    reads 0x805 (sl.tabsel.setWidth 64) ∧
    reads 0x808 co.tdesc[0] ∧ reads 0x809 co.tdesc[1] ∧ reads 0x80A co.tdesc[2] ∧ reads 0x80B co.tdesc[3] ∧
    reads 0x810 (co.engwt.setWidth 64) ∧
    reads 0x811 (co.rgpat.setWidth 64) ∧
    reads 0xC00 (s.field (coreField s c)).time ∧
    reads 0xC01 (s.field (coreField s c)).time ∧
    (sl.behind = none → reads 0xC02 sl.instret) ∧
    (∀ b, sl.behind = some b → reads 0xC02 (if b.old then sl.instret - BitVec.ofNat 64 (b.items.countP fun i => !i.isTodo)
      else sl.instret + BitVec.ofNat 64 (b.items.countP Item.isTodo))) ∧
    reads 0xCC0 (BitVec.ofNat 64 (2 ^ 4 * bit sl.pfx.isSome + 2 ^ 8 * bit sl.crit + 2 ^ 10 * s.cur.slot.val + 2 ^ 15 * bit sl.compat)) ∧
    reads 0xCC1 sl.msgid ∧
    reads 0xCC2 sl.baywin ∧
    (c < 2 ^ 17 → posOf s (sgOf c) < 1008 → reads 0xCC3 (BitVec.ofNat 64 (c + 2 ^ 32 * (posOf s (sgOf c) / 24) +
      2 ^ 40 * (posOf s (sgOf c) % 24) + 2 ^ 48 * coreField s c))) ∧
    reads 0xCC4 (s.field (coreField s c)).time ∧
    reads 0xCC5 (BitVec.ofNat 64 (min sl.lq.length 255 + 2 ^ 8 * min sl.sq.length 255 + 2 ^ 16 * min sl.bq.length 255 +
      2 ^ 24 * min sl.aq.length 255)) ∧
    (sl.sel = 63 → reads 0x800 (BitVec.ofNat 64 (4 + 2 ^ 8 * (co.rewards.length % 256) + 2 ^ 16 * 63))) ∧
    (320 < sl.tabsel.toNat % 512 → reads 0xCC6 0) ∧
    (sl.tabsel.toNat % 512 ≤ 320 → reads 0xCC6 (BitVec.ofNat 64 (natOfBytes ((List.range 4).map fun b =>
      s.byte ((Place.table (c * 4 + sl.tabsel.toNat / 512)).key (4 * (sl.tabsel.toNat % 512) + b)))))) ∧
    (∀ p st, corePart s c = some p → s.parts.get? p = some st → reads 0xCC8 st.cap) ∧
    reads 0xCC9 0) ∧
  (∀ (s : State) (rd rs : Reg) (z : BitVec 5) (csr : BitVec 12),
    let c := s.cur.core
    let old := csrRead s csr
    let x := s.rx rs
    let y : Word := z.setWidth 64
    let forms : List (Instr × Word) :=
      [(.csrrw rd csr rs, x), (.csrrwi rd csr z, y)] ++
      (if rs = 0 then [] else [(.csrrs rd csr rs, old ||| x), (.csrrc rd csr rs, old &&& ~~~x)]) ++
      (if z = 0 then [] else [(.csrrsi rd csr z, old ||| y), (.csrrci rd csr z, old &&& ~~~y)])
    ∀ p ∈ forms,
      let v := p.2
      let laps := if v.toNat / 2 ^ 16 % 16 = 0 then 4 else v.toNat / 2 ^ 16 % 16
      let pat := if v.toNat % 2 ^ 16 = 0 then 1 else v.toNat % 2 ^ 16
      let slotIs : Slot → Prop := fun sl => Leaves p.1 s sl
      let coreIs : CoreSt → Prop := fun co => ∃ t, exec p.1 s = .next t ∧
        t.slotOf c s.cur.slot = s.slot.after rd old ∧
        (∀ d k, d ≠ c ∨ k ≠ s.cur.slot → t.slotOf d k = s.slotOf d k) ∧
        (∀ d, { t.core d with slots := (s.core d).slots } = if d = c then co else s.core d) ∧ { t with cores := s.cores } = s
      let desc : Fin 4 → Prop := fun n => coreIs { s.core c with tdesc := (s.core c).tdesc.set n.val (v &&& 0xFF3F7F7F) }
      (csr = 0x800 → slotIs { s.slot.after rd old with sel := v.extractLsb' 16 6 }) ∧
      (csr = 0x801 → ∃ t, exec p.1 s = .next t ∧ t.slotOf c s.cur.slot = s.slot.after rd old ∧
        (∀ ch, t.chan c ch = if ch = s.slot.sel.toNat then { s.chan c ch with drops := v.setWidth 32 } else s.chan c ch) ∧
        (∀ d k, d ≠ c ∨ k ≠ s.cur.slot → t.slotOf d k = s.slotOf d k) ∧
        (∀ d, { t.core d with slots := (s.core d).slots, chans := (s.core d).chans } = s.core d) ∧ { t with cores := s.cores } = s) ∧
      (csr = 0x802 → slotIs { s.slot.after rd old with spawnb := v.extractLsb' 32 32 }) ∧
      (csr = 0x803 → slotIs { s.slot.after rd old with amoscope := if v.extractLsb' 0 3 = 7 then 5 else v.extractLsb' 0 3 }) ∧
      (csr = 0x804 → coreIs { s.core c with
        fsticky := (s.core c).fsticky &&& ~~~(v.extractLsb' 1 5), badc := (s.core c).badc && !v.getLsbD 0 }) ∧
      (csr = 0x805 → slotIs { s.slot.after rd old with tabsel := v.extractLsb' 0 11 }) ∧
      (csr = 0x808 → desc 0) ∧ (csr = 0x809 → desc 1) ∧ (csr = 0x80A → desc 2) ∧ (csr = 0x80B → desc 3) ∧
      (csr = 0x810 → coreIs { s.core c with engwt := v.extractLsb' 0 12 }) ∧
      (csr = 0x811 → coreIs { s.core c with rgpat := BitVec.ofNat 20 (laps * 2 ^ 16 + pat) }))

/-! ### Fences and the prefix -/

/-- R81, R134: a fence retires, changing no byte, and holds back the accesses of its set Q until those of its set P are performed with
respect to its scope's instance. P holds, with PW, the slot's writes that are not yet visible to all, and its messages to the instance
that have left; with PR, the writes that its reads returned; and its instructions that have retired and have yet to take effect. Q holds
later reads with SR, and later writes, spawns, ecalls and, where a send has been buffered since, the end of the activation with SW: so
`fence.s w,r` holds no later store back. A fence with nothing to wait for owes nothing; no read of Q has taken its value before it. Before
an instruction of Q what is owed is visible to every agent of the instance, and while a message of P is under way it does not run. At
system scope a fence waits, whatever it holds, for the slot's messages to peer endpoints (R314). A `fence` with an empty set has no
effect; `fence` and `fence.tso` act at partition scope, where I counts as R and O as W. That what is owed is paid all at once, and that a
message to an agent outside the instance is not waited for, is the model's choice (assumptions 22 and 123). R131: a load of TCM of a slot
with nothing under way may retire and read later: its register and memory are as before, and it is under way. Another load of TCM is kept
back by it if and only if that load needs its register, writes it, or reads the same word; and when it reads, at whatever time, its
register takes the bytes as the slot sees them then, and it is under way no more. No error stands in memory or in the slot (R101), and the
address of the load that reads depends on no write that is not visible to all yet. R10, R137: after `ifence.s`, each write that the slot's
reads see, made by an agent of its scope's set, is visible to the fetch path of the core, and the slot's own fetch buffer is empty;
`fence.i` is `ifence.s.core`. No byte changes, no other slot changes. -/
def Obligations.FencesOrderAndReachTheFetchPath : Prop :=
  (∀ (s : State) (fm p q : BitVec 4) (rs rd : Reg) (imm : BitVec 12) (rt : Reg) (pr pw qr qw : BitVec 1) (code : BitVec 3),
    let fences : Instr → Scope → Bool → Bool → Bool → Bool → Prop := fun i sc reads writes sr sw =>
      if sc == .sys && s.peerOut then exec i s = .next s
      else ∃ (t : State) (o : Owed), exec i s = .next t ∧ { t with cores := s.cores, nextId := s.nextId } = s ∧
        SlotIs s t { s.slot.next with
          early := if sr then [] else s.slot.early
          owed := if o.ids = [] ∧ o.flights = [] ∧ o.msgs = [] then s.slot.owed else s.slot.owed ++ [o] } ∧
        o.view = .within sc s.agent ∧ o.later = ⟨sr, sw, sw, false⟩ ∧ o.sends = s.slot.sends.length ∧
        (∀ n, n ∈ o.ids ↔ ∃ h ∈ s.hidden, h.id = n ∧ (writes = true ∧ h.writer = s.agent ∨ reads = true ∧ s.agent ∈ h.readers)) ∧
        (∀ n, n ∈ o.msgs ↔ writes = true ∧ ∃ m ∈ s.net, m.id = n ∧ n ∈ s.slot.sent ∧ msgIn s sc m = true) ∧
        ∀ n, n ∈ o.flights ↔ ∃ f ∈ s.slot.flights, f.id = n ∧ (f.reads = true ∧ reads = true ∨ f.writes = true ∧ writes = true)
    (if p = 0 ∨ q = 0 then Leaves (.fence fm p q rs rd) s s.slot.next
      else fences (.fence fm p q rs rd) .part (p.getLsbD 3 || p.getLsbD 1) (p.getLsbD 2 || p.getLsbD 0)
        (q.getLsbD 3 || q.getLsbD 1) (q.getLsbD 2 || q.getLsbD 0)) ∧
    fences (.fenceTso rs rd) .part true true true true ∧
    fences (.fenceS code pr pw qr qw) (scopeOfCode code) (pr == 1) (pw == 1) (qr == 1) (qw == 1) ∧
    ∀ o ∈ s.slot.owed,
      (o.holds s.slot (.ld rd rs imm) = o.later.reads ∧ o.holds s.slot (.sd rt rs imm) = o.later.writes ∧
        o.holds s.slot (.spawn rd rs rt) = o.later.net ∧ o.holds s.slot .ecall = o.later.net ∧
        o.holds s.slot .exit = (o.later.net && decide (o.sends < s.slot.sends.length)) ∧ o.holds s.slot (.add rd rs rt) = false) ∧
      ∀ i, o.holds s.slot i = true →
        (∀ sc, o.view = .within sc s.agent → ∀ h ∈ (s.before i).hidden, h.id ∈ o.ids → ∀ ag, inScope s sc s.agent ag = true →
          sees (s.before i) ag h = true) ∧
        (∀ sc, o.view = .within sc s.agent → (∃ m ∈ s.net, m.id ∈ o.msgs ∧ msgIn s sc m = true) → s.slot.flights = [] →
          s.runInstr i = s) ∧
        o ∉ (s.before i).slot.owed) ∧
  (∀ (s : State) (f : Flight) (rd rs : Reg) (imm : BitVec 12),
    let c := s.cur.core
    let addr : (Reg → Word) → Reg → BitVec 12 → Word := fun x rs imm => x rs + imm.signExtend 64
    let inTcm : Word → Prop := fun a => a.toNat % 8 = 0 ∧ a.toNat + 8 ≤ 0x10000
    let key : Word → Nat := fun a => (Place.tcm c).key a.toNat
    let load := Instr.ld rd rs imm
    let named : Flight → (Reg → Word) → Prop := fun f x => f.instr = load ∧
      f.names = { namesOf load with keys := (List.range 8).map (key (addr x rs imm) + ·) }
    s.bad = [] → s.slot.bad = [] → s.slot.live = true → s.slot.wait = .none →
      (s.slot.flights = [] → s.slot.early = [] → s.slot.owed = [] → s.slot.pfx = none → s.slot.behind = none →
        inTcm (addr s.rx rs imm) → ∃ t g, s.takeOff load = some t ∧ named g s.rx ∧ g.olds = [] ∧ g.fences = [] ∧
          g.regs = s.slot.regs ∧ SlotIs s t { s.slot.next with flights := [g] } ∧
          { t with cores := s.cores, nextId := s.nextId } = s) ∧
      (∀ x, named f x → ∀ (rd' rs' : Reg) (imm' : BitVec 12), inTcm (addr x rs imm) → inTcm (addr s.rx rs' imm') →
        (f.stops s (.ld rd' rs' imm') = true ↔
          (rd ≠ 0 ∧ (rs' = rd ∨ rd' = rd)) ∨ addr s.rx rs' imm' = addr x rs imm)) ∧
      (s.slot.flights = [f] → f.olds = [] → f.fences = [] →
        let x : Reg → Word := fun r => if r = 0 then 0 else f.regs.x[r.toNat]
        named f x → f.regs.fx = [] → inTcm (addr x rs imm) → ∃ t, execFlightLand c s.cur.slot.val f.id s = .next t ∧
          (let sl := t.slotOf c s.cur.slot
           let v : Word := BitVec.ofNat 64 (natOfBytes ((List.range 8).map fun j => s.readByte s.agent (key (addr x rs imm) + j)))
           sl.x = (if rd = 0 then s.slot.x else s.slot.x.set rd.toNat v) ∧ sl.v = s.slot.v ∧ sl.p = s.slot.p ∧ sl.pc = s.slot.pc ∧
             sl.instret = s.slot.instret ∧ sl.live = true ∧ sl.wait = .none ∧ sl.flights = []) ∧
          (∀ d k, d ≠ c ∨ k ≠ s.cur.slot → t.slotOf d k = s.slotOf d k) ∧ t.mem = s.mem ∧ t.net = s.net ∧ t.cur = s.cur)) ∧
  (∀ (s : State) (imm : BitVec 12) (rs rd : Reg) (code : BitVec 3),
    let fences : Instr → Scope → Prop := fun i sc =>
      ∃ t, exec i s = .next t ∧ SlotIs s t { s.slot.next with fbuf := [] } ∧ { t with cores := s.cores, hidden := s.hidden } = s ∧
        ∀ h ∈ s.hidden, sees s s.agent h = true → inScope s sc s.agent h.writer = true →
          ∀ g ∈ t.hidden, g.id = h.id → sees t (.fetch s.cur.core) g = true
    fences (.ifenceS code) (scopeOfCode code) ∧ fences (.fenceI imm rs rd) .core)

/-- R97: `fmt` holds its fields and the low byte of x[rs] for the slot's next instruction. Under a pending prefix `fmt` traps with
ILLEGAL, its word as the value, and so does the word of every form outside form space F, which changes nothing. -/
def Obligations.PrefixIsHeldForTheNextInstruction : Prop :=
  ∀ (s : State) (fin fout : BitVec 4) (tab rm mode : BitVec 2) (rs : Reg) (w : BitVec 32) (i : Instr),
    (if s.slot.pfx = none then
        Leaves (.fmt fin fout tab rm rs mode) s
          { s.slot.next with pfx := some ⟨fin, fout, tab, rm, mode, (s.rx rs).extractLsb' 0 8⟩ }
      else ∀ v, encode (.fmt fin fout tab rm rs mode) = some v →
        exec (.fmt fin fout tab rm rs mode) s = .next (s.trap 0x01 (v.setWidth 64))) ∧
    (s.slot.pfx ≠ none → decode w = some i → isFmt i = false → ¬(w.extractLsb' 0 7 = 0x2B ∧ w.extractLsb' 27 2 = 3) →
      s.runWord w = s.trap 0x01 (w.setWidth 64))

/-! ### Decoding, and a step -/

/-- Words built from the encoding tables decode to their instructions: the standard forms, custom-0 to custom-3, and words that the spec
itself assembles (Tables 2-11 and 6-5). -/
def Obligations.WordsDecodeAsTheTablesSay : Prop :=
  decode 0x00500093 = some (.addi 1 0 5) ∧
  decode 0x40B50633 = some (.sub 12 10 11) ∧
  decode 0xFE209EE3 = some (.bne 1 2 0xFFE) ∧
  decode 0x0002037B = some (.cmd 6 4) ∧
  decode 0x0000100B = some .exit ∧
  decode 0x400280DB = some (.vld 2 1 5 0) ∧
  decode 0x0862A1DB = some (.vlds 0 1 3 5 6) ∧
  decode 0x6A2082AB = some (.vaddSat 3 1 5 1 2) ∧
  decode 0x0420E52B = some (.vcmpLt 0 0 2 1 1 2) ∧
  decode 0xA020F22B = some (.vsel 5 4 1 2) ∧
  decode 0x1C00B12B = some (.vdec8 0 2 1) ∧
  decode 0x1411CF5B = some (.vvote 0 2 30 3 1) ∧
  decode 0x120F32DB = some (.vmvx 2 5 30 0) ∧
  decode 0x0602E1DB = some (.pset 3 5) ∧
  decode 0x3A73432B = some (.vtacc 1 6 6 7) ∧
  decode 0x00000073 = some .ecall ∧
  decode 0x00000000 = none

/-- Every well-formed instruction that has a word is what its word decodes to, with every operand at every value that its encoding admits:
no bit of an encoding is dropped and no two instructions share a word. -/
def Obligations.DecodeInvertsEncode : Prop :=
  ∀ (i : Instr) (w : BitVec 32), i.wf = true → encode i = some w → decode w = some i

/-- Decoding is strict: whatever word decodes to an instruction is the one word of that instruction, and the instruction meets the limits
of its form. So no two words stand for one instruction, and no field marked as zero may be anything else. -/
def Obligations.EncodeInvertsDecode : Prop :=
  ∀ (w : BitVec 32) (i : Instr), decode w = some i → encode i = some w ∧ i.wf = true

/-- R6, Table 4-7: a word that is no instruction's, and the instruction `illegalInstruction` that stands for it, traps with ILLEGAL, the
word as the value; the state trapped in is the one before it (R7). A word whose low bits are not 11, or whose major opcode is reserved, is
one. -/
def Obligations.IllegalWordsTrap : Prop :=
  ∀ (s : State) (w : BitVec 32),
    exec (.illegalInstruction w) s = .next (s.trap 0x01 (w.setWidth 64)) ∧
    (decode w = none → s.runWord w = s.trap 0x01 (w.setWidth 64)) ∧
    (w.extractLsb' 0 2 ≠ 3 → decode w = none) ∧
    (w.extractLsb' 0 7 ∉ ([0x03, 0x0B, 0x0F, 0x13, 0x17, 0x1B, 0x23, 0x2B, 0x2F, 0x33, 0x37, 0x3B, 0x5B, 0x63, 0x67, 0x6F, 0x73,
      0x7B] : List (BitVec 7)) → decode w = none)

/-- R58, R63, R96: where a core is to issue, its first ready slot has budget left, an empty fetch buffer and a pc in TCM, and the word
there, as the fetch path of the core sees it, is free of error and decodes to an instruction with no prefix pending and none behind it
(R84) that meets no error in the registers it reads, and nothing of the slot is under way, no read of it has come early, and what its
fences owe before that instruction can be paid, then the step is `exec` of that instruction in the state with the word and those after it
in the fetch buffer. Around `exec` stand `before` and `after`, which keep the orders of R131, R134 and R154: in a slot that depends on no
write and owes nothing, with no write under way, they change nothing. The step takes its time and moves the round robin on; it needs that
the instruction does not stall. That a refill takes up to eight words from the pc on (assumption 79), that any pc can be fetched from, a
multiple of 4 or not (assumption 12), and the free number of cycles that a step takes (assumption 7) are the model's choice. -/
def Obligations.StepRunsTheDecodedInstruction : Prop :=
  ∀ (s q : State) (c : Nat) (k : Fin 4) (ks : List (Fin 4)) (rest : List Turn) (i : Instr),
    let u := { s with sched := rest, cur := ⟨c, k⟩ }
    let pc := (u.slotOf c k).pc
    let key := (Place.tcm c).key pc.toNat
    let w : BitVec 32 := BitVec.ofNat 32 (natOfBytes ((List.range 4).map fun j => s.readByte (.fetch c) (key + j)))
    let v := u.modSlot fun sl => { sl with fbuf := refill u c 8 pc }
    let r := (v.before i).earlyAfter ((v.before i).after q i) i
    s.sched = .issue c :: rest → issueOrder { s with sched := rest } c = k :: ks → (s.slotOf c k).left ≠ 0 →
    (s.slotOf c k).fbuf = [] → pc.toNat + 4 ≤ 0x10000 → s.badRead (.fetch c) ((List.range 4).map (key + ·)) = none →
    (s.slotOf c k).pfx = none → (s.slotOf c k).behind = none → (s.slotOf c k).flights = [] → (s.slotOf c k).early = [] →
    (v.dues i).all v.payable = true → decode w = some i → v.regError i = none → exec i (v.before i) = .next q →
    issued { s with sched := rest } r c k = true →
      step s = .next (if k = 3 then r.tick (some c) else { r with turn := r.turn.put c ((k.val + 1) % 3) }.tick none) ∧
      ((s.slotOf c k).flow = .none → (s.slotOf c k).owed = [] → v.before i = v ∧
        (q.hidden = [] → (q.slotOf c k).early = [] → r = q))

/-! ### Reset, and the canonical form of memory -/

/-- The values stated for partition reset: `engwt` 4, 1 and 1 (Table 8-2), each tile descriptor 0x7802_2040 (Table 9-1), `rgpat` 4 laps
and 1024 cycles (Table 11-2), the selection pointers at 63 (R60), `jobstat` 0 (R100), job ids from 0 (R98), the stealing probe at 1
(R148), field time 0 (R208) and the nominal clock (R291). Nothing is queued, no job, message or reservation stands. That no partition
exists (`s.parts = []`) is no value that the spec states: it is the model's choice (assumption 3). -/
def Obligations.ResetLeavesTheStatedValues : Prop :=
  let s := State.reset
  ∀ c : Nat,
    (s.core c).engwt = (4 : BitVec 4) ++ (1 : BitVec 4) ++ (1 : BitVec 4) ∧
    (∀ k : Fin 4, (s.core c).tdesc.get k = 0x78022040) ∧
    (s.core c).rgpat = (4 : BitVec 4) ++ (1024 : BitVec 16) ∧
    (s.core c).lastHi = 63 ∧ (s.core c).lastLo = 63 ∧
    (s.core c).fjob = 0 ∧ (s.core c).fcause = 0 ∧ (s.core c).fclass = 0 ∧ (s.core c).fsticky = 0 ∧ (s.core c).badc = false ∧
    (∀ k : Fin 5, (s.core c).jobs.get k = ⟨0, [], [], [], none, []⟩) ∧
    (∀ k, (s.slotOf c k).live = false ∧ (s.slotOf c k).sends = []) ∧
    (s.cluster c).probe = 1 ∧ (s.cluster c).empty = 0 ∧
    (s.field c).time = 0 ∧ (s.field c).clock = 16 ∧
    s.net = [] ∧ s.resv = [] ∧ s.parts = []

/-- The invariant of `StepsKeepMemoryCanonical` holds after reset. That an unlisted byte reads 0 is the model's own choice (assumption 1). -/
def Obligations.ResetMemoryIsCanonical : Prop :=
  State.reset.wf = true

/-- The memory of the model is a list in one canonical form: keys strictly rising, and no entry equal to what an unlisted key reads as.
Every step, whatever agent moves, from every state in that form (no run from reset is assumed), answers a state in that form. So equal
memories are equal lists, also after a reset that leaves some of them undefined. -/
def Obligations.StepsKeepMemoryCanonical : Prop :=
  ∀ s : State, s.wf = true → ∃ t, step s = .next t ∧ t.wf = true

/-! ### The handler activation and the mailbox -/

/-- R67: `send`, `sendr` and `sendv` check, in this order, the header's low bits and class, its destination, its channel, for `sendr` its
route, and the room for 16 sends. The first check that fails traps with its cause and value; otherwise the header, the payload as it
stands now and the class go to the tail of the activation's send buffer, the instruction retires and nothing else changes. For `sendv`,
the register lies within the activation's demand. -/
def Obligations.SendsAreBufferedOrTrap : Prop :=
  ∀ (s : State) (rh rp vs rr : Reg) (n : BitVec 3),
    let h := s.rx rh
    let dest := h.toNat / 2 ^ 15 % 2 ^ 17
    let chan := h.toNat / 2 ^ 9 % 64
    let cls : BitVec 2 := h.extractLsb' 6 2
    let part := corePart s s.cur.core
    let sends : Instr → List Word → BitVec 2 → Option (BitVec 12) → Prop := fun i words cls route =>
      let trap : Option (Nat × Word) :=
        if h.toNat % 32 ≠ 0 ∨ cls = 3 ∨ (route = none ∧ cls = 1) then some (0x08, h)
        else if cls ≠ 2 ∧ ¬(dest / 128 < 960 ∧ part ≠ none ∧ corePart s dest = part) then some (0x08, h)
        else if cls = 2 ∧ dest < 2 ^ 16 ∧ (capOf s s.cur.core).getLsbD 10 = false then some (0x08, h)
        else if chan = 63 then some (0x09, 63)
        else match route with
          | some r => if routed s s.cur.core r.toNat then (if 16 ≤ s.slot.sends.length then some (0x07, 16) else none)
            else some (0x0B, r.setWidth 64)
          | none => if 16 ≤ s.slot.sends.length then some (0x07, 16) else none
      match trap with
      | some t => exec i s = .next (s.trap t.1 t.2)
      | none => Leaves i s { s.slot.next with sends := s.slot.sends ++ [.msg h words cls (route.getD 0)] }
    sends (.send rh rp n) ((List.range n.toNat).map fun j => s.rx (rp + BitVec.ofNat 5 j)) cls none ∧
    sends (.sendr rh rp n rr) ((List.range n.toNat).map fun j => s.rx (rp + BitVec.ofNat 5 j)) 1 (some ((s.rx rr).extractLsb' 0 12)) ∧
    (vs.toNat < 28 → s.cur.slot = 3 ∨ vs.toNat < s.slot.regdem →
      sends (.sendv rh vs n) ((List.range n.toNat).map fun j => (s.slot.rv vs.toNat).extractLsb' (64 * j) 64) cls none)

/-- R68, R69, R80: where the sends of an activation that no graph started fit in the outbound buffer, `exit` puts them on the network in
order, with the writes that each depends on (R131, R133), makes the slot idle and its channel not busy, releases every queue entry that
its chain holds, clears its reservation, and changes no byte of memory and no other slot. What else is posted are the flow-control returns
of messages for which a released entry is now reserved; there are none where the chain held no entry. Where the sends do not fit, none
leaves and the slot waits, its channel and entries held: that all of them wait together is the model's choice (assumption 26), and so is
that tokens and rewards take outbound entries as messages do (assumption 29). -/
def Obligations.ExitReleasesItsActivation : Prop :=
  ∀ s : State, s.slot.task = none →
    let c := s.cur.core
    let k := s.cur.slot
    if (s.core c).outb.length + s.slot.sends.length ≤ 16 then
      ∃ t new rest, exec .exit s = .next t ∧ t.net = s.net ++ new ++ rest ∧
        new.map Msg.body = s.slot.sends.map (sendBody s c k.val) ∧
        (∀ j m, new[j]? = some m → m.id = s.nextId + j ∧ m.src = .core c ∧ m.entry = true ∧ m.heldBack = false ∧
          (s.slot.flow.sends.getD j [] ≠ [] → t.carried.getD m.id [] = s.slot.flow.sends.getD j [])) ∧
        (∀ m ∈ rest, m.src = .core c ∧ m.entry = false ∧ ∃ d e ch, m.body = .flow d e true ∧
          e ∈ (s.chan c ch).refused ∧ e ∈ (t.chan c ch).reserved) ∧
        ((∀ ch, ∀ e ∈ (s.chan c ch).queue, e.taken ≠ some k.val) → rest = []) ∧
        t.mem = s.mem ∧ t.lost = s.lost ∧ (∀ d j, d ≠ c ∨ j ≠ k → t.slotOf d j = s.slotOf d j) ∧
        t.slotOf c k = { s.slot.idle with sent := (new.map Msg.id).reverse ++ s.slot.sent } ∧
        (∀ ch, s.slot.chan = some ch → (t.chan c ch).busy = false) ∧
        (∀ ch, ∀ e ∈ (t.chan c ch).queue, e.taken ≠ some k.val) ∧
        t.resv = s.resv.filter (fun r => r.core ≠ c ∨ r.slot ≠ k.val)
    else Leaves .exit s { s.slot with wait := .release none }

/-- R70: `exit.succ` traps with BADCHAN for a channel above 62 or unbound, and with SUCCDEM for a demand beyond its own. It waits while
the channel is busy with another activation. Otherwise, where its sends fit in the outbound buffer, the successor runs in the same slot at
the channel's pc with the channel's budget, the x and vector registers, `msgid` and `baywin` unchanged, crit and the reservation cleared;
the channel is busy, the old one is not, and no queue has changed. The end of either wait (`successorStart`, with budget left for it
(R63), and `exitSendRelease`) leaves the same. That a successor has `amoscope` 5 and `tabsel` 0 and keeps the regdem and baydem of the
allocation it has (assumption 10), that its channel is busy before the sends have left (assumption 27), that sends which do not all fit
wait together, none of them leaving (assumption 26), and that tokens and rewards take outbound entries as messages do (assumption 29), are
the model's choice. -/
def Obligations.SuccessorsTakeOverTheSlot : Prop :=
  ∀ (s : State) (c : Nat) (k : Fin 4) (rs : Reg) (ch : Nat) (r : HandlerRec),
    let sl := s.slotOf c k
    let v := s.rx rs
    let bound := (s.chan c ch).hrec = some r
    let fits := (s.core c).outb.length + sl.sends.length ≤ 16
    let free := (s.chan c ch).busy = false ∨ sl.chan = some ch
    let runs : Instr → Prop := fun i => ∃ t, exec i s = .next t ∧
      (t.slotOf c k).pc = r.pc ∧ (t.slotOf c k).left = r.budget ∧ (t.slotOf c k).spawnb = r.budget ∧
      (t.slotOf c k).chan = some ch ∧ (t.slotOf c k).wait = .none ∧ (t.slotOf c k).live = sl.live ∧
      (t.slotOf c k).x = sl.x ∧ (t.slotOf c k).v = sl.v ∧ (t.slotOf c k).msgid = sl.msgid ∧
      (t.slotOf c k).baywin = sl.baywin ∧ (t.slotOf c k).crit = false ∧ (t.slotOf c k).sends = [] ∧
      (t.slotOf c k).regdem = sl.regdem ∧ (t.slotOf c k).baydem = sl.baydem ∧ (t.slotOf c k).amoscope = 5 ∧ (t.slotOf c k).tabsel = 0 ∧
        (t.slotOf c k).instret = sl.instret + 1 ∧
      (t.slotOf c k).first = sl.first ∧ (t.slotOf c k).trigger = sl.trigger ∧ (t.slotOf c k).taken = sl.taken ∧
      (t.chan c ch).busy = true ∧ (∀ o, sl.chan = some o → o ≠ ch → (t.chan c o).busy = false) ∧
      (∀ o, (t.chan c o).queue = (s.chan c o).queue ∧ (t.chan c o).en = (s.chan c o).en) ∧
      t.resv = s.resv.filter (fun r => r.core ≠ c ∨ r.slot ≠ k.val) ∧ t.mem = s.mem ∧ t.lost = s.lost ∧
      (∀ d j, d ≠ c ∨ j ≠ k → t.slotOf d j = s.slotOf d j)
    (s.cur = ⟨c, k⟩ → v.toNat = ch →
      (62 < ch ∨ (s.chan c ch).hrec = none → exec (.exitSucc rs) s = .next (s.trap 0x09 v)) ∧
      (ch ≤ 62 → bound → (sl.regdem < r.regdem ∨ sl.baydem < r.baydem → exec (.exitSucc rs) s = .next (s.trap 0x0C v)) ∧
        (r.regdem ≤ sl.regdem → r.baydem ≤ sl.baydem →
          (¬free → Leaves (.exitSucc rs) s { sl with wait := .succ ch }) ∧ (free → fits → runs (.exitSucc rs)) ∧
          (free → ¬fits → ∃ t, exec (.exitSucc rs) s = .next t ∧ t.slotOf c k = { sl with wait := .release (some ch) } ∧
            (t.chan c ch).busy = true ∧ t.net = s.net ∧ t.mem = s.mem)))) ∧
    (sl.wait = .succ ch → sl.left ≠ 0 → (s.chan c ch).busy = false → bound → fits → runs (.successorStart c k.val)) ∧
    (sl.wait = .release (some ch) → (s.chan c ch).busy = true → bound → fits → runs (.exitSendRelease c k.val))

/-- R71: `spawn` traps with BADCORE for no core of the partition and with MISFETCH for a misaligned pc; otherwise its request leaves at
once and the slot waits. At the target the lowest idle normal slot whose vector demand fits starts the child, with x10 to x13 copied, x14
to x16 zero, the caller in x17 and the spawn budget, and the answer is 1; with none it is 0. The answer writes rd and the caller retires,
but where its budget is spent (R63). A target whose dispatch is held answers 0 (R29, R267); the request waits there while a reward at the
head of channel 63, with no sweep outstanding, has yet to hold dispatch or to go. The request is one of the slot's messages under way
(R134). -/
def Obligations.SpawnAsksAndIsAnswered : Prop :=
  ∀ (s : State) (rd rc rpc : Reg),
    let c := s.cur.core
    let core := s.rx rc
    let pc := s.rx rpc
    let named := core.toNat / 128 < 960 ∧ corePart s c ≠ none ∧ corePart s core.toNat = corePart s c
    (¬named → exec (.spawn rd rc rpc) s = .next (s.trap 0x0A core)) ∧
    (named → pc.toNat % 4 ≠ 0 → exec (.spawn rd rc rpc) s = .next (s.trap 0x02 pc)) ∧
    (named → pc.toNat % 4 = 0 → ∃ t, exec (.spawn rd rc rpc) s = .next t ∧
      SlotIs s t { s.slot with wait := .spawn rd, sent := s.nextId :: s.slot.sent } ∧
      t.net = s.net ++ [⟨s.nextId, .core c, false, false, .spawnReq c s.cur.slot.val core.toNat (pc.setWidth 48)
        [s.rx 10, s.rx 11, s.rx 12, s.rx 13] s.slot.regdem s.slot.spawnb⟩] ∧
      { t with cores := s.cores, net := s.net, nextId := s.nextId } = s) ∧
    (∀ m x d k tgt a args reg bu, s.msg? m = some x → x.body = .spawnReq d k tgt a args reg bu →
      let co := s.core tgt
      let idle := ([0, 1, 2] : List (Fin 4)).filter fun j => !(co.slots.get j).live
      let rest := s.net.filter fun y => y.id ≠ m
      if co.rewards ≠ [] ∧ co.sweep = none ∧ co.cutHold = false then exec (.spawnRequest m) s = .next s
      else if idle ≠ [] ∧ co.cutHold = false ∧ co.loadHold = none ∧ reg ≤ poolFree co then
        ∃ t j, idle.head? = some j ∧ exec (.spawnRequest m) s = .next t ∧
          (t.slotOf tgt j).live = true ∧ (t.slotOf tgt j).wait = .none ∧ (t.slotOf tgt j).pc = a ∧ (t.slotOf tgt j).left = bu ∧
          (t.slotOf tgt j).regdem = reg ∧ (t.slotOf tgt j).chan = none ∧ (t.slotOf tgt j).baywin = 0 ∧
          (∀ n : Fin 7, (t.slotOf tgt j).rx (BitVec.ofNat 5 (10 + n.val)) = args.getD n.val 0) ∧
          (t.slotOf tgt j).rx 17 = BitVec.ofNat 64 (d * 2 ^ 15) ∧ (t.slotOf tgt j).msgid.extractLsb' 0 2 = 2 ∧
          t.net = rest ++ [⟨s.nextId, .core tgt, false, false, .spawnAns d k true⟩] ∧ t.mem = s.mem
      else ∃ t, exec (.spawnRequest m) s = .next t ∧ t.net = rest ++ [⟨s.nextId, .core tgt, false, false, .spawnAns d k false⟩] ∧
        { t with net := s.net, nextId := s.nextId } = s) ∧
    (∀ m x d k ok, s.msg? m = some x → x.body = .spawnAns d k ok → k < 4 → (s.slotOf d (slotIx k)).wait = .spawn rd →
      ∃ t, exec (.spawnAnswer m) s = .next t ∧
        t.slotOf d (slotIx k) = (if (s.slotOf d (slotIx k)).left = 0 then s.slotOf d (slotIx k)
          else { (s.slotOf d (slotIx k)).after rd (if ok then 1 else 0) with
            wait := .none, flow := (s.slotOf d (slotIx k)).flow.carried rd }) ∧
        t.net = s.net.filter (fun y => y.id ≠ m) ∧ { t with net := s.net, cores := s.cores } = s)

/-- R72: `waitm` traps with BADCHAN for a channel above 62 or enabled. Where no other slot waits on the channel and it has a message that
no activation has taken, the oldest goes to x10 to x17 and, last, its header to rd, and keeps its queue entry as taken; otherwise the slot
waits, and `waitmTake` does the same for the slot whose wait began first, of those that have budget left (R63). -/
def Obligations.WaitmTakesTheOldestMessage : Prop :=
  ∀ (s : State) (rd rs : Reg) (e : QEntry),
    let v := s.rx rs
    let ch := v.toNat
    let c := s.cur.core
    let oldest := (s.chan c ch).queue.find? fun q => q.taken == none
    let takes : Instr → Nat → Fin 4 → Reg → Nat → Prop := fun i c k rd ch => ∃ t, exec i s = .next t ∧
      (t.slotOf c k).rx rd = (if rd = 0 then 0 else e.hdr) ∧
      (∀ n : Fin 7, BitVec.ofNat 5 (10 + n.val) ≠ rd → (t.slotOf c k).rx (BitVec.ofNat 5 (10 + n.val)) = e.words.getD n.val 0) ∧
      (17 ≠ rd → (t.slotOf c k).rx 17 = e.hdr) ∧
      (∀ r : Reg, r ≠ rd → r.toNat < 10 ∨ 17 < r.toNat → (t.slotOf c k).rx r = (s.slotOf c k).rx r) ∧
      (t.slotOf c k).pc = (s.slotOf c k).pc + 4 ∧ (t.slotOf c k).wait = .none ∧
      (t.slotOf c k).taken = (ch, e.seq) :: (s.slotOf c k).taken ∧ (t.slotOf c k).msgid = (s.slotOf c k).msgid ∧
      ((t.chan c ch).queue.map QEntry.seq = (s.chan c ch).queue.map QEntry.seq) ∧
      { e with taken := some k.val } ∈ (t.chan c ch).queue ∧ { t with cores := s.cores } = s
    (62 < ch ∨ (s.chan c ch).en = true → exec (.waitm rd rs) s = .next (s.trap 0x09 v)) ∧
    (ch ≤ 62 → (s.chan c ch).en = false →
      (oldest = some e → waiting s c ch = false → takes (.waitm rd rs) c s.cur.slot rd ch) ∧
      (oldest = none ∨ waiting s c ch = true → ∃ t, exec (.waitm rd rs) s = .next t ∧
        SlotIs s t { s.slot with wait := .waitm rd ch s.nextId } ∧ { t with cores := s.cores, nextId := s.nextId } = s)) ∧
    (∀ (b w : Nat) (k : Fin 4) (d : Reg) (n : Nat), (w, k, d) ∈ waiters s b n →
      (∀ x ∈ waiters s b n, w < x.1 ∨ x = (w, k, d)) → (s.chan b n).queue.find? (fun q => q.taken == none) = some e →
        takes (.waitmTake b n) b k d n)

/-- R73, R74: `chmask` and `chpend` give rd the channel's state word before and set the enable or the pending bit, or trap with BADCHAN
for a channel above 62. `crit.on` sets the crit bit, at once in slot 3 or where slot 3 is idle; in a normal slot it waits until slot 3 is
idle (`critOnGrant` ends the wait, with budget left for it, R63), and `crit.off` clears it. -/
def Obligations.ChannelMasksAndCriticalWindows : Prop :=
  ∀ (s : State) (rd rs rv : Reg),
    let v := s.rx rs
    let ch := v.toNat
    let c := s.cur.core
    let k := s.cur.slot
    let bit := (s.rx rv).getLsbD 0
    let sets : Instr → Chan → Prop := fun i q => ∃ t, exec i s = .next t ∧
      t.slotOf c k = s.slot.after rd (chStateWord s c ch) ∧ (∀ d j, d ≠ c ∨ j ≠ k → t.slotOf d j = s.slotOf d j) ∧
      (∀ o, t.chan c o = if o = ch then q else s.chan c o) ∧
      (∀ d, { t.core d with slots := (s.core d).slots, chans := (s.core d).chans } = s.core d) ∧ { t with cores := s.cores } = s
    (62 < ch → exec (.chmask rd rs rv) s = .next (s.trap 0x09 v) ∧ exec (.chpend rd rs rv) s = .next (s.trap 0x09 v)) ∧
    (ch ≤ 62 → sets (.chmask rd rs rv) { s.chan c ch with en := bit } ∧ sets (.chpend rd rs rv) { s.chan c ch with pend := bit }) ∧
    (k = 3 ∨ (s.slotOf c 3).live = false → Leaves .critOn s { s.slot.next with crit := true }) ∧
    (k ≠ 3 → (s.slotOf c 3).live = true → Leaves .critOn s { s.slot with wait := .critOn }) ∧
    (∀ d j, (s.slotOf d j).wait = .critOn → (s.slotOf d j).left ≠ 0 → (s.slotOf d 3).live = false →
      ∃ t, exec (.critOnGrant d j.val) s = .next t ∧
      t.slotOf d j = { (s.slotOf d j).next with wait := .none, crit := true } ∧
      (∀ e i, e ≠ d ∨ i ≠ j → t.slotOf e i = s.slotOf e i) ∧ { t with cores := s.cores } = s) ∧
    Leaves .critOff s { s.slot.next with crit := false }

/-- R54, R68: a message that may arrive (none earlier of its source to its channel is under way) and has not the form of a fault reply
(R93, R172; one that has it never enters a queue, awaited or not: assumption 86) is discarded and reported with NOCHAN where the channel
is unbound or 63; takes the next arrival number and the tail of the queue where it has room, or the room reserved for it; on a full queue
it is held back by a reliable channel, and dropped and counted by an event channel. But for a held one it is gone, a core that sent it
from an outbound entry gets a flow-control return, and a peer module's core its acknowledgement (R314). The zero slot, `msgid` and pc
words of the NOCHAN report (assumption 15), and that only a message which enters a queue takes an arrival number (assumption 90), are the
model's choice. -/
def Obligations.ArrivalsAreQueuedHeldDroppedOrDiscarded : Prop :=
  ∀ (s : State) (m : Nat) (x : Msg) (c ch : Nat) (h : Word) (ws : List Word) (task : Option Task),
    (s.msg? m = some x → formsReply x = true → exec (.messageArrival m) s = .next s) ∧
    (s.msg? m = some x → x.body = .chan c ch h ws task → arrivable s x = true → formsReply x = false →
      let q := s.chan c ch
      let gone : State → Prop := fun t => t.net = s.net.filter (fun y => y.id ≠ m) ++
        (match x.src with
          | .core d => if x.entry then [⟨s.nextId, .core c, false, false, .flow d m false⟩] else []
          | _ => []) ∧
        ∀ e, x.src = .peerCore e → t.ctl = { s.ctl with reports := s.ctl.reports ++ [.peerAck e] }
      let queued : State → Chan → Prop := fun t q => t.chan c ch = { q with
        queue := q.queue ++ [⟨(s.core c).seq, h, ws, task, none⟩] } ∧ (t.core c).seq = (s.core c).seq + 1
      ∃ t, exec (.messageArrival m) s = .next t ∧ t.mem = s.mem ∧ (∀ d k, t.slotOf d k = s.slotOf d k) ∧
        (∀ d o, d ≠ c ∨ o ≠ ch → t.chan d o = s.chan d o) ∧
        match q.hrec with
        | none => gone t ∧ t.chan c ch = q ∧ ∃ y, t.reports = s.reports ++ [(.mailbox c, y)] ∧
          y.body = serviceBody (sgOf c) c (serviceWords 0x0E c 0 0 0 h)
        | some r =>
          if ch = 63 then gone t ∧ t.chan c ch = q
          else if m ∈ q.reserved then gone t ∧ queued t { q with reserved := q.reserved.filter (· ≠ m) }
          else if q.queue.length + q.reserved.length < r.qdecl then gone t ∧ queued t q
          else if r.rel then t.chan c ch = { q with refused := q.refused ++ [m] } ∧
            t.net = s.net.map (fun y => if y.id = m then { y with heldBack := true } else y)
          else gone t ∧ t.chan c ch = { q with drops := BitVec.ofNat 32 (min (q.drops.toNat + 1) 0xFFFFFFFF) })

/-- R60, R61: the dispatch that the selection logic makes starts the slot at the record's pc with its budget and demands, x10 to x16 the
payload (zero beyond it), x17 the header, `msgid` of the message or of the pending bit, `baywin` the allocation, `amoscope` 5 and `tabsel`
0; on channel 62 of a service core the service image is at work from then on (R155). The channel is busy; its message is taken, or its
pending bit clear; the search pointer holds the channel. Where nothing can be dispatched nothing changes. That the head of a channel is
its oldest message that no chain has taken by `waitm` is the model's choice (assumption 28). -/
def Obligations.DispatchStartsTheSelectedHandler : Prop :=
  ∀ (s : State) (c : Nat), match select s c with
    | none => exec (.dispatch c) s = .next s
    | some p => ∃ t r,
      let e := (s.chan c p.ch).queue.find? fun q => q.taken.isNone
      let ws := (e.map QEntry.words).getD []
      let sl := t.slotOf c p.slot
      (s.chan c p.ch).hrec = some r ∧ exec (.dispatch c) s = .next t ∧
      sl.live = true ∧ sl.wait = (if c % 128 = 0 ∧ p.ch = 62 then .service else .none) ∧ sl.pc = r.pc ∧ sl.left = r.budget ∧
        sl.spawnb = r.budget ∧ sl.chan = some p.ch ∧
      sl.first = some p.ch ∧ sl.regdem = r.regdem ∧ sl.baydem = r.baydem ∧ sl.amoscope = 5 ∧ sl.tabsel = 0 ∧ sl.crit = false ∧
      sl.sends = [] ∧ sl.pfx = none ∧ sl.lq = [] ∧ sl.sq = [] ∧ sl.bq = [] ∧ sl.aq = [] ∧ sl.instret = 0 ∧
      (∀ n : Fin 7, sl.rx (BitVec.ofNat 5 (10 + n.val)) = ws.getD n.val 0) ∧ sl.rx 17 = (e.map QEntry.hdr).getD 0 ∧
      sl.msgid.extractLsb' 32 32 = (e.map QEntry.seq).getD 0 ∧ sl.msgid.extractLsb' 0 2 = (if e = none then 1 else 0) ∧
      sl.baywin = (if r.baydem = 0 then 0
        else BitVec.ofNat 64 (0x01000000 + c / 8 % 16 * 0x80000 + 0x70000 + c % 8 * 0x2000 + p.bay * 256)) ∧
      (t.chan c p.ch).busy = true ∧ (t.chan c p.ch).pend = (if e = none then false else (s.chan c p.ch).pend) ∧
      (∀ q, e = some q → { q with taken := some p.slot.val } ∈ (t.chan c p.ch).queue) ∧
      (if p.slot = 3 then (t.core c).lastHi = p.ch ∧ (t.core c).lastLo = (s.core c).lastLo
        else (t.core c).lastLo = p.ch ∧ (t.core c).lastHi = (s.core c).lastHi) ∧
      (∀ d j, d ≠ c ∨ j ≠ p.slot → t.slotOf d j = s.slotOf d j)

/-- R60, R64: what the selection logic picks is a bound, enabled, idle channel with a message of its priority (or a pending bit and no
message) whose demands fit; slot 3 only where it is idle and no slot holds crit, and otherwise the lowest idle normal slot; and no
eligible channel comes before it in the search that begins after the pointer. That the head of a channel, on which its priority and its
eligibility rest, is its oldest message that no running chain has taken is the model's choice (assumption 28). -/
def Obligations.SelectionTakesTheFirstEligibleChannel : Prop :=
  ∀ (s : State) (c : Nat) (p : Pick), select s c = some p →
    let co := s.core c
    let hi := decide (p.slot = 3)
    let last := if hi then co.lastHi else co.lastLo
    eligible s c p.ch hi = true ∧ (s.chan c p.ch).hrec ≠ none ∧ (s.chan c p.ch).en = true ∧ (s.chan c p.ch).busy = false ∧
    (co.slots.get p.slot).live = false ∧
    (hi = true → ∀ k : Fin 4, (co.slots.get k).live = true → (co.slots.get k).crit = false) ∧
    (hi = false → ∀ j : Fin 4, j.val < p.slot.val → (co.slots.get j).live = true) ∧
    (∀ r, (s.chan c p.ch).hrec = some r → p.bay + r.baydem ≤ 32 ∨ r.baydem = 0) ∧
    (∀ r, hi = false → (s.chan c p.ch).hrec = some r → r.regdem ≤ poolFree co) ∧
    (∀ i j, i < j → j < 64 → (last + 1 + j) % 64 = p.ch → eligible s c ((last + 1 + i) % 64) hi = false)

/-- R54, R68: the return of a finished message frees its sender's outbound entry, which the oldest report that waits for one takes; the
return for reserved room lets the held-back message go again. R336: the oldest report of an agent's buffer leaves once channel 62 of the
service core has room, and stays while it has none. R63: a slot whose budget is spent traps with BUDGET, the record's budget as its value,
but for the waits that R63 does not count. That the value of a spawned child, which has no record, is the budget that it began with is the
model's choice (assumption 91). A slot one of whose streams stalls on a port (R85) traps at the oldest instruction that is not done, with
the registers of its place (`Slot.atOldest`, assumption 95). R93: a fault reply of 0 ends its slot's wait, so that the access is made
again; one of 2 traps with NOEXEC, any other with ACCESS, the address as the value; but an access made ahead of an instruction that stands
behind is made again and does not trap before it (assumption 95). R255: the wait for an interlocked row pair ends once it has closed. -/
def Obligations.FlowControlReportsBudgetsAndRepliesMoveOn : Prop :=
  (∀ (s : State) (m : Nat) (x : Msg) (c e : Nat) (retry : Bool) (who : Reporter) (p : Reporter × Msg) (d ch : Nat),
    (s.msg? m = some x → x.body = .flow c e retry →
      let rest := s.net.filter fun y => y.id ≠ m
      ∃ t, exec (.flowControlReturn m) s = .next t ∧ t.mem = s.mem ∧
        (if retry then t.net = rest.map (fun y => if y.id = e then { y with heldBack := false } else y) ∧
            { t with net := s.net } = s
          else
            let freed := (s.core c).outb.filter (· ≠ e)
            match (s.core c).backlog with
            | b :: bs => if freed.length < 16 then (t.core c).outb = freed ++ [b.id] ∧ (t.core c).backlog = bs ∧ t.net = rest ++ [b]
              else (t.core c).outb = freed ∧ (t.core c).backlog = b :: bs ∧ t.net = rest
            | [] => (t.core c).outb = freed ∧ (t.core c).backlog = [] ∧ t.net = rest)) ∧
    (s.reports.find? (fun q => q.1 == who) = some p → bodyDest p.2.body = some (d, ch) →
      ∃ t, exec (.serviceReportSend who) s = .next t ∧
        if (s.chan d ch).room then t.reports = s.reports.erase p ∧ t.net = s.net ++ [p.2] ∧
          { t with reports := s.reports, net := s.net } = s
        else t = s)) ∧
  (∀ (s : State) (c : Nat) (k : Fin 4),
    let sl := s.slotOf c k
    (sl.live = true → sl.left = 0 → (∀ n, sl.wait ≠ .release n) → (∀ a, sl.wait ≠ .page a) →
      (sl.behind = none → exec (.budget c k.val) s = .next (s.trapAt c k 0x06 (sl.budget.setWidth 64))) ∧
      (sl.behind ≠ none → exec (.budget c k.val) s = .next
        ((s.modSlotOf c k fun sl => { sl.atOldest with behind := none }).trapAt c k 0x06 (sl.budget.setWidth 64)))) ∧
    (∀ m x h ws task va, s.msg? m = some x → arrivable s x = true → isReply x markSlot = true → x.body = .chan c 62 h ws task →
      slotIx (h.extractLsb' 32 2).toNat = k → sl.wait = .page va →
        let t := (s.finishMsg x (.core c)).modSlotOf c k fun sl => { sl with wait := .none }
        exec (.faultReply m) s = .next (if ws.getD 0 0 = 0 ∨ sl.isAhead = true then t
          else if ws.getD 0 0 = 2 then t.trapAt c k 0x05 va else t.trapAt c k 0x04 va)) ∧
    (∀ m x h ws task, s.msg? m = some x → arrivable s x = true → isReply x markSlot = true → x.body = .chan c 62 h ws task →
      slotIx (h.extractLsb' 32 2).toNat = k → (∀ va, sl.wait ≠ .page va) → exec (.faultReply m) s = .next (s.finishMsg x (.core c))) ∧
    (∀ p, sl.wait = .interlock p → interlocked s c p = false →
      ∃ t, exec (.interlockRelease c k.val) s = .next t ∧ t.slotOf c k = { sl with wait := .none } ∧
        (∀ d j, d ≠ c ∨ j ≠ k → t.slotOf d j = s.slotOf d j) ∧ { t with cores := s.cores } = s))

/-- R91, R95, R287: a walk that a core's own TLB and its cluster's both miss fills both with the page's translation, under the number of
the page's first 64 KiB, and counts once at the page's home; an invalidation empties the TLBs of the core and of its cluster. Which entry
a full TLB or set gives up (the oldest), how pages map to the 128 sets (assumption 13), and that a walk to a leaf which is not present
counts and fills nothing (assumption 89) are the model's choice. R101, R156, R190: an error that the scrubber finds, in memory, a register
file or a ring tile, is reported to the controller alone, and stands there (assumption 50, the model's choice). No byte changes. -/
def Obligations.TranslationsAreFilledAndDropped : Prop :=
  ∀ (s : State) (c va : Nat) (fetch : Bool) (l : Leaf),
    let pn := va / 0x10000
    let key := if l.big then pn - pn % 32 else pn
    let set : Nat × Leaf → Nat := fun e => (if e.2.big then e.1 / 32 else e.1) % 128
    let l2 := (s.cluster (clusterOf c)).l2tlb
    let own := if fetch then (s.core c).itlb else (s.core c).dtlb
    let n := va / 2 ^ 68
    let off := va % 2 ^ 64 / 8 * 8
    (winOf va = .paged → tlbFind own pn = none → tlbFind l2 pn = none → leafOf (s.pageTable (corePart s c)) pn = some l →
        ∃ t, exec (.tlbWalkComplete c va fetch) s = .next t ∧
          (t.hot.getD l.home []).getD key [] =
            bumpHot ((s.hot.getD l.home []).getD key []) (posOf s (sgOf c)) (posOf s l.home) ∧
          (if l.state = .present then
            (if fetch then (t.core c).itlb = ((key, l) :: own).take 16 ∧ (t.core c).dtlb = (s.core c).dtlb
              else (t.core c).dtlb = ((key, l) :: own).take 32 ∧ (t.core c).itlb = (s.core c).itlb) ∧
            (t.cluster (clusterOf c)).l2tlb = ((key, l) :: l2.filter (fun e => set e == set (key, l))).take 8 ++
              l2.filter (fun e => set e != set (key, l))
          else { t with hot := s.hot } = s) ∧ t.mem = s.mem ∧ ∀ d k, t.slotOf d k = s.slotOf d k) ∧
    (∃ t, exec (.tlbInvalidation c) s = .next t ∧ (t.core c).itlb = [] ∧ (t.core c).dtlb = [] ∧
      (t.cluster (clusterOf c)).l2tlb = [] ∧ { t with cores := s.cores, clusters := s.clusters } = s ∧
      ∀ d k, t.slotOf d k = s.slotOf d k) ∧
    (∃ t, exec (.scrubError va) s = .next t ∧ t.ctl = { s.ctl with reports := s.ctl.reports ++ [.uncorrectable va] } ∧
      (if va / 2 ^ 64 % 16 = 10 then
        (off ∈ (t.slotOf (n / 4) (Fin.ofNat 4 (n % 4))).bad ∧ ∀ d k, { t.slotOf d k with bad := (s.slotOf d k).bad } = s.slotOf d k) ∧
          { t with ctl := s.ctl, cores := s.cores } = s
      else if va / 2 ^ 64 % 16 = 11 then
        (∀ g, t.ring g = if g = n / 32 then (s.ring g).hurt (n % 32) off else s.ring g) ∧
          { t with ctl := s.ctl, rings := s.rings } = s
      else (∃ b ∈ t.bad, b.key ≤ va ∧ va < b.key + b.size) ∧ { t with ctl := s.ctl, bad := s.bad } = s))

/-! ### The vector unit -/

/-- R12, R57, R84, R85, R103: the operands of a vector form of two sources. A port declared 0 that it names (outside compatibility mode)
makes it trap with ILLEGAL; else a register at or above the demand of a normal slot makes it trap with VREG, the first such number as its
value. Otherwise a full destination port or an empty source port makes it wait, and else it reads its fields in order: a register its
contents, `lq` its oldest entry, `aq` its oldest entry's low bits in every lane. R83, R84: a `vadd` that stalls so stalls the execute
stream alone: a later `vadd` stands behind with it, and a later `addi` that needs nothing of them runs. R87: once the oldest one stalls no
more, it gives its lanes of the registers at its own place, and what later instructions have written stands over them. That ports are
checked before registers, and which number VREG reports (assumption 16), that a form which waits changes nothing (assumption 17), and what
stands behind a stall (assumption 95), are the model's choice. -/
def Obligations.VectorOperandsComeFromRegistersAndPorts : Prop :=
  ∀ (s : State) (i : Instr) (a b d : Reg) (w : Nat),
    let named := [a, b, d]
    let decl : Reg → Nat := fun r => if r = 28 then s.slot.ports.lq else if r = 29 then s.slot.ports.sq
      else if r = 30 then s.slot.ports.bq else s.slot.ports.aq
    let undeclared : Reg → Bool := fun r => decide (28 ≤ r.toNat ∧ s.slot.compat = false ∧ decl r = 0)
    let beyond : Reg → Bool := fun r => decide (r.toNat < 28 ∧ s.cur.slot ≠ 3 ∧ s.slot.regdem ≤ r.toNat)
    let full := 28 ≤ d.toNat ∧ portRoom s d = false
    let read : Reg → Slot → Option (Vec × Slot) := fun r sl =>
      if r = 28 then sl.lq.head?.map fun v => (v, { sl with lq := sl.lq.tail })
      else if r = 31 then sl.aq.head?.map fun v => (ofLanes w fun _ => v.toNat, { sl with aq := sl.aq.tail })
      else some (if h : r.toNat < 28 then sl.v[r.toNat] else 0, sl)
    (s.vready i [(a, w), (b, w)] [] (some d) =
      if named.any undeclared then .stop (s.trap 0x01 (wordOf i))
      else match named.find? beyond with
        | some r => .stop (s.trap 0x0D (r.setWidth 64))
        | none =>
          if full then .stop s
          else match read a s.slot with
            | none => .stop s
            | some (x, sl) => match read b sl with
              | none => .stop s
              | some (y, sl) => .go x y sl) ∧
    ∀ (pg : PReg) (ew : BitVec 2) (rd rs : Reg) (imm : BitVec 12) (word : BitVec 32) (bh : Behind),
      slotReady s s.cur.core s.cur.slot = true → s.slot.pfx = none → s.slot.flow = .none → s.slot.owed = [] → s.hidden = [] →
      s.slot.flights = [] → s.slot.early = [] →
      let va := Instr.vadd pg ew d a b
      let w := widthOf ew
      let here := Item.todo s.slot.pc word (namesOf va)
      let passes : State → Behind → Prop := fun t r => t = s.modSlot fun sl => { sl with pc := sl.pc + 4, behind := some r }
      (decode word = some va →
        (s.slot.behind = none → s.regError va = none → s.vready va [(a, w), (b, w)] [] (some d) = .stop s →
          passes (s.runFirst word) ⟨true, [here], s.slot.regs, false, s.slot.instret, none⟩) ∧
        (s.slot.behind = some bh → bh.exec = true → bh.prefixed = false →
          passes (s.runAhead bh word) { bh with items := bh.items ++ [here] })) ∧
      (decode word = some (.addi rd rs imm) → s.slot.behind = some bh → bh.exec = true → bh.old = false → bh.prefixed = false →
        rs ∉ bh.toCome.xs → s.regError (.addi rd rs imm) = none →
          let v : Word := BitVec.ofInt 64 ((s.rx rs).toInt + imm.toInt)
          s.runAhead bh word = s.modSlot fun sl => { sl.after rd v with
            behind := some { bh with
              items := bh.items ++ [.ran ⟨if rd = 0 then [] else [(rd, v, [])], [], []⟩], mark := sl.instret + 1, names := none } }) ∧
      ∀ (pc : BitVec 48) (later : List Item) (x y : Vec) (sl : Slot),
        let u := s.modSlot fun sl => { sl.withRegs bh.regs with
          behind := some { bh with regs := sl.regs, old := true, mark := sl.instret } }
        decode word = some va → d.toNat < 28 → s.slot.behind = some bh → bh.old = false → bh.mark = s.slot.instret →
        bh.regs.pfx = none → bh.items = .todo pc word (namesOf va) :: later → (∀ e ∈ later, ∃ r l, e = .ran r l) →
        u.regError va = none → u.vready va [(a, w), (b, w)] [] (some d) = .go x y sl →
          ∃ r : Vec, (∀ k, k < 256 / w → lane w k r =
              if (u.slot.rp pg).getLsbD (w / 8 * k) then (BitVec.ofNat w (lane w k x) + BitVec.ofNat w (lane w k y)).toNat
              else lane w k (u.slot.rv d.toNat)) ∧
            s.runOldest.slot.behind = none ∧ s.runOldest.slot.pc = s.slot.pc ∧ s.runOldest.slot.x = s.slot.x ∧
            ∀ n : Fin 28, (n.val = d.toNat → (∀ e l, .ran e l ∈ later → d ∉ e.vs.map Prod.fst) → s.runOldest.slot.v.get n = r) ∧
              (n.val ≠ d.toNat ∨ (∃ e l, .ran e l ∈ later ∧ d ∈ e.vs.map Prod.fst) → s.runOldest.slot.v.get n = s.slot.v.get n)

/-- R102, R110, Table 6-3: once its operands are read, an integer form gives each active lane the result of Table 6-3 over the lanes of
its sources, leaves each inactive lane as the destination held it (zero in a pushed entry), and retires; nothing else changes, and no
value traps. -/
def Obligations.IntegerLanesGiveTheirResults : Prop :=
  ∀ (s : State) (pg : PReg) (ew : BitVec 2) (vd a b : Reg) (x y : Vec) (sl : Slot),
    let w := widthOf ew
    let form : Instr → (BitVec w → BitVec w → BitVec w) → Prop := fun i f =>
      s.vready i [(a, w), (b, w)] [] (some vd) = .go x y sl →
        ∃ r : Vec, (∀ k, k < 256 / w → lane w k r =
            if (s.slot.rp pg).getLsbD (w / 8 * k) then (f (BitVec.ofNat w (lane w k x)) (BitVec.ofNat w (lane w k y))).toNat
            else lane w k (oldDst s.slot vd)) ∧
          Leaves i s { (putDst sl vd r).next with pfx := none }
    let clampS : Int → BitVec w := fun n => BitVec.ofInt w (max (-(2 ^ (w - 1))) (min n (2 ^ (w - 1) - 1)))
    let clampC : Int → BitVec w := fun n => BitVec.ofInt w (max 0 (min n (2 ^ w - 1)))
    form (.vadd pg ew vd a b) (fun p q => p + q) ∧
    form (.vsub pg ew vd a b) (fun p q => p - q) ∧
    form (.vaddSat pg ew vd a b) (fun p q => clampS (p.toInt + q.toInt)) ∧
    form (.vsubSat pg ew vd a b) (fun p q => clampS (p.toInt - q.toInt)) ∧
    form (.vaddSatc pg ew vd a b) (fun p q => clampC ((p.toNat : Int) + q.toNat)) ∧
    form (.vsubSatc pg ew vd a b) (fun p q => clampC ((p.toNat : Int) - q.toNat)) ∧
    form (.vmul pg ew vd a b) (fun p q => p * q) ∧
    form (.vmulh pg ew vd a b) (fun p q => BitVec.ofInt w (p.toInt * q.toInt / 2 ^ w)) ∧
    form (.vmulhC pg ew vd a b) (fun p q => BitVec.ofNat w (p.toNat * q.toNat / 2 ^ w)) ∧
    form (.vand pg ew vd a b) (fun p q => p &&& q) ∧
    form (.vor pg ew vd a b) (fun p q => p ||| q) ∧
    form (.vxor pg ew vd a b) (fun p q => p ^^^ q) ∧
    form (.vsll pg ew vd a b) (fun p q => p <<< (q.toNat % w)) ∧
    form (.vsrl pg ew vd a b) (fun p q => p >>> (q.toNat % w)) ∧
    form (.vsra pg ew vd a b) (fun p q => p.sshiftRight (q.toNat % w)) ∧
    form (.vmin pg ew vd a b) (fun p q => if p.toInt ≤ q.toInt then p else q) ∧
    form (.vmax pg ew vd a b) (fun p q => if p.toInt ≤ q.toInt then q else p) ∧
    form (.vminC pg ew vd a b) (fun p q => if p.toNat ≤ q.toNat then p else q) ∧
    form (.vmaxC pg ew vd a b) (fun p q => if p.toNat ≤ q.toNat then q else p)

/-- R102, R111: a comparison sets every bit of an active lane's bytes in pd to its truth, signed or, with `.c`, cardinal, and clears those
of inactive lanes; a write to p0 is discarded. R112: `vsel` takes each byte from the first source where the predicate's bit is 1 and from
the second elsewhere, unpredicated; p0 copies the first. -/
def Obligations.ComparisonsAndSelectionActByLane : Prop :=
  ∀ (s : State) (pg pd pk : PReg) (ew : BitVec 2) (c : BitVec 1) (vd a b : Reg) (x y : Vec) (sl : Slot),
    let w := widthOf ew
    let cmp : Instr → (BitVec w → BitVec w → Bool) → Prop := fun i rel =>
      s.vready i [(a, w), (b, w)] [] none = .go x y sl →
        ∃ r : BitVec 32, (∀ j, j < 32 → r.getLsbD j = ((s.slot.rp pg).getLsbD (w / 8 * (j / (w / 8))) &&
            rel (BitVec.ofNat w (lane w (j / (w / 8)) x)) (BitVec.ofNat w (lane w (j / (w / 8)) y)))) ∧
          Leaves i s { sl.next with p := if pd = 0 then sl.p else sl.p.set pd.toNat r, pfx := none }
    cmp (.vcmpEq pg ew pd c a b) (fun p q => p == q) ∧
    cmp (.vcmpNe pg ew pd c a b) (fun p q => p != q) ∧
    cmp (.vcmpLt pg ew pd c a b) (fun p q => if c = 1 then decide (p.toNat < q.toNat) else decide (p.toInt < q.toInt)) ∧
    cmp (.vcmpLe pg ew pd c a b) (fun p q => if c = 1 then decide (p.toNat ≤ q.toNat) else decide (p.toInt ≤ q.toInt)) ∧
    (s.vready (.vsel pk vd a b) [(a, 8), (b, 8)] [] (some vd) = .go x y sl →
      ∃ r : Vec, (∀ j, j < 32 → lane 8 j r = if (s.slot.rp pk).getLsbD j then lane 8 j x else lane 8 j y) ∧
        Leaves (.vsel pk vd a b) s { (putDst sl vd r).next with pfx := none })

/-- R105, R113, R114: under a prefix that Table 6-1 accepts (without one, FP32 to nearest even) a floating form gives each active lane its
exact result, a pre scale applied and rounded to its operands or a post scale multiplied exactly to it, rounded once to the out format;
the comparisons set their lane's predicate bits. A prefix that is not accepted makes them trap with ILLEGAL. -/
def Obligations.FloatingLanesRoundExactResultsOnce : Prop :=
  ∀ (s : State) (pg pd : PReg) (vd a b : Reg) (x y : Vec) (sl : Slot),
    let opnd : Fmt → Nat → Ex := fun f n =>
      if f.mode = 1 then rnd32 f.rm ((decFmt f.fin f.tab n).mul f.scale) else decFmt f.fin f.tab n
    let rounded : Fmt → Ex → Nat := fun f t => roundTo f.fout f.tab f.rm (if f.mode = 2 then t.mul f.scale else t)
    let illegal : Instr → Prop := fun i => exec i s = .next (s.trap 0x01 (wordOf i))
    let gives : Instr → Fmt → List (Reg × Nat) → (Nat → Ex) → Prop := fun i f srcs t =>
      let w := f.fin.width
      s.vready i srcs [] (some vd) = .go x y sl →
        ∃ r : Vec, (∀ k, k < 256 / w → lane w k r =
            if (s.slot.rp pg).getLsbD (w / 8 * k) then rounded f (t k) % 2 ^ w else lane w k (oldDst s.slot vd)) ∧
          Leaves i s { (putDst sl vd r).next with pfx := none }
    let sets : Instr → Fmt → (Ex → Ex → Bool) → Prop := fun i f rel =>
      let w := f.fin.width
      s.vready i [(a, w), (b, w)] [] none = .go x y sl →
        ∃ r : BitVec 32, (∀ j, j < 32 → r.getLsbD j = ((s.slot.rp pg).getLsbD (w / 8 * (j / (w / 8))) &&
            rel (opnd f (lane w (j / (w / 8)) x)) (opnd f (lane w (j / (w / 8)) y)))) ∧
          Leaves i s { sl.next with p := if pd = 0 then sl.p else sl.p.set pd.toNat r, pfx := none }
    (s.slot.pfx = none → ∃ f, arithFmt s = some f ∧ cmpFmt s = some f ∧ f.fin = .fp32 ∧ f.fout = .fp32 ∧ f.rm = .rne ∧ f.mode = 0) ∧
    (arithFmt s = none → ∀ i ∈ [Instr.vfadd pg vd a b, .vfsub pg vd a b, .vfmul pg vd a b, .vfma pg vd a b, .vfmin pg vd a b,
      .vfmax pg vd a b, .vfrcp pg vd a], illegal i) ∧
    (cmpFmt s = none → ∀ i ∈ [Instr.vfcmpEq pg pd a b, .vfcmpLt pg pd a b, .vfcmpLe pg pd a b, .vfcmpUn pg pd a b], illegal i) ∧
    (∀ f, arithFmt s = some f →
      let w := f.fin.width
      let two := [(a, w), (b, w)]
      let p := fun k => opnd f (lane w k x)
      let q := fun k => opnd f (lane w k y)
      gives (.vfadd pg vd a b) f two (fun k => (p k).add f.rm (q k)) ∧
      gives (.vfsub pg vd a b) f two (fun k => (p k).add f.rm (q k).neg) ∧
      gives (.vfmul pg vd a b) f two (fun k => (p k).mul (q k)) ∧
      (vd.toNat < 28 → gives (.vfma pg vd a b) f two
        (fun k => ((p k).mul (q k)).add f.rm (opnd f (lane w k (oldDst s.slot vd))))) ∧
      gives (.vfmin pg vd a b) f two (fun k => (p k).minimum (q k)) ∧
      gives (.vfmax pg vd a b) f two (fun k => (p k).maximum (q k)) ∧
      gives (.vfrcp pg vd a) f [(a, w)] (fun k => (p k).recip)) ∧
    (∀ f, cmpFmt s = some f →
      sets (.vfcmpEq pg pd a b) f Ex.eq ∧ sets (.vfcmpLt pg pd a b) f Ex.lt ∧ sets (.vfcmpLe pg pd a b) f Ex.le ∧
      sets (.vfcmpUn pg pd a b) f (fun p q => p.isNan || q.isNan))

/-- R115 to R117: `vcvt`, `venc8` and `vdec8` give each active lane of the out format its source lane's exact value, scaled as the prefix
says and rounded once, and 0 to active lanes that have none; a wider integer from an unscaled integer is extended (Table 3-3). R123 to
R125: the trace forms fade, add to, decode and encode 16 TL16 lanes, parameter lane j serving traces 2j and 2j + 1; `vtenc` gives lanes 8
to 15 the zero trace. A prefix that Table 6-1 does not accept traps with ILLEGAL; a trace form accepts one whose held fields are all zero,
the scale byte among them, as assumption 83 reads R123. That an integer of the same width and other sign clamps is the model's choice
(assumption 94). -/
def Obligations.ConversionsAndTracesGiveTheirLanes : Prop :=
  ∀ (s : State) (pg : PReg) (vd a b : Reg) (x y : Vec) (sl : Slot),
    let opnd : Fmt → Nat → Ex := fun f n =>
      if f.mode = 1 then rnd32 f.rm ((decFmt f.fin f.tab n).mul f.scale) else decFmt f.fin f.tab n
    let rounded : Fmt → Ex → Nat := fun f t => roundTo f.fout f.tab f.rm (if f.mode = 2 then t.mul f.scale else t)
    let illegal : Instr → Prop := fun i => exec i s = .next (s.trap 0x01 (wordOf i))
    let gives : Instr → List (Reg × Nat) → Nat → (Nat → Nat) → Prop := fun i srcs w val =>
      s.vready i srcs [] (some vd) = .go x y sl →
        ∃ r : Vec, (∀ k, k < 256 / w → lane w k r =
            if (s.slot.rp pg).getLsbD (w / 8 * k) then val k % 2 ^ w else lane w k (oldDst s.slot vd)) ∧
          Leaves i s { (putDst sl vd r).next with pfx := none }
    (cvtFmt s = none → illegal (.vcvt pg vd a)) ∧ (encFmt s = none → illegal (.venc8 pg vd a)) ∧
    (dec8Fmt s = none → illegal (.vdec8 pg vd a)) ∧
    (traceFmt s = none → ∀ i ∈ [Instr.vtfade pg vd a b, .vtacc pg vd a b, .vtdec pg vd a, .vtenc pg vd a], illegal i) ∧
    (s.slot.pfx = none → cvtFmt s ≠ none ∧ encFmt s ≠ none ∧ dec8Fmt s ≠ none ∧ traceFmt s = some ()) ∧
    (∀ h, s.slot.pfx = some h → (traceFmt s = some () ↔ h = ⟨0, 0, 0, 0, 0, 0⟩)) ∧
    (∀ f, cvtFmt s = some f →
      let ints : List NumFmt := [.i8, .i16, .i32, .c8, .c16, .c32]
      let wider := f.mode = 0 ∧ f.fin ∈ ints ∧ f.fout ∈ ints ∧ f.fin.width < f.fout.width
      let exact : Nat → Int := fun v => if f.fin ∈ ints.take 3 then (BitVec.ofNat f.fin.width v).toInt else v
      gives (.vcvt pg vd a) [(a, f.fin.width)] f.fout.width fun k =>
        if k < min (256 / f.fin.width) (256 / f.fout.width) then
          (if wider then (BitVec.ofInt f.fout.width (exact (lane f.fin.width k x))).toNat
            else rounded f (opnd f (lane f.fin.width k x)))
        else 0) ∧
    (∀ f, encFmt s = some f → gives (.venc8 pg vd a) [(a, f.fin.width)] 8 fun k =>
      if k < 256 / f.fin.width then rounded f (opnd f (lane f.fin.width k x)) else 0) ∧
    (∀ f, dec8Fmt s = some f → gives (.vdec8 pg vd a) [(a, 8)] f.fout.width fun k => rounded f (opnd f (lane 8 k x))) ∧
    (traceFmt s = some () →
      gives (.vtfade pg vd a b) [(a, 16), (b, 32)] 16 (fun k =>
        let p := BitVec.ofNat 32 (lane 32 (k / 2) y)
        fadeTl16 (lane 16 k x) 1 (p.toNat % 2 ^ 16) (max (-16383) (min (p.extractLsb' 16 16).toInt 16383))) ∧
      gives (.vtacc pg vd a b) [(a, 16), (b, 32)] 16 (fun k =>
        encodeTl16 (rne32 ((dec32 (decode32 (lane 16 k x))).add .rne (dec32 (lane 32 (k / 2) y))))) ∧
      gives (.vtdec pg vd a) [(a, 16)] 32 (fun k => decode32 (lane 16 k x)) ∧
      gives (.vtenc pg vd a) [(a, 32)] 16 (fun k => if k < 8 then encodeTl16 (lane 32 k x) else 0x4000))

/-- R109: `vbc`, `vmvx` and `vmxv` move between x registers and lanes, `bq` and `aq`; `vmvx` from an empty `bq` waits, and from one
declared 0 outside compatibility mode traps with ILLEGAL (R84, R85). R118: `vperm` and `vrot`. R119: the four votes. R120: `vmatch` gives
the lowest active lane of the same value. R121, R46, Table 6-4: the reductions of the active lanes, in every lane of the destination or
pushed into `bq`. R122: the predicate forms, p0 all ones and not written. -/
def Obligations.LanesMoveAndReduce : Prop :=
  ∀ (s : State) (pg pd ps pt : PReg) (ew : BitVec 2) (rd rs vd a b k : Reg) (x y : Vec) (sl : Slot),
    let w := widthOf ew
    let n := 256 / w
    let act : Nat → Bool := fun j => (s.slot.rp pg).getLsbD (w / 8 * j)
    let lanes := (List.range n).filter act
    let by_ : Instr → List (Reg × Nat) → (Nat → Nat) → Prop := fun i srcs val =>
      s.vready i srcs [] (some vd) = .go x y sl →
        ∃ r : Vec, (∀ j, j < n → lane w j r = if act j then val j % 2 ^ w else lane w j (oldDst s.slot vd)) ∧
          Leaves i s { (putDst sl vd r).next with pfx := none }
    let whole : Instr → Nat → Nat → Word → Prop := fun i wd val push =>
      s.vready i [(a, w)] [] (some vd) = .go x y sl →
        if vd = 30 then Leaves i s { sl.next with bq := sl.bq ++ [push], pfx := none }
        else ∃ r : Vec, (∀ j, j < 256 / wd → lane wd j r = val % 2 ^ wd) ∧ Leaves i s { (putDst sl vd r).next with pfx := none }
    let signed : Nat → Int := fun v => (BitVec.ofNat w v).toInt
    let some_ := lanes.any fun j => lane w j x ≠ 0
    let ballot := ((List.range n).map fun j => if act j ∧ lane w j x ≠ 0 then 2 ^ j else 0).sum
    let uniform := lanes.all fun i => lanes.all fun j => lane w i x == lane w j x
    let votes := if k = 0 then (if some_ then 1 else 0) else if k = 1 then (if lanes.all fun j => lane w j x ≠ 0 then 1 else 0)
      else if k = 2 then ballot else if uniform then 1 else 0
    let sum := (lanes.map fun j => lane w j x).sum
    let low : Int := lanes.foldl (fun m j => min m (signed (lane w j x))) (2 ^ (w - 1) - 1)
    let high : Int := lanes.foldl (fun m j => max m (signed (lane w j x))) (-(2 ^ (w - 1)))
    by_ (.vbc pg ew vd rs) [] (fun _ => (s.rx rs).toNat) ∧
    (a ≠ 30 → s.vready (.vmvx ew rd a k) [(a, w)] [] none = .go x y sl →
      Leaves (.vmvx ew rd a k) s { sl.after rd (BitVec.ofInt 64 (signed (lane w k.toNat x))) with pfx := none }) ∧
    (∀ v q, s.slot.bq = v :: q → (s.slot.compat = true ∨ s.slot.ports.bq ≠ 0) →
      Leaves (.vmvx ew rd 30 k) s { s.slot.after rd v with bq := q, pfx := none }) ∧
    (s.slot.compat = false → s.slot.ports.bq = 0 →
      exec (.vmvx ew rd 30 k) s = .next (s.trap 0x01 (wordOf (.vmvx ew rd 30 k)))) ∧
    (s.slot.bq = [] → s.slot.compat = true ∨ s.slot.ports.bq ≠ 0 → exec (.vmvx ew rd 30 k) s = .next s) ∧
    (s.vready (.vmxv ew vd rs k) [] [] (some vd) = .go x y sl →
      if vd = 31 then Leaves (.vmxv ew vd rs k) s { sl.next with aq := sl.aq ++ [s.rx rs], pfx := none }
      else ∃ r : Vec, (∀ j, j < n → lane w j r = if j = k.toNat then (s.rx rs).toNat % 2 ^ w else lane w j (oldDst s.slot vd)) ∧
        Leaves (.vmxv ew vd rs k) s { (putDst sl vd r).next with pfx := none }) ∧
    by_ (.vperm pg ew vd a b) [(a, w), (b, w)] (fun j => if lane w j y < n then lane w (lane w j y) x else 0) ∧
    by_ (.vrot pg ew vd a k) [(a, w)] (fun j => lane w ((j + k.toNat) % n) x) ∧
    by_ (.vmatch pg ew vd a) [(a, w)] (fun j => (lanes.find? fun i => lane w i x == lane w j x).getD j) ∧
    whole (.vvote pg ew vd a k) 32 votes (BitVec.ofNat 64 votes) ∧
    (ew ≠ 3 → whole (.vredAdd pg ew vd a) w sum (BitVec.ofInt 64 (BitVec.ofNat w sum).toInt)) ∧
    (ew = 2 → let tree := faddTree fun j => if act j then lane 32 j x else 0x80000000
      whole (.vredFadd pg vd a) 32 tree (BitVec.ofNat 64 tree)) ∧
    (ew ≠ 3 → whole (.vredMin pg ew vd a) w (BitVec.ofInt w low).toNat (BitVec.ofInt 64 low) ∧
      whole (.vredMax pg ew vd a) w (BitVec.ofInt w high).toNat (BitVec.ofInt 64 high)) ∧
    (ew = 3 → let lo := rne32 (lanes.foldl (fun m j => m.minimum (dec32 (lane 32 j x))) (.inf false))
      let hi := rne32 (lanes.foldl (fun m j => m.maximum (dec32 (lane 32 j x))) (.inf true))
      whole (.vredMin pg ew vd a) 32 lo (BitVec.ofNat 64 lo) ∧ whole (.vredMax pg ew vd a) 32 hi (BitVec.ofNat 64 hi)) ∧
    (let pred : PReg → BitVec 32 := fun p => if p = 0 then 0xFFFFFFFF else s.slot.p[p.toNat]
     let sets : Instr → BitVec 32 → Prop := fun i v =>
      Leaves i s { s.slot.next with p := if pd = 0 then s.slot.p else s.slot.p.set pd.toNat v, pfx := none }
     sets (.pand pd ps pt) (pred ps &&& pred pt) ∧ sets (.por pd ps pt) (pred ps ||| pred pt) ∧ sets (.pnot pd ps) (~~~pred ps) ∧
       sets (.pset pd rs) ((s.rx rs).extractLsb' 0 32))

/-- R106, R107: with its operands read and each active element whole in TCM and aligned, a vector load gives each active lane its bytes
and leaves the others as the destination held them; a vector store writes each active element's bytes, a later element over an earlier
one, and no other byte. The elements are the 32 bytes of `vld` and `vst`, or the lanes of the strided and indexed forms. No error stands
in memory (R101). That a form with no active element still pushes into `lq` or pops `sq`, and that one waits on a port before its
addresses are checked, are the model's choice (assumption 93). -/
def Obligations.VectorMemoryFormsMoveTcm : Prop :=
  ∀ (s : State) (pg : PReg) (ew : BitVec 2) (vd rs rt : Reg) (off : BitVec 9) (sl : Slot) (data : Vec),
    let p := s.slot.rp pg
    let base := s.rx rs + BitVec.ofInt 64 (off.toInt * 4)
    let w := widthOf ew
    let key : Word → Nat := fun va => (Place.tcm s.cur.core).key va.toNat
    let loads : Instr → List Reg → Nat → (Nat → Word) → Prop := fun i regs w addr =>
      s.bad = [] → s.vready i [] regs (some vd) = .go 0 0 sl →
      (∀ j, j < 256 / w → p.getLsbD (w / 8 * j) = true → (addr j).toNat % (w / 8) = 0 ∧ (addr j).toNat + w / 8 ≤ 0x10000) →
        ∃ t r, exec i s = .next t ∧ SlotIs s t { (putLoad sl vd r).next with pfx := none } ∧
          { t with cores := s.cores, hidden := s.hidden } = s ∧
          ∀ j, j < 256 / w → lane w j r = if p.getLsbD (w / 8 * j) then
            natOfBytes ((List.range (w / 8)).map fun n => s.readByte s.agent (key (addr j) + n)) else lane w j (oldDst s.slot vd)
    let stores : Instr → List Reg → Nat → (Nat → Word) → Prop := fun i regs w addr =>
      s.bad = [] → s.storeReady i vd regs = .go data 0 sl →
      (∀ j, j < 256 / w → p.getLsbD (w / 8 * j) = true → (addr j).toNat % (w / 8) = 0 ∧ (addr j).toNat + w / 8 ≤ 0x10000) →
        let touches : Nat → Nat → Prop := fun j a => j < 256 / w ∧ p.getLsbD (w / 8 * j) = true ∧ key (addr j) ≤ a ∧
          a < key (addr j) + w / 8
        ∃ t, exec i s = .next t ∧ SlotIs s t { sl.next with pfx := none } ∧
          (∀ a, (∀ j, ¬touches j a) → t.byte a = s.byte a) ∧
          (∀ a j, touches j a → (∀ i, j < i → ¬touches i a) →
            t.byte a = BitVec.ofNat 8 (lane w j data / 256 ^ (a - key (addr j)))) ∧
          { t with cores := s.cores, mem := s.mem, hidden := s.hidden, nextId := s.nextId, resv := s.resv } = s
    (base.toNat % 4 = 0 → loads (.vld pg vd rs off) [] 8 (fun j => base + BitVec.ofNat 64 j)) ∧
    (base.toNat % 4 = 0 → stores (.vst pg vd rs off) [] 8 (fun j => base + BitVec.ofNat 64 j)) ∧
    loads (.vlds pg ew vd rs rt) [] w (fun j => BitVec.ofInt 64 ((s.rx rs).toInt + j * (s.rx rt).toInt)) ∧
    stores (.vsts pg ew vd rs rt) [] w (fun j => BitVec.ofInt 64 ((s.rx rs).toInt + j * (s.rx rt).toInt)) ∧
    loads (.vldx pg ew vd rs rt) [rt] w
      (fun j => BitVec.ofInt 64 ((s.rx rs).toInt + (BitVec.ofNat w (lane w j (s.slot.rv rt.toNat))).toInt)) ∧
    stores (.vstx pg ew vd rs rt) [rt] w
      (fun j => BitVec.ofInt 64 ((s.rx rs).toInt + (BitVec.ofNat w (lane w j (s.slot.rv rt.toNat))).toInt)) ∧
    (p ≠ 0 → base.toNat % 4 ≠ 0 → s.vready (.vld pg vd rs off) [] [] (some vd) = .go 0 0 sl →
      exec (.vld pg vd rs off) s = .next (s.trap 0x03 base)) ∧
    (p ≠ 0 → base.toNat % 4 ≠ 0 → s.storeReady (.vst pg vd rs off) vd [] = .go data 0 sl →
      exec (.vst pg vd rs off) s = .next (s.trap 0x03 base))

/-! ### Clusters -/

/-- R149, R150, R152: a cluster form traps with CLUARG for a core above 7; it waits while an operation of its core is in flight, and
otherwise joins and its slot waits. Once all eight cores have joined one form (for `cbc` naming one core), each with budget left (R63),
each slot's rd gets the result, which depends on what its operands depended on (R131), the slot retires, and each core's round moves on:
the sum modulo 2^64, the chain of rounded additions from core 0 on, the least or the greatest signed value, nothing for `cbar`, and for
`cbc` and `cxch` the contribution of the core named. Where they disagree, each of the eight activations ends by a trap with CLUMIS, the
form's word as its value, which each of the eight cores reports (but for one of channel 62 on a service core, R155), and its core's round
moves on. -/
def Obligations.ClusterRoundsJoinAndComplete : Prop :=
  ∀ (s : State) (rd rs rc : Reg) (cl : Nat) (k : Fin 8 → Fin 4) (form : Fin 8 → Nat) (y a : Fin 8 → Word)
    (w : Fin 8 → BitVec 32) (rds : Fin 8 → Reg),
    let c := s.cur.core
    let joins : Instr → Nat → Reg → Word → Word → Prop := fun i f rd v arg =>
      ((s.core c).join ≠ none → exec i s = .next s) ∧
      ((s.core c).join = none → ∃ t, exec i s = .next t ∧ t.slotOf c s.cur.slot = { s.slot with wait := .round rd } ∧
        (∃ w, encode i = some w ∧ (t.core c).join = some ⟨s.cur.slot.val, f, v, arg, w⟩) ∧
        (∀ d j, d ≠ c ∨ j ≠ s.cur.slot → t.slotOf d j = s.slotOf d j) ∧ { t with cores := s.cores } = s ∧
        ∀ d, { t.core d with slots := (s.core d).slots, join := (s.core d).join } = s.core d)
    let ints := (List.ofFn y).map BitVec.toInt
    let result : Nat → Fin 8 → Word := fun f r => match f with
      | 0 => BitVec.ofNat 64 ((List.ofFn y).map BitVec.toNat).sum
      | 1 => BitVec.ofNat 64 (faddChain ((List.ofFn y).map fun v => (v.extractLsb' 0 32).toNat))
      | 2 => BitVec.ofInt 64 (ints.min?.getD 0)
      | 3 => BitVec.ofInt 64 (ints.max?.getD 0)
      | 4 => 0
      | _ => (List.ofFn y).getD (a r).toNat 0
    joins (.credAdd rd rs) 0 rd (s.rx rs) 0 ∧ joins (.credFadd rd rs) 1 rd (s.rx rs) 0 ∧ joins (.credMin rd rs) 2 rd (s.rx rs) 0 ∧
    joins (.credMax rd rs) 3 rd (s.rx rs) 0 ∧ joins .cbar 4 0 0 0 ∧
    (7 < (s.rx rc).toNat → exec (.cbc rd rs rc) s = .next (s.trap 0x14 (s.rx rc)) ∧
      exec (.cxch rd rs rc) s = .next (s.trap 0x14 (s.rx rc))) ∧
    ((s.rx rc).toNat ≤ 7 → joins (.cbc rd rs rc) 5 rd (s.rx rs) (s.rx rc) ∧ joins (.cxch rd rs rc) 6 rd (s.rx rs) (s.rx rc)) ∧
    ((∀ r : Fin 8, (s.core (cl * 8 + r.val)).join = some ⟨(k r).val, form r, y r, a r, w r⟩ ∧
        (s.slotOf (cl * 8 + r.val) (k r)).wait = .round (rds r)) →
      ((∃ r, (s.slotOf (cl * 8 + r.val) (k r)).left = 0) → exec (.clusterRoundComplete cl) s = .next s) ∧
      ((∀ r, (s.slotOf (cl * 8 + r.val) (k r)).left ≠ 0) → (∀ r, form r = form 0 ∧ (form r = 5 → a r = a 0)) →
        ∃ t, exec (.clusterRoundComplete cl) s = .next t ∧ t.mem = s.mem ∧
        t.net = s.net ∧ ∀ r : Fin 8,
          t.slotOf (cl * 8 + r.val) (k r) =
            { (s.slotOf (cl * 8 + r.val) (k r)).after (rds r) (result (form 0) r) with
              wait := .none, flow := (s.slotOf (cl * 8 + r.val) (k r)).flow.carried (rds r) } ∧
          (∀ j, j ≠ k r → t.slotOf (cl * 8 + r.val) j = s.slotOf (cl * 8 + r.val) j) ∧
          (t.core (cl * 8 + r.val)).join = none ∧ (t.core (cl * 8 + r.val)).round = (s.core (cl * 8 + r.val)).round + 1) ∧
      ((∀ r, (s.slotOf (cl * 8 + r.val) (k r)).left ≠ 0) → (∃ r, form r ≠ form 0 ∨ (form r = 5 ∧ a r ≠ a 0)) →
        ∃ t, exec (.clusterRoundComplete cl) s = .next t ∧ ∀ r : Fin 8,
        t.slotOf (cl * 8 + r.val) (k r) = (s.slotOf (cl * 8 + r.val) (k r)).idle ∧
        (t.core (cl * 8 + r.val)).join = none ∧ (t.core (cl * 8 + r.val)).round = (s.core (cl * 8 + r.val)).round + 1 ∧
        (let sl := s.slotOf (cl * 8 + r.val) (k r)
         ¬((cl * 8 + r.val) % 128 = 0 ∧ sl.chan = some 62) →
          ∃ m ∈ t.net ++ (t.core (cl * 8 + r.val)).backlog, m.src = .core (cl * 8 + r.val) ∧
            m.body = serviceBody (sgOf (cl * 8 + r.val)) (cl * 8 + r.val)
              (serviceWords 0x13 (cl * 8 + r.val) (k r).val sl.msgid (sl.pc.setWidth 64) ((w r).setWidth 64)))))

/-- R147: the oldest record of a pool that can leave goes as a message to the eligible core with the most idle normal slots, the lowest on
ties, with room kept in its queue. R148: an idle cluster that asks nobody probes the next cluster of its supergroup; the victim ships the
youngest min(ceil(n/2), 8) of those of its stealable records whose channel some core of the thief has bound, where n counts every
stealable record (that reading of the two rules is the model's choice, assumption 47); the thief takes them into its pool, or counts an
empty answer and after 15 waits; the end of that wait clears the count. Every record is in one place before and after. R234: once the
resident team of a cluster has had 65,536 cycles of its field and another waits, its residency has expired, and not before. Where no
activation, message or queued record of the expired team is left, the swap saves its region, loads the longest waiter's region where it
has one, and makes that team resident with its cycles beginning now; no byte outside that region changes. That a region in error is taken
as it is (assumption 50) is the model's choice. -/
def Obligations.PoolRecordsAndTeamsTakeTheirTurns : Prop :=
  (∀ (s : State) (cl : Nat),
    let q := s.cluster cl
    let idle : Nat → Nat := fun c => (([0, 1, 2] : List (Fin 4)).filter fun k => !(s.slotOf c k).live).length
    (∀ r c, nextRec s cl = some (r, c) → c / 8 = cl ∧ (s.chan c (hdrChan r.hdr)).room = true ∧ (∀ d, r.only = some d → c = d) ∧
      (r.only = none → ∀ d, d / 8 = cl → (s.chan d (hdrChan r.hdr)).room = true → idle d < idle c ∨ (idle d = idle c ∧ c ≤ d)) ∧
      (∃ a b, poolRecs s cl = a ++ r :: b ∧ ∀ p ∈ a, teamMay s cl p = true → recCore s cl p = none) ∧
      ∃ t h, exec (.taskRecordDelivery cl) s = .next t ∧
        t.net = s.net ++ [⟨s.nextId, .pool cl, false, false, .chan c (hdrChan r.hdr) h r.words (some r.task)⟩] ∧
        h.extractLsb' 15 17 = BitVec.ofNat 17 (r.home * 8) ∧ h.extractLsb' 32 32 = r.hdr.extractLsb' 32 32 ∧
        hdrChan h = hdrChan r.hdr ∧ t.cluster cl = { q with pool := q.pool.erase r } ∧
        t.chan c (hdrChan r.hdr) =
          { s.chan c (hdrChan r.hdr) with reserved := (s.chan c (hdrChan r.hdr)).reserved ++ [s.nextId] } ∧
        { t with net := s.net, nextId := s.nextId, cores := s.cores, clusters := s.clusters } = s) ∧
    (clusterIdle s cl = true → q.asking = false → q.backoff = false → ∃ t, exec (.stealProbe cl) s = .next t ∧
      t.net = s.net ++ [⟨s.nextId, .gleaner cl, false, false, .stealReq cl (cl / 16 * 16 + (cl % 16 + q.probe) % 16)⟩] ∧
      t.cluster cl = { q with probe := q.probe % 15 + 1, asking := true } ∧ (∀ d, d ≠ cl → t.cluster d = s.cluster d) ∧
      { t with net := s.net, nextId := s.nextId, clusters := s.clusters } = s) ∧
    (∀ m x thief victim, s.msg? m = some x → x.body = .stealReq thief victim →
      let all := (poolRecs s victim).filter fun r => !r.pinned
      let cand := all.filter fun r => (List.range 8).any fun k => (s.chan (thief * 8 + k) (hdrChan r.hdr)).hrec.isSome
      let recs := cand.drop (cand.length - min ((all.length + 1) / 2) 8)
      ∃ t, exec (.stealRequest m) s = .next t ∧ recs.length ≤ 8 ∧
        t.net = s.net.filter (fun y => y.id ≠ m) ++ [⟨s.nextId, .gleaner victim, false, false, .stealAns thief recs⟩] ∧
        (∀ r, (t.cluster victim).pool.count r + recs.count r = (s.cluster victim).pool.count r) ∧
        (∀ d, d ≠ victim → t.cluster d = s.cluster d) ∧
        { t with net := s.net, nextId := s.nextId, clusters := s.clusters } = s) ∧
    (∀ m x recs, s.msg? m = some x → x.body = .stealAns cl recs → ∃ t, exec (.stealAnswer m) s = .next t ∧
      t.net = s.net.filter (fun y => y.id ≠ m) ∧ (∀ d, d ≠ cl → t.cluster d = s.cluster d) ∧
      t.cluster cl = (if recs = [] then { q with asking := false, empty := q.empty + 1, backoff := decide (q.empty = 14) }
        else { q with asking := false, pool := q.pool ++ recs, empty := 0, backoff := false }) ∧
      { t with net := s.net, clusters := s.clusters } = s) ∧
    (q.backoff = true → ∃ t, exec (.stealBackoff cl) s = .next t ∧ t.cluster cl = { q with backoff := false, empty := 0 } ∧
      (∀ d, d ≠ cl → t.cluster d = s.cluster d) ∧ { t with clusters := s.clusters } = s)) ∧
  (∀ (s : State) (cl : Nat) (a b : Team) (rest : List Team),
    let q := s.cluster cl
    let now := (s.field (sgField s (cl / 16))).time.toNat
    let keys : Nat → List Nat := fun tb => (List.range (tb * 4096)).map ((Place.bay (cl / 16)).key (cl % 16 * 0x80000) + ·)
    q.teams = a :: b :: rest →
      (65536 ≤ now - a.since → ∃ t, exec (.teamResidencyExpiry cl) s = .next t ∧ t.cluster cl = { q with expired := true } ∧
        (∀ d, d ≠ cl → t.cluster d = s.cluster d) ∧ { t with clusters := s.clusters } = s) ∧
      (now - a.since < 65536 → exec (.teamResidencyExpiry cl) s = .next s) ∧
      (q.expired = true → (∀ c : Fin 8, ∀ k, (s.slotOf (cl * 8 + c.val) k).live = true →
          (s.slotOf (cl * 8 + c.val) k).task ≠ some a.task) → queuedRecords s cl a.task = [] →
        (∀ m ∈ s.net, ∀ c ch h ws, m.body ≠ .chan c ch h ws (some a.task)) →
        ∃ t, exec (.teamSwap cl) s = .next t ∧
          t.cluster cl = { q with
            teams := { b with region := none, since := now } :: rest ++ [{ a with region := some ((keys a.tb).map s.byte) }]
            expired := false } ∧
          (∀ d k, t.slotOf d k = s.slotOf d k) ∧ t.net = s.net ∧
          match b.region with
          | none => t.mem = s.mem
          | some bs => bs.length = b.tb * 4096 →
            (∀ n (h : n < bs.length), t.byte ((Place.bay (cl / 16)).key (cl % 16 * 0x80000) + n) = bs[n]) ∧
            SameBytesBut (keys b.tb) s t))

/-! ### Engine commands -/

/-- R98, R100: `cmd` of a class outside 1 to 5 makes a faulted BADCLASS job with the next id of class 1, records it in `jobstat`, and
tells the node that the word names, if it is one of the core's field (R162). Otherwise, with no job open, it waits while 64 are not
complete, and else opens the next one; it then waits while its queue holds 16 words, changing nothing more; then the word joins the queue
with its job's id, which rd gets. The job is sealed by the word's seal bit or with its 16th command. A class 1 word takes the four
descriptors with it (R159). No job has faulted here: what becomes of a word of a faulted job is the model's reading of R98 and R162
(assumption 31). -/
def Obligations.CommandsJoinTheOpenJobOfTheirClass : Prop :=
  ∀ (s : State) (rd vs : Reg) (w y : Vec) (sl : Slot), s.vready (.cmd rd vs) [(vs, 32)] [] none = .go w y sl →
    let c := s.cur.core
    let k := s.cur.slot
    let cls := (w.extractLsb' 8 4).toNat
    let q := s.classQ c cls
    let frame : State → BitVec 16 → Prop := fun t id =>
      t.slotOf c k = { sl.after rd (id.setWidth 64) with pfx := none } ∧ (∀ d j, d ≠ c ∨ j ≠ k → t.slotOf d j = s.slotOf d j) ∧
      { t with cores := s.cores, net := s.net, nextId := s.nextId } = s ∧ ∀ d, d ≠ c → t.core d = s.core d
    let node := (w.extractLsb' 16 32).toNat
    (cls < 1 ∨ 5 < cls → let f := s.classQ c 1
      ∃ t, exec (.cmd rd vs) s = .next t ∧ frame t f.nextid ∧
        t.classQ c 1 = { f with nextid := f.nextid + 1, faults := (f.nextid, 1) :: f.faults.filter fun e => e.1 ≠ f.nextid } ∧
        (t.core c).fjob = f.nextid ∧ (t.core c).fcause = 1 ∧ (t.core c).fclass = BitVec.ofNat 4 cls ∧ (t.core c).badc = true ∧
        (t.core c).fsticky = (s.core c).fsticky ∧
        t.net = s.net ++ (if nodeIdOk s (corePart s c) node ∧ nodeField node = coreField s c then
          [⟨s.nextId, .engine c 1, false, false, .fault node none 2 1⟩] else [])) ∧
    (1 ≤ cls → cls ≤ 5 → (∀ j ∈ q.jobs, j.faulted = false) →
      (openJob q = none → 64 ≤ q.jobs.length → exec (.cmd rd vs) s = .next s) ∧
      (openJob q ≠ none → 16 ≤ q.queue.length → exec (.cmd rd vs) s = .next s) ∧
      (openJob q = none → q.jobs.length < 64 → 16 ≤ q.queue.length → ∃ t, exec (.cmd rd vs) s = .next t ∧
        t.classQ c cls = { q with
          nextid := q.nextid + 1, faults := q.faults.filter fun e => e.1 ≠ q.nextid
          jobs := q.jobs ++ [⟨q.nextid, false, 0, 0, [], none, false, false, false, [], []⟩] } ∧
        (∀ d j, t.slotOf d j = s.slotOf d j) ∧ (∀ o, clsIx o ≠ clsIx cls → t.classQ c o = s.classQ c o) ∧
        { t with cores := s.cores } = s) ∧
      (q.queue.length < 16 → (openJob q = none → q.jobs.length < 64) →
        let id := ((openJob q).map Job.id).getD q.nextid
        let words := ((openJob q).map Job.words).getD 0 + 1
        ∃ t m, exec (.cmd rd vs) s = .next t ∧ frame t id ∧ t.net = s.net ∧ (t.classQ c cls).queue = q.queue ++ [m] ∧ m.word = w ∧ m.job = id ∧
          m.node = none ∧ (cls = 1 → m.desc = (s.core c).tdesc.toList) ∧
          (cls = 3 → m.rgpat = some ((s.core c).rgpat.setWidth 64)) ∧
          (t.classQ c cls).nextid = (if openJob q = none then q.nextid + 1 else q.nextid) ∧
          (t.classQ c cls).jobs.map Job.id = q.jobs.map Job.id ++ (if openJob q = none then [q.nextid] else []) ∧
          ((openJob (t.classQ c cls)).isNone = (w.getLsbD 12 || decide (16 ≤ words))) ∧
          (∀ o, clsIx o ≠ clsIx cls → t.classQ c o = s.classQ c o)))

/-- R99: `jwait` seals the open job as it begins and retires once at most n jobs of its class are not complete, waiting else; `jpoll`
gives their number for x0, and otherwise a job's status: 3 for one too old, 0 while it is not complete, 2 and its cause where it faulted,
else 1. R160, R162: the oldest job, sealed and with no command left, completes and each of its targets gets a token from its engine; a
node's own job tells the node instead (R222), the saved target of a pass that it has restored gets one too (R200), and where a pass of it
was saved only the targets of the commands that have restored one (R196). Before a token its writes are visible in the field, and a
collective's in the partition (R308); with none the completion of another job makes nothing visible (R153). No byte changes. R154: as it
begins, `xfence` seals the open job of each class of its first set and records the next job of each. While a job opened before that one is
not complete, it waits; so it does, where the set names N, while a message of its slot to an agent of the partition is under way. Then the
slot retires, and owes its second set: the writes of the slot and all that its reads returned, where the first set names L; those on a
path of a class of the first set that its reads returned; and those that the jobs of its core, of the classes named and opened before it
began, made or read (R129); and no write that neither it nor a job of its core made or read. With L, its instructions that have yet to
take effect are owed too. What a slot owes is, before any later access of a class of that second set, visible to every agent of those
classes in the partition: that it is made visible as late as that, and no sooner, is the model's choice (assumption 22). No byte changes. -/
def Obligations.JobsSealCompleteAndHoldCrossPathFences : Prop :=
  (∀ (s : State) (rd rs : Reg) (n : BitVec 7) (eng : BitVec 4) (c cls : Nat) (j : Job) (js : List Job),
    let k := eng.toNat
    let q := s.classQ s.cur.core k
    let count := (q.jobs.filter fun j => !j.faulted).length
    let id := (s.rx rs).setWidth 16
    let waits : State → Option (List (Nat × BitVec 16)) → Prop := fun t b =>
      t.slotOf s.cur.core s.cur.slot = { (if count ≤ n.toNat then s.slot.next else s.slot) with begun := b } ∧
      (∀ d i, d ≠ s.cur.core ∨ i ≠ s.cur.slot → t.slotOf d i = s.slotOf d i) ∧ { t with cores := s.cores } = s
    (s.slot.begun = none → ∃ t, exec (.jwait n eng) s = .next t ∧ waits t (if count ≤ n.toNat then none else some []) ∧
      openJob (t.classQ s.cur.core k) = none ∧ (t.classQ s.cur.core k).queue = q.queue ∧
      (unfinished (t.classQ s.cur.core k)).map Job.id = (unfinished q).map Job.id) ∧
    (s.slot.begun ≠ none → (count ≤ n.toNat → Leaves (.jwait n eng) s { s.slot.next with begun := none }) ∧
      (n.toNat < count → exec (.jwait n eng) s = .next s)) ∧
    Gives (.jpoll rd rs eng) s rd (if rs = 0 then BitVec.ofNat 64 count
      else if 4096 ≤ (q.nextid - 1 - id).toNat then 3
      else if q.jobs.any (fun j => j.id == id && !j.faulted) then 0
      else match q.faults.find? fun f => f.1 == id with
        | some f => 2 ||| (f.2.setWidth 64 <<< 8)
        | none => 1) ∧
    ((s.classQ c cls).jobs.filter (fun j => !j.faulted) = j :: js → j.sealed = true → j.left = 0 → (s.classQ c cls).waiting = [] →
        let tokens : List (BitVec 32) → List Body := fun l => l.map fun t => .token t.toNat 1 none none (some c)
        ∃ t new, exec (.jobComplete c cls j.id.toNat) s = .next t ∧
          (t.classQ c cls).jobs = (s.classQ c cls).jobs.filter (fun k => k.id ≠ j.id) ∧
          t.net = s.net ++ new ∧ new.map Msg.body = j.carried.map (fun t => .passToken t.toNat) ++
            (if j.quiet then tokens j.resumed
              else match j.node with
                | some n => [.ownJob n c cls j.id.toNat]
                | none => tokens j.targets) ∧
          (∀ m ∈ new, m.src = .engine c cls) ∧ (∀ d i, t.slotOf d i = s.slotOf d i) ∧ t.mem = s.mem ∧ t.lost = s.lost ∧
          (new = [] → cls ≠ 5 → t.hidden = s.hidden) ∧
          (new ≠ [] ∨ cls = 5 → ∀ h ∈ t.hidden, (c, cls, j.id) ∈ h.jobs → ∀ ag,
            inScope s (if cls = 5 then .part else .fld) (classAgent s c cls) ag = true → sees t ag h = true))) ∧
  (∀ (s : State) (p q : BitVec 8),
    let c := s.cur.core
    let classes := ([(1, 2), (2, 1), (3, 3), (4, 4), (5, 5)] : List (Nat × Nat)).filterMap fun e =>
      if p.getLsbD e.1 then some e.2 else none
    let pendingOf : Nat → List (BitVec 16) := fun k => ((s.classQ c k).jobs.filter fun j => !j.faulted).map Job.id
    let ids := (s.slot.begun).getD (classes.map fun k => (k, (s.classQ c k).nextid))
    let before : Nat × BitVec 16 → BitVec 16 → Prop := fun e j => ¬(j - e.2).toNat < ((s.classQ c e.1).nextid - e.2).toNat
    let busy := ∃ e ∈ ids, ∃ j ∈ pendingOf e.1, before e j
    let held := p.getLsbD 6 = true ∧ s.sendsOut .part = true
    (∃ t, exec (.xfence p q) s = .next t ∧ { t with cores := s.cores, nextId := s.nextId } = s ∧
      (∀ d k, d ≠ c ∨ k ≠ s.cur.slot → t.slotOf d k = s.slotOf d k) ∧
      (s.slot.begun = none → ∀ k ∈ classes, openJob (t.classQ c k) = none ∧ (t.classQ c k).queue = (s.classQ c k).queue) ∧
      (busy ∨ held → t.slotOf c s.cur.slot = { s.slot with begun := some ids }) ∧
      (¬busy → ¬held → ∃ o : Owed,
        t.slotOf c s.cur.slot = { s.slot.next with
          begun := none, early := if q.getLsbD 0 then [] else s.slot.early
          owed := if o.ids = [] ∧ o.flights = [] ∧ o.msgs = [] then s.slot.owed else s.slot.owed ++ [o] } ∧
        o.view = .classes s.agent q ∧ o.later = ⟨q.getLsbD 0, q.getLsbD 0, q.getLsbD 6, q &&& 0x3E ≠ 0⟩ ∧
        (p.getLsbD 0 = true → ∀ f ∈ s.slot.flights, (f.reads || f.writes) = true → f.id ∈ o.flights) ∧
        (p.getLsbD 0 = true → ∀ h ∈ s.hidden, h.writer = s.agent ∨ s.agent ∈ h.readers → h.id ∈ o.ids) ∧
        (∀ h ∈ s.hidden, s.agent ∈ h.readers → p.getLsbD (pathBit h.writer) = true → h.id ∈ o.ids) ∧
        (∀ e ∈ ids, ∀ h ∈ s.hidden, ∀ j, (c, e.1, j) ∈ h.jobs ++ h.users → before e j → h.id ∈ o.ids) ∧
        ∀ id ∈ o.ids, ∃ h ∈ s.hidden, h.id = id ∧
          (h.writer = s.agent ∨ s.agent ∈ h.readers ∨ ∃ k j, (c, k, j) ∈ h.jobs ++ h.users))) ∧
    (∀ (i : Instr), ∀ o ∈ s.slot.owed, o.view = .classes s.agent q → o.holds s.slot i = true →
      ∀ h ∈ (s.before i).hidden, h.id ∈ o.ids → ∀ ag, inScope s .part s.agent ag = true → q.getLsbD (pathBit ag) = true →
        sees (s.before i) ag h = true))

/-- R160, R161: where the matrix engine or the copy unit takes a core's command and it fails a common check or one of its own, its job
faults with that cause: `jobstat` holds it, the command leaves the queue, the job is no longer among those not complete, and no byte of
memory and no slot changes. The same for the checks of a copy that need its addresses: a range of any of its moves, of the destination or
of the list of `cpyg`, that lies in no window, in an alias window or in two faults it with ACCESS (R170); and then, with list and
destination permitted and the list read, the first source element of `cpyg` that fails faults it with MISALIGN or, if it is aligned, with
ACCESS (R174). While a job of its class has no command left and is to complete, the unit waits. A later command of a faulted job, taken in
its turn, leaves the queue and does nothing more. Each unit falls to the row of its opcode. -/
def Obligations.FailedCommandsFaultTheirJobs : Prop :=
  ∀ (s : State) (cl cls cause : Nat) (r : Nat) (a : Arb) (m : Cmd) (rest : List Cmd) (j : Job) (i : Instr),
    let c := cl * 8 + r
    let op := cmdOpcode m.word
    let q := s.classQ c cls
    let check : Option Nat := if cls = 2 then copyCheck m else if op = 0x13 then mmaCheck m
      else if op = 0x14 then mzeroCheck m else if op = 0x15 then accCheck m else memCheck m
    let faults : Nat → Prop := fun cause => ∃ t, exec i s = .next t ∧ JobFaulted s t c cls m rest cause
    let v := copyArgs m.word
    let out : Acc → Int → Nat → Prop := fun acc va n => copyOut s c acc va n = true
    let permitted : Acc → Int → Nat → Prop := fun acc va n => ∃ ks, copyRes s c acc va n = .keys ks
    let list : List (Option Nat) := copyKeys s c .load v.ilist (4 * v.n)
    let elem : Nat → Int := fun x =>
      v.src + (natOfBytes (s.readRes (classAgent s c 2) (copyKeys s c .load ((v.ilist + 4 * x : Nat) : Int) 4)) : Int)
    ((cls = 1 ∧ matPick s cl = some (r, a) ∧ r < 8 ∧
        i = (if op = 0x11 then Instr.mldt cl else if op = 0x12 then .mst cl else if op = 0x13 then .mma cl
          else if op = 0x14 then .mzero cl else if op = 0x15 then .maccSt cl else .mld cl)) ∨
      (cls = 2 ∧ copyPick s cl = some (r, a) ∧
        i = (if op = 0x21 then Instr.cpyg cl else if op = 0x22 then .cpys cl else if op = 0x23 then .cpyt cl else .cpy cl))) →
    q.queue = m :: rest → q.waiting = [] →
    (q.due = true → exec i s = .next s) ∧
    (q.due = false → (∀ k ∈ q.jobs, k.id = m.job → k.faulted = true) → ∃ t, exec i s = .next t ∧
      t.classQ c cls = { q with queue := rest, hold := none } ∧ t.mem = s.mem ∧ t.lost = s.lost ∧ t.hidden = s.hidden ∧
      t.net = s.net ∧ t.reports = s.reports ∧ ∀ d k, t.slotOf d k = s.slotOf d k) ∧
    (q.due = false → j ∈ q.jobs → j.id = m.job → j.faulted = false →
      (commonCheck s c m.word = some cause ∨ (commonCheck s c m.word = none ∧ check = some cause) →
        ∃ t, exec i s = .next t ∧ JobFaulted s t c cls m rest cause ∧ t.hidden = s.hidden) ∧
      (cls = 2 → commonCheck s c m.word = none → copyCheck m = none →
        (op ≠ 0x21 → (∃ mv ∈ copyMoves v [], out .load mv.src mv.n ∨ out .store mv.dst mv.n) → faults 0x07) ∧
        (op = 0x21 → out .store v.dst (v.n * v.es) ∨ out .load v.ilist (4 * v.n) → faults 0x07) ∧
        (op = 0x21 → permitted .load v.ilist (4 * v.n) → permitted .store v.dst (v.n * v.es) →
          firstInterlock s c v.ilist (4 * v.n) = none → ¬MeetsError s (classAgent s c 2) (· ∈ realKeys list) (fun _ _ => False) →
          ∀ x, x < v.n → (∀ y, y < x → elem y % v.es = 0 ∧ permitted .load (elem y) v.es) →
            (elem x % v.es ≠ 0 → faults 0x13) ∧ (elem x % v.es = 0 → out .load (elem x) v.es → faults 0x07))))

/-- R164 to R168: where the matrix engine takes a core's command that passes its checks and meets no error, `mld` and `mldt` give the tile
region its bytes of the bay, `mldt` transposed by elements; `mst` writes the tile's rows to the bay, a higher row over a lower one; `mma`
gives each element of the corner its grouped sum of exact products; `mzero` makes all 4096 elements +0.0; `macc.st` writes the corner in
its format. No other byte changes; the command leaves its queue, performed. R156, R161: where an uncorrectable error lies among the bytes
that it reads, or a row that it writes covers one in part, its job faults with UNCORR, an error of those that stand is reported, and
nothing is written: that a row of the bay, or the whole of a tile, is one write here is the model's choice (assumption 104). -/
def Obligations.MatrixCommandsHaveTheirEffect : Prop :=
  ∀ (s : State) (cl r : Nat) (a : Arb) (m : Cmd) (rest : List Cmd),
    let c := cl * 8 + r
    let w := m.word
    let op := cmdOpcode w
    let q := s.classQ c 1
    let g := memArgs m
    let es := g.d.esize
    let ag := classAgent s c 1
    let full : Nat → Nat := fun n => if n = 0 then 64 else n
    let performed : State → Prop := fun t => (t.classQ c 1).queue = rest ∧ t.net = s.net ∧
      (∀ d k, t.slotOf d k = s.slotOf d k) ∧
      (t.classQ c 1).jobs = q.jobs.map fun j => if j.id = m.job then { j with left := j.left - 1 } else j
    let runs : Instr → Option Nat → (Nat → Prop) → (Nat → Nat → Prop) → (State → Prop) → Prop := fun i check reads writes effect =>
      check = none →
        (¬MeetsError s ag reads writes → ∃ t, exec i s = .next t ∧ performed t ∧ effect t) ∧
        (MeetsError s ag reads writes → ∃ t, exec i s = .next t ∧ JobFaulted s t c 1 m rest 0x05 ∧
          ∃ b ∈ s.bad, t.ctl.reports = s.ctl.reports ++ [.uncorrectable b.key])
    let tile : Nat → TDesc → Nat → Prop := fun n d k => ∃ i b, i < d.rows ∧ b < d.cols * d.esize ∧ k = tileKey c n i b
    let accs : Nat → Nat → Nat → Nat → Prop := fun n rows cols k => ∃ x y b, x < rows ∧ y < cols ∧ b < 4 ∧ k = accKey cl n x y + b
    let bay : Nat → Nat → Nat → Nat → Nat → Nat → Prop := fun addr dist rows len i k =>
      i < rows ∧ ∃ b, b < len ∧ k = bayKey c (addr + i * dist + b)
    let stores : Nat → Nat → (Nat → Nat → Nat) → (Nat → Nat → Byte) → State → Prop := fun rows len key data t =>
      (∀ x, (∀ i n, i < rows → n < len → x ≠ key i n) → t.byte x = s.byte x) ∧
      ∀ i n, i < rows → n < len → (∀ j k, i < j → j < rows → k < len → key j k ≠ key i n) → t.byte (key i n) = data i n
    matPick s cl = some (r, a) → r < 8 → q.queue = m :: rest → q.waiting = [] →
    (∀ j ∈ q.jobs, j.doomed = false ∧ j.due = false) → (∃ j ∈ q.jobs, j.id = m.job ∧ j.faulted = false) → commonCheck s c w = none →
      (op = 0x10 → runs (.mld cl) (memCheck m) (fun k => ∃ i, bay g.addr g.t g.d.rows (g.d.cols * es) i k) (fun _ => tile g.tile g.d) fun t =>
        (∀ x, (∀ i b, i < g.d.rows → b < g.d.cols * es → x ≠ tileKey c g.tile i b) → t.byte x = s.byte x) ∧
        ∀ i b, i < g.d.rows → b < g.d.cols * es →
          t.byte (tileKey c g.tile i b) = s.readByte ag (bayKey c (g.addr + i * g.t + b))) ∧
      (op = 0x11 → runs (.mldt cl) (memCheck m) (fun k => ∃ i, bay g.addr g.t g.d.cols (g.d.rows * es) i k) (fun _ => tile g.tile g.d) fun t =>
        (∀ x, (∀ i b, i < g.d.rows → b < g.d.cols * es → x ≠ tileKey c g.tile i b) → t.byte x = s.byte x) ∧
        ∀ n k b, n < g.d.rows → k < g.d.cols → b < es →
          t.byte (tileKey c g.tile n (k * es + b)) = s.readByte ag (bayKey c (g.addr + k * g.t + n * es + b))) ∧
      (op = 0x12 → runs (.mst cl) (memCheck m) (tile g.tile g.d) (bay g.addr g.t g.d.rows (g.d.cols * es)) (stores g.d.rows (g.d.cols * es)
        (fun i b => bayKey c (g.addr + i * g.t + b)) fun i b => s.byte (tileKey c g.tile i b))) ∧
      (op = 0x13 → let acc := fld w 48 3
        let ta := fld w 52 2
        let tb := fld w 54 2
        let da := m.tdesc ta
        let db := m.tdesc tb
        runs (.mma cl) (mmaCheck m) (fun k => tile ta da k ∨ tile tb db k ∨ accs acc da.rows db.rows k) (fun _ _ => False) fun t =>
          (∀ x, (∀ i n b, i < da.rows → n < db.rows → b < 4 → x ≠ accKey cl acc i n + b) → t.byte x = s.byte x) ∧
          ∀ i n, i < da.rows → n < db.rows → accElem t cl acc i n = matDot (accElem s cl acc i n)
            (matRow (tileBytes s c ta) (tableImage s c da.tab) da i) (matRow (tileBytes s c tb) (tableImage s c db.tab) db n) % 2 ^ 32) ∧
      (op = 0x14 → runs (.mzero cl) (mzeroCheck m) (fun _ => False) (fun _ _ => False) fun t =>
        (∀ x, (∀ i n b, i < 64 → n < 64 → b < 4 → x ≠ accKey cl (fld w 48 3) i n + b) → t.byte x = s.byte x) ∧
        ∀ i n, i < 64 → n < 64 → accElem t cl (fld w 48 3) i n = 0) ∧
      (op = 0x15 → let fmt := fld w 52 4
        let size := if fmt = 1 then 4 else 2
        let cols := full (fld w 152 7)
        let dist := if fld w 128 16 = 0 then cols * size else fld w 128 16
        runs (.maccSt cl) (accCheck m) (accs (fld w 48 3) (full (fld w 144 7)) cols)
          (bay (fld w 64 48) dist (full (fld w 144 7)) (cols * size)) (stores (full (fld w 144 7)) (cols * size)
          (fun i b => bayKey c (fld w 64 48 + i * dist + b)) fun i b =>
            let x := dec32 (accElem s cl (fld w 48 3) i (b / size))
            BitVec.ofNat 8 ((if fmt = 2 then encFloat layFp16 .rne x else if fmt = 3 then encFloat layBf16 .rne x else rne32 x) /
              256 ^ (b % size))))

/-- R169 to R175: the moves of a copy are those of its command, in order. Where the copy unit takes one whose plan is those moves, the
whole source as it stood is written to the destination, a later move over an earlier one, and no other byte changes. A refused page makes
the command wait, with a service message of cause 0x15; the reply 0 ends the wait, any other faults its job with ACCESS, and one that no
copy awaits has no effect (assumption 86). An error among the bytes of the list of `cpyg`, or else of a source, or one that a move covers
in part (each is taken by itself, assumption 104), faults its job with UNCORR: it is reported, and nothing is written (R156, R161). Which
refused page comes first, and its address in the message, are the model's choice (assumption 98). -/
def Obligations.CopiesStageTheirSourceWhole : Prop :=
  ∀ (s : State) (cl r : Nat) (a : Arb) (m : Cmd) (rest : List Cmd) (ms : List Move),
    let c := cl * 8 + r
    let w := m.word
    let op := cmdOpcode w
    let q := s.classQ c 2
    let ag := classAgent s c 2
    let src : Int := fld w 64 48
    let dst : Int := fld w 128 48
    let n := if fld w 112 16 = 0 then 65536 else fld w 112 16
    let rows := fld w 176 16
    let ss := (BitVec.ofNat 32 (fld w 192 32)).toInt
    let ds := (BitVec.ofNat 32 (fld w 224 32)).toInt
    let es := 2 ^ fld w 48 2
    let i : Instr := if op = 0x21 then .cpyg cl else if op = 0x22 then .cpys cl else if op = 0x23 then .cpyt cl else .cpy cl
    let v := copyArgs w
    let permitted : Acc → Int → Nat → Prop := fun acc va n => ∃ ks, copyRes s c acc va n = .keys ks
    let moves := copyMoves v (if op = 0x21 then listOffs s c v else [])
    let hits : Nat → Nat → Nat → Prop := fun k j x =>
      ∃ mv, ms[k]? = some mv ∧ (realKeys (copyKeys s c .store mv.dst mv.n))[j]? = some x
    (copyPick s cl = some (r, a) → q.queue = m :: rest → q.waiting = [] → (∀ j ∈ q.jobs, j.doomed = false ∧ j.due = false) →
      (∃ j ∈ q.jobs, j.id = m.job ∧ j.faulted = false) → 0x20 ≤ op → op ≤ 0x23 → commonCheck s c w = none → copyCheck m = none →
      ((copyPlan s c w).1 = .go ms →
        (op = 0x20 → ms = [⟨src, dst, n⟩]) ∧
        (op = 0x22 → ms = (List.range rows).map fun x => ⟨src + x * ss, dst + x * ds, n⟩) ∧
        (op = 0x23 → ms.length = rows * n ∧ ∀ x y, x < rows → y < n →
          ms[x * n + y]? = some ⟨src + x * ss + ((y * es : Nat) : Int), dst + y * ds + ((x * es : Nat) : Int), es⟩) ∧
        (op = 0x21 → ms.length = n ∧ ∀ x, x < n → ms[x]? = some
          ⟨src + (natOfBytes (s.readRes ag (copyKeys s c .load ((fld w 192 48 + 4 * x : Nat) : Int) 4)) : Int),
            dst + ((x * es : Nat) : Int), es⟩) ∧
        ∃ t, exec i s = .next t ∧ (t.classQ c 2).queue = rest ∧ t.net = s.net ∧ (∀ d k, t.slotOf d k = s.slotOf d k) ∧
          (∀ x, (∀ k j, ¬hits k j x) → t.byte x = s.byte x) ∧
          ∀ k j x mv, ms[k]? = some mv → (realKeys (copyKeys s c .store mv.dst mv.n))[j]? = some x →
            (∀ k' j', hits k' j' x → k' < k ∨ (k' = k ∧ j' = j)) →
              (s.readRes ag (copyKeys s c .load mv.src mv.n))[j]? = some (t.byte x)) ∧
      (∀ acc va, (copyPlan s c w).1 = .page acc va → ∃ t msg, exec i s = .next t ∧
        (t.classQ c 2) = { q with hold := some (BitVec.ofNat 64 va), queue := { m with begun := true } :: rest } ∧
          t.reports = s.reports ++ [(.copyUnit cl, msg)] ∧
        msg.body = serviceBody (sgOf c) c (serviceWords 0x15 c 0 (m.job.setWidth 64) 0 (BitVec.ofNat 64 va)) ∧
        t.mem = s.mem ∧ ∀ d k, t.slotOf d k = s.slotOf d k) ∧
      (∀ b, (copyPlan s c w).1 = .bad b → b ∈ s.bad ∧ ∃ t, exec i s = .next t ∧ JobFaulted s t c 2 m rest 0x05 ∧
        t.ctl.reports = s.ctl.reports ++ [.uncorrectable b.key]) ∧
      ((op = 0x21 → permitted .load v.ilist (4 * v.n) ∧ permitted .store dst (v.n * es) ∧ firstInterlock s c v.ilist (4 * v.n) = none) →
        let inList := MeetsError s ag (· ∈ realKeys (copyKeys s c .load v.ilist (4 * v.n))) fun _ _ => False
        (op = 0x21 → inList → ∃ b, (copyPlan s c w).1 = .bad b) ∧
        ((op = 0x21 → ¬inList ∧ ∀ mv ∈ moves, mv.src % es = 0) →
          (∀ mv ∈ moves, permitted .load mv.src mv.n ∧ permitted .store mv.dst mv.n) → copyLocked s c moves = false →
          MeetsError s ag (fun k => ∃ mv ∈ moves, k ∈ realKeys (copyKeys s c .load mv.src mv.n))
            (fun x k => ∃ mv, moves[x]? = some mv ∧ k ∈ realKeys (copyKeys s c .store mv.dst mv.n)) →
            ∃ b, (copyPlan s c w).1 = .bad b))) ∧
    (∀ n x h ws task va j, q.queue = m :: rest → q.waiting = [] → s.msg? n = some x → arrivable s x = true → isReply x 0xFFFE = true →
      x.body = .chan c 62 h ws task →
      q.hold = some va → j ∈ q.jobs → j.id = m.job → j.faulted = false → ∃ t, exec (.copyFaultReply n) s = .next t ∧
        (t.classQ c 2).hold = none ∧ t.mem = s.mem ∧ (∀ d k, t.slotOf d k = s.slotOf d k) ∧
        if ws.getD 0 0 = 0 then (t.classQ c 2).queue = q.queue
        else (t.core c).fjob = m.job ∧ (t.core c).fcause = 0x07 ∧ (t.classQ c 2).queue = rest) ∧
    ∀ n x h ws task, s.msg? n = some x → arrivable s x = true → isReply x 0xFFFE = true → x.body = .chan c 62 h ws task →
      q.hold = none → exec (.copyFaultReply n) s = .next (s.finishMsg x (.core c))

/-! ### The ring -/

/-- R193 to R200: where an idle ring takes a command that passes its checks, and no error stands: `rgin` fills an empty slot with a tile
of the bay and faults on a full one; `rgmatch` loads a table and clears the counters; `rggo` begins a pass at the first step boundary,
once the accumulators that it asks to zero are clear, each a unit of its engine; `rgout` stores the tile of a slot, or an accumulator once
the engine selects it, and clears what it is told to clear; `rgsave` writes its area and empties the ring; `rgrest` restores the ring from
an area, and resumes the pass of one, with a hold step in phase 2. That the clearing comes between the taking of the command and its first
lap (assumption 37), that the save of an idle ring holds lap limit 4 and patience 1024 (assumption 41), and what `rgrest` does with an
area of tbl 0 (assumption 99), are the model's choice. -/
def Obligations.RingCommandsHaveTheirEffect : Prop :=
  ∀ (s : State) (sg c : Nat) (m : Cmd) (rest : List Cmd),
    let w := m.word
    let op := cmdOpcode w
    let r := s.ring sg
    let q := s.classQ c 3
    let addr := fld w 64 48
    let key : Nat → Nat := fun a => bayKey (sg * 128) a
    let fam := w.getLsbD 52
    let station := Fin.ofNat 16 (fld w 48 4)
    let dist : Nat → Nat := fun len => if fld w 128 16 = 0 then len else fld w 128 16
    let next := (c % 128 + 1) % 128
    let taken : State → Prop := fun t => (t.classQ c 3).queue = rest ∧ t.net = s.net ∧ (∀ d k, t.slotOf d k = s.slotOf d k) ∧
      (∀ g, g ≠ sg → t.ring g = s.ring g)
    let left : State → Prop := fun t =>
      (t.classQ c 3).jobs = q.jobs.map fun j => if j.id = m.job then { j with left := j.left - 1 } else j
    let stores : Nat → Nat → Nat → (Nat → Nat → Option Byte) → (Nat → Prop) → State → Prop := fun rows len gap data also t =>
      (∀ x, ¬also x → (∀ i n, i < rows → n < len → x ≠ key (addr + i * gap + n)) → t.byte x = s.byte x) ∧
      ∀ i n, i < rows → n < len → (∀ j k, i < j → j < rows → k < len → key (addr + j * gap + k) ≠ key (addr + i * gap + n)) →
        data i n = some (t.byte (key (addr + i * gap + n)))
    s.bad = [] → ringNext s sg = some (c, m) → q.queue = m :: rest → q.waiting = [] →
    (∀ j ∈ q.jobs, j.doomed = false ∧ j.due = false) → commonCheck s c w = none →
      (op = 0x30 → rginCheck m = none →
        ((r.family fam).get station = none → ∃ t tile, exec (.rgin sg) s = .next t ∧ taken t ∧ left t ∧ t.mem = s.mem ∧
          t.ring sg = { (r.setSlot fam station.val (some tile)) with rr := next } ∧ tile.tag.toNat = fld w 56 8 ∧
          tile.desc.toNat = fld w 160 32 ∧ tile.src.toNat = addr ∧ tile.stride.toNat = fld w 128 16 ∧
          ∀ i n, i < tile.d.rows → n < tile.d.len → tile.bytes[i * tile.d.len + n]? =
            some (s.readByte (.ring sg) (key (addr + i * dist tile.d.len + n)))) ∧
        ((r.family fam).get station ≠ none → ∃ t, exec (.rgin sg) s = .next t ∧
          { t with hidden := s.hidden } = (s.modRing sg fun r => { r with rr := next }).faultJob c 3 m.job 0x14 ∧
          t.hidden.map (fun h => { h with jobs := [], users := [] }) = s.hidden.map fun h => { h with jobs := [], users := [] })) ∧
      (op = 0x31 → rgmatchCheck m = none → ∀ es : List MatchEntry, es.length = fld w 112 9 →
        (∀ i, i < es.length → es[i]? = some ⟨BitVec.ofNat 64 (natOfBytes
          ((List.range 8).map fun b => s.readByte (.ring sg) (key addr + 8 * i + b))), true⟩) → tableFault es = none →
        ∃ t, exec (.rgmatch sg) s = .next t ∧ taken t ∧ left t ∧ t.mem = s.mem ∧ t.ring sg = { r with
          rr := next, tbl := true, tblAddr := BitVec.ofNat 48 addr, dstride := BitVec.ofNat 16 (fld w 128 16), entries := es
          met := 0, retired := 0, passby := 0 }) ∧
      (op = 0x32 → rggoCheck m = none → passCheck r addr = none → r.openOnes ≠ [] →
        (∀ d, d / 128 = sg → headOp s d 3 ≠ some 0x34) → (∀ k ∈ rest.head?, cmdOpcode k.word ≠ 0x34) →
        let pat := (m.rgpat).getD 0x40400
        let laps := if fld w 144 4 = 0 then (pat.extractLsb' 16 4).toNat else fld w 144 4
        laps ≠ 0 → ∃ t p, exec (.rggo sg) s = .next t ∧ taken t ∧ (t.classQ c 3).jobs = q.jobs ∧
          t.ring sg = { r with rr := next, pass := some p } ∧ p.core = c ∧ p.job = m.job ∧ p.status = addr ∧ p.limit = laps ∧
          p.patience = (if fld w 128 16 = 0 then (pat.extractLsb' 0 16).toNat else fld w 128 16) ∧ p.lap = 0 ∧ p.step = 0 ∧
          p.tasks = [] ∧ p.dead = false ∧ t.mem = s.mem ∧ p.zero.Nodup ∧
          (∀ z, z ∈ p.zero ↔ w.getLsbD 148 = true ∧ z.1 / 16 = sg ∧ ∃ e ∈ r.openOnes, e.typ = 0 ∧ e.acc = z.2) ∧
          (if p.zero = [] then p.phase = .boundary ∧ p.offers = offersAt r else p.phase = .lapBoundary ∧ p.offers = [])) ∧
      (op = 0x33 → fld w 52 2 ≠ 0 → rgoutCheck m = none → ∀ tile, (r.family (fld w 52 2 == 2)).get station = some tile →
        (addr = 0 ∨ (addr % 4 = 0 ∧ dist tile.d.len % 4 = 0 ∧ inBay addr tile.d.rows (dist tile.d.len) tile.d.len = true)) →
        tile.bytes.length = tile.d.rows * tile.d.len → tile.bad = [] →
        ∃ t, exec (.rgout sg) s = .next t ∧ taken t ∧ left t ∧
          t.ring sg = (if w.getLsbD 54 then { (r.setSlot (fld w 52 2 == 2) station.val none) with rr := next }
            else { r with rr := next }) ∧
          (addr = 0 → t.mem = s.mem) ∧
          (addr ≠ 0 → stores tile.d.rows tile.d.len (dist tile.d.len) (fun i n => tile.bytes[i * tile.d.len + n]?) (fun _ => False) t)) ∧
      (op = 0x33 → fld w 52 2 = 0 → rgoutCheck m = none → ∀ arb, matPick s (sg * 16 + fld w 48 4) = some (8, arb) →
        let fmt := fld w 60 4
        let size := if fmt = 1 then 4 else 2
        let full : Nat → Nat := fun n => if n = 0 then 64 else n
        let len := full (fld w 152 7) * size
        let cleared : Nat → Prop := fun x => w.getLsbD 54 = true ∧
          ∃ i n b, i < 64 ∧ n < 64 ∧ b < 4 ∧ x = accKey (sg * 16 + fld w 48 4) (fld w 56 3) i n + b
        ∃ t, exec (.rgout sg) s = .next t ∧ taken t ∧ left t ∧ t.ring sg = { r with rr := next } ∧
          (addr = 0 → ∀ x, ¬cleared x → t.byte x = s.byte x) ∧
          (addr ≠ 0 → stores (full (fld w 144 7)) len (dist len) (fun i b =>
            let x := dec32 (accElem s (sg * 16 + fld w 48 4) (fld w 56 3) i (b / size))
            some (BitVec.ofNat 8 ((if fmt = 2 then encFloat layFp16 .rne x else if fmt = 3 then encFloat layBf16 .rne x
              else rne32 x) / 256 ^ (b % size)))) cleared t) ∧
          (w.getLsbD 54 = true → ∀ i n, i < 64 → n < 64 → accElem t (sg * 16 + fld w 48 4) (fld w 56 3) i n = 0)) ∧
      (op = 0x34 → areaCheck m = none → ∃ t, exec (.rgsave sg) s = .next t ∧ taken t ∧ left t ∧
        t.ring sg = { RingSt.reset with rr := next } ∧ (∀ x, (∀ i, i < 640 → x ≠ key addr + i) → t.byte x = s.byte x) ∧
        ∀ i, i < 640 → (saveArea r none)[i]? = some (t.byte (key addr + i))) ∧
      (op = 0x35 → rgrestCheck m = none → areaCheck m = none → tilesOf r.sheaf = [] → tilesOf r.swath = [] →
        let bs := (List.range 640).map fun i => s.readByte (.ring sg) (key addr + i)
        let ts := areaTiles s sg bs
        let es := if areaField bs 7 1 = 1 then (readTable s sg (areaField bs 0x18 8) (areaField bs 14 2)).1 else []
        areaBad bs = false → restoreFault bs (ts.map fun t => t.2.2.1) = none → tableFault es = none →
          let back := { (restoredRing r bs ts es) with rr := next }
          let resumes : State → Pass → Prop := fun t p => exec (.rgrest sg) s = .next t ∧ taken t ∧ t.mem = s.mem ∧
            t.ring sg = { back with pass := some p } ∧ p.core = c ∧ p.job = m.job ∧ p.status = areaField bs 0x20 8 ∧
            p.patience = areaField bs 0x10 4 ∧ p.limit = areaField bs 6 1 ∧ p.lap = areaField bs 4 1 ∧ p.step = 0 ∧ p.tasks = [] ∧
            p.target = cmdTarget w ∧ p.carried = carriedTarget s c (BitVec.ofNat 32 (areaField bs 0x14 4))
          (areaField bs 5 1 = 0 → ∃ t, exec (.rgrest sg) s = .next t ∧ taken t ∧ left t ∧ t.mem = s.mem ∧ t.ring sg = back) ∧
          (areaField bs 5 1 = 2 → ∃ t p, resumes t p ∧ p.phase = .hold ∧ p.offers = []) ∧
          (areaField bs 5 1 = 1 → back.openOnes ≠ [] → areaField bs 4 1 < areaField bs 6 1 →
            (∀ d, d / 128 = sg → headOp s d 3 ≠ some 0x34) → (∀ k ∈ rest.head?, cmdOpcode k.word ≠ 0x34) →
            ∃ t p, resumes t p ∧ p.phase = .boundary ∧ p.offers = offersAt back))

/-- R181 to R189: once no station offers a task the tiles move, sheaves up and swaths down, to the next step boundary, where the open
pairs that meet are offered; a hold step moves the sheaves alone. An accepted task is met and its entry closed, and has the tiles that
stand at its station then (R190); one not accepted in the patience is passed by. A task retires with its product in the accumulator, added
into the bay but for the elements that it has added one by one before, or with its message delivered. R190: one that meets an error writes
nothing, its entry reopens, and the pass ends with UNCORR at the next step boundary or in drain, once no task is left. R185, R186: after
the last lap the pass drains if no entry is open, and completes once all have retired: status record, idle ring, its job one command less;
if one is open, it faults with RGOPEN. A fault writes the record and reports RINGFLT (R202). R195: an accumulator that zacc names is
cleared when its engine selects it, and after the last of them the first lap begins. R199, R201: a save at a lap boundary writes its area
and empties the ring; a pass whose node was cancelled stops at the next step boundary and ends with cause 6. That a failed task does not
stop the save (assumption 100), which target the area of a resumed pass holds (assumption 41), that a type 1 task looks for errors before
its first add alone (assumption 36), where a cancelled or faulted pass may stop (assumption 38), that a pass past its limit ends with
RGOPEN (assumption 125), and the address that RINGFLT names outside the bay (assumption 39), are the model's choice. -/
def Obligations.RingPassesStepMeetAndEnd : Prop :=
  ∀ (s : State) (sg : Nat) (p : Pass), (s.ring sg).pass = some p →
    let r := s.ring sg
    let frame : State → Prop := fun t => (∀ d k, t.slotOf d k = s.slotOf d k) ∧ ∀ g, g ≠ sg → t.ring g = s.ring g
    let only : State → Prop := fun t => { t with rings := s.rings } = s ∧ frame t
    let offered : RingSt → Pass → Prop := fun n o => ∀ st i, (∃ e ∈ o.offers, e.station = st ∧ e.entry = i) ↔
      st < 16 ∧ ∃ a b e, n.sheaf.get (Fin.ofNat 16 st) = some a ∧ n.swath.get (Fin.ofNat 16 st) = some b ∧
        entryFor n.entries a.tag b.tag = some i ∧ n.entries[i]? = some e ∧ e.isOpen = true
    let time := (s.field (sgField s sg)).time
    let passed : Encounter → RingSt → RingSt := fun o r =>
      { r with passby := r.passby + 1, pass := some { p with offers := p.offers.erase o } }
    let turned : RingSt → Prop := fun n =>
      n.sheaf = Vector.ofFn (fun i => r.sheaf.get (i - 1)) ∧ n.swath = Vector.ofFn fun i => r.swath.get (i + 1)
    let record : Nat → Nat → RingSt → Pass → List Byte := fun outcome cause n q =>
      bytesOf 1 outcome ++ bytesOf 1 cause ++ bytesOf 1 q.lap ++ [0] ++ bytesOf 2 n.met ++ bytesOf 2 n.retired ++ bytesOf 2 n.passby ++
        bytesOf 2 (n.entries.length - n.met) ++ bytesOf 4 q.steps ++ bytesOf 8 time.toNat ++ List.replicate 8 0
    let at_ : Nat → Nat := fun i => bayKey (sg * 128) p.status + i
    let closes : Nat → Nat → RingSt → Pass → State → Prop := fun outcome cause n q t => frame t ∧ t.ring sg = { n with pass := none } ∧
      (p.status ≠ 0 → ∀ i, i < 32 → (record outcome cause n q)[i]? = some (t.byte (at_ i)))
    let jobs := (s.classQ p.core 3).jobs
    let completes : RingSt → Pass → State → Prop := fun n q t => closes 1 0 n q t ∧ t.net = s.net ∧ t.reports = s.reports ∧
      (t.classQ p.core 3).jobs = jobs.map fun j => if j.id = p.job then { j with left := j.left - 1 } else j
    let faults : Nat → Word → RingSt → Pass → State → Prop := fun cause v n q t => closes 3 cause n q t ∧ (t.core p.core).fjob = p.job ∧
      (t.core p.core).fcause = BitVec.ofNat 8 cause ∧ (∀ j ∈ (t.classQ p.core 3).jobs, j.id = p.job → j.faulted = true) ∧
      ∃ m, t.reports = s.reports ++ [(.ring sg, m)] ∧
        m.body = serviceBody sg p.core (serviceWords 0x16 p.core 0 (p.job.setWidth 64) 0 v)
    let open_ : Word := BitVec.ofNat 64 (r.entries.length - r.met)
    let still : State → Prop := fun t => ∀ x, (p.status ≠ 0 → ∀ i, i < 32 → x ≠ at_ i) → t.byte x = s.byte x
    let ready := s.bad = [] ∧ (s.classQ p.core 3).waiting = [] ∧ (∀ j ∈ jobs, j.doomed = false) ∧ ∃ j ∈ jobs, j.id = p.job ∧ j.faulted = false
    (p.phase = .boundary → p.offers = [] → p.cancel = false → ∃ t, exec (.movesBegin sg) s = .next t ∧ only t ∧
      t.ring sg = { r with pass := some { p with phase := .move } }) ∧
    (p.phase = .move → p.step < 7 → p.fault = none → p.dead = false → ∃ t n o, exec (.moveDone sg) s = .next t ∧ only t ∧
      t.ring sg = n ∧ n = { r with sheaf := n.sheaf, swath := n.swath, pass := some o } ∧
      (∀ i : Fin 16, n.sheaf.get (i + 1) = r.sheaf.get i ∧ n.swath.get i = r.swath.get (i + 1)) ∧ offered n o ∧
      o = { p with step := p.step + 1, steps := p.steps + 1, phase := .boundary, since := time, offers := o.offers }) ∧
    (p.phase = .move → p.step < 7 → p.fault = none → p.dead = true → ∃ t n, exec (.moveDone sg) s = .next t ∧ only t ∧
      t.ring sg = n ∧ n.pass = some { p with
        step := p.step + 1, steps := p.steps + 1, phase := .boundary, offers := [], cancel := true }) ∧
    (p.phase = .move → 7 ≤ p.step → p.zero = [] → saveCore s sg = none → r.openOnes ≠ [] → (p.lap + 1) % 256 < p.limit →
      ∃ t n, exec (.moveDone sg) s = .next t ∧ only t ∧ t.ring sg = n ∧
        (∀ i : Fin 16, n.sheaf.get (i + 1) = r.sheaf.get i ∧ n.swath.get i = r.swath.get (i + 1)) ∧
        n.pass = some { p with steps := p.steps + 1, lap := (p.lap + 1) % 256, holdFirst := true, phase := .hold }) ∧
    (p.phase = .move → 7 ≤ p.step → p.zero = [] → saveCore s sg = none →
      let q := { p with steps := p.steps + 1, lap := (p.lap + 1) % 256, holdFirst := true }
      let waits : RingPhase → Prop := fun ph => ∃ t n, exec (.moveDone sg) s = .next t ∧ only t ∧ t.ring sg = n ∧ turned n ∧
        n = { r with sheaf := n.sheaf, swath := n.swath, pass := some { q with phase := ph } }
      let ends : (RingSt → Pass → State → Prop) → Prop := fun how => ∃ t n, exec (.moveDone sg) s = .next t ∧ turned n ∧
        n = { r with sheaf := n.sheaf, swath := n.swath } ∧ how n q t ∧ still t
      (r.openOnes = [] → p.tasks ≠ [] → waits .drain) ∧
      (r.openOnes = [] → p.tasks = [] → p.dead = false → p.fault = none → r.retired = r.entries.length → ready → ends completes) ∧
      (r.openOnes ≠ [] → p.limit ≤ q.lap → p.tasks ≠ [] → waits .lapBoundary) ∧
      (r.openOnes ≠ [] → p.limit ≤ q.lap → p.tasks = [] → ready → ends (faults 0x17 open_))) ∧
    (∀ v, p.fault = some v → (p.phase = .move ∧ p.step < 7) ∨ p.phase = .hold →
      let i : Instr := if p.phase = .hold then .holdDone sg else .moveDone sg
      let q := { p with steps := p.steps + 1, step := if p.phase = .hold then 0 else p.step + 1 }
      (p.tasks ≠ [] → ∃ t n, exec i s = .next t ∧ only t ∧ t.ring sg = n ∧
        n.pass = some { q with phase := .boundary, offers := [], cancel := true }) ∧
      (p.tasks = [] → ready → ∃ t n, exec i s = .next t ∧ n = { r with sheaf := n.sheaf, swath := n.swath } ∧
        faults 0x05 v n q t ∧ still t)) ∧
    (∀ o e, p.tasks = [o] → r.entries[o.entry]? = some e → ready →
      (e.typ = 2 ∧ ∀ x ∈ p.sending, x.2.1 = o.entry → s.msg? x.2.2 = none) ∨
        (∃ a b, e.typ ≠ 2 ∧ o.sheaf = some a ∧ o.swath = some b ∧ a.bad = [] ∧ b.bad = []) →
      let last : (RingSt → Pass → State → Prop) → Prop := fun how =>
        ∃ t, exec (.encounterRetire sg o.entry) s = .next t ∧ how { r with retired := r.retired + 1 } p t
      (p.phase = .drain → p.dead = false → p.fault = none → r.retired + 1 = r.entries.length → last completes) ∧
      (∀ v, p.fault = some v → (p.phase = .drain ∧ p.dead = false) ∨ (p.phase = .boundary ∧ p.cancel = true) → last (faults 0x05 v)) ∧
      (p.phase = .lapBoundary → p.zero = [] → saveCore s sg = none → r.openOnes ≠ [] → p.limit ≤ p.lap → last (faults 0x17 open_))) ∧
    (∀ o e a b, p.tasks.find? (fun x => x.entry == o.entry) = some o → r.entries[o.entry]? = some e → o.sheaf = some a → o.swath = some b →
      e.typ = 0 ∨ (e.typ = 1 ∧ o.added = []) → p.phase = .move ∨ p.phase = .hold ∨ (p.phase = .boundary ∧ p.cancel = false) →
      let cl := sg * 16 + o.station
      let gap := if r.dstride = 0 then 4 * b.d.rows else r.dstride.toNat
      let dest : Nat → Prop := fun x => ∃ i n k, i < a.d.rows ∧ n < b.d.rows ∧ k < 4 ∧
        x = (if e.typ = 0 then accKey cl e.acc i n else bayKey (sg * 128) (0x01000000 + 4 * e.dsto + i * gap) + 4 * n) + k
      let fails : BadGranule → Prop := fun g => ∃ t, exec (.encounterRetire sg o.entry) s = .next t ∧ frame t ∧ t.net = s.net ∧
        t.mem = s.mem ∧ t.hidden = s.hidden ∧ t.ctl.reports = s.ctl.reports ++ [.uncorrectable g.key] ∧ t.ring sg = { r with
          met := r.met - 1, entries := r.entries.set o.entry { e with isOpen := true }
          pass := some { p with tasks := p.tasks.erase o, fault := some (p.fault.getD (ringAddr sg g.key)) } }
      ((∃ f ∈ a.bad, f < a.bytes.length) ∨ (∃ f ∈ b.bad, f < b.bytes.length) → ∃ g, taskTileError sg o a b = some g ∧ fails g) ∧
      (taskTileError sg o a b = none → MeetsError s (if e.typ = 0 then .matrix cl else .ring sg) dest (fun _ _ => False) →
        ∃ g ∈ s.bad, fails g)) ∧
    (p.phase = .hold → p.fault = none → p.dead = false → ∃ t n o, exec (.holdDone sg) s = .next t ∧ only t ∧ t.ring sg = n ∧
      n = { r with sheaf := n.sheaf, pass := some o } ∧ (∀ i : Fin 16, n.sheaf.get (i + 1) = r.sheaf.get i) ∧ offered n o ∧
      o = { p with step := 0, steps := p.steps + 1, phase := .boundary, since := time, offers := o.offers }) ∧
    (∀ z arb, p.zero.find? (fun z => (matPick s z.1).any fun r => r.1 == 8) = some z → matPick s z.1 = some (8, arb) →
      ∃ t, exec (.rggo sg) s = .next t ∧ frame t ∧ t.net = s.net ∧
        (∀ i n, i < 64 → n < 64 → accElem t z.1 z.2 i n = 0) ∧
        (∀ x, (∀ i n k, i < 64 → n < 64 → k < 4 → x ≠ accKey z.1 z.2 i n + k) → t.byte x = s.byte x) ∧
        (p.zero.erase z ≠ [] → t.ring sg = { r with pass := some { p with zero := p.zero.erase z } }) ∧
        (p.zero.erase z = [] → saveCore s sg = none → r.openOnes ≠ [] → p.lap < p.limit → p.holdFirst = false →
          p.fault = none → p.dead = false → t.ring sg = { r with pass := some { p with
            zero := [], step := 0, phase := .boundary, since := time, offers := offersAt r } })) ∧
    (∀ st o e, p.offers.find? (fun o => o.station == st) = some o → r.entries[o.entry]? = some e →
      let met : RingSt → RingSt := fun r => { r with
        met := r.met + 1, entries := r.entries.set o.entry { e with isOpen := false }
        pass := some { p with offers := p.offers.erase o, tasks := p.tasks ++
          [{ o with sheaf := r.sheaf.get (Fin.ofNat 16 st), swath := r.swath.get (Fin.ofNat 16 st) }] } }
      (p.patience ≤ (time - p.since).toNat → ∃ t, exec (.passBy sg st) s = .next t ∧ only t ∧ t.ring sg = passed o r) ∧
      ((time - p.since).toNat ≤ p.patience → e.typ ≠ 2 → ∀ arb, matPick s (sg * 16 + st) = some (8, arb) →
        ∃ t, exec (.encounterAccept sg st) s = .next t ∧ frame t ∧ t.mem = s.mem ∧ t.net = s.net ∧ t.ring sg = met r) ∧
      ((time - p.since).toNat ≤ p.patience → e.typ = 2 → (∀ x ∈ p.sending, x.1 = st → s.msg? x.2.2 = none) →
        ∃ t h, exec (.encounterAccept sg st) s = .next t ∧ frame t ∧ t.mem = s.mem ∧
          t.net = s.net ++ [⟨s.nextId, .station (sg * 16 + st), false, false, .chan ((sg * 16 + st) * 8 + e.core) e.chan h
            [BitVec.ofNat 64 (st + p.lap % 16 * 2 ^ 8 + p.step * 2 ^ 12 + o.entry * 2 ^ 16)] none⟩] ∧
          h.extractLsb' 32 16 = e.sheaf.setWidth 16 ∧ h.extractLsb' 48 16 = e.swath.setWidth 16 ∧
          t.ring sg = { (met r) with pass := (met r).pass.map fun p => { p with
            sending := (st, o.entry, s.nextId) :: p.sending } })) ∧
    (∀ o e, p.tasks.find? (fun x => x.entry == o.entry) = some o → r.entries[o.entry]? = some e → s.bad = [] →
      p.phase = .move ∨ p.phase = .hold ∨ (p.phase = .boundary ∧ p.cancel = false) →
      let ends : State → Prop := fun t => frame t ∧ t.net = s.net ∧ t.ring sg = { r with
        retired := r.retired + 1
        pass := some { p with tasks := p.tasks.erase o, sending := p.sending.filter fun x => x.2.1 ≠ o.entry } }
      let cl := sg * 16 + o.station
      (e.typ = 2 → (∀ x ∈ p.sending, x.2.1 = o.entry → s.msg? x.2.2 = none) →
        ∃ t, exec (.encounterRetire sg o.entry) s = .next t ∧ ends t ∧ t.mem = s.mem) ∧
      (∀ a b, o.sheaf = some a → o.swath = some b → a.bad = [] → b.bad = [] →
        let rows : Tile → Nat → List Ex := fun x i => ((tileRows s cl x)[i]?).getD []
        let gap := if r.dstride = 0 then 4 * b.d.rows else r.dstride.toNat
        let elem : Nat → Nat → Nat := fun i n => bayKey (sg * 128) (0x01000000 + 4 * e.dsto + i * gap) + 4 * n
        let value : State → Nat → Nat := fun u x => natOfBytes ((List.range 4).map fun k => u.byte (x + k))
        (e.typ = 0 → ∃ t, exec (.encounterRetire sg o.entry) s = .next t ∧ ends t ∧
          (∀ i n, i < a.d.rows → n < b.d.rows → accElem t cl e.acc i n =
            matDot (accElem s cl e.acc i n) (rows a i) (rows b n) % 2 ^ 32) ∧
          ∀ x, (∀ i n k, i < a.d.rows → n < b.d.rows → k < 4 → x ≠ accKey cl e.acc i n + k) → t.byte x = s.byte x) ∧
        (e.typ = 1 → 4 * b.d.rows ≤ gap → ∃ t, exec (.encounterRetire sg o.entry) s = .next t ∧ ends t ∧
          (∀ i n, i < a.d.rows → n < b.d.rows → (i, n) ∉ o.added → value t (elem i n) =
            fadd32 (value s (elem i n)) (matDot 0 (rows a i) (rows b n)) % 2 ^ 32) ∧
          ∀ x, (∀ i n k, i < a.d.rows → n < b.d.rows → (i, n) ∉ o.added → k < 4 → x ≠ elem i n + k) → t.byte x = s.byte x) ∧
        (e.typ = 1 → ∀ n y, (o.toAdd a b)[n % (o.toAdd a b).length]? = some y → ∃ t, execElementAdd sg o.entry n s = .next t ∧
          frame t ∧ t.net = s.net ∧ y.1 < a.d.rows ∧ y.2 < b.d.rows ∧ y ∉ o.added ∧
          t.ring sg = { r with pass := some { p with tasks := p.tasks.map fun x =>
            if x = o then { o with added := y :: o.added } else x } } ∧
          value t (elem y.1 y.2) = fadd32 (value s (elem y.1 y.2)) (matDot 0 (rows a y.1) (rows b y.2)) % 2 ^ 32 ∧
          ∀ x, (∀ k, k < 4 → x ≠ elem y.1 y.2 + k) → t.byte x = s.byte x))) ∧
    (∀ c m rest, p.phase = .lapBoundary → p.tasks = [] → p.zero = [] → inFlight s sg = false → saveCore s sg = some c →
      (s.classQ c 3).queue = m :: rest →
      (s.classQ c 3).waiting = [] → (s.classQ c 3).due = false → commonCheck s c m.word = none → areaCheck m = none →
      ∃ t, exec (.ringSaveAtBoundary sg) s = .next t ∧ frame t ∧ t.ring sg = { RingSt.reset with rr := (c % 128 + 1) % 128 } ∧
        ∀ i, i < 640 → (saveArea r (some p))[i]? = some (t.byte (bayKey (sg * 128) (fld m.word 64 48) + i))) ∧
    (∀ j, p.dead = true → p.tasks = [] → p.phase = .drain ∨ (p.phase = .boundary ∧ p.cancel = true) →
      (s.classQ p.core 3).waiting = [] → j ∈ (s.classQ p.core 3).jobs → j.id = p.job → j.faulted = false →
      ∃ t, exec (.ringCancel sg) s = .next t ∧ frame t ∧ t.ring sg = { r with pass := none } ∧ (t.core p.core).fjob = p.job ∧
        (t.core p.core).fcause = 0x06 ∧ (∀ x ∈ (t.classQ p.core 3).queue, x.job ≠ p.job) ∧
        (p.status = 0 → t.mem = s.mem) ∧
        (p.status ≠ 0 → t.byte (bayKey (sg * 128) p.status) = 4 ∧ t.byte (bayKey (sg * 128) p.status + 1) = 6))

/-! ### The Reeve -/

/-- R235 to R239: `gtok`, `gcancel` and `gstat` trap with GNODE on a malformed id. `gtok` buffers its tokens, none for a count of 0, and
traps with SENDOVF as the 17th send; `glaunch` and `gstat` ask at once and wait; `gcancel` asks and retires; `gtrig` in an activation of a
graph that has not triggered waits for its messages to the field, performs its stores there and counts the trigger, and has no effect
elsewhere. A `gstat` request is answered with the node's status word, 0 for a free slot; each answer writes rd, but where the budget of
its slot is spent (R63). -/
def Obligations.GraphFormsAskTheReeve : Prop :=
  ∀ (s : State) (rd rn rc : Reg),
    let c := s.cur.core
    let k := s.cur.slot
    let v := s.rx rn
    let id : BitVec 32 := v.setWidth 32
    let n : BitVec 16 := (s.rx rc).setWidth 16
    let ok := nodeIdOk s (corePart s c) id.toNat
    let asks : Instr → Slot → Body → Prop := fun i sl b => ∃ t, exec i s = .next t ∧ SlotIs s t sl ∧
      t.net = s.net ++ [⟨s.nextId, .core c, false, false, b⟩] ∧ { t with cores := s.cores, net := s.net, nextId := s.nextId } = s
    let answers : Instr → Nat → Nat → Nat → Word → Reg → Prop := fun i m d j w rd => ∃ t, exec i s = .next t ∧
      t.slotOf d (slotIx j) = (if (s.slotOf d (slotIx j)).left = 0 then s.slotOf d (slotIx j)
        else { (s.slotOf d (slotIx j)).after rd w with wait := .none, flow := (s.slotOf d (slotIx j)).flow.carried rd }) ∧
      (∀ e i, e ≠ d ∨ i ≠ slotIx j → t.slotOf e i = s.slotOf e i) ∧ t.net = s.net.filter (fun y => y.id ≠ m) ∧
      { t with cores := s.cores, net := s.net } = s
    (ok = false → exec (.gtok rn rc) s = .next (s.trap 0x17 v) ∧ exec (.gcancel rn) s = .next (s.trap 0x17 v) ∧
      exec (.gstat rd rn) s = .next (s.trap 0x17 v)) ∧
    (ok = true →
      (n = 0 → Leaves (.gtok rn rc) s s.slot.next) ∧
      (n ≠ 0 → s.slot.sends.length < 16 →
        Leaves (.gtok rn rc) s { s.slot.next with sends := s.slot.sends ++ [.token id n] }) ∧
      (n ≠ 0 → 16 ≤ s.slot.sends.length → exec (.gtok rn rc) s = .next (s.trap 0x07 16)) ∧
      asks (.gcancel rn) { s.slot.next with sent := s.nextId :: s.slot.sent } (.gcancelReq id.toNat) ∧
      asks (.gstat rd rn) { s.slot with wait := .gstat rd } (.gstatReq c k.val id.toNat)) ∧
    asks (.glaunch rd rn) { s.slot with wait := .glaunch rd, sent := s.nextId :: s.slot.sent } (.glaunchReq c k.val v) ∧
    (s.slot.task = none ∨ s.slot.trigd = true → Leaves .gtrig s s.slot.next) ∧
    (∀ tk, s.slot.task = some tk → s.slot.trigd = false →
      (s.sendsOut .fld = true → exec .gtrig s = .next s) ∧
      (s.sendsOut .fld = false → ∃ t, exec .gtrig s = .next t ∧ SlotIs s t { s.slot.next with trigd := true, sent := s.nextId :: s.slot.sent } ∧
        t.net = s.net ++ [⟨s.nextId, .core c, false, false, .trigger tk true false⟩] ∧ t.mem = s.mem ∧
        ∀ h ∈ t.hidden, h.writer = s.agent → ∀ ag, inScope s .fld s.agent ag = true → sees t ag h = true)) ∧
    (∀ m x d j w, s.msg? m = some x → x.body = .glaunchAns d j w → j < 4 → (s.slotOf d (slotIx j)).wait = .glaunch rd →
      answers (.glaunchAnswer m) m d j w rd) ∧
    (∀ m x d j w, s.msg? m = some x → x.body = .gstatAns d j w → j < 4 → (s.slotOf d (slotIx j)).wait = .gstat rd →
      answers (.gstatAnswer m) m d j w rd) ∧
    (∀ m x d j a, s.msg? m = some x → x.body = .gstatReq d j a → ∃ t w, exec (.gstatRequest m) s = .next t ∧
      t.net = s.net.filter (fun y => y.id ≠ m) ++ [⟨s.nextId, .reeve (nodeField a), false, false, .gstatAns d j w⟩] ∧
      { t with net := s.net, nextId := s.nextId } = s ∧
      match s.node (nodeField a) (nodeSlot a) with
      | none => w = 0
      | some u =>
        let cpend := ((s.field (nodeField a)).nodes.filter fun p =>
          p.2.graph == u.graph && p.2.state == .cancelPending).length
        w.extractLsb' 48 16 = BitVec.ofNat 16 u.pending ∧ w.extractLsb' 32 16 = BitVec.ofNat 16 u.trig ∧
        w.extractLsb' 24 8 = BitVec.ofNat 8 (min cpend 255) ∧ w.extractLsb' 20 4 = BitVec.ofNat 4 u.used ∧
        w.extractLsb' 16 4 = BitVec.ofNat 4 u.limit ∧ w.getLsbD 15 = u.retired ∧ w.getLsbD 14 = u.surplus ∧
        w.getLsbD 13 = u.commit ∧ w.getLsbD 12 = u.trigd ∧ w.extractLsb' 8 4 = BitVec.ofNat 4 u.typ ∧ w.extractLsb' 4 4 = 0 ∧
        w.extractLsb' 0 4 = match u.state with
          | .idle => 0
          | .armed => 1
          | .fired => 2
          | .running => 3
          | .done => 4
          | .faulted => 5
          | .cancelPending => 6
          | .cancelled => 7)

/-- R222 to R237, at a Reeve whose other live nodes are armed: tokens that leave pending above 0 only lower it; the last one fires a
handler node, whose records leave for its cluster's pool and enter it as it has space, at most 256 at a time (R147, R220), and end its
wait after empty answers (R148); tokens that find pending 0 are surplus; those for no live node are dropped, with GDROP where a core sent
them. A trigger is counted, and the last one sends the node's tokens; in a faulted node a `gtrig` is counted still, and an exit counts as
one alone. A fault is reported with GFAULT and kept for its retry while one is left, and the retry arms the node anew. A `gcancel` cancels
an armed node. A launch answers node 0's id, or bit 63, index and cause. That the Reeve acts on all that follows within the one move,
reads its granary as it then sees it and lets records wait as a message while the pool is full are the model's choices (assumptions 42 and
43), as are the words that GDROP and GFAULT hold beside those given (assumption 15). -/
def Obligations.NodesFireTriggerFaultAndRetry : Prop :=
  ∀ (s : State) (m f n g : Nat) (u : Node) (gr : Graph),
    let id := f * 65536 + n
    let rest := s.net.filter fun y => y.id ≠ m
    let calm : (Nat × Node → Prop) → Prop := fun own => f < 42 ∧ (s.field f).todo = none ∧ ((s.field f).nodes.map Prod.fst).Pairwise (· < ·) ∧
      (∀ p ∈ (s.field f).nodes, own p ∨ (p.2.state = .armed ∧ p.2.order = none)) ∧
      (∀ p ∈ (s.field f).graphs, ∃ q ∈ (s.field f).nodes, q.2.graph = p.1) ∧ (∀ cl, (s.cluster cl).teams = []) ∧
      ∀ c k, (s.classQ c k).waiting = []
    let quiet := calm (· = (n, u)) ∧ n < 4096 ∧ s.node f n = some u ∧ u.graph = g ∧ s.graph f g = some gr
    let others := ∃ p ∈ (s.field f).nodes, p ≠ (n, u) ∧ p.2.graph = g
    let becomes : State → Node → Prop := fun t v => t.node f n = some v ∧ (∀ j, j ≠ n → t.node f j = s.node f j) ∧
      (∀ d j, d ≠ f → t.node d j = s.node d j) ∧ t.mem = s.mem ∧ ∀ d k, t.slotOf d k = s.slotOf d k
    (∀ o, quiet → u.state = .faulted → u.order = some o → u.used < u.limit → nodeActive s f n u = false → u.succs = [] →
      u.arrived.dedup.length + u.ext < u.init → ∃ t, exec (.nodeRetry id) s = .next t ∧ becomes t { u with
        used := u.used + 1, order := none, state := .armed, pending := u.init - u.arrived.dedup.length - u.ext, trig := 0
        exited := 0, trigd := false, job := none, sub := none, staged := false }) ∧
    ∀ x, s.msg? m = some x →
      let flow : List Msg := match x.src with
        | .core d => if x.entry then [⟨s.nextId, .reeve f, false, false, .flow d m false⟩] else []
        | _ => []
      (∀ count edge rep, x.body = .token id count edge (some g) rep ∨ x.body = .token id count edge none rep →
        (f < 42 → n < 4096 → s.node f n = none → ∃ t, exec (.tokenArrival m) s = .next t ∧ t.net = rest ++ flow ∧
          t.fields = s.fields ∧ t.mem = s.mem ∧
          match rep with
          | none => t.reports = s.reports
          | some d => ∃ y, t.reports = s.reports ++ [(.reeve f, y)] ∧
            y.body = serviceBody (sgOf d) d (serviceWords 0x19 d 0 0 0 (BitVec.ofNat 64 id))) ∧
        (quiet → u.state = .armed → edge = none → count < u.pending → ∃ t, exec (.tokenArrival m) s = .next t ∧
          t.net = rest ++ flow ∧ becomes t { u with ext := min (u.ext + count) u.init, pending := u.pending - count }) ∧
        (quiet → u.state = .armed → ∀ e, edge = some e → e ∉ u.arrived → 1 < u.pending → ∃ t,
          exec (.tokenArrival m) s = .next t ∧ t.net = rest ++ flow ∧
          becomes t { u with arrived := u.arrived ++ [e], pending := u.pending - 1 }) ∧
        (quiet → u.state = .running → u.ext ≤ u.init → edge ≠ none ∨ 0 < count → ∃ t, exec (.tokenArrival m) s = .next t ∧
          t.net = rest ++ flow ∧ becomes t { u with surplus := true }) ∧
        (quiet → u.state = .faulted → u.order ≠ none → edge = none → ∃ t, exec (.tokenArrival m) s = .next t ∧
          t.net = rest ++ flow ∧ becomes t { u with ext := min (u.ext + count) u.init }) ∧
        (∀ v, quiet → u.state = .armed → (edge = none ∧ count = u.pending ∧ 0 < count ∧ v = { u with ext := min (u.ext + count) u.init }) ∨
            (∃ e, edge = some e ∧ e ∉ u.arrived ∧ u.pending = 1 ∧ v = { u with arrived := u.arrived ++ [e] }) →
          u.typ = 1 → u.indir = false → u.wmask = 0 → nodeBound s u = true → (u.pay.getD 2 0).extractLsb' 0 16 ≠ 0 →
          let c := ((u.pay.getD 2 0).extractLsb' 0 16).toNat
          let w1 := (u.pay.getD 1 0).toNat / 2 ^ 48
          let w := if w1 = 0 then c else w1
          let h := u.pay.getD 0 0
          ∃ t i recs, exec (.tokenArrival m) s = .next t ∧
            t.net = rest ++ flow ++ [⟨i, .reeve f, false, false, .records (nodeCluster u) recs⟩] ∧ recs.length = c ∧
            becomes t { v with pending := 0, state := .running, count := c, staged := false } ∧
            ∀ i r, recs[i]? = some r → r.task = ⟨id, g⟩ ∧ r.home = nodeCluster u ∧
              r.words = [u.pay.getD 3 0, BitVec.ofNat 64 i, BitVec.ofNat 64 c] ∧
              r.hdr = (h.extractLsb' 48 16 + BitVec.ofNat 16 (i / w)) ++ (h.extractLsb' 32 16 + BitVec.ofNat 16 (i % w)) ++
                h.extractLsb' 0 32)) ∧
      (∀ cl recs, x.body = .records cl recs → recs ≠ [] → (∀ r ∈ recs, r.tb = 0) →
        ((s.cluster cl).pool.length + recs.length ≤ 256 → ∃ t, execRecordArrival m s = .next t ∧ t.net = rest ∧
          t.cluster cl = { s.cluster cl with
            pool := (s.cluster cl).pool ++ recs
            backoff := false
            empty := if (s.cluster cl).backoff then 0 else (s.cluster cl).empty } ∧
          (∀ d, d ≠ cl → t.cluster d = s.cluster d) ∧ { t with net := s.net, clusters := s.clusters } = s) ∧
        ((s.net.map Msg.id).Nodup → (s.cluster cl).teams = [] → (s.cluster cl).pool.length = 256 → ∃ t, execRecordArrival m s = .next t ∧
          t.cluster cl = s.cluster cl ∧ t.net = s.net)) ∧
      (∀ trig exit, x.body = .trigger ⟨id, g⟩ trig exit → quiet → u.state = .running → taskFirst s x ⟨id, g⟩ = true →
        let v := { u with trig := if trig then u.trig + 1 else u.trig, exited := if exit then u.exited + 1 else u.exited }
        (v.exited = u.count → v.trig ≠ u.count ∨ u.trigd = true →
          (∃ p ∈ predsOf s f u, p.1 ≠ n ∧ p.2.1.retired = false) → ∃ t, exec (.activationTrigger m) s = .next t ∧ t.net = rest ∧
            becomes t { v with state := .done }) ∧
        (v.exited ≠ u.count →
          (v.trig ≠ u.count ∨ u.trigd = true → ∃ t, exec (.activationTrigger m) s = .next t ∧ t.net = rest ∧ becomes t v) ∧
          (v.trig = u.count → u.trigd = false → ∀ j e w, u.succs = [(j, e)] → gr.base + j ≠ n → s.node f (gr.base + j) = some w →
            e ∉ w.arrived → 1 < w.pending → ∃ t, exec (.activationTrigger m) s = .next t ∧ t.net = rest ∧ t.mem = s.mem ∧
              t.node f n = some { v with trigd := true } ∧
              t.node f (gr.base + j) = some { w with arrived := w.arrived ++ [e], pending := w.pending - 1 }))) ∧
      (∀ trig exit, x.body = .trigger ⟨id, g⟩ trig exit → quiet → u.state = .faulted → u.order ≠ none → taskFirst s x ⟨id, g⟩ = true →
        ∃ t, exec (.activationTrigger m) s = .next t ∧ t.net = rest ∧ becomes t { u with
          trig := if trig && !exit then u.trig + 1 else u.trig, exited := if exit then u.exited + 1 else u.exited }) ∧
      (∀ kind cause, x.body = .fault id (some g) kind cause → reportFirst s x = true →
        (calm (fun _ => False) → n < 4096 → s.node f n = none → ∃ t, exec (.faultReport m) s = .next t ∧ t.net = rest ∧
          { t with net := s.net } = s) ∧
        (quiet → u.state = .armed ∨ u.state = .running → u.retired = false → u.used < u.limit ∨ others → u.succs = [] →
          ∃ t y o, exec (.faultReport m) s = .next t ∧ becomes t { u with state := .faulted, order := o } ∧
            o.isSome = decide (u.used < u.limit) ∧ (∀ cl, sgField s (cl / 16) = f → ∀ r ∈ (t.cluster cl).pool, r.task ≠ ⟨id, g⟩) ∧
            t.reports = s.reports ++ [(.reeve f, y)] ∧ y.body = serviceBody (sgOf gr.launcher) gr.launcher
              (serviceWords 0x18 gr.launcher 0 (BitVec.ofNat 64 id) (BitVec.ofNat 64 (kind * 256 + cause)) (BitVec.ofNat 64 u.used)))) ∧
      (x.body = .gcancelReq id →
        (f < 42 → n < 4096 → s.node f n = none → ∃ t, exec (.gcancelRequest m) s = .next t ∧ t.net = rest ∧
          { t with net := s.net } = s) ∧
        (quiet → u.state = .armed → u.retired = false → u.succs = [] → others → ∃ t, exec (.gcancelRequest m) s = .next t ∧
          becomes t { u with state := .cancelled, order := none, staged := false } ∧ t.graph f g = some { gr with gcan := true })) ∧
      (∀ d k a, x.body = .glaunchReq d k a → coreField s d = f → calm (fun _ => False) →
        let s1 := (s.dropMsg m).reeveReads f (graphRanges (s.dropMsg m) f a.toNat)
        (∀ i c, checkGraph s1 (fieldPart s1 f) f a.toNat = .error (i, c) → ∃ t w, exec (.graphLaunchRequest m) s = .next t ∧
          t.net = rest ++ [⟨s.nextId, .reeve f, false, false, .glaunchAns d k w⟩] ∧ w = BitVec.ofNat 64 (2 ^ 63 + i * 2 ^ 16 + c) ∧
          { t with net := rest, nextId := s.nextId } = s1) ∧
        (∀ b us ws h, checkGraph s1 (fieldPart s1 f) f a.toNat = .ok (b, us, ws, h) → us ≠ [] → (us.map Node.idx).Nodup →
          (∀ v ∈ us, v.graph = s.nextId ∧ v.state = .armed ∧ v.pending ≠ 0) → (∀ v ∈ us, s.node f (b + v.idx) = none) →
          ∃ t i, exec (.graphLaunchRequest m) s = .next t ∧
            t.net = rest ++ [⟨i, .reeve f, false, false, .glaunchAns d k (BitVec.ofNat 64 (f * 65536 + b))⟩] ∧
            (∀ v ∈ us, t.node f (b + v.idx) = some v) ∧ t.mem = s.mem ∧ (∀ w ∈ ws, w ∈ (t.field f).windows) ∧
            t.graph f s.nextId = some ⟨f, b, h.n, h.nodes, ws, h.result, d, none, none, false⟩))

/-! ### The loft, rewards and collectives -/

/-- R264: `rwd` traps with GNODE on a malformed target and with SENDOVF as the 17th send, and else buffers its reward. R266: a reward
joins the queue of each core of its partition, which holds 4, and leaves the network with the last; a full queue holds it back. R267: with
no sweep outstanding the head holds dispatch, or goes where the directory has no version 1; at the cut, once no activation runs, it is
removed: an invalid directory is reported, and else the groups of its key get their cut fields and form the sweep. The loft writes of the
core's slots and of its complete copies are performed first (R268), and an error in what is read of the directory is met (R156, R290).
That the directory's bytes are then taken as they are, and the zero words of the report of a bad directory, are the model's choices
(assumptions 52 and 15). -/
def Obligations.RewardsArriveAndAreCut : Prop :=
  ∀ (s : State) (rs rl : Reg) (mode : BitVec 1) (b c : Nat) (x : Msg) (m : Reward) (tail : List Reward),
    let l := s.rx rl
    let tgt : BitVec 32 := l.extractLsb' 16 32
    let okay := tgt = 0xFFFFFFFF ∨ nodeIdOk s (corePart s s.cur.core) tgt.toNat = true
    let co := s.core c
    let cored : State → CoreSt → Prop := fun t n => t.core c = n ∧ ∀ d, d ≠ c → t.core d = s.core d
    let dropped := { co with rewards := tail, cutHold := false }
    let s1 := s.perform (coreLoftWrites s c) .all
    let s2 := s1.meetAll (.loft c) ((List.range 4).map (dirKey c 0 + ·))
    let bs := dirBytes s1 c
    let nlay := areaField bs 4 1
    let ngrp := areaField bs 6 2
    let used : List Nat := if areaField bs 0 4 ≠ 1 ∨ 16 < nlay ∨ 59 < ngrp then []
      else ((List.range nlay).flatMap fun l => (List.range 10).map (0x40 + 16 * l + ·)) ++
        (List.range ngrp).flatMap fun g => ([0, 1, 2, 3, 4, 6, 7, 8, 9] ++ (List.range 12).map (12 + ·)).map (0x140 + 64 * g + ·)
    let s3 := s1.meetAll (.loft c) (([0, 1, 2, 3, 4, 6, 7] ++ used).map (dirKey c))
    let gs := cutGroups bs m
    (¬okay → exec (.rwd rs rl mode) s = .next (s.trap 0x17 l)) ∧
    (okay → s.slot.sends.length < 16 → Leaves (.rwd rs rl mode) s { s.slot.next with
      sends := s.slot.sends ++ [.reward ((s.rx rs).setWidth 32) (mode == 1) (l.setWidth 8) tgt] }) ∧
    (okay → 16 ≤ s.slot.sends.length → exec (.rwd rs rl mode) s = .next (s.trap 0x07 16)) ∧
    (∀ part r clear key tgt src got, s.msg? b = some x → x.body = .reward part r clear key tgt src got →
      coreIn s (some part) c = true → c ∉ got → rewardBefore s x c = false →
        (4 ≤ co.rewards.length → b ∉ co.rwdHeld → ∃ t, exec (.rewardArrival b c) s = .next t ∧
          cored t { co with rwdHeld := co.rwdHeld ++ [b] } ∧ { t with cores := s.cores } = s) ∧
        (co.rewards.length < 4 → co.rwdHeld = [] ∨ co.rwdHeld.head? = some b → ∃ t, exec (.rewardArrival b c) s = .next t ∧
          cored t { co with rewards := co.rewards ++ [⟨r, clear, key, tgt, src⟩], rwdHeld := co.rwdHeld.filter (· ≠ b) } ∧
          ((∃ d ∈ partCores s part, d ≠ c ∧ d ∉ got) → t.net = s.net.map fun y =>
            if y.id = b then { y with body := .reward part r clear key tgt src (c :: got) } else y) ∧
          ((∀ d ∈ partCores s part, d = c ∨ d ∈ got) → t.net = s.net.filter (fun y => y.id ≠ b) ++ (match x.src with
            | .core d => if x.entry then [⟨s.nextId, .core c, false, false, .flow d b false⟩] else []
            | _ => [])))) ∧
    (co.rewards = m :: tail →
      (co.cutHold = false → co.sweep = none → ∃ t, exec (.rewardHold c) s = .next t ∧ { t with cores := s.cores } = s2 ∧
        (∀ h ∈ t.hidden, h.id ∉ coreLoftWrites s c) ∧ cored t (if areaField bs 0 4 = 1 then { co with cutHold := true } else dropped)) ∧
      (co.cutHold = true → coreQuiet s c = true →
        (areaField bs 0 4 ≠ 1 → ∃ t, exec (.rewardCut c) s = .next t ∧ { t with cores := s.cores } = s3 ∧ cored t dropped) ∧
        (areaField bs 0 4 = 1 → ∀ g, dirFault bs = some g → ∃ t y, exec (.rewardCut c) s = .next t ∧ cored t dropped ∧
          t.mem = s.mem ∧ t.reports = s.reports ++ [(.loft c, y)] ∧ y.body = serviceBody (sgOf c) c
            (serviceWords 0x23 c 0 (BitVec.ofNat 64 (m.key.toNat * 2 ^ 32 + m.r.toNat)) 0 (BitVec.ofNat 64 g))) ∧
        (areaField bs 0 4 = 1 → dirFault bs = none → gs = [] →
          ∃ t, exec (.rewardCut c) s = .next t ∧ { t with cores := s.cores } = s3 ∧ cored t dropped) ∧
        (areaField bs 0 4 = 1 → dirFault bs = none → gs ≠ [] → ∃ t, exec (.rewardCut c) s = .next t ∧
          cored t { dropped with sweep := some ⟨m, gs, (s.classQ c 4).queue.length,
            gs.flatMap fun g => (List.range g.count).map (g.first + ·)⟩ } ∧
          (∀ g ∈ gs, ∀ n, n < 16 → (bytesOf 4 1 ++ bytesOf 4 g.q.toNat ++ bytesOf 2 g.first ++ bytesOf 2 g.count ++
            bytesOf 2 g.amt ++ bytesOf 2 (ofSigned 16 g.lmin))[n]? = some (t.byte (dirKey c (0x160 + 64 * g.idx + n)))) ∧
          ∀ x, (∀ g ∈ gs, ∀ n, n < 16 → x ≠ dirKey c (0x160 + 64 * g.idx + n)) → t.byte x = s.byte x)))

/-- R250 to R253: where the loft engines take a class 4 command that passes its checks, no error stands and its node is not cancelled,
each lane (row B word high) of each row pair of its range that it has not closed yet becomes what `lass`, the REWARD or FADE program, or
the pass program makes of it; with the count enabled, the TCM then holds the number of lanes left with tag 1. No other byte changes. It
may close any one of them by itself before (R252), which then is counted and holds no interlock: that it closes all that single moves have
left in one move, and that the writes that stand at the open of a row pair are performed before it, are the model's choices (assumptions
34, 35 and 120). R269: once no class 4 command stands ahead of it, the sweep gives every lane of its row pairs its new weight, the rounded
sum of the weight and the rounded product of q and the effective trace, and a zero effective trace leaves the weight; mode clear zeroes
the traces. No other byte changes. R270: then busy is cleared in each group, and the target, if one is named, gets one token. R290: a busy
byte whose granule is in error stays, and the error is reported. Any one row pair may be closed by itself before: that the sweep closes
all that are left in one move (assumptions 34, 35 and 120), and that for an error of the array too the byte alone is not written
(assumption 103), are the model's choices. -/
def Obligations.LoftCommandsAndSweepsActOnEveryLane : Prop :=
  (∀ (s : State) (c : Nat) (m : Cmd) (rest : List Cmd),
    let w := m.word
    let op := cmdOpcode w
    let q := s.classQ c 4
    let key : Nat → Nat := (Place.loft c).key
    let laneOf : State → Nat → Nat → BitVec 32 := fun s p j =>
      s.byte (key (p * 4096 + 2049 + 2 * j)) ++ s.byte (key (p * 4096 + 2048 + 2 * j)) ++
        s.byte (key (p * 4096 + 2 * j + 1)) ++ s.byte (key (p * 4096 + 2 * j))
    let rows := ((List.range (if fld w 112 16 = 0 then 4096 else fld w 112 16)).map (fld w 96 12 + ·)).filter fun p =>
      match m.run with
      | some r => !r.closed.contains p
      | none => true
    let before := (m.run.map Running.count).getD 0
    let param := fld w 192 64
    let hits : (BitVec 32 → BitVec 32 × Bool) → Nat → Nat := fun f p => ((List.range 1024).filter fun j => (f (laneOf s p j)).2).length
    let acts : Instr → (BitVec 32 → BitVec 32 × Bool) → Prop := fun i f => (∀ p ∈ rows,
        ∃ t n, execRowClose c p s = .next t ∧ (t.classQ c 4).queue = n :: rest ∧ n.word = w ∧ n.job = m.job ∧ p ∉ n.il ∧
          (∃ r, n.run = some r ∧ r.closed = ((m.run.map Running.closed).getD []) ++ [p] ∧ r.count = before + hits f p) ∧
          (∀ j, j < 1024 → laneOf t p j = (f (laneOf s p j)).1) ∧ (∀ x, (∀ n, n < 4096 → x ≠ key (p * 4096 + n)) → t.byte x = s.byte x) ∧
          t.net = s.net ∧ ∀ d k, t.slotOf d k = s.slotOf d k) ∧
      ∃ t, exec i s = .next t ∧
      (∀ p ∈ rows, ∀ j, j < 1024 → laneOf t p j = (f (laneOf s p j)).1) ∧
      (w.getLsbD 48 = true → natOfBytes ((List.range 8).map fun n => t.byte ((Place.tcm c).key (fld w 64 16 + n))) =
        before + (rows.map (hits f)).sum) ∧
      (∀ x, (∀ p ∈ rows, ∀ n, n < 4096 → x ≠ key (p * 4096 + n)) →
        (w.getLsbD 48 = true → ∀ n, n < 8 → x ≠ (Place.tcm c).key (fld w 64 16 + n)) → t.byte x = s.byte x) ∧
      (t.classQ c 4).queue = rest ∧ t.net = s.net ∧ ∀ d k, t.slotOf d k = s.slotOf d k
    q.queue = m :: rest → q.waiting = [] → (∀ j ∈ q.jobs, j.doomed = false) → m.dead = false → s.bad = [] → loftReady s c = true →
    commonCheck s c w = none → loftCheck s c m = none →
      (op = 0x40 → acts (.lass c) fun v =>
        let k := BitVec.ofNat 32 (fld w 128 32)
        let cm := BitVec.ofNat 32 (fld w 160 32)
        let wv := BitVec.ofNat 32 (fld w 192 32)
        let wm := BitVec.ofNat 32 (fld w 224 32)
        if (v ^^^ k) &&& cm = 0 then ((v &&& ~~~wm) ||| (wv &&& wm), true) else (v, false)) ∧
      (op = 0x41 → fld w 144 8 = 1 → acts (.lsweep c) fun v =>
        let e := (v.extractLsb' 16 16).toNat
        let x := (v.extractLsb' 0 16).toNat
        let x := if e = 0x4000 then x
          else encFloat layFp16 .rne ((decFloat layFp16 x).add .rne (dec32 (rne32 ((dec32 (param % 2 ^ 32)).mul (dec32 (decode32 e))))))
        (BitVec.ofNat 16 (if param / 2 ^ 32 % 2 = 1 then 0x4000 else e) ++ BitVec.ofNat 16 x, true)) ∧
      (op = 0x41 → fld w 144 8 = 2 → acts (.lsweep c) fun v =>
        let lm := clamp (-16383) 16383 (BitVec.ofNat 16 (param / 2 ^ 16)).toInt
        (BitVec.ofNat 16 (fadeTl16 (v.extractLsb' 16 16).toNat 1 (param % 2 ^ 16) lm) ++ v.extractLsb' 0 16, true)) ∧
      (op = 0x41 → fld w 144 8 = 0 → ∀ recs, (match m.run with
          | some r => recs = r.prog
          | none => readProg s c 256 (fld w 128 16) = .ok recs) → acts (.lsweep c) fun v =>
        let r := runProg recs (BitVec.ofNat 64 param) (BitVec.allOnes 64) (v.setWidth 64) true
        (r.1.setWidth 32, r.2))) ∧
  (∀ (s : State) (c : Nat) (w : Sweep), (s.core c).sweep = some w → w.ahead = 0 →
    let key : Nat → Nat := (Place.loft c).key
    let laneOf : State → Nat → Nat → BitVec 32 := fun s p j =>
      s.byte (key (p * 4096 + 2049 + 2 * j)) ++ s.byte (key (p * 4096 + 2048 + 2 * j)) ++
        s.byte (key (p * 4096 + 2 * j + 1)) ++ s.byte (key (p * 4096 + 2 * j))
    let within : SweepGroup → Nat → Prop := fun g p => g.first ≤ p ∧ p < g.first + g.count ∧ p ∈ w.left
    let updated : State → SweepGroup → Nat → Prop := fun t g p => ∀ j, j < 1024 →
      let v := laneOf s p j
      let e := (v.extractLsb' 16 16).toNat
      let x := (v.extractLsb' 0 16).toNat
      let e1 := fadeTl16 e 1 g.amt g.lmin
      let x1 := if e1 = 0x4000 then x
        else encFloat layFp16 .rne ((decFloat layFp16 x).add .rne (dec32 (rne32 ((dec32 g.q.toNat).mul (dec32 (decode32 e1))))))
      laneOf t p j = BitVec.ofNat 16 (if w.rew.clear then 0x4000 else e) ++ BitVec.ofNat 16 x1
    (∀ p, p ∈ w.left → s.bad = [] → w.grps.Pairwise (fun g h => ¬(within g p ∧ within h p)) →
      ∃ t l, execRowClose c p s = .next t ∧ (t.core c).sweep = some { w with left := l } ∧ (∀ x, x ∈ l ↔ x ∈ w.left ∧ x ≠ p) ∧
        t.net = s.net ∧ (∀ d k, t.slotOf d k = s.slotOf d k) ∧ (∀ g ∈ w.grps, within g p → updated t g p) ∧
        ∀ x, (∀ n, n < 4096 → x ≠ key (p * 4096 + n)) → t.byte x = s.byte x) ∧
    (w.left ≠ [] → s.bad = [] → w.grps.Pairwise (fun g h => ∀ p, ¬(within g p ∧ within h p)) →
      ∃ t, exec (.sweepStart c) s = .next t ∧ (t.core c).sweep = some { w with left := [] } ∧ t.net = s.net ∧
        (∀ d k, t.slotOf d k = s.slotOf d k) ∧ (∀ g ∈ w.grps, ∀ p, within g p → updated t g p) ∧
        ∀ x, (∀ g ∈ w.grps, ∀ p n, within g p → n < 4096 → x ≠ key (p * 4096 + n)) → t.byte x = s.byte x) ∧
    (w.left = [] → ∀ g b, w.grps = [g] → s.bad = [b] → b.key = dirKey c (0x160 + 64 * g.idx) → b.size = 8 → b.cls ≠ .slot →
      ∃ t, exec (.sweepComplete c) s = .next t ∧ (t.core c).sweep = none ∧ t.mem = s.mem ∧
        t.ctl.reports = s.ctl.reports ++ [.uncorrectable b.key] ∧ t.bad = if b.armed then [] else [b]) ∧
    (w.left = [] → s.bad = [] → ∃ t, exec (.sweepComplete c) s = .next t ∧ (t.core c).sweep = none ∧
      (∀ d k, t.slotOf d k = s.slotOf d k) ∧ (∀ g ∈ w.grps, t.byte (dirKey c (0x160 + 64 * g.idx)) = 0) ∧
      (∀ x, (∀ g ∈ w.grps, x ≠ dirKey c (0x160 + 64 * g.idx)) → t.byte x = s.byte x) ∧
      t.net = s.net ++ (if w.rew.tgt = 0xFFFFFFFF then []
        else [⟨s.nextId, .engine c 4, false, false, .token w.rew.tgt.toNat 1 none none (some c)⟩])))

/-- R305 to R308: a class 5 command that passes its checks joins the instance of its tag, or begins one; one that differs from those there
faults every present participant. An instance with all its participants combines their elements in ascending logical id into the root's,
element after element, so that a source of the root's which shares bytes with its destination is read as the elements before have left it
(R306), or copies the root's, read before any is written (R307), to each; and its commands leave their queues; no other byte changes. One
partial for 2^24 cycles of the root's field faults every present participant, and not before. No node of these jobs is cancelled, and no
word waits. Which commands meet in one instance, and that a difference is found when the later one joins, are the model's choices
(assumption 53). -/
def Obligations.CollectivesJoinCombineAndExpire : Prop :=
  ∀ (s : State) (c : Nat) (m : Cmd) (rest : List Cmd) (k : Nat) (i : Inst), s.bad = [] →
    (∀ d n, (s.classQ d n).waiting = [] ∧ ∀ j ∈ (s.classQ d n).jobs, j.doomed = false) →
    let a := collArgs m.word
    let part := (corePart s c).getD 0
    let me : Member := ⟨sgOf c, c, m.job, m.word⟩
    let row : Instr := if cmdOpcode m.word = 0x51 then .kbc c else .kred c
    let faulted : State → List Member → Prop := fun t ms => t.mem = s.mem ∧ t.insts = s.insts.del k ∧
      (∀ x ∈ ms, ∀ j ∈ (t.classQ x.core 5).jobs, j.id = x.job → j.faulted = true) ∧ ∀ d n, t.slotOf d n = s.slotOf d n
    ((s.classQ c 5).queue = m :: rest → joined s c = false → (s.classQ c 5).due = false → commonCheck s c m.word = none → collCheck s c m = none →
      (s.insts.find? (fun p => joins s part (sgOf c) a p.2) = none → ∃ t, exec row s = .next t ∧
        t.insts = s.insts.put s.nextId ⟨part, fld m.word 240 16, [me], (s.field (sgField s a.root)).time.toNat⟩ ∧
        { t with insts := s.insts, nextId := s.nextId } = s) ∧
      (s.insts.find? (fun p => joins s part (sgOf c) a p.2) = some (k, i) →
        ((∀ x ∈ i.members, sameCommand x.word m.word = true) → ∃ t, exec row s = .next t ∧
          t.insts = s.insts.put k { i with members := i.members ++ [me] } ∧ { t with insts := s.insts } = s) ∧
        ((∃ x ∈ i.members, sameCommand x.word m.word = false) → ∃ t, exec row s = .next t ∧ faulted t (i.members ++ [me])))) ∧
    (∀ x tail, s.insts.get? k = some i → i.members = x :: tail →
      let a := collArgs x.word
      let ps := participants s a
      let elem : State → Nat → Nat → Nat → Nat := fun t sg addr j =>
        natOfBytes ((List.range a.es).map fun n => t.byte (bayKey (sg * 128) addr + j * a.es + n))
      let src : Nat → Nat → Nat := fun sg j => (collRead s sg a.src a.n a.es).getD j 0
      let read : State → Nat → Nat → Nat := fun t g j => natOfBytes ((List.range a.es).map fun n =>
        let z := a.src + j * a.es + n
        if g = a.root ∧ a.dst ≤ z ∧ z < a.dst + j * a.es then t.byte (bayKey (a.root * 128) a.dst + (z - a.dst))
        else s.readByte (collAgent s g) (bayKey (g * 128) z))
      let full := ∀ g ∈ ps, ∃ y ∈ i.members, y.sg = g
      (full → (i.members.map Member.core).Nodup → ps ≠ [] → ∃ t, exec (.collectiveInstance k) s = .next t ∧
        t.insts = s.insts.del k ∧ (∀ d n, t.slotOf d n = s.slotOf d n) ∧
        (∀ y ∈ i.members, (t.classQ y.core 5).queue = (s.classQ y.core 5).queue.drop 1) ∧
        (a.opcode = 0x50 → (∀ j, j < a.n → elem t a.root a.dst j =
            (ps.drop 1).foldl (fun acc g => combine a.op acc (read t g j)) (read t (ps.headD 0) j) % 2 ^ (8 * a.es)) ∧
          ∀ z, (∀ n, n < a.n * a.es → z ≠ bayKey (a.root * 128) a.dst + n) → t.byte z = s.byte z) ∧
        (a.opcode = 0x51 → (∀ g ∈ ps, ∀ j, j < a.n → elem t g a.dst j = src a.root j) ∧
          ∀ z, (∀ g ∈ ps, ∀ n, n < a.n * a.es → z ≠ bayKey (g * 128) a.dst + n) → t.byte z = s.byte z)) ∧
      (¬full → let now := (s.field (sgField s a.root)).time.toNat
        (2 ^ 24 ≤ now - i.since → ∃ t, exec (.ktime k) s = .next t ∧ faulted t i.members) ∧
        (now - i.since < 2 ^ 24 → exec (.ktime k) s = .next s)))

/-! ### Launches, the host and the fabric -/

/-- R26, R28, R303: a launch that fails a check loads nothing; its status word gives the first failing check and its argument. R29: one
that passes holds dispatch on its placed cores, where no other launch holds one. A held core without activation then gets the bytes of its
text and data sections in its TCM, and as long as another core has not, no core and no handler table changes. With the last one the
handler table of every placed core is replaced, each channel named by the image bound to its record with its queue cut to the new depth
and its drops counted anew, any other unbound with its enable bit clear; the holds end and the status is 0. No record waits in a pool or
is on its way to one. An image that cannot be read fails with MAGIC and argument 0. That sections are written core by core and tables last
is read from R28 and R29 (assumption 67). That a rebound channel keeps its messages up to the new depth, that an unbound one has its
enable bit clear, and what an unreadable image, an image of less than 128 bytes or a trailer without its magic gives, are the model's
choices (assumptions 68, 101 and 63), as is the wait for the cores of another launch (assumption 66). -/
def Obligations.LaunchesAreCheckedThenLoadCoreByCore : Prop :=
  ∀ (s : State) (req : LaunchReq) (p : PartSt) (bs : List Byte) (c k : Nat) (l : Loading),
    let status : State → Nat → Nat := fun t off => natOfBytes ((List.range (if off = 0 then 4 else 8)).map fun n =>
      t.byte (Place.host.key (req.statusAddr + off + n)))
    (s.parts.get? req.part = some p → p.out = false → imageBytes s req = none → ∃ t, exec (.launch req) s = .next t ∧
      status t 0 = 1 ∧ status t 8 = 0 ∧ t.cores = s.cores ∧ t.parts = s.parts ∧ t.loads = s.loads) ∧
    (s.parts.get? req.part = some p → p.out = false → imageBytes s req = some bs →
      (∀ code arg, launchCheck s req p bs = some (code, arg) → ∃ t, exec (.launch req) s = .next t ∧
        status t 0 = code % 2 ^ 32 ∧ status t 8 = arg % 2 ^ 64 ∧ t.cores = s.cores ∧ t.parts = s.parts ∧ t.loads = s.loads ∧
        (∀ x, (∀ n, n < 16 → x ≠ Place.host.key (req.statusAddr + n)) → t.byte x = s.byte x) ∧
        t.ctl = { s.ctl with reports := s.ctl.reports ++ (if code = 10 then [.alarm 1] else []) }) ∧
      (∀ cores, launchCheck s req p bs = none → placedCores s req.part req.placement = some cores →
        (∀ d ∈ cores, (s.core d).loadHold = none) → ∃ t, exec (.launch req) s = .next t ∧ t.mem = s.mem ∧ t.net = s.net ∧
          t.loads.get? s.nextId = some ⟨req, bs, cores, cores⟩ ∧ (∀ d k, t.slotOf d k = s.slotOf d k) ∧
          ∀ d, t.core d = if d ∈ cores then { s.core d with loadHold := some s.nextId } else s.core d)) ∧
    ((s.core c).loadHold = some k → s.loads.get? k = some l → c ∈ l.cores → coreQuiet s c = true → (∀ cl, (s.cluster cl).pool = []) →
      (∀ y ∈ s.net, y.body.recs = []) → ∃ t, exec (.launchLoad c) s = .next t ∧ (∀ d j, t.slotOf d j = s.slotOf d j) ∧
        (∀ x ∈ sections l.image, x.kind = 1 ∨ x.kind = 2 → ∀ n, n < x.size → x.addr + n < 0x10000 →
          x.file = 0 ∨ x.file + x.size ≤ l.image.length →
          (∀ y ∈ sections l.image, y.kind = 1 ∨ y.kind = 2 → y.addr ≤ x.addr + n → x.addr + n < y.addr + y.size → y = x) →
            t.byte ((Place.tcm c).key (x.addr + n)) = if x.file = 0 then 0 else l.image.getD (x.file + n) 0) ∧
        ((∃ d ∈ l.cores, d ≠ c) → t.loads = s.loads.put k { l with cores := l.cores.filter (· ≠ c) } ∧ t.cores = s.cores ∧
          t.net = s.net) ∧
        ((∀ d ∈ l.cores, d = c) → l.placed.Nodup → t.loads = s.loads.del k ∧
          natOfBytes ((List.range 4).map fun n => t.byte (Place.host.key (l.req.statusAddr + n))) = 0 ∧
          ∀ d ∈ l.placed, (t.core d).loadHold = none ∧ (t.core d).lastHi = 63 ∧ (t.core d).lastLo = 63 ∧
            ∀ ch, ch < 63 → ¬(d % 128 = 0 ∧ ch = 62) → match recFor l.image ch with
              | some r => (t.chan d ch).hrec = some r.1 ∧ (t.chan d ch).en = r.2 ∧ (t.chan d ch).pend = false ∧
                  (t.chan d ch).busy = false ∧ (t.chan d ch).queue = (s.chan d ch).queue.take r.1.qdecl ∧
                  (t.chan d ch).drops.toNat = if r.1.rel then 0 else min ((s.chan d ch).queue.length - r.1.qdecl) (2 ^ 32 - 1)
              | none => (t.chan d ch).hrec = none ∧ (t.chan d ch).en = false ∧ (t.chan d ch).drops = 0 ∧
                  (ch ∈ (s.core d).chans.keys → (t.chan d ch).queue = [])))

/-- R311: a queue is bound to a free target of a partition, or refused. A post of 64 aligned bytes that keeps its format joins a queue
that holds fewer than 16, and any other write is discarded and counted. The oldest post leaves, where its target takes it (a full reliable
channel, or a full channel 63 of the partition, does not), as a message of route class 10, as tokens, or as a reward. R312: a reply fills
the next slot of the ring with its header, its length and its words, and the count in host memory goes up by 1; the slot and the count do
not overlap. That a post to an unbound queue counts as discarded, that a ring of zero slots has one, and that any message may be written
next are the model's choices (assumptions 57 and 59), as is what a queue does with posts between a reset and the next launch (assumption
62). -/
def Obligations.WorkQueuesCarryPostsAndReplies : Prop :=
  ∀ (s : State) (n addr : Nat) (b : QBinding) (bytes : List Byte) (rest : List (List Byte)),
    let q := s.queue n
    let w : Nat → Word := fun i => BitVec.ofNat 64 (natOfBytes ((bytes.drop (8 * i)).take 8))
    let queued : State → QueueSt → Prop := fun t r => t.queue n = r ∧ ∀ j, j ≠ n → t.queue j = s.queue j
    (if bindOk s n b then ∃ t, exec (.queueBind n b) s = .next t ∧ queued t { QueueSt.reset with bind := some b } ∧
        t.ctl = { s.ctl with reports := s.ctl.reports ++ [.queueBound n true] } ∧ { t with queues := s.queues, ctl := s.ctl } = s
      else exec (.queueBind n b) s = .next { s with ctl := { s.ctl with reports := s.ctl.reports ++ [.queueBound n false] } }) ∧
    (n < 262144 → q.wasReset = false → q.bind = some b → addr / 64 = n →
      let good := addr % 64 = 0 ∧ bytes.length = 64 ∧ q.posts.length < 16 ∧ postOk s b bytes = true
      (good → ∃ t, exec (.hostPost addr bytes) s = .next t ∧ { t with queues := s.queues } = s ∧
        queued t { q with posts := q.posts ++ [bytes], acc := q.acc + 1, since := (s.field (targetField s b)).time.toNat }) ∧
      (¬good → ∃ t, exec (.hostPost addr bytes) s = .next t ∧ { t with queues := s.queues } = s ∧
        queued t { q with bad := if q.bad = 0xFFFF then q.bad else q.bad + 1 })) ∧
    (n < 262144 → q.wasReset = true ∨ q.bind = none → addr / 64 = n → ∃ t, exec (.hostPost addr bytes) s = .next t ∧
      { t with queues := s.queues } = s ∧ queued t { q with bad := if q.bad = 0xFFFF then q.bad else q.bad + 1 }) ∧
    (q.bind = some b → (∀ c ch r, b.target = .chan c ch → (s.chan c ch).hrec = some r → r.rel = true → (s.chan c ch).room = false →
        exec (.queuePostDelivery n) s = .next s) ∧
      ∀ c, b.target = .reward → corePart s c = some b.part → 4 ≤ (s.core c).rewards.length →
        exec (.queuePostDelivery n) s = .next s) ∧
    (q.bind = some b → q.posts = bytes :: rest → partRuns s b.part = true → targetTakes s b.part b.target = true →
      let leaves : Option Body → Prop := fun body => ∃ t, exec (.queuePostDelivery n) s = .next t ∧
        queued t { q with posts := rest } ∧ t.mem = s.mem ∧ (∀ d k, t.slotOf d k = s.slotOf d k) ∧
        t.net = s.net ++ body.toList.map fun x => ⟨s.nextId, .queue n, false, false, x⟩
      (∀ c ch, b.target = .chan c ch → ∃ h, leaves (some (.chan c ch h
        ((List.range (w 0 &&& 7).toNat).map fun i => w (i + 1)) none)) ∧ h.extractLsb' 32 32 = (w 0).extractLsb' 32 32 ∧
        h.extractLsb' 15 17 = BitVec.ofNat 17 (0x10000 + b.localIdx) ∧ hdrPrio h = (w 0).getLsbD 8 ∧ h.extractLsb' 6 2 = 2) ∧
      (∀ id, b.target = .node id → leaves (if (w 0).extractLsb' 0 16 = 0 then none
        else some (.token id ((w 0).extractLsb' 0 16).toNat none none none))) ∧
      (b.target = .reward → leaves (some (.reward b.part ((w 1).extractLsb' 0 32) ((w 0).getLsbD 0) ((w 0).extractLsb' 8 8)
        ((w 0).extractLsb' 16 32) (0x10000 + b.localIdx) [])))) ∧
    (∀ m x part i h ws, s.msg? m = some x → x.body = .queueMsg part i h ws → queueAt s part i = some (n, b) → ws.length ≤ 7 →
      let slot := b.ringBase + 64 * (q.ringPos % max b.ringSlots 1)
      let num : State → Nat → Nat := fun t a => natOfBytes ((List.range 8).map fun j => t.byte (Place.host.key (a + j)))
      slot + 64 ≤ b.countAddr ∨ b.countAddr + 8 ≤ slot → ∃ t, exec (.replyRingWrite m) s = .next t ∧
        queued t { q with ringPos := q.ringPos + 1 } ∧ t.net = s.net.filter (fun y => y.id ≠ m) ++ (match x.src with
          | .core d => if x.entry then [⟨s.nextId, .queue n, false, false, .flow d m false⟩] else []
          | _ => []) ∧
        num t slot = h.toNat / 8 * 8 + ws.length ∧
        (∀ j, j < 7 → num t (slot + 8 + 8 * j) = (ws.getD j 0).toNat) ∧ num t b.countAddr = (num s b.countAddr + 1) % 2 ^ 64 ∧
        ∀ y, (∀ j, j < 64 → y ≠ Place.host.key (slot + j)) → (∀ j, j < 8 → y ≠ Place.host.key (b.countAddr + j)) →
          t.byte y = s.byte y)

/-- R309: a host access to a present, permitted range reads or writes its bytes; a refused write is discarded, a refused read gives all
ones. R313: a copy request begins, and its sender's outbound entry is returned (R68); a copy of device bytes to the host, or back, moves
them and sends its token and its completion message with the status 1, or 3 for a refused page. R314: a message for a peer leaves by its
port once no earlier one stands before it, or is discarded with NOEP where the peer's partition is reset (Table 20-3). R311: the host
reads the status of a queue as Table 20-8 gives it. One of a peer's core comes in for a partition that runs with the sender's handle in
its header, and is answered with NOEP where the partition is absent or switched out, which is the model's choice (assumption 92). R297,
R298: an entry is programmed or refused; a message ends its legs, or its way round a dead router, as one for its channel, or fails with
ROUTEERR and its sender's outbound entry is returned (R68). The zero words of that report, the meaning of an entry with no legs, that legs
which leave the mesh fail, and the status of each refused copy are the model's choices (assumptions 15, 54, 56 and 60). -/
def Obligations.HostCopiesAndStaticRoutesMoveData : Prop :=
  ∀ (s : State) (part va size : Nat) (bytes : List Byte) (ks : List (Option Nat)) (m : Nat) (x : Msg), s.bad = [] →
    let told : Instr → Report → Prop := fun i r => ∃ t, exec i s = .next t ∧ t.mem = s.mem ∧
      t.ctl = { s.ctl with reports := s.ctl.reports ++ [r] } ∧ ∀ d k, t.slotOf d k = s.slotOf d k
    let flow : Src → List Msg := fun there => match x.src with
      | .core d => if x.entry then [⟨s.nextId, there, false, false, .flow d m false⟩] else []
      | _ => []
    (hostKeys s part true va bytes.length = none → exec (.hostDataWrite part va bytes) s = .next s) ∧
    (hostKeys s part true va bytes.length = some ks → (realKeys ks).Nodup → ∃ t, exec (.hostDataWrite part va bytes) s = .next t ∧
      (∀ j k : Nat, (realKeys ks)[j]? = some k → bytes[j]? = some (t.byte k)) ∧ (∀ k, k ∉ realKeys ks → t.byte k = s.byte k) ∧
      ∀ d k, t.slotOf d k = s.slotOf d k) ∧
    (hostKeys s part false va size = none → told (.hostDataRead part va size) (.hostRead part va (List.replicate size 0xFF) false)) ∧
    (hostKeys s part false va size = some ks → told (.hostDataRead part va size)
      (.hostRead part va (ks.map fun k => (k.map (s.readByte (.host part))).getD 0) true)) ∧
    (∀ c h ws, s.msg? m = some x → x.body = .copyReq part c h ws → ∃ t, exec (.copyServiceRequest m) s = .next t ∧
      t.net = s.net.filter (fun y => y.id ≠ m) ++ flow (.copyService part) ∧
      t.copies = s.copies.put (s.nextId + (flow (.copyService part)).length) ⟨part, c, ws⟩ ∧ t.mem = s.mem ∧
      ∀ d k, t.slotOf d k = s.slotOf d k) ∧
    (∀ k o, s.copies.get? k = some o → o.part = part →
      let dev := (o.words.getD 1 0).toNat
      let far := (o.words.getD 2 0).toNat
      let len := ((o.words.getD 3 0).extractLsb' 32 16).toNat + 1
      let tgt : BitVec 32 := (o.words.getD 4 0).extractLsb' 0 32
      let w5 := o.words.getD 5 0
      let tok : List Body := if tgt ≠ 0xFFFFFFFF ∧ nodeIdOk s (some part) tgt.toNat = true then
        [.token tgt.toNat 1 none none (some o.core)] else []
      let sends : State → Nat → Prop := fun t st => t.copies = s.copies.del k ∧ (∀ d k, t.slotOf d k = s.slotOf d k) ∧
        ∃ new h, t.net = s.net ++ new ∧ (∀ y ∈ new, y.src = .copyService part) ∧
          new.map Msg.body = tok ++ (if w5.getLsbD 63 then []
            else [.chan o.core (w5.extractLsb' 0 6).toNat h [BitVec.ofNat 64 st] none])
      ((o.words.getD 0 0) = 0 → hostKeys s part false dev len = some ks → ∃ t, exec (.copyServiceComplete k) s = .next t ∧
        sends t 1 ∧ (∀ j : Nat, j < len → (ks[j]?).map (fun a => (a.map (s.readByte (.host part))).getD 0) =
          some (t.byte (Place.host.key (far + j)))) ∧
        ∀ y, (∀ j, j < len → y ≠ Place.host.key (far + j)) → t.byte y = s.byte y) ∧
      ((o.words.getD 0 0) = 1 → hostKeys s part true dev len = some ks → (realKeys ks).Nodup →
        ∃ t, exec (.copyServiceComplete k) s = .next t ∧ sends t 1 ∧
          (∀ j a : Nat, (realKeys ks)[j]? = some a → t.byte a = s.byte (Place.host.key (far + j))) ∧
          ∀ y, y ∉ realKeys ks → t.byte y = s.byte y) ∧
      ((o.words.getD 0 0) ≤ 1 → hostKeys s part (o.words.getD 0 0 == 1) dev len = none →
        ∃ t, exec (.copyServiceComplete k) s = .next t ∧ sends t 3 ∧ t.mem = s.mem) ∧
      let peer := (s.parts.get? part).bind fun p => p.endpoints.get? ((o.words.getD 3 0).extractLsb' 0 16).toNat
      (2 < (o.words.getD 0 0).toNat ∨ ((o.words.getD 0 0) = 2 ∧ peer = none) →
        ∃ t, exec (.copyServiceComplete k) s = .next t ∧ sends t 2 ∧ t.mem = s.mem) ∧
      ((o.words.getD 0 0) = 2 → peer ≠ none → ∃ t st, exec (.copyServiceComplete k) s = .next t ∧ sends t st ∧ t.mem = s.mem ∧
        1 ≤ st ∧ st ≤ 3)) ∧
    (∀ n h ws c k p e, s.msg? m = some x → x.body = .peerMsg part n h ws c k → s.parts.get? part = some p →
      p.endpoints.get? n = some e → (∀ y ∈ s.net, y.id = m ∨ y.src ≠ x.src) → (∀ y, x.src ≠ .peerCore y) →
        told (.peerAck m) (.peerOut e.port e.part e.core h ws) ∧ ∃ t, exec (.peerAck m) s = .next t ∧
          t.net = s.net.filter (fun y => y.id ≠ m) ++ flow (.peer n)) ∧
    (∀ n h ws c k, s.msg? m = some x → x.body = .peerMsg part n h ws c k → (∀ y ∈ s.net, y.id = m ∨ y.src ≠ x.src) →
      (∀ y, x.src ≠ .peerCore y) →
        let d := (h.extractLsb' 15 17).toNat
        ∃ t y, execPeerRefusal m s = .next t ∧ t.net = s.net.filter (fun y => y.id ≠ m) ++ flow (.peer n) ∧
          t.reports = s.reports ++ [(.hostEngine part, y)] ∧
          y.body = serviceBody (d / 128) d (serviceWords 0x26 d 0 0 0 (BitVec.ofNat 64 n)) ∧ t.ctl = s.ctl ∧ t.mem = s.mem ∧
          ∀ d k, t.slotOf d k = s.slotOf d k) ∧
    (∀ n, n < 262144 →
      let q := s.queue n
      let out := ((q.bind.bind fun b => s.parts.get? b.part).map PartSt.out).getD false
      let state := if q.bind = none then 0 else if q.wasReset then 3 else if out then 2 else 1
      execQueueStatus n s = .next { s with ctl := { s.ctl with reports := s.ctl.reports ++ [.queueStatus n (BitVec.ofNat 64
        (q.acc.toNat * 2 ^ 48 + q.bad.toNat * 2 ^ 32 + (16 - q.posts.length) * 2 ^ 24 + state))] } }) ∧
    (∀ e c h ws, partRuns s part = true → coreIn s (some part) c = true → ws.length ≤ 7 → ∃ t hd,
      execPeerMessage part e c h ws s = .next t ∧ t.net = s.net ++ [⟨s.nextId, .peerCore e, false, false, .chan c (hdrChan h) hd ws none⟩] ∧
      hd.extractLsb' 15 17 = BitVec.ofNat 17 (handleOf s part e) ∧ hd.extractLsb' 32 32 = h.extractLsb' 32 32 ∧
      hd.extractLsb' 8 7 = h.extractLsb' 8 7 ∧ { t with net := s.net, nextId := s.nextId } = s) ∧
    (∀ e c h ws, partRuns s part = false → execPeerMessage part e c h ws s = .next
      { s with ctl := { s.ctl with reports := s.ctl.reports ++ [.peerNoep e (handleOf s part e)] } }) ∧
    (∀ n entry p, s.parts.get? part = some p →
      let legs := (List.range (entry.extractLsb' 56 3).toNat).map fun i =>
        ((entry.extractLsb' (7 * i + 5) 2).toNat, (entry.extractLsb' (7 * i) 5).toNat)
      let ok := n < 4096 ∧ entry.extractLsb' 59 5 = 0 ∧ (∀ l ∈ legs, l.2 ≠ 0) ∧
        (∀ i j : Nat, i < j → (legs[j]?).map Prod.fst = some 2 → (legs[i]?).map Prod.fst = some 2)
      (¬ok → told (.staticRouteProgram part n entry) (.route part n false)) ∧
      (ok → told (.staticRouteProgram part n entry) (.route part n true) ∧ ∃ t, exec (.staticRouteProgram part n entry) s = .next t ∧
        t.parts.get? part = some { p with routes := if legs = [] then p.routes.del n else p.routes.put n entry })) ∧
    (∀ c ch h ws route d, s.msg? m = some x → x.body = .static c ch h ws route → x.src = .core d →
      let legs := legsOf (routeEntry s (corePart s d) route.toNat)
      let pos := posOf s (d / 128)
      let goes : Prop := ∃ t, exec (.staticRoute m) s = .next t ∧ { t with net := s.net } = s ∧
        t.net = s.net.map fun y => if y.id = m then { y with body := .chan c ch h ws none } else y
      let fails : Nat → Prop := fun at_ => ∃ t y, exec (.staticRoute m) s = .next t ∧
        t.net = s.net.filter (fun y => y.id ≠ m) ++ flow (.report (.router at_)) ∧ t.reports = s.reports ++ [(.router at_, y)] ∧
        y.body = serviceBody (d / 128) d (serviceWords 0x25 d 0 h 0 (route.setWidth 64)) ∧ t.mem = s.mem ∧
        ∀ d k, t.slotOf d k = s.slotOf d k
      (legsEnd pos legs = none → fails pos) ∧
      ∀ e, legsEnd pos legs = some e →
        (sgAt s e ≠ some (c / 128) ∨ fieldPart s (fieldOfPos e) ≠ corePart s d → fails pos) ∧
        (sgAt s e = some (c / 128) → fieldPart s (fieldOfPos e) = corePart s d →
          (followLegs s (legHops legs) (Head.start pos) = .arrives → goes) ∧
          ∀ g, followLegs s (legHops legs) (Head.start pos) = .leaves g →
            if (routeCost (routeOk s g.pos e) g e).isSome then goes else fails g.pos))

/-! ### Partitions and the controller -/

/-- R300: a granted request makes a partition under its lowest field, with its capability but for reserved bits, and a refused one makes
none. R301: a reset leaves its cores, clusters, rings and Reeves at reset but for the service image, the time of its fields 0 while their
clock k stays, its queues emptied, its commit windows, pair and front buffer, as they were, its copies answered with status 2 and the peer
messages in flight with NOEP, and nothing else changed. A removal lets the time of the fields run on (R208). R302: a guarded queue whose
posts have stood W cycles expires; a further W reset the partition. A partition at its pre-emption points is switched out, once its loft
engines have paused at a row-pair boundary, in a command or a sweep, its cores saved, and put back as saved. That a window's last
publication is its pair with the front buffer's bytes, that the memory of a context stays in place, when a queue expires, the uncounted
stay of its binding over a reset, that a reset forgets which images were loaded (`images := []`), that the bits SECOND and PEER of a
capability are those of the request, and the field whose cycles a guarded queue counts, which for a reward source is the lowest of the
partition, are the model's choices (assumptions 75, 76, 84, 62, 82, 96 and 58). -/
def Obligations.PartitionsAreMadeResetAndSwitched : Prop :=
  ∀ (s : State) (req : PartReq) (p n : Nat) (q : PartSt) (b : QBinding) (x : Context),
    let mine : Nat → Prop := fun c => sgIn s p (sgOf c) = true
    let emptyCore : State → Nat → Prop := fun t c => { t.core c with chans := [] } = CoreSt.reset ∧
      (∀ ch, ch ≠ 62 ∨ c % 128 ≠ 0 → t.chan c ch = Chan.reset)
    let resets : Instr → Nat → PartSt → Prop := fun i p q => ∃ t, exec i s = .next t ∧
      (∀ c, sgIn s p (sgOf c) = true → emptyCore t c ∧ (c % 128 = 0 → (t.chan c 62).hrec ≠ none ∧ (t.chan c 62).en = true)) ∧
      (∀ c, sgIn s p (sgOf c) = false → coreField s c ∉ q.fields → t.core c = s.core c) ∧
      (∀ cl, sgIn s p (cl / 16) = true → t.cluster cl = ClusterSt.reset) ∧ (∀ g, sgIn s p g = true → t.ring g = RingSt.reset) ∧
      (∀ f ∈ q.fields, (t.field f).time = 0 ∧ (t.field f).nodes = [] ∧ (t.field f).graphs = [] ∧
        (t.field f).clock = (s.field f).clock ∧ (t.field f).windows = (s.field f).windows) ∧
      (∀ f, f ∉ q.fields → t.field f = s.field f) ∧ t.parts.get? p = some { q with images := [], out := false } ∧
      (∀ f ∈ q.fields, ∀ w ∈ (s.field f).windows,
        let key : Nat → Nat := fun va => (Place.granary f).key (va - 0x04000000)
        let front := natOfBytes ((List.range 8).map fun k => s.byte (key w.1 + k))
        (∀ k, k < 16 → t.byte (key w.1 + k) = s.byte (key w.1 + k)) ∧
        ∀ k, k < w.2 → t.byte (key front + k) = s.byte (key front + k)) ∧
      (∀ k e, t.queues.get? k = some e → ∀ y, e.bind = some y → y.part = p → e = { QueueSt.reset with bind := some y, wasReset := true }) ∧
      (∀ e ∈ s.copies, e.2.part = p → Report.copyStatus p e.2.core 2 ∈ t.ctl.reports) ∧
      (∀ y ∈ s.net, ∀ c ch h ws u e, y.body = .chan c ch h ws u → y.src = .peerCore e → corePart s c = some p →
        Report.peerNoep e (h.extractLsb' 15 17).toNat ∈ t.ctl.reports) ∧ Report.resetAnswer p ∈ t.ctl.reports
    let st := s.queue n
    let now := (s.field (targetField s b)).time.toNat
    let w := q.watchdog
    (partReqOk s req = true → ∃ t r, exec (.partitionCreate req) s = .next t ∧
      t.parts.get? (req.fields.foldl min 41) = some r ∧ r.fields = req.fields ∧ r.cap = req.cap &&& 0xFFF ∧ r.guarded = req.guarded ∧
      r.watchdog = (if req.watchdog = 0 then 2 ^ 26 else req.watchdog) ∧ (∀ pn, leafOf r.pages pn = none) ∧ r.out = false ∧ r.test = req.test ∧
      r.signed = req.signed ∧ t.mem = s.mem ∧ t.ctl.reports.getLast? = some (.partition (req.fields.foldl min 41) true) ∧
      ∀ d k, t.slotOf d k = s.slotOf d k) ∧
    (partReqOk s req = false → exec (.partitionCreate req) s = .next
      { s with ctl := { s.ctl with reports := s.ctl.reports ++ [.partition (req.fields.foldl min 41) false] } }) ∧
    (s.parts.get? p = some q → resets (.partitionReset p) p q ∧
      (∃ t, exec (.partitionRemoval p) s = .next t ∧ t.parts.get? p = none ∧ (∀ c, mine c → t.core c = CoreSt.reset) ∧
        (∀ c, ¬mine c → t.core c = s.core c) ∧ t.mem = s.mem ∧ (∀ f, (t.field f).time = (s.field f).time) ∧
        ∀ k r y, t.queues.get? k = some r → r.bind = some y → y.part ≠ p) ∧
      (st.bind = some b → b.part = p → q.guarded = true → q.out = false →
        (st.posts ≠ [] → st.expired = none → w ≤ now - st.since → ∃ t, exec (.watchdogExpiry n) s = .next t ∧
          t.queue n = { st with expired := some now } ∧ (∀ k, k ≠ n → t.queue k = s.queue k) ∧ { t with queues := s.queues } = s) ∧
        (st.posts = [] ∨ st.expired ≠ none ∨ now - st.since < w → exec (.watchdogExpiry n) s = .next s) ∧
        (∀ e, st.expired = some e → (w ≤ now - e → resets (.watchdogReset n) p q) ∧
          (now - e < w → exec (.watchdogReset n) s = .next s))) ∧
      (q.out = false → atPoints s q.fields = true → (∀ l ∈ s.loads, l.2.req.part ≠ p) → ∃ t y,
        exec (.contextSwitchOut p) s = .next t ∧ t.saved.get? p = some y ∧
        (let paused := (s.cores.keys.filter (coreOf s p)).foldl (fun s c => (s.pauseLoft c).pauseSweep c) s
         y.cores = paused.cores.filter (fun e => sgIn s p (sgOf e.1)) ∧ t.mem = paused.mem) ∧
        ((∀ c, mine c → (s.classQ c 4).queue = [] ∧ (s.core c).sweep = none) → y.cores = s.cores.filter (fun e => sgIn s p (sgOf e.1)) ∧
          t.mem = s.mem) ∧
        (∀ c, mine c → t.core c = CoreSt.reset) ∧ (∀ c, ¬mine c → t.core c = s.core c) ∧
        (∀ x, (∀ c, mine c → ∀ n, n < 0x1000000 → x ≠ (Place.loft c).key n) → t.byte x = s.byte x) ∧
        t.parts.get? p = some { q with out := true }) ∧
      (s.saved.get? p = some x → (∀ a ∈ x.loft, areaField a.2 0 4 = 1 ∧ areaField a.2 4 4 = 1152) →
        (x.cores.map Prod.fst).Nodup → ∃ t, exec (.contextRestore p) s = .next t ∧
          (∀ e ∈ x.cores, e.2.sweep = none → (e.2.jobs.get (clsIx 4)).queue = [] → t.core e.1 = e.2) ∧
          (∀ c a e, x.loft = [(c, a)] → (c, e) ∈ x.cores → areaField a 0x0C 1 ≠ 1 → ∀ (i : Nat) m,
            (e.jobs.get (clsIx 4)).queue[i]? = some m → i < areaField a 0x0D 1 → ((t.classQ c 4).queue[i]?).map Cmd.word =
              some (BitVec.ofNat 256 (areaField a (0x280 + 32 * i) 32))) ∧ t.net = s.net ++ x.net ∧ t.mem = s.mem ∧ t.saved = s.saved.del p ∧
          t.parts.get? p = some { q with out := false }) ∧
      (s.saved.get? p = some x → (∃ a ∈ x.loft, ¬(areaField a.2 0 4 = 1 ∧ areaField a.2 4 4 = 1152)) →
        resets (.contextRestore p) p q))

/-- R279, R280: a cold boot leaves no partition and no work, keeps keys, policy and erasure, and fails in phase 1, 3 or 5, reported: its
firmware, loft firmware and service image are verified against the root key whose digest is in the fuses (R281). R281 to R283: keys go
into their slots; a quote covers the measurements, signed, with the chain, unless a key is erased; a signed policy is taken; each alarm is
told and erases the keys where the policy says so, and a glitch or an opened lid resets a module's one partition. R286: what the owner
maps stands in the page table, which stays tidy. R335: a fault on a present page is answered 0, or 1 or 2 where the page refuses it, and 0
where the page was moving when it was met; an absent one goes to the owner or is answered 1, and one on a lost page is answered 1, asked
or not (R284). What a boot keeps and which phases fail, the bytes of keys, chains, the measured map and a nonce that has not 64 bytes, the
reports, the split of a 2 MiB leaf and the refusal of an owner's leaf are the model's choices (assumptions 25, 73, 80, 81, 85, 127). -/
def Obligations.TheControllerBootsAttestsAndAnswersFaults : Prop :=
  ∀ (s : State) (rep : BootReport) (slot part pn k pos fl : Nat) (key nonce sig : List Byte) (bits : BitVec 6) (f : HeldFault)
    (l : Leaf) (q : PartSt),
    let tells : Instr → List Report → Prop := fun i rs =>
      exec i s = .next { s with ctl := { s.ctl with reports := s.ctl.reports ++ rs } }
    let erased : State → Nat → Prop := fun t src => t.ctl.identity = (if s.ctl.policy.getLsbD src then none else s.ctl.identity) ∧
      t.ctl.attestation = (if s.ctl.policy.getLsbD src then none else s.ctl.attestation)
    let alarmed : State → Nat → Prop := fun t src => erased t src ∧
      .alarm src ∈ t.ctl.reports.drop s.ctl.reports.length
    let cleared : State → Nat → Prop := fun t p => ∀ c, sgIn s p (sgOf c) = true → { t.core c with chans := [] } = CoreSt.reset
    let seen : Leaf → Option Leaf := fun l => if l = ⟨.notPresent, .silo, 0, 0, false, false, false, false, false⟩ then none else some l
    let mapped : PageTable → PageTable → Nat → Leaf → Prop := fun old pt pn l => TidyTable pt ∧
      ∀ m, leafOf pt m = if m / 32 ≠ pn / 32 then leafOf old m
        else if l.big then some { l with frame := l.frame - l.frame % 32 }
        else if m = pn then seen l
        else (leafOf old m).bind fun b => if b.big then seen { b with big := false, frame := b.frame + m % 32 } else some b
    let maps : State → Nat → Leaf → Prop := fun t pn l => ∃ pt, t.parts = s.parts.put part { q with pages := pt } ∧ mapped q.pages pt pn l
    let visible : Leaf → Prop := fun l => (l.tier = .second → q.cap.getLsbD 9 = true) ∧ mayMap s l = true
    let found : BootReport := { rep with deadRouters := rep.deadRouters ++ s.ctl.failed }
    let answers : Instr → Nat → State → Prop := fun i v t => exec i s = .next t ∧ ∃ y, t.net = s.net ++ [y] ∧
      y.src = .controller ∧ isReply y (if f.copy then 0xFFFE else 0xFFFF) = true ∧
      (∃ h, y.body = .chan f.core 62 h [BitVec.ofNat 64 v] none ∧ h.extractLsb' 32 16 = BitVec.ofNat 16 f.slot) ∧
      t.ctl.faults = s.ctl.faults.del k ∧ ∀ d j, t.slotOf d j = s.slotOf d j
    let acc := accOfNum f.kind
    let verdict := if f.moved || leafAllows l acc then 0 else if f.kind = 2 then 2 else 1
    (∃ t, exec (.coldBoot rep) s = .next t ∧ t.parts = [] ∧ t.cores = [] ∧ t.clusters = [] ∧ t.rings = [] ∧ t.fields = [] ∧
      t.queues = [] ∧ t.net = [] ∧ t.hidden = [] ∧ t.ctl.keys = s.ctl.keys ∧ t.ctl.policy = s.ctl.policy ∧
      t.ctl.failed = s.ctl.failed ∧
      let good := (harvest found).1.length
      let signed : SignedImage → Bool := fun m => sha512 rep.rootKey == s.ctl.rootDigest && verify rep.rootKey m.bytes m.sig
      let n := if signed rep.firmware = false then 1 else if good < 960 then 3 else if signed rep.loftFw && signed rep.service then 7 else 5
      t.ctl.phase = n ∧ t.ctl.repair = (if n = 1 then s.ctl.repair else []) ∧ t.ctl.holes = (if n ≤ 3 then s.ctl.holes else (harvest found).2) ∧
      t.ctl.badPorts = (if n = 7 then rep.cxlDown else s.ctl.badPorts) ∧ (n ≤ 3 → t.ctl.silo = s.ctl.silo) ∧ (n = 7 →
        t.ctl.reports = []) ∧ (n ≠ 7 → t.ctl.reports.head? = some (.bootFailed n)) ∧
      t.ctl.rootDigest = s.ctl.rootDigest ∧ t.ctl.deadElevators = (if n ≤ 3 then s.ctl.deadElevators else rep.deadElevators) ∧
      (n = 1 → t.ctl.images = s.ctl.images) ∧ (n = 7 → t.ctl.images = [rep.firmware.bytes, rep.loftFw.bytes, rep.service.bytes]) ∧
      (n = 3 ∨ n = 7 → t.ctl.identity = s.ctl.identity ∧ t.ctl.attestation = s.ctl.attestation) ∧ (n = 1 ∨ n = 5 → erased t 0)) ∧
    (exec (.keyProvisioning slot key) s = .next (if slot < 4 then { s with ctl := { s.ctl with keys := s.ctl.keys.put slot key } }
      else if slot = 4 then { s with ctl := { s.ctl with identity := some (privateOf key) } }
      else if slot = 5 then { s with ctl := { s.ctl with attestation := some (privateOf key) } } else s)) ∧
    (s.ctl.identity = none ∨ s.ctl.attestation = none → tells (.attestationRequest part nonce) [.keyless]) ∧
    (∀ i a, s.ctl.identity = some i → s.ctl.attestation = some a →
      let quoted := (nonce ++ List.replicate 64 0).take 64 ++ ((s.ctl.images.map sha512).flatten ++ sha512 (harvestBytes s) ++
        (((s.parts.get? part).map PartSt.images).getD []).flatMap Prod.snd)
      ∃ salt salt' n, salt.length = 64 ∧ salt'.length = 64 ∧ exec (.attestationRequest part nonce) s = .next { s with
        free := n
        ctl := { s.ctl with reports := s.ctl.reports ++ [.quote part quoted (signWith a quoted salt)
          ((publicHalf a ++ signWith i (publicHalf a) salt') :: Config.identityChain (publicHalf i))] } }) ∧
    (∀ good, (match s.ctl.keys.get? 0 with
        | some key => verify key [bits.setWidth 8] sig
        | none => false) = good → exec (.policyWrite bits sig) s = .next { s with ctl := { s.ctl with
          policy := if good then bits else s.ctl.policy, reports := s.ctl.reports ++ [.policy good] } }) ∧
    (s.parts = [(part, q)] →
      (∃ t, exec .voltageGlitch s = .next t ∧ alarmed t 2 ∧ cleared t part) ∧
      (∃ t, exec .lidSensorOpened s = .next t ∧ alarmed t 5 ∧ cleared t part) ∧
      (fieldPart s fl = some part → ∃ t, exec (.clockGlitch fl) s = .next t ∧ alarmed t 3 ∧ cleared t part)) ∧
    (fieldPart s fl = none → ∃ t, exec (.clockGlitch fl) s = .next t ∧ alarmed t 3 ∧ { t with ctl := s.ctl } = s) ∧
    (∃ t, exec (.bondIntegrityAlarm pos) s = .next t ∧ alarmed t 4 ∧ .canary pos ∈ t.ctl.reports ∧
      t.ctl.repair = s.ctl.repair ++ [pos] ∧ { t with ctl := s.ctl } = s) ∧
    (s.parts.get? part = some q →
      (∃ t pt,
        exec (.translationChange part pn none) s = .next t ∧ { t with parts := s.parts } = s ∧
        (t.parts.get? part).map PartSt.pages = some pt ∧ leafOf pt pn = none ∧
        ∀ m, m / 32 ≠ pn / 32 ∨ (m ≠ pn ∧ ∀ b, leafOf q.pages pn = some b → b.big = false) → leafOf pt m = leafOf q.pages m) ∧
      (¬visible l → exec (.translationChange part pn (some l)) s = .next s) ∧
      (visible l → TidyTable q.pages → ∃ t, exec (.translationChange part pn (some l)) s = .next t ∧ maps t pn l ∧
        { t with parts := s.parts } = s)) ∧
    (s.ctl.faults.get? k = some f → corePart s f.core = some part → s.parts.get? part = some q → sgOf f.core < 1024 → f.slot < 4 →
      TidyTable q.pages →
      let pg := f.va.toNat / 0x10000
      let away := leafOf q.pages pg = none ∨ (leafOf q.pages pg = some l ∧ l.state = .notPresent ∧ l.lost = false)
      (f.seen = true →
        (leafOf q.pages pg = some l → l.state = .present → ∃ t, answers (.controllerFaultAnswer k) verdict t ∧ t.mem = s.mem) ∧
        (leafOf q.pages pg = some l → l.state = .moving → exec (.controllerFaultAnswer k) s = .next { s with ctl := { s.ctl with
          faults := s.ctl.faults.put k { f with moved := true } } }) ∧
        (leafOf q.pages pg = some l → l.state = .discarded → acc = .load ∨ acc = .vload ∨ f.moved = true →
          ∃ t, answers (.controllerFaultAnswer k) verdict t ∧ t.mem = s.mem) ∧
        (leafOf q.pages pg = some l → l.state = .discarded → acc ≠ .load → acc ≠ .vload → f.moved = false → ∃ t,
          answers (.controllerFaultAnswer k) verdict t ∧ (∀ o, o < 0x10000 → l.big = false → t.byte (leafKey s l (pg * 0x10000) + o) = 0) ∧
          leafOf (t.pageTable (some part)) pg = some { l with state := .present }) ∧
        (leafOf q.pages pg = some l → l.state = .notPresent → l.lost = true →
          ∃ t, answers (.controllerFaultAnswer k) 1 t ∧ t.mem = s.mem) ∧
        (away → f.asked = true → exec (.controllerFaultAnswer k) s = .next s) ∧
        (away → f.asked = false → q.askFaults = false → ∃ t, answers (.controllerFaultAnswer k) 1 t ∧ t.mem = s.mem) ∧
        (away → f.asked = false → q.askFaults = true → exec (.controllerFaultAnswer k) s = .next { s with ctl := { s.ctl with
          faults := s.ctl.faults.put k { f with asked := true }, reports := s.ctl.reports ++ [.pageFault part f.va.toNat] } })) ∧
      (f.asked = true → (∃ t, answers (.ownerMapDecision k none) 1 t ∧ t.parts = s.parts) ∧
        (¬visible l → exec (.ownerMapDecision k (some l)) s = .next s) ∧
        (visible l → l.state = .present → ∃ t, answers (.ownerMapDecision k (some l)) verdict t ∧ maps t pg l) ∧
        (visible l → l.state ≠ .present → ∃ t, exec (.ownerMapDecision k (some l)) s = .next t ∧ maps t pg l ∧
          { t with parts := s.parts } = s)))

/-- R284, R285, R299: a lost page of a retired channel becomes not present and any other one moves; the loss of an elevator, of a port or
of a router resets the one partition that it hits, and without one nothing is reset. R287: hot pages begin to move, and a move ends with
its bytes in a free frame of the place nearest to the requesters, homed where that frame is served. R290: an injection is armed in a test
partition alone. R291, R292: the clock of a field stays from 4 to its cap, which a held-off migration makes 4 until it has taken place,
and 110 degrees reset its partition. R129: a write becomes visible to a view; no byte changes. Which frames stand behind a channel, a port
and a site, which free frame a page takes and how its distance is counted, which pages a narrowed channel loses, when scans, revisions and
clears come, and that a page of the granary tier lies in the granary of the field of its home are the model's choices (assumptions 69, 70,
71, 78 and 14). -/
def Obligations.FailuresMigrationsAndPowerActOnTheirParts : Prop :=
  ∀ (s : State) (p ch n f : Nat) (q : PartSt) (l : Leaf) (dst : ChanState) (gone : List (Nat × Nat)) (cls : InjClass)
    (ks : List Nat) (w : Nat) (view : View),
    let cleared : Instr → Prop := fun i => ∃ t, exec i s = .next t ∧
      (∀ c, sgIn s p (sgOf c) = true → { t.core c with chans := [] } = CoreSt.reset) ∧
      (∀ c, sgIn s p (sgOf c) = false → coreField s c ∉ q.fields → t.core c = s.core c)
    let onSite : Leaf → Bool := fun l => (leafFrames l).any fun x => x / 49152 / 32 == n
    let behind : Leaf → Bool := fun l => l.tier == .second && l.frame / 4194304 == n
    let hit : (Leaf → Bool) → List Nat := fun test =>
      (s.parts.filter fun e => e.2.pages.leaves.any fun g => g.2.state != .notPresent && test g.2).map Prod.fst
    let pageOf : State → Nat → Option Leaf := fun t pn => leafOf (t.pageTable (some p)) pn
    let small := ∀ e ∈ q.pages.leaves, e.2.big = false
    let cap : Nat := if (s.field f).migrate && ((s.field f).heldOff || maskedIn s f) then 4 else if (s.field f).above.contains 100 then 8
      else if (s.field f).above.contains 95 then 12 else 16
    let field : State → FieldSt → Prop := fun t r => t.field f = r ∧ (∀ g, g ≠ f → t.field g = s.field g) ∧
      { t with fields := s.fields } = s
    let fs := s.field f
    (s.parts = [(p, q)] → small → (q.pages.leaves.map Prod.fst).Nodup → (n, l) ∈ q.pages.leaves → l.tier = .silo → l.frame / 49152 = ch →
      l.state = .present → (∀ e ∈ q.pages.leaves, e.1 ≠ n → ch ∉ (leafFrames e.2).map (· / 49152)) → dst = .retired →
        ∃ t, exec (.channelRetirement ch dst gone) s = .next t ∧ t.ctl.silo.get? ch = some .retired ∧ t.mem = s.mem ∧
          (∀ c, sgIn s p (sgOf c) = true → (t.core c).dtlb = [] ∧ (t.core c).itlb = []) ∧
          pageOf t n = some (if (p, n) ∈ gone then { l with state := .notPresent, lost := true } else { l with state := .moving })) ∧
    (s.parts = [(p, q)] → small → (q.pages.leaves.map Prod.fst).Nodup → (n, l) ∈ q.pages.leaves → l.tier = .silo → l.frame / 49152 = ch →
      l.state = .discarded → (p, n) ∉ gone → (∀ e ∈ q.pages.leaves, e.1 ≠ n → ch ∉ (leafFrames e.2).map (· / 49152)) →
      let out : State := { s with ctl := { s.ctl with silo := s.ctl.silo.put ch .retired }, free := s.free + 2 ^ 40 }
      ∀ x, someFrames out ((List.range 512).filter fun c => chanState out c == .full) 1 = some x →
        ∃ t, exec (.channelRetirement ch .retired gone) s = .next t ∧ pageOf t n = some { l with frame := x } ∧ t.mem = s.mem) ∧
    (hit onSite = [p] → s.parts.get? p = some q → cleared (.elevatorFailure n)) ∧
    (hit onSite = [] → ∃ t, exec (.elevatorFailure n) s = .next t ∧ { t with ctl := s.ctl } = s ∧ n ∈ t.ctl.badSites) ∧
    (hit behind = [p] → s.parts.get? p = some q → cleared (.cxlPortLoss n)) ∧
    (hit behind = [] → ∃ t, exec (.cxlPortLoss n) s = .next t ∧ { t with ctl := s.ctl } = s ∧ n ∈ t.ctl.badPorts) ∧
    (s.parts.keys.filter (fun e => routedThrough s e n) = [p] → s.parts.get? p = some q → cleared (.routerFailure n)) ∧
    (s.parts.keys.filter (fun e => routedThrough s e n) = [] → exec (.routerFailure n) s = .next
      { s with ctl := { s.ctl with failed := (n :: s.ctl.failed).dedup } }) ∧
    (fieldPart s f = some p →
      let homes := s.hot.filter fun h => sgField s h.1 == f
      let hot := homes.flatMap fun h => (h.2.filter fun e => decide (256 ≤ e.2.getD 0 0) &&
        decide (e.2.getD 0 0 * 3 ≤ ((e.2.drop 1).take 4).foldl max 0 * 4)).map Prod.fst
      (hot = [] → exec (.hotnessScan f) s = .next { s with hot := s.hot.filter fun h => sgField s h.1 != f }) ∧
      (hot = [n] → s.parts.get? p = some q → leafOf q.pages n = some l → l.big = false → l.tier ≠ .second → l.state = .present →
        ∃ t, exec (.hotnessScan f) s = .next t ∧ pageOf t n = some { l with state := .moving } ∧ t.mem = s.mem ∧
          t.hot = s.hot.filter fun h => sgField s h.1 != f)) ∧
    (s.parts.get? p = some q → leafOf q.pages n = some l → l.big = false →
      let r := (q.moves.get? n).getD (requesters s l [])
      (l.state ≠ .moving → exec (.migrationComplete p n) s = .next s) ∧
      (l.state = .moving → l.tier = .second ∨ (l.tier = .granary ∧ granaryFree s p 1 = []) → ∃ t, exec (.migrationComplete p n) s = .next t ∧
        t.mem = s.mem ∧ pageOf t n = some { l with state := .present }) ∧
      (l.state = .moving → l.tier = .granary → granaryFree s p 1 ≠ [] → s.lost = [] → memWf s.base s.mem = true →
        (∀ g ∈ q.fields, ∃ h ∈ partSgs s p, sgField s h = g) → ∃ t x h pos, exec (.migrationComplete p n) s = .next t ∧
          x ∈ granaryFree s p 1 ∧ pos ∈ granaryRouters s x.1 ∧
          (∀ y ∈ granaryFree s p 1, ∀ z ∈ granaryRouters s y.1, fromCentroid r pos ≤ fromCentroid r z) ∧
          h ∈ partSgs s p ∧ sgField s h = x.1 ∧
          (∀ g ∈ partSgs s p, sgField s g = x.1 → hopsTo s (posOf s h) pos ≤ hopsTo s (posOf s g) pos) ∧
          pageOf t n = some { l with frame := x.2, home := h, state := .present } ∧
          ∀ o, o < 0x10000 → t.byte ((Place.granary x.1).key (x.2 * 0x10000 + o)) =
            s.byte ((Place.granary (sgField s l.home)).key (l.frame * 0x10000 + o))) ∧
      (l.state = .moving → l.tier = .silo → s.lost = [] → memWf s.base s.mem = true → partSgs s p ≠ [] → partFields s p ≠ [] →
        (∃ k, k < 16 ∧ (someFrames s (siteChans s k) 1).isSome = true) → ∃ t x h site f, exec (.migrationComplete p n) s = .next t ∧
          f ∈ partFields s p ∧ site < 16 ∧ someFrames s (siteChans s site) 1 = some x ∧
          (∀ k, k < 16 → (someFrames s (siteChans s k) 1).isSome = true → ∀ g ∈ partFields s p,
            fromCentroid r (siloRouter s f site) ≤ fromCentroid r (siloRouter s g k)) ∧
          h ∈ partSgs s p ∧ (∀ g ∈ partSgs s p, hopsTo s (posOf s h) (siloRouter s f site) ≤ hopsTo s (posOf s g) (siloRouter s f site)) ∧
          pageOf t n = some { l with frame := x, home := h, state := .present } ∧
          ∀ o, o < 0x10000 → t.byte (Place.silo.key (x * 0x10000 + o)) = s.byte (Place.silo.key (l.frame * 0x10000 + o)))) ∧
    (∀ k z, s.parts.get? p = some q → granuleAt s p w = some (k, z) → exec (.injectionRequest p w cls) s = .next
      (if q.test then { s with bad := ⟨k, z, cls, true⟩ :: s.bad
                               ctl := { s.ctl with reports := s.ctl.reports ++ [.injection true] } }
        else { s with ctl := { s.ctl with reports := s.ctl.reports ++ [.injection false] } })) ∧
    (f < 42 → ∃ t, exec (.powerRevision ks) s = .next t ∧ { t with fields := s.fields } = s ∧ t.field f = match ks[f]? with
      | some k => { fs with clock := max 4 (min k cap), heldOff := fs.heldOff || (fs.migrate && maskedIn s f) }
      | none => fs) ∧
    (fieldPart s f = some p → s.parts.get? p = some q → cleared (.thermalThreshold f 110)) ∧
    (∃ t, exec (.thermalThreshold f 95) s = .next t ∧ ∃ r, field t r ∧ 95 ∈ r.above ∧ r.migrate = fs.migrate ∧ 4 ≤ r.clock ∧
      r.clock ≤ 12) ∧
    (∃ t, exec (.thermalThreshold f 100) s = .next t ∧ ∃ r, field t r ∧ 100 ∈ r.above ∧ r.migrate = true ∧ 4 ≤ r.clock ∧
      r.clock ≤ 8) ∧
    (∃ t, exec (.thermalClear f n) s = .next t ∧
      field t { fs with above := fs.above.filter (· ≠ n), migrate := fs.migrate && n != 100, heldOff := fs.heldOff && n != 100 }) ∧
    (fs.migrate = true → maskedIn s f = false → atPoints s [f] = true → ∃ t, exec (.thermalMigration f) s = .next t ∧
      field t { fs with migrate := false, heldOff := false }) ∧
    (fs.migrate = true → maskedIn s f = true → ∃ t, exec (.thermalMigration f) s = .next t ∧ field t { fs with clock := 4, heldOff := true }) ∧
    (fs.migrate = false ∨ (maskedIn s f = false ∧ atPoints s [f] = false) → exec (.thermalMigration f) s = .next s) ∧
    (∃ t, exec (.writePerformed w view) s = .next t ∧ { t with hidden := s.hidden } = s ∧ t.hidden.length ≤ s.hidden.length ∧
      ∀ h ∈ t.hidden, h.id = w → view ∈ h.seen ∧ view ≠ .all)

end
end

