-- ==== Sys2Proof/Laws/AMap.lean ====
section
/-!
SUPPORT. The laws of a sparse table: what an entry reads as after a put.
-/
namespace Sys2Proof.Machine

@[simp] theorem AMap.get?_put_self {α : Type} (m : AMap α) (n : Nat) (v : α) : (m.put n v).get? n = some v := by
  induction m with
  | nil => simp [AMap.put, AMap.get?]
  | cons p m ih =>
    obtain ⟨k, w⟩ := p
    unfold AMap.put
    split
    · simp [AMap.get?]
    · split
      · simp [AMap.get?]
      · simp [AMap.get?, *]

theorem AMap.get?_put_ne {α : Type} (m : AMap α) {n k : Nat} (v : α) (h : k ≠ n) : (m.put n v).get? k = m.get? k := by
  induction m with
  | nil => simp [AMap.put, AMap.get?, Ne.symm h]
  | cons p m ih =>
    obtain ⟨j, w⟩ := p
    unfold AMap.put
    split
    · simp [AMap.get?, Ne.symm h]
    · split
      · subst j; simp [AMap.get?, Ne.symm h]
      · simp [AMap.get?, ih]

theorem AMap.get?_put {α : Type} (m : AMap α) (n k : Nat) (v : α) :
    (m.put n v).get? k = if k = n then some v else m.get? k := by
  split
  · subst k; simp
  · exact AMap.get?_put_ne m v ‹_›

@[simp] theorem AMap.getD_put_self {α : Type} (m : AMap α) (n : Nat) (v d : α) : (m.put n v).getD n d = v := by
  simp [AMap.getD]

theorem AMap.getD_put_ne {α : Type} (m : AMap α) {n k : Nat} (v d : α) (h : k ≠ n) :
    (m.put n v).getD k d = m.getD k d := by
  simp [AMap.getD, AMap.get?_put_ne m v h]

theorem AMap.getD_put {α : Type} (m : AMap α) (n k : Nat) (v d : α) :
    (m.put n v).getD k d = if k = n then v else m.getD k d := by
  split
  · subst k; simp
  · exact AMap.getD_put_ne m v d ‹_›

end Sys2Proof.Machine
end

