-- ==== Sys2Proof/Laws/State.lean ====
section
/-!
SUPPORT. What each update of the state leaves as it was, one law for each field: no later proof unfolds a record update.
-/
namespace Sys2Proof.Machine

/-! ### `State.modCore` -/

@[simp] theorem State.modCore_cur (s : State) (c : Nat) (f : CoreSt → CoreSt) : (s.modCore c f).cur = s.cur := rfl
@[simp] theorem State.modCore_clusters (s : State) (c : Nat) (f : CoreSt → CoreSt) : (s.modCore c f).clusters = s.clusters := rfl
@[simp] theorem State.modCore_rings (s : State) (c : Nat) (f : CoreSt → CoreSt) : (s.modCore c f).rings = s.rings := rfl
@[simp] theorem State.modCore_fields (s : State) (c : Nat) (f : CoreSt → CoreSt) : (s.modCore c f).fields = s.fields := rfl
@[simp] theorem State.modCore_parts (s : State) (c : Nat) (f : CoreSt → CoreSt) : (s.modCore c f).parts = s.parts := rfl
@[simp] theorem State.modCore_queues (s : State) (c : Nat) (f : CoreSt → CoreSt) : (s.modCore c f).queues = s.queues := rfl
@[simp] theorem State.modCore_mem (s : State) (c : Nat) (f : CoreSt → CoreSt) : (s.modCore c f).mem = s.mem := rfl
@[simp] theorem State.modCore_lost (s : State) (c : Nat) (f : CoreSt → CoreSt) : (s.modCore c f).lost = s.lost := rfl
@[simp] theorem State.modCore_hidden (s : State) (c : Nat) (f : CoreSt → CoreSt) : (s.modCore c f).hidden = s.hidden := rfl
@[simp] theorem State.modCore_bad (s : State) (c : Nat) (f : CoreSt → CoreSt) : (s.modCore c f).bad = s.bad := rfl
@[simp] theorem State.modCore_resv (s : State) (c : Nat) (f : CoreSt → CoreSt) : (s.modCore c f).resv = s.resv := rfl
@[simp] theorem State.modCore_net (s : State) (c : Nat) (f : CoreSt → CoreSt) : (s.modCore c f).net = s.net := rfl
@[simp] theorem State.modCore_carried (s : State) (c : Nat) (f : CoreSt → CoreSt) : (s.modCore c f).carried = s.carried := rfl
@[simp] theorem State.modCore_reports (s : State) (c : Nat) (f : CoreSt → CoreSt) : (s.modCore c f).reports = s.reports := rfl
@[simp] theorem State.modCore_insts (s : State) (c : Nat) (f : CoreSt → CoreSt) : (s.modCore c f).insts = s.insts := rfl
@[simp] theorem State.modCore_loads (s : State) (c : Nat) (f : CoreSt → CoreSt) : (s.modCore c f).loads = s.loads := rfl
@[simp] theorem State.modCore_copies (s : State) (c : Nat) (f : CoreSt → CoreSt) : (s.modCore c f).copies = s.copies := rfl
@[simp] theorem State.modCore_hot (s : State) (c : Nat) (f : CoreSt → CoreSt) : (s.modCore c f).hot = s.hot := rfl
@[simp] theorem State.modCore_saved (s : State) (c : Nat) (f : CoreSt → CoreSt) : (s.modCore c f).saved = s.saved := rfl
@[simp] theorem State.modCore_ctl (s : State) (c : Nat) (f : CoreSt → CoreSt) : (s.modCore c f).ctl = s.ctl := rfl
@[simp] theorem State.modCore_sched (s : State) (c : Nat) (f : CoreSt → CoreSt) : (s.modCore c f).sched = s.sched := rfl
@[simp] theorem State.modCore_turn (s : State) (c : Nat) (f : CoreSt → CoreSt) : (s.modCore c f).turn = s.turn := rfl
@[simp] theorem State.modCore_nextId (s : State) (c : Nat) (f : CoreSt → CoreSt) : (s.modCore c f).nextId = s.nextId := rfl
@[simp] theorem State.modCore_free (s : State) (c : Nat) (f : CoreSt → CoreSt) : (s.modCore c f).free = s.free := rfl

/-! ### `State.modSlotOf` -/

@[simp] theorem State.modSlotOf_cur (s : State) (c : Nat) (k : Fin 4) (f : Slot → Slot) : (s.modSlotOf c k f).cur = s.cur := rfl
@[simp] theorem State.modSlotOf_clusters (s : State) (c : Nat) (k : Fin 4) (f : Slot → Slot) : (s.modSlotOf c k f).clusters = s.clusters := rfl
@[simp] theorem State.modSlotOf_rings (s : State) (c : Nat) (k : Fin 4) (f : Slot → Slot) : (s.modSlotOf c k f).rings = s.rings := rfl
@[simp] theorem State.modSlotOf_fields (s : State) (c : Nat) (k : Fin 4) (f : Slot → Slot) : (s.modSlotOf c k f).fields = s.fields := rfl
@[simp] theorem State.modSlotOf_parts (s : State) (c : Nat) (k : Fin 4) (f : Slot → Slot) : (s.modSlotOf c k f).parts = s.parts := rfl
@[simp] theorem State.modSlotOf_queues (s : State) (c : Nat) (k : Fin 4) (f : Slot → Slot) : (s.modSlotOf c k f).queues = s.queues := rfl
@[simp] theorem State.modSlotOf_mem (s : State) (c : Nat) (k : Fin 4) (f : Slot → Slot) : (s.modSlotOf c k f).mem = s.mem := rfl
@[simp] theorem State.modSlotOf_lost (s : State) (c : Nat) (k : Fin 4) (f : Slot → Slot) : (s.modSlotOf c k f).lost = s.lost := rfl
@[simp] theorem State.modSlotOf_hidden (s : State) (c : Nat) (k : Fin 4) (f : Slot → Slot) : (s.modSlotOf c k f).hidden = s.hidden := rfl
@[simp] theorem State.modSlotOf_bad (s : State) (c : Nat) (k : Fin 4) (f : Slot → Slot) : (s.modSlotOf c k f).bad = s.bad := rfl
@[simp] theorem State.modSlotOf_resv (s : State) (c : Nat) (k : Fin 4) (f : Slot → Slot) : (s.modSlotOf c k f).resv = s.resv := rfl
@[simp] theorem State.modSlotOf_net (s : State) (c : Nat) (k : Fin 4) (f : Slot → Slot) : (s.modSlotOf c k f).net = s.net := rfl
@[simp] theorem State.modSlotOf_carried (s : State) (c : Nat) (k : Fin 4) (f : Slot → Slot) : (s.modSlotOf c k f).carried = s.carried := rfl
@[simp] theorem State.modSlotOf_reports (s : State) (c : Nat) (k : Fin 4) (f : Slot → Slot) : (s.modSlotOf c k f).reports = s.reports := rfl
@[simp] theorem State.modSlotOf_insts (s : State) (c : Nat) (k : Fin 4) (f : Slot → Slot) : (s.modSlotOf c k f).insts = s.insts := rfl
@[simp] theorem State.modSlotOf_loads (s : State) (c : Nat) (k : Fin 4) (f : Slot → Slot) : (s.modSlotOf c k f).loads = s.loads := rfl
@[simp] theorem State.modSlotOf_copies (s : State) (c : Nat) (k : Fin 4) (f : Slot → Slot) : (s.modSlotOf c k f).copies = s.copies := rfl
@[simp] theorem State.modSlotOf_hot (s : State) (c : Nat) (k : Fin 4) (f : Slot → Slot) : (s.modSlotOf c k f).hot = s.hot := rfl
@[simp] theorem State.modSlotOf_saved (s : State) (c : Nat) (k : Fin 4) (f : Slot → Slot) : (s.modSlotOf c k f).saved = s.saved := rfl
@[simp] theorem State.modSlotOf_ctl (s : State) (c : Nat) (k : Fin 4) (f : Slot → Slot) : (s.modSlotOf c k f).ctl = s.ctl := rfl
@[simp] theorem State.modSlotOf_sched (s : State) (c : Nat) (k : Fin 4) (f : Slot → Slot) : (s.modSlotOf c k f).sched = s.sched := rfl
@[simp] theorem State.modSlotOf_turn (s : State) (c : Nat) (k : Fin 4) (f : Slot → Slot) : (s.modSlotOf c k f).turn = s.turn := rfl
@[simp] theorem State.modSlotOf_nextId (s : State) (c : Nat) (k : Fin 4) (f : Slot → Slot) : (s.modSlotOf c k f).nextId = s.nextId := rfl
@[simp] theorem State.modSlotOf_free (s : State) (c : Nat) (k : Fin 4) (f : Slot → Slot) : (s.modSlotOf c k f).free = s.free := rfl

/-! ### `State.modSlot` -/

@[simp] theorem State.modSlot_cur (s : State) (f : Slot → Slot) : (s.modSlot f).cur = s.cur := rfl
@[simp] theorem State.modSlot_clusters (s : State) (f : Slot → Slot) : (s.modSlot f).clusters = s.clusters := rfl
@[simp] theorem State.modSlot_rings (s : State) (f : Slot → Slot) : (s.modSlot f).rings = s.rings := rfl
@[simp] theorem State.modSlot_fields (s : State) (f : Slot → Slot) : (s.modSlot f).fields = s.fields := rfl
@[simp] theorem State.modSlot_parts (s : State) (f : Slot → Slot) : (s.modSlot f).parts = s.parts := rfl
@[simp] theorem State.modSlot_queues (s : State) (f : Slot → Slot) : (s.modSlot f).queues = s.queues := rfl
@[simp] theorem State.modSlot_mem (s : State) (f : Slot → Slot) : (s.modSlot f).mem = s.mem := rfl
@[simp] theorem State.modSlot_lost (s : State) (f : Slot → Slot) : (s.modSlot f).lost = s.lost := rfl
@[simp] theorem State.modSlot_hidden (s : State) (f : Slot → Slot) : (s.modSlot f).hidden = s.hidden := rfl
@[simp] theorem State.modSlot_bad (s : State) (f : Slot → Slot) : (s.modSlot f).bad = s.bad := rfl
@[simp] theorem State.modSlot_resv (s : State) (f : Slot → Slot) : (s.modSlot f).resv = s.resv := rfl
@[simp] theorem State.modSlot_net (s : State) (f : Slot → Slot) : (s.modSlot f).net = s.net := rfl
@[simp] theorem State.modSlot_carried (s : State) (f : Slot → Slot) : (s.modSlot f).carried = s.carried := rfl
@[simp] theorem State.modSlot_reports (s : State) (f : Slot → Slot) : (s.modSlot f).reports = s.reports := rfl
@[simp] theorem State.modSlot_insts (s : State) (f : Slot → Slot) : (s.modSlot f).insts = s.insts := rfl
@[simp] theorem State.modSlot_loads (s : State) (f : Slot → Slot) : (s.modSlot f).loads = s.loads := rfl
@[simp] theorem State.modSlot_copies (s : State) (f : Slot → Slot) : (s.modSlot f).copies = s.copies := rfl
@[simp] theorem State.modSlot_hot (s : State) (f : Slot → Slot) : (s.modSlot f).hot = s.hot := rfl
@[simp] theorem State.modSlot_saved (s : State) (f : Slot → Slot) : (s.modSlot f).saved = s.saved := rfl
@[simp] theorem State.modSlot_ctl (s : State) (f : Slot → Slot) : (s.modSlot f).ctl = s.ctl := rfl
@[simp] theorem State.modSlot_sched (s : State) (f : Slot → Slot) : (s.modSlot f).sched = s.sched := rfl
@[simp] theorem State.modSlot_turn (s : State) (f : Slot → Slot) : (s.modSlot f).turn = s.turn := rfl
@[simp] theorem State.modSlot_nextId (s : State) (f : Slot → Slot) : (s.modSlot f).nextId = s.nextId := rfl
@[simp] theorem State.modSlot_free (s : State) (f : Slot → Slot) : (s.modSlot f).free = s.free := rfl

/-! ### `State.modChan` -/

@[simp] theorem State.modChan_cur (s : State) (c ch : Nat) (f : Chan → Chan) : (s.modChan c ch f).cur = s.cur := rfl
@[simp] theorem State.modChan_clusters (s : State) (c ch : Nat) (f : Chan → Chan) : (s.modChan c ch f).clusters = s.clusters := rfl
@[simp] theorem State.modChan_rings (s : State) (c ch : Nat) (f : Chan → Chan) : (s.modChan c ch f).rings = s.rings := rfl
@[simp] theorem State.modChan_fields (s : State) (c ch : Nat) (f : Chan → Chan) : (s.modChan c ch f).fields = s.fields := rfl
@[simp] theorem State.modChan_parts (s : State) (c ch : Nat) (f : Chan → Chan) : (s.modChan c ch f).parts = s.parts := rfl
@[simp] theorem State.modChan_queues (s : State) (c ch : Nat) (f : Chan → Chan) : (s.modChan c ch f).queues = s.queues := rfl
@[simp] theorem State.modChan_mem (s : State) (c ch : Nat) (f : Chan → Chan) : (s.modChan c ch f).mem = s.mem := rfl
@[simp] theorem State.modChan_lost (s : State) (c ch : Nat) (f : Chan → Chan) : (s.modChan c ch f).lost = s.lost := rfl
@[simp] theorem State.modChan_hidden (s : State) (c ch : Nat) (f : Chan → Chan) : (s.modChan c ch f).hidden = s.hidden := rfl
@[simp] theorem State.modChan_bad (s : State) (c ch : Nat) (f : Chan → Chan) : (s.modChan c ch f).bad = s.bad := rfl
@[simp] theorem State.modChan_resv (s : State) (c ch : Nat) (f : Chan → Chan) : (s.modChan c ch f).resv = s.resv := rfl
@[simp] theorem State.modChan_net (s : State) (c ch : Nat) (f : Chan → Chan) : (s.modChan c ch f).net = s.net := rfl
@[simp] theorem State.modChan_carried (s : State) (c ch : Nat) (f : Chan → Chan) : (s.modChan c ch f).carried = s.carried := rfl
@[simp] theorem State.modChan_reports (s : State) (c ch : Nat) (f : Chan → Chan) : (s.modChan c ch f).reports = s.reports := rfl
@[simp] theorem State.modChan_insts (s : State) (c ch : Nat) (f : Chan → Chan) : (s.modChan c ch f).insts = s.insts := rfl
@[simp] theorem State.modChan_loads (s : State) (c ch : Nat) (f : Chan → Chan) : (s.modChan c ch f).loads = s.loads := rfl
@[simp] theorem State.modChan_copies (s : State) (c ch : Nat) (f : Chan → Chan) : (s.modChan c ch f).copies = s.copies := rfl
@[simp] theorem State.modChan_hot (s : State) (c ch : Nat) (f : Chan → Chan) : (s.modChan c ch f).hot = s.hot := rfl
@[simp] theorem State.modChan_saved (s : State) (c ch : Nat) (f : Chan → Chan) : (s.modChan c ch f).saved = s.saved := rfl
@[simp] theorem State.modChan_ctl (s : State) (c ch : Nat) (f : Chan → Chan) : (s.modChan c ch f).ctl = s.ctl := rfl
@[simp] theorem State.modChan_sched (s : State) (c ch : Nat) (f : Chan → Chan) : (s.modChan c ch f).sched = s.sched := rfl
@[simp] theorem State.modChan_turn (s : State) (c ch : Nat) (f : Chan → Chan) : (s.modChan c ch f).turn = s.turn := rfl
@[simp] theorem State.modChan_nextId (s : State) (c ch : Nat) (f : Chan → Chan) : (s.modChan c ch f).nextId = s.nextId := rfl
@[simp] theorem State.modChan_free (s : State) (c ch : Nat) (f : Chan → Chan) : (s.modChan c ch f).free = s.free := rfl

/-! ### `State.modClassQ` -/

@[simp] theorem State.modClassQ_cur (s : State) (c cls : Nat) (f : ClassQ → ClassQ) : (s.modClassQ c cls f).cur = s.cur := rfl
@[simp] theorem State.modClassQ_clusters (s : State) (c cls : Nat) (f : ClassQ → ClassQ) : (s.modClassQ c cls f).clusters = s.clusters := rfl
@[simp] theorem State.modClassQ_rings (s : State) (c cls : Nat) (f : ClassQ → ClassQ) : (s.modClassQ c cls f).rings = s.rings := rfl
@[simp] theorem State.modClassQ_fields (s : State) (c cls : Nat) (f : ClassQ → ClassQ) : (s.modClassQ c cls f).fields = s.fields := rfl
@[simp] theorem State.modClassQ_parts (s : State) (c cls : Nat) (f : ClassQ → ClassQ) : (s.modClassQ c cls f).parts = s.parts := rfl
@[simp] theorem State.modClassQ_queues (s : State) (c cls : Nat) (f : ClassQ → ClassQ) : (s.modClassQ c cls f).queues = s.queues := rfl
@[simp] theorem State.modClassQ_mem (s : State) (c cls : Nat) (f : ClassQ → ClassQ) : (s.modClassQ c cls f).mem = s.mem := rfl
@[simp] theorem State.modClassQ_lost (s : State) (c cls : Nat) (f : ClassQ → ClassQ) : (s.modClassQ c cls f).lost = s.lost := rfl
@[simp] theorem State.modClassQ_hidden (s : State) (c cls : Nat) (f : ClassQ → ClassQ) : (s.modClassQ c cls f).hidden = s.hidden := rfl
@[simp] theorem State.modClassQ_bad (s : State) (c cls : Nat) (f : ClassQ → ClassQ) : (s.modClassQ c cls f).bad = s.bad := rfl
@[simp] theorem State.modClassQ_resv (s : State) (c cls : Nat) (f : ClassQ → ClassQ) : (s.modClassQ c cls f).resv = s.resv := rfl
@[simp] theorem State.modClassQ_net (s : State) (c cls : Nat) (f : ClassQ → ClassQ) : (s.modClassQ c cls f).net = s.net := rfl
@[simp] theorem State.modClassQ_carried (s : State) (c cls : Nat) (f : ClassQ → ClassQ) : (s.modClassQ c cls f).carried = s.carried := rfl
@[simp] theorem State.modClassQ_reports (s : State) (c cls : Nat) (f : ClassQ → ClassQ) : (s.modClassQ c cls f).reports = s.reports := rfl
@[simp] theorem State.modClassQ_insts (s : State) (c cls : Nat) (f : ClassQ → ClassQ) : (s.modClassQ c cls f).insts = s.insts := rfl
@[simp] theorem State.modClassQ_loads (s : State) (c cls : Nat) (f : ClassQ → ClassQ) : (s.modClassQ c cls f).loads = s.loads := rfl
@[simp] theorem State.modClassQ_copies (s : State) (c cls : Nat) (f : ClassQ → ClassQ) : (s.modClassQ c cls f).copies = s.copies := rfl
@[simp] theorem State.modClassQ_hot (s : State) (c cls : Nat) (f : ClassQ → ClassQ) : (s.modClassQ c cls f).hot = s.hot := rfl
@[simp] theorem State.modClassQ_saved (s : State) (c cls : Nat) (f : ClassQ → ClassQ) : (s.modClassQ c cls f).saved = s.saved := rfl
@[simp] theorem State.modClassQ_ctl (s : State) (c cls : Nat) (f : ClassQ → ClassQ) : (s.modClassQ c cls f).ctl = s.ctl := rfl
@[simp] theorem State.modClassQ_sched (s : State) (c cls : Nat) (f : ClassQ → ClassQ) : (s.modClassQ c cls f).sched = s.sched := rfl
@[simp] theorem State.modClassQ_turn (s : State) (c cls : Nat) (f : ClassQ → ClassQ) : (s.modClassQ c cls f).turn = s.turn := rfl
@[simp] theorem State.modClassQ_nextId (s : State) (c cls : Nat) (f : ClassQ → ClassQ) : (s.modClassQ c cls f).nextId = s.nextId := rfl
@[simp] theorem State.modClassQ_free (s : State) (c cls : Nat) (f : ClassQ → ClassQ) : (s.modClassQ c cls f).free = s.free := rfl

/-! ### `State.modCluster` -/

@[simp] theorem State.modCluster_cur (s : State) (cl : Nat) (f : ClusterSt → ClusterSt) : (s.modCluster cl f).cur = s.cur := rfl
@[simp] theorem State.modCluster_cores (s : State) (cl : Nat) (f : ClusterSt → ClusterSt) : (s.modCluster cl f).cores = s.cores := rfl
@[simp] theorem State.modCluster_rings (s : State) (cl : Nat) (f : ClusterSt → ClusterSt) : (s.modCluster cl f).rings = s.rings := rfl
@[simp] theorem State.modCluster_fields (s : State) (cl : Nat) (f : ClusterSt → ClusterSt) : (s.modCluster cl f).fields = s.fields := rfl
@[simp] theorem State.modCluster_parts (s : State) (cl : Nat) (f : ClusterSt → ClusterSt) : (s.modCluster cl f).parts = s.parts := rfl
@[simp] theorem State.modCluster_queues (s : State) (cl : Nat) (f : ClusterSt → ClusterSt) : (s.modCluster cl f).queues = s.queues := rfl
@[simp] theorem State.modCluster_mem (s : State) (cl : Nat) (f : ClusterSt → ClusterSt) : (s.modCluster cl f).mem = s.mem := rfl
@[simp] theorem State.modCluster_lost (s : State) (cl : Nat) (f : ClusterSt → ClusterSt) : (s.modCluster cl f).lost = s.lost := rfl
@[simp] theorem State.modCluster_hidden (s : State) (cl : Nat) (f : ClusterSt → ClusterSt) : (s.modCluster cl f).hidden = s.hidden := rfl
@[simp] theorem State.modCluster_bad (s : State) (cl : Nat) (f : ClusterSt → ClusterSt) : (s.modCluster cl f).bad = s.bad := rfl
@[simp] theorem State.modCluster_resv (s : State) (cl : Nat) (f : ClusterSt → ClusterSt) : (s.modCluster cl f).resv = s.resv := rfl
@[simp] theorem State.modCluster_net (s : State) (cl : Nat) (f : ClusterSt → ClusterSt) : (s.modCluster cl f).net = s.net := rfl
@[simp] theorem State.modCluster_carried (s : State) (cl : Nat) (f : ClusterSt → ClusterSt) : (s.modCluster cl f).carried = s.carried := rfl
@[simp] theorem State.modCluster_reports (s : State) (cl : Nat) (f : ClusterSt → ClusterSt) : (s.modCluster cl f).reports = s.reports := rfl
@[simp] theorem State.modCluster_insts (s : State) (cl : Nat) (f : ClusterSt → ClusterSt) : (s.modCluster cl f).insts = s.insts := rfl
@[simp] theorem State.modCluster_loads (s : State) (cl : Nat) (f : ClusterSt → ClusterSt) : (s.modCluster cl f).loads = s.loads := rfl
@[simp] theorem State.modCluster_copies (s : State) (cl : Nat) (f : ClusterSt → ClusterSt) : (s.modCluster cl f).copies = s.copies := rfl
@[simp] theorem State.modCluster_hot (s : State) (cl : Nat) (f : ClusterSt → ClusterSt) : (s.modCluster cl f).hot = s.hot := rfl
@[simp] theorem State.modCluster_saved (s : State) (cl : Nat) (f : ClusterSt → ClusterSt) : (s.modCluster cl f).saved = s.saved := rfl
@[simp] theorem State.modCluster_ctl (s : State) (cl : Nat) (f : ClusterSt → ClusterSt) : (s.modCluster cl f).ctl = s.ctl := rfl
@[simp] theorem State.modCluster_sched (s : State) (cl : Nat) (f : ClusterSt → ClusterSt) : (s.modCluster cl f).sched = s.sched := rfl
@[simp] theorem State.modCluster_turn (s : State) (cl : Nat) (f : ClusterSt → ClusterSt) : (s.modCluster cl f).turn = s.turn := rfl
@[simp] theorem State.modCluster_nextId (s : State) (cl : Nat) (f : ClusterSt → ClusterSt) : (s.modCluster cl f).nextId = s.nextId := rfl
@[simp] theorem State.modCluster_free (s : State) (cl : Nat) (f : ClusterSt → ClusterSt) : (s.modCluster cl f).free = s.free := rfl

/-! ### `State.modRing` -/

@[simp] theorem State.modRing_cur (s : State) (g : Nat) (f : RingSt → RingSt) : (s.modRing g f).cur = s.cur := rfl
@[simp] theorem State.modRing_cores (s : State) (g : Nat) (f : RingSt → RingSt) : (s.modRing g f).cores = s.cores := rfl
@[simp] theorem State.modRing_clusters (s : State) (g : Nat) (f : RingSt → RingSt) : (s.modRing g f).clusters = s.clusters := rfl
@[simp] theorem State.modRing_fields (s : State) (g : Nat) (f : RingSt → RingSt) : (s.modRing g f).fields = s.fields := rfl
@[simp] theorem State.modRing_parts (s : State) (g : Nat) (f : RingSt → RingSt) : (s.modRing g f).parts = s.parts := rfl
@[simp] theorem State.modRing_queues (s : State) (g : Nat) (f : RingSt → RingSt) : (s.modRing g f).queues = s.queues := rfl
@[simp] theorem State.modRing_mem (s : State) (g : Nat) (f : RingSt → RingSt) : (s.modRing g f).mem = s.mem := rfl
@[simp] theorem State.modRing_lost (s : State) (g : Nat) (f : RingSt → RingSt) : (s.modRing g f).lost = s.lost := rfl
@[simp] theorem State.modRing_hidden (s : State) (g : Nat) (f : RingSt → RingSt) : (s.modRing g f).hidden = s.hidden := rfl
@[simp] theorem State.modRing_bad (s : State) (g : Nat) (f : RingSt → RingSt) : (s.modRing g f).bad = s.bad := rfl
@[simp] theorem State.modRing_resv (s : State) (g : Nat) (f : RingSt → RingSt) : (s.modRing g f).resv = s.resv := rfl
@[simp] theorem State.modRing_net (s : State) (g : Nat) (f : RingSt → RingSt) : (s.modRing g f).net = s.net := rfl
@[simp] theorem State.modRing_carried (s : State) (g : Nat) (f : RingSt → RingSt) : (s.modRing g f).carried = s.carried := rfl
@[simp] theorem State.modRing_reports (s : State) (g : Nat) (f : RingSt → RingSt) : (s.modRing g f).reports = s.reports := rfl
@[simp] theorem State.modRing_insts (s : State) (g : Nat) (f : RingSt → RingSt) : (s.modRing g f).insts = s.insts := rfl
@[simp] theorem State.modRing_loads (s : State) (g : Nat) (f : RingSt → RingSt) : (s.modRing g f).loads = s.loads := rfl
@[simp] theorem State.modRing_copies (s : State) (g : Nat) (f : RingSt → RingSt) : (s.modRing g f).copies = s.copies := rfl
@[simp] theorem State.modRing_hot (s : State) (g : Nat) (f : RingSt → RingSt) : (s.modRing g f).hot = s.hot := rfl
@[simp] theorem State.modRing_saved (s : State) (g : Nat) (f : RingSt → RingSt) : (s.modRing g f).saved = s.saved := rfl
@[simp] theorem State.modRing_ctl (s : State) (g : Nat) (f : RingSt → RingSt) : (s.modRing g f).ctl = s.ctl := rfl
@[simp] theorem State.modRing_sched (s : State) (g : Nat) (f : RingSt → RingSt) : (s.modRing g f).sched = s.sched := rfl
@[simp] theorem State.modRing_turn (s : State) (g : Nat) (f : RingSt → RingSt) : (s.modRing g f).turn = s.turn := rfl
@[simp] theorem State.modRing_nextId (s : State) (g : Nat) (f : RingSt → RingSt) : (s.modRing g f).nextId = s.nextId := rfl
@[simp] theorem State.modRing_free (s : State) (g : Nat) (f : RingSt → RingSt) : (s.modRing g f).free = s.free := rfl

/-! ### `State.modField` -/

@[simp] theorem State.modField_cur (s : State) (n : Nat) (f : FieldSt → FieldSt) : (s.modField n f).cur = s.cur := rfl
@[simp] theorem State.modField_cores (s : State) (n : Nat) (f : FieldSt → FieldSt) : (s.modField n f).cores = s.cores := rfl
@[simp] theorem State.modField_clusters (s : State) (n : Nat) (f : FieldSt → FieldSt) : (s.modField n f).clusters = s.clusters := rfl
@[simp] theorem State.modField_rings (s : State) (n : Nat) (f : FieldSt → FieldSt) : (s.modField n f).rings = s.rings := rfl
@[simp] theorem State.modField_parts (s : State) (n : Nat) (f : FieldSt → FieldSt) : (s.modField n f).parts = s.parts := rfl
@[simp] theorem State.modField_queues (s : State) (n : Nat) (f : FieldSt → FieldSt) : (s.modField n f).queues = s.queues := rfl
@[simp] theorem State.modField_mem (s : State) (n : Nat) (f : FieldSt → FieldSt) : (s.modField n f).mem = s.mem := rfl
@[simp] theorem State.modField_lost (s : State) (n : Nat) (f : FieldSt → FieldSt) : (s.modField n f).lost = s.lost := rfl
@[simp] theorem State.modField_hidden (s : State) (n : Nat) (f : FieldSt → FieldSt) : (s.modField n f).hidden = s.hidden := rfl
@[simp] theorem State.modField_bad (s : State) (n : Nat) (f : FieldSt → FieldSt) : (s.modField n f).bad = s.bad := rfl
@[simp] theorem State.modField_resv (s : State) (n : Nat) (f : FieldSt → FieldSt) : (s.modField n f).resv = s.resv := rfl
@[simp] theorem State.modField_net (s : State) (n : Nat) (f : FieldSt → FieldSt) : (s.modField n f).net = s.net := rfl
@[simp] theorem State.modField_carried (s : State) (n : Nat) (f : FieldSt → FieldSt) : (s.modField n f).carried = s.carried := rfl
@[simp] theorem State.modField_reports (s : State) (n : Nat) (f : FieldSt → FieldSt) : (s.modField n f).reports = s.reports := rfl
@[simp] theorem State.modField_insts (s : State) (n : Nat) (f : FieldSt → FieldSt) : (s.modField n f).insts = s.insts := rfl
@[simp] theorem State.modField_loads (s : State) (n : Nat) (f : FieldSt → FieldSt) : (s.modField n f).loads = s.loads := rfl
@[simp] theorem State.modField_copies (s : State) (n : Nat) (f : FieldSt → FieldSt) : (s.modField n f).copies = s.copies := rfl
@[simp] theorem State.modField_hot (s : State) (n : Nat) (f : FieldSt → FieldSt) : (s.modField n f).hot = s.hot := rfl
@[simp] theorem State.modField_saved (s : State) (n : Nat) (f : FieldSt → FieldSt) : (s.modField n f).saved = s.saved := rfl
@[simp] theorem State.modField_ctl (s : State) (n : Nat) (f : FieldSt → FieldSt) : (s.modField n f).ctl = s.ctl := rfl
@[simp] theorem State.modField_sched (s : State) (n : Nat) (f : FieldSt → FieldSt) : (s.modField n f).sched = s.sched := rfl
@[simp] theorem State.modField_turn (s : State) (n : Nat) (f : FieldSt → FieldSt) : (s.modField n f).turn = s.turn := rfl
@[simp] theorem State.modField_nextId (s : State) (n : Nat) (f : FieldSt → FieldSt) : (s.modField n f).nextId = s.nextId := rfl
@[simp] theorem State.modField_free (s : State) (n : Nat) (f : FieldSt → FieldSt) : (s.modField n f).free = s.free := rfl

/-! ### `State.modQueue` -/

@[simp] theorem State.modQueue_cur (s : State) (q : Nat) (f : QueueSt → QueueSt) : (s.modQueue q f).cur = s.cur := rfl
@[simp] theorem State.modQueue_cores (s : State) (q : Nat) (f : QueueSt → QueueSt) : (s.modQueue q f).cores = s.cores := rfl
@[simp] theorem State.modQueue_clusters (s : State) (q : Nat) (f : QueueSt → QueueSt) : (s.modQueue q f).clusters = s.clusters := rfl
@[simp] theorem State.modQueue_rings (s : State) (q : Nat) (f : QueueSt → QueueSt) : (s.modQueue q f).rings = s.rings := rfl
@[simp] theorem State.modQueue_fields (s : State) (q : Nat) (f : QueueSt → QueueSt) : (s.modQueue q f).fields = s.fields := rfl
@[simp] theorem State.modQueue_parts (s : State) (q : Nat) (f : QueueSt → QueueSt) : (s.modQueue q f).parts = s.parts := rfl
@[simp] theorem State.modQueue_mem (s : State) (q : Nat) (f : QueueSt → QueueSt) : (s.modQueue q f).mem = s.mem := rfl
@[simp] theorem State.modQueue_lost (s : State) (q : Nat) (f : QueueSt → QueueSt) : (s.modQueue q f).lost = s.lost := rfl
@[simp] theorem State.modQueue_hidden (s : State) (q : Nat) (f : QueueSt → QueueSt) : (s.modQueue q f).hidden = s.hidden := rfl
@[simp] theorem State.modQueue_bad (s : State) (q : Nat) (f : QueueSt → QueueSt) : (s.modQueue q f).bad = s.bad := rfl
@[simp] theorem State.modQueue_resv (s : State) (q : Nat) (f : QueueSt → QueueSt) : (s.modQueue q f).resv = s.resv := rfl
@[simp] theorem State.modQueue_net (s : State) (q : Nat) (f : QueueSt → QueueSt) : (s.modQueue q f).net = s.net := rfl
@[simp] theorem State.modQueue_carried (s : State) (q : Nat) (f : QueueSt → QueueSt) : (s.modQueue q f).carried = s.carried := rfl
@[simp] theorem State.modQueue_reports (s : State) (q : Nat) (f : QueueSt → QueueSt) : (s.modQueue q f).reports = s.reports := rfl
@[simp] theorem State.modQueue_insts (s : State) (q : Nat) (f : QueueSt → QueueSt) : (s.modQueue q f).insts = s.insts := rfl
@[simp] theorem State.modQueue_loads (s : State) (q : Nat) (f : QueueSt → QueueSt) : (s.modQueue q f).loads = s.loads := rfl
@[simp] theorem State.modQueue_copies (s : State) (q : Nat) (f : QueueSt → QueueSt) : (s.modQueue q f).copies = s.copies := rfl
@[simp] theorem State.modQueue_hot (s : State) (q : Nat) (f : QueueSt → QueueSt) : (s.modQueue q f).hot = s.hot := rfl
@[simp] theorem State.modQueue_saved (s : State) (q : Nat) (f : QueueSt → QueueSt) : (s.modQueue q f).saved = s.saved := rfl
@[simp] theorem State.modQueue_ctl (s : State) (q : Nat) (f : QueueSt → QueueSt) : (s.modQueue q f).ctl = s.ctl := rfl
@[simp] theorem State.modQueue_sched (s : State) (q : Nat) (f : QueueSt → QueueSt) : (s.modQueue q f).sched = s.sched := rfl
@[simp] theorem State.modQueue_turn (s : State) (q : Nat) (f : QueueSt → QueueSt) : (s.modQueue q f).turn = s.turn := rfl
@[simp] theorem State.modQueue_nextId (s : State) (q : Nat) (f : QueueSt → QueueSt) : (s.modQueue q f).nextId = s.nextId := rfl
@[simp] theorem State.modQueue_free (s : State) (q : Nat) (f : QueueSt → QueueSt) : (s.modQueue q f).free = s.free := rfl

/-! ### `State.done` -/

@[simp] theorem State.done_cur (s : State) (rd : Reg) (v : Word) : (s.done rd v).cur = s.cur := rfl
@[simp] theorem State.done_clusters (s : State) (rd : Reg) (v : Word) : (s.done rd v).clusters = s.clusters := rfl
@[simp] theorem State.done_rings (s : State) (rd : Reg) (v : Word) : (s.done rd v).rings = s.rings := rfl
@[simp] theorem State.done_fields (s : State) (rd : Reg) (v : Word) : (s.done rd v).fields = s.fields := rfl
@[simp] theorem State.done_parts (s : State) (rd : Reg) (v : Word) : (s.done rd v).parts = s.parts := rfl
@[simp] theorem State.done_queues (s : State) (rd : Reg) (v : Word) : (s.done rd v).queues = s.queues := rfl
@[simp] theorem State.done_mem (s : State) (rd : Reg) (v : Word) : (s.done rd v).mem = s.mem := rfl
@[simp] theorem State.done_lost (s : State) (rd : Reg) (v : Word) : (s.done rd v).lost = s.lost := rfl
@[simp] theorem State.done_hidden (s : State) (rd : Reg) (v : Word) : (s.done rd v).hidden = s.hidden := rfl
@[simp] theorem State.done_bad (s : State) (rd : Reg) (v : Word) : (s.done rd v).bad = s.bad := rfl
@[simp] theorem State.done_resv (s : State) (rd : Reg) (v : Word) : (s.done rd v).resv = s.resv := rfl
@[simp] theorem State.done_net (s : State) (rd : Reg) (v : Word) : (s.done rd v).net = s.net := rfl
@[simp] theorem State.done_carried (s : State) (rd : Reg) (v : Word) : (s.done rd v).carried = s.carried := rfl
@[simp] theorem State.done_reports (s : State) (rd : Reg) (v : Word) : (s.done rd v).reports = s.reports := rfl
@[simp] theorem State.done_insts (s : State) (rd : Reg) (v : Word) : (s.done rd v).insts = s.insts := rfl
@[simp] theorem State.done_loads (s : State) (rd : Reg) (v : Word) : (s.done rd v).loads = s.loads := rfl
@[simp] theorem State.done_copies (s : State) (rd : Reg) (v : Word) : (s.done rd v).copies = s.copies := rfl
@[simp] theorem State.done_hot (s : State) (rd : Reg) (v : Word) : (s.done rd v).hot = s.hot := rfl
@[simp] theorem State.done_saved (s : State) (rd : Reg) (v : Word) : (s.done rd v).saved = s.saved := rfl
@[simp] theorem State.done_ctl (s : State) (rd : Reg) (v : Word) : (s.done rd v).ctl = s.ctl := rfl
@[simp] theorem State.done_sched (s : State) (rd : Reg) (v : Word) : (s.done rd v).sched = s.sched := rfl
@[simp] theorem State.done_turn (s : State) (rd : Reg) (v : Word) : (s.done rd v).turn = s.turn := rfl
@[simp] theorem State.done_nextId (s : State) (rd : Reg) (v : Word) : (s.done rd v).nextId = s.nextId := rfl
@[simp] theorem State.done_free (s : State) (rd : Reg) (v : Word) : (s.done rd v).free = s.free := rfl

/-! ### `State.retire` -/

@[simp] theorem State.retire_cur (s : State) : s.retire.cur = s.cur := rfl
@[simp] theorem State.retire_clusters (s : State) : s.retire.clusters = s.clusters := rfl
@[simp] theorem State.retire_rings (s : State) : s.retire.rings = s.rings := rfl
@[simp] theorem State.retire_fields (s : State) : s.retire.fields = s.fields := rfl
@[simp] theorem State.retire_parts (s : State) : s.retire.parts = s.parts := rfl
@[simp] theorem State.retire_queues (s : State) : s.retire.queues = s.queues := rfl
@[simp] theorem State.retire_mem (s : State) : s.retire.mem = s.mem := rfl
@[simp] theorem State.retire_lost (s : State) : s.retire.lost = s.lost := rfl
@[simp] theorem State.retire_hidden (s : State) : s.retire.hidden = s.hidden := rfl
@[simp] theorem State.retire_bad (s : State) : s.retire.bad = s.bad := rfl
@[simp] theorem State.retire_resv (s : State) : s.retire.resv = s.resv := rfl
@[simp] theorem State.retire_net (s : State) : s.retire.net = s.net := rfl
@[simp] theorem State.retire_carried (s : State) : s.retire.carried = s.carried := rfl
@[simp] theorem State.retire_reports (s : State) : s.retire.reports = s.reports := rfl
@[simp] theorem State.retire_insts (s : State) : s.retire.insts = s.insts := rfl
@[simp] theorem State.retire_loads (s : State) : s.retire.loads = s.loads := rfl
@[simp] theorem State.retire_copies (s : State) : s.retire.copies = s.copies := rfl
@[simp] theorem State.retire_hot (s : State) : s.retire.hot = s.hot := rfl
@[simp] theorem State.retire_saved (s : State) : s.retire.saved = s.saved := rfl
@[simp] theorem State.retire_ctl (s : State) : s.retire.ctl = s.ctl := rfl
@[simp] theorem State.retire_sched (s : State) : s.retire.sched = s.sched := rfl
@[simp] theorem State.retire_turn (s : State) : s.retire.turn = s.turn := rfl
@[simp] theorem State.retire_nextId (s : State) : s.retire.nextId = s.nextId := rfl
@[simp] theorem State.retire_free (s : State) : s.retire.free = s.free := rfl

/-! ### `State.post` -/

@[simp] theorem State.post_cur (s : State) (src : Src) (e : Bool) (b : Body) : (s.post src e b).cur = s.cur := rfl
@[simp] theorem State.post_cores (s : State) (src : Src) (e : Bool) (b : Body) : (s.post src e b).cores = s.cores := rfl
@[simp] theorem State.post_clusters (s : State) (src : Src) (e : Bool) (b : Body) : (s.post src e b).clusters = s.clusters := rfl
@[simp] theorem State.post_rings (s : State) (src : Src) (e : Bool) (b : Body) : (s.post src e b).rings = s.rings := rfl
@[simp] theorem State.post_fields (s : State) (src : Src) (e : Bool) (b : Body) : (s.post src e b).fields = s.fields := rfl
@[simp] theorem State.post_parts (s : State) (src : Src) (e : Bool) (b : Body) : (s.post src e b).parts = s.parts := rfl
@[simp] theorem State.post_queues (s : State) (src : Src) (e : Bool) (b : Body) : (s.post src e b).queues = s.queues := rfl
@[simp] theorem State.post_mem (s : State) (src : Src) (e : Bool) (b : Body) : (s.post src e b).mem = s.mem := rfl
@[simp] theorem State.post_lost (s : State) (src : Src) (e : Bool) (b : Body) : (s.post src e b).lost = s.lost := rfl
@[simp] theorem State.post_hidden (s : State) (src : Src) (e : Bool) (b : Body) : (s.post src e b).hidden = s.hidden := rfl
@[simp] theorem State.post_bad (s : State) (src : Src) (e : Bool) (b : Body) : (s.post src e b).bad = s.bad := rfl
@[simp] theorem State.post_resv (s : State) (src : Src) (e : Bool) (b : Body) : (s.post src e b).resv = s.resv := rfl
@[simp] theorem State.post_carried (s : State) (src : Src) (e : Bool) (b : Body) : (s.post src e b).carried = s.carried := rfl
@[simp] theorem State.post_reports (s : State) (src : Src) (e : Bool) (b : Body) : (s.post src e b).reports = s.reports := rfl
@[simp] theorem State.post_insts (s : State) (src : Src) (e : Bool) (b : Body) : (s.post src e b).insts = s.insts := rfl
@[simp] theorem State.post_loads (s : State) (src : Src) (e : Bool) (b : Body) : (s.post src e b).loads = s.loads := rfl
@[simp] theorem State.post_copies (s : State) (src : Src) (e : Bool) (b : Body) : (s.post src e b).copies = s.copies := rfl
@[simp] theorem State.post_hot (s : State) (src : Src) (e : Bool) (b : Body) : (s.post src e b).hot = s.hot := rfl
@[simp] theorem State.post_saved (s : State) (src : Src) (e : Bool) (b : Body) : (s.post src e b).saved = s.saved := rfl
@[simp] theorem State.post_ctl (s : State) (src : Src) (e : Bool) (b : Body) : (s.post src e b).ctl = s.ctl := rfl
@[simp] theorem State.post_sched (s : State) (src : Src) (e : Bool) (b : Body) : (s.post src e b).sched = s.sched := rfl
@[simp] theorem State.post_turn (s : State) (src : Src) (e : Bool) (b : Body) : (s.post src e b).turn = s.turn := rfl
@[simp] theorem State.post_free (s : State) (src : Src) (e : Bool) (b : Body) : (s.post src e b).free = s.free := rfl

/-! ### `State.report` -/

@[simp] theorem State.report_cur (s : State) (who : Reporter) (g c : Nat) (ws : List Word) : (s.report who g c ws).cur = s.cur := rfl
@[simp] theorem State.report_cores (s : State) (who : Reporter) (g c : Nat) (ws : List Word) : (s.report who g c ws).cores = s.cores := rfl
@[simp] theorem State.report_clusters (s : State) (who : Reporter) (g c : Nat) (ws : List Word) : (s.report who g c ws).clusters = s.clusters := rfl
@[simp] theorem State.report_rings (s : State) (who : Reporter) (g c : Nat) (ws : List Word) : (s.report who g c ws).rings = s.rings := rfl
@[simp] theorem State.report_fields (s : State) (who : Reporter) (g c : Nat) (ws : List Word) : (s.report who g c ws).fields = s.fields := rfl
@[simp] theorem State.report_parts (s : State) (who : Reporter) (g c : Nat) (ws : List Word) : (s.report who g c ws).parts = s.parts := rfl
@[simp] theorem State.report_queues (s : State) (who : Reporter) (g c : Nat) (ws : List Word) : (s.report who g c ws).queues = s.queues := rfl
@[simp] theorem State.report_mem (s : State) (who : Reporter) (g c : Nat) (ws : List Word) : (s.report who g c ws).mem = s.mem := rfl
@[simp] theorem State.report_lost (s : State) (who : Reporter) (g c : Nat) (ws : List Word) : (s.report who g c ws).lost = s.lost := rfl
@[simp] theorem State.report_hidden (s : State) (who : Reporter) (g c : Nat) (ws : List Word) : (s.report who g c ws).hidden = s.hidden := rfl
@[simp] theorem State.report_bad (s : State) (who : Reporter) (g c : Nat) (ws : List Word) : (s.report who g c ws).bad = s.bad := rfl
@[simp] theorem State.report_resv (s : State) (who : Reporter) (g c : Nat) (ws : List Word) : (s.report who g c ws).resv = s.resv := rfl
@[simp] theorem State.report_net (s : State) (who : Reporter) (g c : Nat) (ws : List Word) : (s.report who g c ws).net = s.net := rfl
@[simp] theorem State.report_carried (s : State) (who : Reporter) (g c : Nat) (ws : List Word) : (s.report who g c ws).carried = s.carried := rfl
@[simp] theorem State.report_insts (s : State) (who : Reporter) (g c : Nat) (ws : List Word) : (s.report who g c ws).insts = s.insts := rfl
@[simp] theorem State.report_loads (s : State) (who : Reporter) (g c : Nat) (ws : List Word) : (s.report who g c ws).loads = s.loads := rfl
@[simp] theorem State.report_copies (s : State) (who : Reporter) (g c : Nat) (ws : List Word) : (s.report who g c ws).copies = s.copies := rfl
@[simp] theorem State.report_hot (s : State) (who : Reporter) (g c : Nat) (ws : List Word) : (s.report who g c ws).hot = s.hot := rfl
@[simp] theorem State.report_saved (s : State) (who : Reporter) (g c : Nat) (ws : List Word) : (s.report who g c ws).saved = s.saved := rfl
@[simp] theorem State.report_ctl (s : State) (who : Reporter) (g c : Nat) (ws : List Word) : (s.report who g c ws).ctl = s.ctl := rfl
@[simp] theorem State.report_sched (s : State) (who : Reporter) (g c : Nat) (ws : List Word) : (s.report who g c ws).sched = s.sched := rfl
@[simp] theorem State.report_turn (s : State) (who : Reporter) (g c : Nat) (ws : List Word) : (s.report who g c ws).turn = s.turn := rfl
@[simp] theorem State.report_free (s : State) (who : Reporter) (g c : Nat) (ws : List Word) : (s.report who g c ws).free = s.free := rfl

/-! ### `State.tell` -/

@[simp] theorem State.tell_cur (s : State) (r : Report) : (s.tell r).cur = s.cur := rfl
@[simp] theorem State.tell_cores (s : State) (r : Report) : (s.tell r).cores = s.cores := rfl
@[simp] theorem State.tell_clusters (s : State) (r : Report) : (s.tell r).clusters = s.clusters := rfl
@[simp] theorem State.tell_rings (s : State) (r : Report) : (s.tell r).rings = s.rings := rfl
@[simp] theorem State.tell_fields (s : State) (r : Report) : (s.tell r).fields = s.fields := rfl
@[simp] theorem State.tell_parts (s : State) (r : Report) : (s.tell r).parts = s.parts := rfl
@[simp] theorem State.tell_queues (s : State) (r : Report) : (s.tell r).queues = s.queues := rfl
@[simp] theorem State.tell_mem (s : State) (r : Report) : (s.tell r).mem = s.mem := rfl
@[simp] theorem State.tell_lost (s : State) (r : Report) : (s.tell r).lost = s.lost := rfl
@[simp] theorem State.tell_hidden (s : State) (r : Report) : (s.tell r).hidden = s.hidden := rfl
@[simp] theorem State.tell_bad (s : State) (r : Report) : (s.tell r).bad = s.bad := rfl
@[simp] theorem State.tell_resv (s : State) (r : Report) : (s.tell r).resv = s.resv := rfl
@[simp] theorem State.tell_net (s : State) (r : Report) : (s.tell r).net = s.net := rfl
@[simp] theorem State.tell_carried (s : State) (r : Report) : (s.tell r).carried = s.carried := rfl
@[simp] theorem State.tell_reports (s : State) (r : Report) : (s.tell r).reports = s.reports := rfl
@[simp] theorem State.tell_insts (s : State) (r : Report) : (s.tell r).insts = s.insts := rfl
@[simp] theorem State.tell_loads (s : State) (r : Report) : (s.tell r).loads = s.loads := rfl
@[simp] theorem State.tell_copies (s : State) (r : Report) : (s.tell r).copies = s.copies := rfl
@[simp] theorem State.tell_hot (s : State) (r : Report) : (s.tell r).hot = s.hot := rfl
@[simp] theorem State.tell_saved (s : State) (r : Report) : (s.tell r).saved = s.saved := rfl
@[simp] theorem State.tell_sched (s : State) (r : Report) : (s.tell r).sched = s.sched := rfl
@[simp] theorem State.tell_turn (s : State) (r : Report) : (s.tell r).turn = s.turn := rfl
@[simp] theorem State.tell_nextId (s : State) (r : Report) : (s.tell r).nextId = s.nextId := rfl
@[simp] theorem State.tell_free (s : State) (r : Report) : (s.tell r).free = s.free := rfl

/-! ### `State.dropMsg` -/

@[simp] theorem State.dropMsg_cur (s : State) (id : Nat) : (s.dropMsg id).cur = s.cur := rfl
@[simp] theorem State.dropMsg_cores (s : State) (id : Nat) : (s.dropMsg id).cores = s.cores := rfl
@[simp] theorem State.dropMsg_clusters (s : State) (id : Nat) : (s.dropMsg id).clusters = s.clusters := rfl
@[simp] theorem State.dropMsg_rings (s : State) (id : Nat) : (s.dropMsg id).rings = s.rings := rfl
@[simp] theorem State.dropMsg_fields (s : State) (id : Nat) : (s.dropMsg id).fields = s.fields := rfl
@[simp] theorem State.dropMsg_parts (s : State) (id : Nat) : (s.dropMsg id).parts = s.parts := rfl
@[simp] theorem State.dropMsg_queues (s : State) (id : Nat) : (s.dropMsg id).queues = s.queues := rfl
@[simp] theorem State.dropMsg_mem (s : State) (id : Nat) : (s.dropMsg id).mem = s.mem := rfl
@[simp] theorem State.dropMsg_lost (s : State) (id : Nat) : (s.dropMsg id).lost = s.lost := rfl
@[simp] theorem State.dropMsg_hidden (s : State) (id : Nat) : (s.dropMsg id).hidden = s.hidden := rfl
@[simp] theorem State.dropMsg_bad (s : State) (id : Nat) : (s.dropMsg id).bad = s.bad := rfl
@[simp] theorem State.dropMsg_resv (s : State) (id : Nat) : (s.dropMsg id).resv = s.resv := rfl
@[simp] theorem State.dropMsg_carried (s : State) (id : Nat) : (s.dropMsg id).carried = s.carried := rfl
@[simp] theorem State.dropMsg_reports (s : State) (id : Nat) : (s.dropMsg id).reports = s.reports := rfl
@[simp] theorem State.dropMsg_insts (s : State) (id : Nat) : (s.dropMsg id).insts = s.insts := rfl
@[simp] theorem State.dropMsg_loads (s : State) (id : Nat) : (s.dropMsg id).loads = s.loads := rfl
@[simp] theorem State.dropMsg_copies (s : State) (id : Nat) : (s.dropMsg id).copies = s.copies := rfl
@[simp] theorem State.dropMsg_hot (s : State) (id : Nat) : (s.dropMsg id).hot = s.hot := rfl
@[simp] theorem State.dropMsg_saved (s : State) (id : Nat) : (s.dropMsg id).saved = s.saved := rfl
@[simp] theorem State.dropMsg_ctl (s : State) (id : Nat) : (s.dropMsg id).ctl = s.ctl := rfl
@[simp] theorem State.dropMsg_sched (s : State) (id : Nat) : (s.dropMsg id).sched = s.sched := rfl
@[simp] theorem State.dropMsg_turn (s : State) (id : Nat) : (s.dropMsg id).turn = s.turn := rfl
@[simp] theorem State.dropMsg_nextId (s : State) (id : Nat) : (s.dropMsg id).nextId = s.nextId := rfl
@[simp] theorem State.dropMsg_free (s : State) (id : Nat) : (s.dropMsg id).free = s.free := rfl

/-! ### `State.clearResv` -/

@[simp] theorem State.clearResv_cur (s : State) (c : Nat) (k : Fin 4) : (s.clearResv c k).cur = s.cur := rfl
@[simp] theorem State.clearResv_cores (s : State) (c : Nat) (k : Fin 4) : (s.clearResv c k).cores = s.cores := rfl
@[simp] theorem State.clearResv_clusters (s : State) (c : Nat) (k : Fin 4) : (s.clearResv c k).clusters = s.clusters := rfl
@[simp] theorem State.clearResv_rings (s : State) (c : Nat) (k : Fin 4) : (s.clearResv c k).rings = s.rings := rfl
@[simp] theorem State.clearResv_fields (s : State) (c : Nat) (k : Fin 4) : (s.clearResv c k).fields = s.fields := rfl
@[simp] theorem State.clearResv_parts (s : State) (c : Nat) (k : Fin 4) : (s.clearResv c k).parts = s.parts := rfl
@[simp] theorem State.clearResv_queues (s : State) (c : Nat) (k : Fin 4) : (s.clearResv c k).queues = s.queues := rfl
@[simp] theorem State.clearResv_mem (s : State) (c : Nat) (k : Fin 4) : (s.clearResv c k).mem = s.mem := rfl
@[simp] theorem State.clearResv_lost (s : State) (c : Nat) (k : Fin 4) : (s.clearResv c k).lost = s.lost := rfl
@[simp] theorem State.clearResv_hidden (s : State) (c : Nat) (k : Fin 4) : (s.clearResv c k).hidden = s.hidden := rfl
@[simp] theorem State.clearResv_bad (s : State) (c : Nat) (k : Fin 4) : (s.clearResv c k).bad = s.bad := rfl
@[simp] theorem State.clearResv_net (s : State) (c : Nat) (k : Fin 4) : (s.clearResv c k).net = s.net := rfl
@[simp] theorem State.clearResv_carried (s : State) (c : Nat) (k : Fin 4) : (s.clearResv c k).carried = s.carried := rfl
@[simp] theorem State.clearResv_reports (s : State) (c : Nat) (k : Fin 4) : (s.clearResv c k).reports = s.reports := rfl
@[simp] theorem State.clearResv_insts (s : State) (c : Nat) (k : Fin 4) : (s.clearResv c k).insts = s.insts := rfl
@[simp] theorem State.clearResv_loads (s : State) (c : Nat) (k : Fin 4) : (s.clearResv c k).loads = s.loads := rfl
@[simp] theorem State.clearResv_copies (s : State) (c : Nat) (k : Fin 4) : (s.clearResv c k).copies = s.copies := rfl
@[simp] theorem State.clearResv_hot (s : State) (c : Nat) (k : Fin 4) : (s.clearResv c k).hot = s.hot := rfl
@[simp] theorem State.clearResv_saved (s : State) (c : Nat) (k : Fin 4) : (s.clearResv c k).saved = s.saved := rfl
@[simp] theorem State.clearResv_ctl (s : State) (c : Nat) (k : Fin 4) : (s.clearResv c k).ctl = s.ctl := rfl
@[simp] theorem State.clearResv_sched (s : State) (c : Nat) (k : Fin 4) : (s.clearResv c k).sched = s.sched := rfl
@[simp] theorem State.clearResv_turn (s : State) (c : Nat) (k : Fin 4) : (s.clearResv c k).turn = s.turn := rfl
@[simp] theorem State.clearResv_nextId (s : State) (c : Nat) (k : Fin 4) : (s.clearResv c k).nextId = s.nextId := rfl
@[simp] theorem State.clearResv_free (s : State) (c : Nat) (k : Fin 4) : (s.clearResv c k).free = s.free := rfl

/-! ### `State.withdraw` -/

@[simp] theorem State.withdraw_cur (s : State) (c : Nat) (k : Fin 4) : (s.withdraw c k).cur = s.cur := rfl
@[simp] theorem State.withdraw_clusters (s : State) (c : Nat) (k : Fin 4) : (s.withdraw c k).clusters = s.clusters := rfl
@[simp] theorem State.withdraw_rings (s : State) (c : Nat) (k : Fin 4) : (s.withdraw c k).rings = s.rings := rfl
@[simp] theorem State.withdraw_fields (s : State) (c : Nat) (k : Fin 4) : (s.withdraw c k).fields = s.fields := rfl
@[simp] theorem State.withdraw_parts (s : State) (c : Nat) (k : Fin 4) : (s.withdraw c k).parts = s.parts := rfl
@[simp] theorem State.withdraw_queues (s : State) (c : Nat) (k : Fin 4) : (s.withdraw c k).queues = s.queues := rfl
@[simp] theorem State.withdraw_mem (s : State) (c : Nat) (k : Fin 4) : (s.withdraw c k).mem = s.mem := rfl
@[simp] theorem State.withdraw_lost (s : State) (c : Nat) (k : Fin 4) : (s.withdraw c k).lost = s.lost := rfl
@[simp] theorem State.withdraw_hidden (s : State) (c : Nat) (k : Fin 4) : (s.withdraw c k).hidden = s.hidden := rfl
@[simp] theorem State.withdraw_bad (s : State) (c : Nat) (k : Fin 4) : (s.withdraw c k).bad = s.bad := rfl
@[simp] theorem State.withdraw_resv (s : State) (c : Nat) (k : Fin 4) : (s.withdraw c k).resv = s.resv := rfl
@[simp] theorem State.withdraw_net (s : State) (c : Nat) (k : Fin 4) : (s.withdraw c k).net = s.net := rfl
@[simp] theorem State.withdraw_carried (s : State) (c : Nat) (k : Fin 4) : (s.withdraw c k).carried = s.carried := rfl
@[simp] theorem State.withdraw_reports (s : State) (c : Nat) (k : Fin 4) : (s.withdraw c k).reports = s.reports := rfl
@[simp] theorem State.withdraw_insts (s : State) (c : Nat) (k : Fin 4) : (s.withdraw c k).insts = s.insts := rfl
@[simp] theorem State.withdraw_loads (s : State) (c : Nat) (k : Fin 4) : (s.withdraw c k).loads = s.loads := rfl
@[simp] theorem State.withdraw_copies (s : State) (c : Nat) (k : Fin 4) : (s.withdraw c k).copies = s.copies := rfl
@[simp] theorem State.withdraw_hot (s : State) (c : Nat) (k : Fin 4) : (s.withdraw c k).hot = s.hot := rfl
@[simp] theorem State.withdraw_saved (s : State) (c : Nat) (k : Fin 4) : (s.withdraw c k).saved = s.saved := rfl
@[simp] theorem State.withdraw_ctl (s : State) (c : Nat) (k : Fin 4) : (s.withdraw c k).ctl = s.ctl := rfl
@[simp] theorem State.withdraw_sched (s : State) (c : Nat) (k : Fin 4) : (s.withdraw c k).sched = s.sched := rfl
@[simp] theorem State.withdraw_turn (s : State) (c : Nat) (k : Fin 4) : (s.withdraw c k).turn = s.turn := rfl
@[simp] theorem State.withdraw_nextId (s : State) (c : Nat) (k : Fin 4) : (s.withdraw c k).nextId = s.nextId := rfl
@[simp] theorem State.withdraw_free (s : State) (c : Nat) (k : Fin 4) : (s.withdraw c k).free = s.free := rfl

/-! ### `State.disown` -/

@[simp] theorem State.disown_cur (s : State) (c k : Nat) : (s.disown c k).cur = s.cur := rfl
@[simp] theorem State.disown_cores (s : State) (c k : Nat) : (s.disown c k).cores = s.cores := rfl
@[simp] theorem State.disown_clusters (s : State) (c k : Nat) : (s.disown c k).clusters = s.clusters := rfl
@[simp] theorem State.disown_rings (s : State) (c k : Nat) : (s.disown c k).rings = s.rings := rfl
@[simp] theorem State.disown_fields (s : State) (c k : Nat) : (s.disown c k).fields = s.fields := rfl
@[simp] theorem State.disown_parts (s : State) (c k : Nat) : (s.disown c k).parts = s.parts := rfl
@[simp] theorem State.disown_queues (s : State) (c k : Nat) : (s.disown c k).queues = s.queues := rfl
@[simp] theorem State.disown_mem (s : State) (c k : Nat) : (s.disown c k).mem = s.mem := rfl
@[simp] theorem State.disown_lost (s : State) (c k : Nat) : (s.disown c k).lost = s.lost := rfl
@[simp] theorem State.disown_hidden (s : State) (c k : Nat) : (s.disown c k).hidden = s.hidden := rfl
@[simp] theorem State.disown_bad (s : State) (c k : Nat) : (s.disown c k).bad = s.bad := rfl
@[simp] theorem State.disown_resv (s : State) (c k : Nat) : (s.disown c k).resv = s.resv := rfl
@[simp] theorem State.disown_carried (s : State) (c k : Nat) : (s.disown c k).carried = s.carried := rfl
@[simp] theorem State.disown_reports (s : State) (c k : Nat) : (s.disown c k).reports = s.reports := rfl
@[simp] theorem State.disown_insts (s : State) (c k : Nat) : (s.disown c k).insts = s.insts := rfl
@[simp] theorem State.disown_loads (s : State) (c k : Nat) : (s.disown c k).loads = s.loads := rfl
@[simp] theorem State.disown_copies (s : State) (c k : Nat) : (s.disown c k).copies = s.copies := rfl
@[simp] theorem State.disown_hot (s : State) (c k : Nat) : (s.disown c k).hot = s.hot := rfl
@[simp] theorem State.disown_saved (s : State) (c k : Nat) : (s.disown c k).saved = s.saved := rfl
@[simp] theorem State.disown_ctl (s : State) (c k : Nat) : (s.disown c k).ctl = s.ctl := rfl
@[simp] theorem State.disown_sched (s : State) (c k : Nat) : (s.disown c k).sched = s.sched := rfl
@[simp] theorem State.disown_turn (s : State) (c k : Nat) : (s.disown c k).turn = s.turn := rfl
@[simp] theorem State.disown_nextId (s : State) (c k : Nat) : (s.disown c k).nextId = s.nextId := rfl
@[simp] theorem State.disown_free (s : State) (c k : Nat) : (s.disown c k).free = s.free := rfl

/-! ### `State.meetBad` -/

@[simp] theorem State.meetBad_cur (s : State) (b : BadGranule) : (s.meetBad b).cur = s.cur := rfl
@[simp] theorem State.meetBad_cores (s : State) (b : BadGranule) : (s.meetBad b).cores = s.cores := rfl
@[simp] theorem State.meetBad_clusters (s : State) (b : BadGranule) : (s.meetBad b).clusters = s.clusters := rfl
@[simp] theorem State.meetBad_rings (s : State) (b : BadGranule) : (s.meetBad b).rings = s.rings := rfl
@[simp] theorem State.meetBad_fields (s : State) (b : BadGranule) : (s.meetBad b).fields = s.fields := rfl
@[simp] theorem State.meetBad_parts (s : State) (b : BadGranule) : (s.meetBad b).parts = s.parts := rfl
@[simp] theorem State.meetBad_queues (s : State) (b : BadGranule) : (s.meetBad b).queues = s.queues := rfl
@[simp] theorem State.meetBad_mem (s : State) (b : BadGranule) : (s.meetBad b).mem = s.mem := rfl
@[simp] theorem State.meetBad_lost (s : State) (b : BadGranule) : (s.meetBad b).lost = s.lost := rfl
@[simp] theorem State.meetBad_hidden (s : State) (b : BadGranule) : (s.meetBad b).hidden = s.hidden := rfl
@[simp] theorem State.meetBad_resv (s : State) (b : BadGranule) : (s.meetBad b).resv = s.resv := rfl
@[simp] theorem State.meetBad_net (s : State) (b : BadGranule) : (s.meetBad b).net = s.net := rfl
@[simp] theorem State.meetBad_carried (s : State) (b : BadGranule) : (s.meetBad b).carried = s.carried := rfl
@[simp] theorem State.meetBad_reports (s : State) (b : BadGranule) : (s.meetBad b).reports = s.reports := rfl
@[simp] theorem State.meetBad_insts (s : State) (b : BadGranule) : (s.meetBad b).insts = s.insts := rfl
@[simp] theorem State.meetBad_loads (s : State) (b : BadGranule) : (s.meetBad b).loads = s.loads := rfl
@[simp] theorem State.meetBad_copies (s : State) (b : BadGranule) : (s.meetBad b).copies = s.copies := rfl
@[simp] theorem State.meetBad_hot (s : State) (b : BadGranule) : (s.meetBad b).hot = s.hot := rfl
@[simp] theorem State.meetBad_saved (s : State) (b : BadGranule) : (s.meetBad b).saved = s.saved := rfl
@[simp] theorem State.meetBad_sched (s : State) (b : BadGranule) : (s.meetBad b).sched = s.sched := rfl
@[simp] theorem State.meetBad_turn (s : State) (b : BadGranule) : (s.meetBad b).turn = s.turn := rfl
@[simp] theorem State.meetBad_nextId (s : State) (b : BadGranule) : (s.meetBad b).nextId = s.nextId := rfl
@[simp] theorem State.meetBad_free (s : State) (b : BadGranule) : (s.meetBad b).free = s.free := rfl

/-! ### `State.holdFault` -/

@[simp] theorem State.holdFault_cur (s : State) (f : HeldFault) : (s.holdFault f).cur = s.cur := rfl
@[simp] theorem State.holdFault_cores (s : State) (f : HeldFault) : (s.holdFault f).cores = s.cores := rfl
@[simp] theorem State.holdFault_clusters (s : State) (f : HeldFault) : (s.holdFault f).clusters = s.clusters := rfl
@[simp] theorem State.holdFault_rings (s : State) (f : HeldFault) : (s.holdFault f).rings = s.rings := rfl
@[simp] theorem State.holdFault_fields (s : State) (f : HeldFault) : (s.holdFault f).fields = s.fields := rfl
@[simp] theorem State.holdFault_parts (s : State) (f : HeldFault) : (s.holdFault f).parts = s.parts := rfl
@[simp] theorem State.holdFault_queues (s : State) (f : HeldFault) : (s.holdFault f).queues = s.queues := rfl
@[simp] theorem State.holdFault_mem (s : State) (f : HeldFault) : (s.holdFault f).mem = s.mem := rfl
@[simp] theorem State.holdFault_lost (s : State) (f : HeldFault) : (s.holdFault f).lost = s.lost := rfl
@[simp] theorem State.holdFault_hidden (s : State) (f : HeldFault) : (s.holdFault f).hidden = s.hidden := rfl
@[simp] theorem State.holdFault_bad (s : State) (f : HeldFault) : (s.holdFault f).bad = s.bad := rfl
@[simp] theorem State.holdFault_resv (s : State) (f : HeldFault) : (s.holdFault f).resv = s.resv := rfl
@[simp] theorem State.holdFault_net (s : State) (f : HeldFault) : (s.holdFault f).net = s.net := rfl
@[simp] theorem State.holdFault_carried (s : State) (f : HeldFault) : (s.holdFault f).carried = s.carried := rfl
@[simp] theorem State.holdFault_reports (s : State) (f : HeldFault) : (s.holdFault f).reports = s.reports := rfl
@[simp] theorem State.holdFault_insts (s : State) (f : HeldFault) : (s.holdFault f).insts = s.insts := rfl
@[simp] theorem State.holdFault_loads (s : State) (f : HeldFault) : (s.holdFault f).loads = s.loads := rfl
@[simp] theorem State.holdFault_copies (s : State) (f : HeldFault) : (s.holdFault f).copies = s.copies := rfl
@[simp] theorem State.holdFault_hot (s : State) (f : HeldFault) : (s.holdFault f).hot = s.hot := rfl
@[simp] theorem State.holdFault_saved (s : State) (f : HeldFault) : (s.holdFault f).saved = s.saved := rfl
@[simp] theorem State.holdFault_sched (s : State) (f : HeldFault) : (s.holdFault f).sched = s.sched := rfl
@[simp] theorem State.holdFault_turn (s : State) (f : HeldFault) : (s.holdFault f).turn = s.turn := rfl
@[simp] theorem State.holdFault_free (s : State) (f : HeldFault) : (s.holdFault f).free = s.free := rfl

/-! ### `State.waitRow` -/

@[simp] theorem State.waitRow_cur (s : State) (p : Nat) : (s.waitRow p).cur = s.cur := rfl
@[simp] theorem State.waitRow_clusters (s : State) (p : Nat) : (s.waitRow p).clusters = s.clusters := rfl
@[simp] theorem State.waitRow_rings (s : State) (p : Nat) : (s.waitRow p).rings = s.rings := rfl
@[simp] theorem State.waitRow_fields (s : State) (p : Nat) : (s.waitRow p).fields = s.fields := rfl
@[simp] theorem State.waitRow_parts (s : State) (p : Nat) : (s.waitRow p).parts = s.parts := rfl
@[simp] theorem State.waitRow_queues (s : State) (p : Nat) : (s.waitRow p).queues = s.queues := rfl
@[simp] theorem State.waitRow_mem (s : State) (p : Nat) : (s.waitRow p).mem = s.mem := rfl
@[simp] theorem State.waitRow_lost (s : State) (p : Nat) : (s.waitRow p).lost = s.lost := rfl
@[simp] theorem State.waitRow_hidden (s : State) (p : Nat) : (s.waitRow p).hidden = s.hidden := rfl
@[simp] theorem State.waitRow_bad (s : State) (p : Nat) : (s.waitRow p).bad = s.bad := rfl
@[simp] theorem State.waitRow_resv (s : State) (p : Nat) : (s.waitRow p).resv = s.resv := rfl
@[simp] theorem State.waitRow_net (s : State) (p : Nat) : (s.waitRow p).net = s.net := rfl
@[simp] theorem State.waitRow_carried (s : State) (p : Nat) : (s.waitRow p).carried = s.carried := rfl
@[simp] theorem State.waitRow_reports (s : State) (p : Nat) : (s.waitRow p).reports = s.reports := rfl
@[simp] theorem State.waitRow_insts (s : State) (p : Nat) : (s.waitRow p).insts = s.insts := rfl
@[simp] theorem State.waitRow_loads (s : State) (p : Nat) : (s.waitRow p).loads = s.loads := rfl
@[simp] theorem State.waitRow_copies (s : State) (p : Nat) : (s.waitRow p).copies = s.copies := rfl
@[simp] theorem State.waitRow_hot (s : State) (p : Nat) : (s.waitRow p).hot = s.hot := rfl
@[simp] theorem State.waitRow_saved (s : State) (p : Nat) : (s.waitRow p).saved = s.saved := rfl
@[simp] theorem State.waitRow_ctl (s : State) (p : Nat) : (s.waitRow p).ctl = s.ctl := rfl
@[simp] theorem State.waitRow_sched (s : State) (p : Nat) : (s.waitRow p).sched = s.sched := rfl
@[simp] theorem State.waitRow_turn (s : State) (p : Nat) : (s.waitRow p).turn = s.turn := rfl
@[simp] theorem State.waitRow_nextId (s : State) (p : Nat) : (s.waitRow p).nextId = s.nextId := rfl
@[simp] theorem State.waitRow_free (s : State) (p : Nat) : (s.waitRow p).free = s.free := rfl

/-! ### `State.setCells` -/

@[simp] theorem State.setCells_cur (s : State) (cs : List (Nat × Byte)) : (s.setCells cs).cur = s.cur := rfl
@[simp] theorem State.setCells_cores (s : State) (cs : List (Nat × Byte)) : (s.setCells cs).cores = s.cores := rfl
@[simp] theorem State.setCells_clusters (s : State) (cs : List (Nat × Byte)) : (s.setCells cs).clusters = s.clusters := rfl
@[simp] theorem State.setCells_rings (s : State) (cs : List (Nat × Byte)) : (s.setCells cs).rings = s.rings := rfl
@[simp] theorem State.setCells_fields (s : State) (cs : List (Nat × Byte)) : (s.setCells cs).fields = s.fields := rfl
@[simp] theorem State.setCells_parts (s : State) (cs : List (Nat × Byte)) : (s.setCells cs).parts = s.parts := rfl
@[simp] theorem State.setCells_queues (s : State) (cs : List (Nat × Byte)) : (s.setCells cs).queues = s.queues := rfl
@[simp] theorem State.setCells_lost (s : State) (cs : List (Nat × Byte)) : (s.setCells cs).lost = s.lost := rfl
@[simp] theorem State.setCells_net (s : State) (cs : List (Nat × Byte)) : (s.setCells cs).net = s.net := rfl
@[simp] theorem State.setCells_carried (s : State) (cs : List (Nat × Byte)) : (s.setCells cs).carried = s.carried := rfl
@[simp] theorem State.setCells_reports (s : State) (cs : List (Nat × Byte)) : (s.setCells cs).reports = s.reports := rfl
@[simp] theorem State.setCells_insts (s : State) (cs : List (Nat × Byte)) : (s.setCells cs).insts = s.insts := rfl
@[simp] theorem State.setCells_loads (s : State) (cs : List (Nat × Byte)) : (s.setCells cs).loads = s.loads := rfl
@[simp] theorem State.setCells_copies (s : State) (cs : List (Nat × Byte)) : (s.setCells cs).copies = s.copies := rfl
@[simp] theorem State.setCells_hot (s : State) (cs : List (Nat × Byte)) : (s.setCells cs).hot = s.hot := rfl
@[simp] theorem State.setCells_saved (s : State) (cs : List (Nat × Byte)) : (s.setCells cs).saved = s.saved := rfl
@[simp] theorem State.setCells_ctl (s : State) (cs : List (Nat × Byte)) : (s.setCells cs).ctl = s.ctl := rfl
@[simp] theorem State.setCells_sched (s : State) (cs : List (Nat × Byte)) : (s.setCells cs).sched = s.sched := rfl
@[simp] theorem State.setCells_turn (s : State) (cs : List (Nat × Byte)) : (s.setCells cs).turn = s.turn := rfl
@[simp] theorem State.setCells_nextId (s : State) (cs : List (Nat × Byte)) : (s.setCells cs).nextId = s.nextId := rfl
@[simp] theorem State.setCells_free (s : State) (cs : List (Nat × Byte)) : (s.setCells cs).free = s.free := rfl

/-! ### `State.fillCells` -/

@[simp] theorem State.fillCells_cur (s : State) (cs : List (Nat × Byte)) : (s.fillCells cs).cur = s.cur := rfl
@[simp] theorem State.fillCells_cores (s : State) (cs : List (Nat × Byte)) : (s.fillCells cs).cores = s.cores := rfl
@[simp] theorem State.fillCells_clusters (s : State) (cs : List (Nat × Byte)) : (s.fillCells cs).clusters = s.clusters := rfl
@[simp] theorem State.fillCells_rings (s : State) (cs : List (Nat × Byte)) : (s.fillCells cs).rings = s.rings := rfl
@[simp] theorem State.fillCells_fields (s : State) (cs : List (Nat × Byte)) : (s.fillCells cs).fields = s.fields := rfl
@[simp] theorem State.fillCells_parts (s : State) (cs : List (Nat × Byte)) : (s.fillCells cs).parts = s.parts := rfl
@[simp] theorem State.fillCells_queues (s : State) (cs : List (Nat × Byte)) : (s.fillCells cs).queues = s.queues := rfl
@[simp] theorem State.fillCells_lost (s : State) (cs : List (Nat × Byte)) : (s.fillCells cs).lost = s.lost := rfl
@[simp] theorem State.fillCells_bad (s : State) (cs : List (Nat × Byte)) : (s.fillCells cs).bad = s.bad := rfl
@[simp] theorem State.fillCells_resv (s : State) (cs : List (Nat × Byte)) : (s.fillCells cs).resv = s.resv := rfl
@[simp] theorem State.fillCells_net (s : State) (cs : List (Nat × Byte)) : (s.fillCells cs).net = s.net := rfl
@[simp] theorem State.fillCells_carried (s : State) (cs : List (Nat × Byte)) : (s.fillCells cs).carried = s.carried := rfl
@[simp] theorem State.fillCells_reports (s : State) (cs : List (Nat × Byte)) : (s.fillCells cs).reports = s.reports := rfl
@[simp] theorem State.fillCells_insts (s : State) (cs : List (Nat × Byte)) : (s.fillCells cs).insts = s.insts := rfl
@[simp] theorem State.fillCells_loads (s : State) (cs : List (Nat × Byte)) : (s.fillCells cs).loads = s.loads := rfl
@[simp] theorem State.fillCells_copies (s : State) (cs : List (Nat × Byte)) : (s.fillCells cs).copies = s.copies := rfl
@[simp] theorem State.fillCells_hot (s : State) (cs : List (Nat × Byte)) : (s.fillCells cs).hot = s.hot := rfl
@[simp] theorem State.fillCells_saved (s : State) (cs : List (Nat × Byte)) : (s.fillCells cs).saved = s.saved := rfl
@[simp] theorem State.fillCells_ctl (s : State) (cs : List (Nat × Byte)) : (s.fillCells cs).ctl = s.ctl := rfl
@[simp] theorem State.fillCells_sched (s : State) (cs : List (Nat × Byte)) : (s.fillCells cs).sched = s.sched := rfl
@[simp] theorem State.fillCells_turn (s : State) (cs : List (Nat × Byte)) : (s.fillCells cs).turn = s.turn := rfl
@[simp] theorem State.fillCells_nextId (s : State) (cs : List (Nat × Byte)) : (s.fillCells cs).nextId = s.nextId := rfl
@[simp] theorem State.fillCells_free (s : State) (cs : List (Nat × Byte)) : (s.fillCells cs).free = s.free := rfl

/-! ### `State.newContents` -/

@[simp] theorem State.newContents_cur (s : State) (has : Nat → Bool) (ls : List Lost) (keep : List (Nat × Byte)) : (s.newContents has ls keep).cur = s.cur := rfl
@[simp] theorem State.newContents_cores (s : State) (has : Nat → Bool) (ls : List Lost) (keep : List (Nat × Byte)) : (s.newContents has ls keep).cores = s.cores := rfl
@[simp] theorem State.newContents_clusters (s : State) (has : Nat → Bool) (ls : List Lost) (keep : List (Nat × Byte)) : (s.newContents has ls keep).clusters = s.clusters := rfl
@[simp] theorem State.newContents_rings (s : State) (has : Nat → Bool) (ls : List Lost) (keep : List (Nat × Byte)) : (s.newContents has ls keep).rings = s.rings := rfl
@[simp] theorem State.newContents_fields (s : State) (has : Nat → Bool) (ls : List Lost) (keep : List (Nat × Byte)) : (s.newContents has ls keep).fields = s.fields := rfl
@[simp] theorem State.newContents_parts (s : State) (has : Nat → Bool) (ls : List Lost) (keep : List (Nat × Byte)) : (s.newContents has ls keep).parts = s.parts := rfl
@[simp] theorem State.newContents_queues (s : State) (has : Nat → Bool) (ls : List Lost) (keep : List (Nat × Byte)) : (s.newContents has ls keep).queues = s.queues := rfl
@[simp] theorem State.newContents_bad (s : State) (has : Nat → Bool) (ls : List Lost) (keep : List (Nat × Byte)) : (s.newContents has ls keep).bad = s.bad := rfl
@[simp] theorem State.newContents_resv (s : State) (has : Nat → Bool) (ls : List Lost) (keep : List (Nat × Byte)) : (s.newContents has ls keep).resv = s.resv := rfl
@[simp] theorem State.newContents_net (s : State) (has : Nat → Bool) (ls : List Lost) (keep : List (Nat × Byte)) : (s.newContents has ls keep).net = s.net := rfl
@[simp] theorem State.newContents_carried (s : State) (has : Nat → Bool) (ls : List Lost) (keep : List (Nat × Byte)) : (s.newContents has ls keep).carried = s.carried := rfl
@[simp] theorem State.newContents_reports (s : State) (has : Nat → Bool) (ls : List Lost) (keep : List (Nat × Byte)) : (s.newContents has ls keep).reports = s.reports := rfl
@[simp] theorem State.newContents_insts (s : State) (has : Nat → Bool) (ls : List Lost) (keep : List (Nat × Byte)) : (s.newContents has ls keep).insts = s.insts := rfl
@[simp] theorem State.newContents_loads (s : State) (has : Nat → Bool) (ls : List Lost) (keep : List (Nat × Byte)) : (s.newContents has ls keep).loads = s.loads := rfl
@[simp] theorem State.newContents_copies (s : State) (has : Nat → Bool) (ls : List Lost) (keep : List (Nat × Byte)) : (s.newContents has ls keep).copies = s.copies := rfl
@[simp] theorem State.newContents_hot (s : State) (has : Nat → Bool) (ls : List Lost) (keep : List (Nat × Byte)) : (s.newContents has ls keep).hot = s.hot := rfl
@[simp] theorem State.newContents_saved (s : State) (has : Nat → Bool) (ls : List Lost) (keep : List (Nat × Byte)) : (s.newContents has ls keep).saved = s.saved := rfl
@[simp] theorem State.newContents_ctl (s : State) (has : Nat → Bool) (ls : List Lost) (keep : List (Nat × Byte)) : (s.newContents has ls keep).ctl = s.ctl := rfl
@[simp] theorem State.newContents_sched (s : State) (has : Nat → Bool) (ls : List Lost) (keep : List (Nat × Byte)) : (s.newContents has ls keep).sched = s.sched := rfl
@[simp] theorem State.newContents_turn (s : State) (has : Nat → Bool) (ls : List Lost) (keep : List (Nat × Byte)) : (s.newContents has ls keep).turn = s.turn := rfl
@[simp] theorem State.newContents_nextId (s : State) (has : Nat → Bool) (ls : List Lost) (keep : List (Nat × Byte)) : (s.newContents has ls keep).nextId = s.nextId := rfl
@[simp] theorem State.newContents_free (s : State) (has : Nat → Bool) (ls : List Lost) (keep : List (Nat × Byte)) : (s.newContents has ls keep).free = s.free := rfl

/-! ### `State.moveResv` -/

@[simp] theorem State.moveResv_cur (s : State) (src dst n : Nat) : (s.moveResv src dst n).cur = s.cur := rfl
@[simp] theorem State.moveResv_cores (s : State) (src dst n : Nat) : (s.moveResv src dst n).cores = s.cores := rfl
@[simp] theorem State.moveResv_clusters (s : State) (src dst n : Nat) : (s.moveResv src dst n).clusters = s.clusters := rfl
@[simp] theorem State.moveResv_rings (s : State) (src dst n : Nat) : (s.moveResv src dst n).rings = s.rings := rfl
@[simp] theorem State.moveResv_fields (s : State) (src dst n : Nat) : (s.moveResv src dst n).fields = s.fields := rfl
@[simp] theorem State.moveResv_parts (s : State) (src dst n : Nat) : (s.moveResv src dst n).parts = s.parts := rfl
@[simp] theorem State.moveResv_queues (s : State) (src dst n : Nat) : (s.moveResv src dst n).queues = s.queues := rfl
@[simp] theorem State.moveResv_mem (s : State) (src dst n : Nat) : (s.moveResv src dst n).mem = s.mem := rfl
@[simp] theorem State.moveResv_lost (s : State) (src dst n : Nat) : (s.moveResv src dst n).lost = s.lost := rfl
@[simp] theorem State.moveResv_hidden (s : State) (src dst n : Nat) : (s.moveResv src dst n).hidden = s.hidden := rfl
@[simp] theorem State.moveResv_bad (s : State) (src dst n : Nat) : (s.moveResv src dst n).bad = s.bad := rfl
@[simp] theorem State.moveResv_net (s : State) (src dst n : Nat) : (s.moveResv src dst n).net = s.net := rfl
@[simp] theorem State.moveResv_carried (s : State) (src dst n : Nat) : (s.moveResv src dst n).carried = s.carried := rfl
@[simp] theorem State.moveResv_reports (s : State) (src dst n : Nat) : (s.moveResv src dst n).reports = s.reports := rfl
@[simp] theorem State.moveResv_insts (s : State) (src dst n : Nat) : (s.moveResv src dst n).insts = s.insts := rfl
@[simp] theorem State.moveResv_loads (s : State) (src dst n : Nat) : (s.moveResv src dst n).loads = s.loads := rfl
@[simp] theorem State.moveResv_copies (s : State) (src dst n : Nat) : (s.moveResv src dst n).copies = s.copies := rfl
@[simp] theorem State.moveResv_hot (s : State) (src dst n : Nat) : (s.moveResv src dst n).hot = s.hot := rfl
@[simp] theorem State.moveResv_saved (s : State) (src dst n : Nat) : (s.moveResv src dst n).saved = s.saved := rfl
@[simp] theorem State.moveResv_ctl (s : State) (src dst n : Nat) : (s.moveResv src dst n).ctl = s.ctl := rfl
@[simp] theorem State.moveResv_sched (s : State) (src dst n : Nat) : (s.moveResv src dst n).sched = s.sched := rfl
@[simp] theorem State.moveResv_turn (s : State) (src dst n : Nat) : (s.moveResv src dst n).turn = s.turn := rfl
@[simp] theorem State.moveResv_nextId (s : State) (src dst n : Nat) : (s.moveResv src dst n).nextId = s.nextId := rfl
@[simp] theorem State.moveResv_free (s : State) (src dst n : Nat) : (s.moveResv src dst n).free = s.free := rfl

/-! ### The updates of a slot -/

@[simp] theorem Slot.retire_live (sl : Slot) : sl.retire.live = sl.live := rfl
@[simp] theorem Slot.retire_wait (sl : Slot) : sl.retire.wait = sl.wait := rfl
@[simp] theorem Slot.retire_x (sl : Slot) : sl.retire.x = sl.x := rfl
@[simp] theorem Slot.retire_v (sl : Slot) : sl.retire.v = sl.v := rfl
@[simp] theorem Slot.retire_p (sl : Slot) : sl.retire.p = sl.p := rfl
@[simp] theorem Slot.retire_lq (sl : Slot) : sl.retire.lq = sl.lq := rfl
@[simp] theorem Slot.retire_sq (sl : Slot) : sl.retire.sq = sl.sq := rfl
@[simp] theorem Slot.retire_bq (sl : Slot) : sl.retire.bq = sl.bq := rfl
@[simp] theorem Slot.retire_aq (sl : Slot) : sl.retire.aq = sl.aq := rfl
@[simp] theorem Slot.retire_pfx (sl : Slot) : sl.retire.pfx = sl.pfx := rfl
@[simp] theorem Slot.retire_fbuf (sl : Slot) : sl.retire.fbuf = sl.fbuf := rfl
@[simp] theorem Slot.retire_sel (sl : Slot) : sl.retire.sel = sl.sel := rfl
@[simp] theorem Slot.retire_left (sl : Slot) : sl.retire.left = sl.left := rfl
@[simp] theorem Slot.retire_spawnb (sl : Slot) : sl.retire.spawnb = sl.spawnb := rfl
@[simp] theorem Slot.retire_amoscope (sl : Slot) : sl.retire.amoscope = sl.amoscope := rfl
@[simp] theorem Slot.retire_tabsel (sl : Slot) : sl.retire.tabsel = sl.tabsel := rfl
@[simp] theorem Slot.retire_crit (sl : Slot) : sl.retire.crit = sl.crit := rfl
@[simp] theorem Slot.retire_msgid (sl : Slot) : sl.retire.msgid = sl.msgid := rfl
@[simp] theorem Slot.retire_baywin (sl : Slot) : sl.retire.baywin = sl.baywin := rfl
@[simp] theorem Slot.retire_sends (sl : Slot) : sl.retire.sends = sl.sends := rfl
@[simp] theorem Slot.retire_chan (sl : Slot) : sl.retire.chan = sl.chan := rfl
@[simp] theorem Slot.retire_first (sl : Slot) : sl.retire.first = sl.first := rfl
@[simp] theorem Slot.retire_trigger (sl : Slot) : sl.retire.trigger = sl.trigger := rfl
@[simp] theorem Slot.retire_taken (sl : Slot) : sl.retire.taken = sl.taken := rfl
@[simp] theorem Slot.retire_pending (sl : Slot) : sl.retire.pending = sl.pending := rfl
@[simp] theorem Slot.retire_regdem (sl : Slot) : sl.retire.regdem = sl.regdem := rfl
@[simp] theorem Slot.retire_baydem (sl : Slot) : sl.retire.baydem = sl.baydem := rfl
@[simp] theorem Slot.retire_bay (sl : Slot) : sl.retire.bay = sl.bay := rfl
@[simp] theorem Slot.retire_budget (sl : Slot) : sl.retire.budget = sl.budget := rfl
@[simp] theorem Slot.retire_ports (sl : Slot) : sl.retire.ports = sl.ports := rfl
@[simp] theorem Slot.retire_compat (sl : Slot) : sl.retire.compat = sl.compat := rfl
@[simp] theorem Slot.retire_task (sl : Slot) : sl.retire.task = sl.task := rfl
@[simp] theorem Slot.retire_trigd (sl : Slot) : sl.retire.trigd = sl.trigd := rfl
@[simp] theorem Slot.retire_begun (sl : Slot) : sl.retire.begun = sl.begun := rfl
@[simp] theorem Slot.retire_sent (sl : Slot) : sl.retire.sent = sl.sent := rfl
@[simp] theorem Slot.retire_owed (sl : Slot) : sl.retire.owed = sl.owed := rfl
@[simp] theorem Slot.retire_flow (sl : Slot) : sl.retire.flow = sl.flow := rfl
@[simp] theorem Slot.retire_bad (sl : Slot) : sl.retire.bad = sl.bad := rfl
@[simp] theorem Slot.retire_behind (sl : Slot) : sl.retire.behind = sl.behind := rfl
@[simp] theorem Slot.retire_flights (sl : Slot) : sl.retire.flights = sl.flights := rfl
@[simp] theorem Slot.retire_early (sl : Slot) : sl.retire.early = sl.early := rfl

@[simp] theorem Slot.withRegs_live (sl : Slot) (r : Regs) : (sl.withRegs r).live = sl.live := rfl
@[simp] theorem Slot.withRegs_wait (sl : Slot) (r : Regs) : (sl.withRegs r).wait = sl.wait := rfl
@[simp] theorem Slot.withRegs_lq (sl : Slot) (r : Regs) : (sl.withRegs r).lq = sl.lq := rfl
@[simp] theorem Slot.withRegs_sq (sl : Slot) (r : Regs) : (sl.withRegs r).sq = sl.sq := rfl
@[simp] theorem Slot.withRegs_bq (sl : Slot) (r : Regs) : (sl.withRegs r).bq = sl.bq := rfl
@[simp] theorem Slot.withRegs_aq (sl : Slot) (r : Regs) : (sl.withRegs r).aq = sl.aq := rfl
@[simp] theorem Slot.withRegs_fbuf (sl : Slot) (r : Regs) : (sl.withRegs r).fbuf = sl.fbuf := rfl
@[simp] theorem Slot.withRegs_sel (sl : Slot) (r : Regs) : (sl.withRegs r).sel = sl.sel := rfl
@[simp] theorem Slot.withRegs_left (sl : Slot) (r : Regs) : (sl.withRegs r).left = sl.left := rfl
@[simp] theorem Slot.withRegs_spawnb (sl : Slot) (r : Regs) : (sl.withRegs r).spawnb = sl.spawnb := rfl
@[simp] theorem Slot.withRegs_amoscope (sl : Slot) (r : Regs) : (sl.withRegs r).amoscope = sl.amoscope := rfl
@[simp] theorem Slot.withRegs_tabsel (sl : Slot) (r : Regs) : (sl.withRegs r).tabsel = sl.tabsel := rfl
@[simp] theorem Slot.withRegs_instret (sl : Slot) (r : Regs) : (sl.withRegs r).instret = sl.instret := rfl
@[simp] theorem Slot.withRegs_crit (sl : Slot) (r : Regs) : (sl.withRegs r).crit = sl.crit := rfl
@[simp] theorem Slot.withRegs_msgid (sl : Slot) (r : Regs) : (sl.withRegs r).msgid = sl.msgid := rfl
@[simp] theorem Slot.withRegs_baywin (sl : Slot) (r : Regs) : (sl.withRegs r).baywin = sl.baywin := rfl
@[simp] theorem Slot.withRegs_sends (sl : Slot) (r : Regs) : (sl.withRegs r).sends = sl.sends := rfl
@[simp] theorem Slot.withRegs_chan (sl : Slot) (r : Regs) : (sl.withRegs r).chan = sl.chan := rfl
@[simp] theorem Slot.withRegs_first (sl : Slot) (r : Regs) : (sl.withRegs r).first = sl.first := rfl
@[simp] theorem Slot.withRegs_trigger (sl : Slot) (r : Regs) : (sl.withRegs r).trigger = sl.trigger := rfl
@[simp] theorem Slot.withRegs_taken (sl : Slot) (r : Regs) : (sl.withRegs r).taken = sl.taken := rfl
@[simp] theorem Slot.withRegs_pending (sl : Slot) (r : Regs) : (sl.withRegs r).pending = sl.pending := rfl
@[simp] theorem Slot.withRegs_regdem (sl : Slot) (r : Regs) : (sl.withRegs r).regdem = sl.regdem := rfl
@[simp] theorem Slot.withRegs_baydem (sl : Slot) (r : Regs) : (sl.withRegs r).baydem = sl.baydem := rfl
@[simp] theorem Slot.withRegs_bay (sl : Slot) (r : Regs) : (sl.withRegs r).bay = sl.bay := rfl
@[simp] theorem Slot.withRegs_budget (sl : Slot) (r : Regs) : (sl.withRegs r).budget = sl.budget := rfl
@[simp] theorem Slot.withRegs_ports (sl : Slot) (r : Regs) : (sl.withRegs r).ports = sl.ports := rfl
@[simp] theorem Slot.withRegs_compat (sl : Slot) (r : Regs) : (sl.withRegs r).compat = sl.compat := rfl
@[simp] theorem Slot.withRegs_task (sl : Slot) (r : Regs) : (sl.withRegs r).task = sl.task := rfl
@[simp] theorem Slot.withRegs_trigd (sl : Slot) (r : Regs) : (sl.withRegs r).trigd = sl.trigd := rfl
@[simp] theorem Slot.withRegs_begun (sl : Slot) (r : Regs) : (sl.withRegs r).begun = sl.begun := rfl
@[simp] theorem Slot.withRegs_sent (sl : Slot) (r : Regs) : (sl.withRegs r).sent = sl.sent := rfl
@[simp] theorem Slot.withRegs_owed (sl : Slot) (r : Regs) : (sl.withRegs r).owed = sl.owed := rfl
@[simp] theorem Slot.withRegs_bad (sl : Slot) (r : Regs) : (sl.withRegs r).bad = sl.bad := rfl
@[simp] theorem Slot.withRegs_behind (sl : Slot) (r : Regs) : (sl.withRegs r).behind = sl.behind := rfl
@[simp] theorem Slot.withRegs_flights (sl : Slot) (r : Regs) : (sl.withRegs r).flights = sl.flights := rfl
@[simp] theorem Slot.withRegs_early (sl : Slot) (r : Regs) : (sl.withRegs r).early = sl.early := rfl

@[simp] theorem Slot.idle_pc (sl : Slot) : sl.idle.pc = sl.pc := rfl
@[simp] theorem Slot.idle_x (sl : Slot) : sl.idle.x = sl.x := rfl
@[simp] theorem Slot.idle_v (sl : Slot) : sl.idle.v = sl.v := rfl
@[simp] theorem Slot.idle_p (sl : Slot) : sl.idle.p = sl.p := rfl
@[simp] theorem Slot.idle_sel (sl : Slot) : sl.idle.sel = sl.sel := rfl
@[simp] theorem Slot.idle_left (sl : Slot) : sl.idle.left = sl.left := rfl
@[simp] theorem Slot.idle_spawnb (sl : Slot) : sl.idle.spawnb = sl.spawnb := rfl
@[simp] theorem Slot.idle_amoscope (sl : Slot) : sl.idle.amoscope = sl.amoscope := rfl
@[simp] theorem Slot.idle_tabsel (sl : Slot) : sl.idle.tabsel = sl.tabsel := rfl
@[simp] theorem Slot.idle_instret (sl : Slot) : sl.idle.instret = sl.instret := rfl
@[simp] theorem Slot.idle_msgid (sl : Slot) : sl.idle.msgid = sl.msgid := rfl
@[simp] theorem Slot.idle_baywin (sl : Slot) : sl.idle.baywin = sl.baywin := rfl
@[simp] theorem Slot.idle_bay (sl : Slot) : sl.idle.bay = sl.bay := rfl
@[simp] theorem Slot.idle_budget (sl : Slot) : sl.idle.budget = sl.budget := rfl
@[simp] theorem Slot.idle_ports (sl : Slot) : sl.idle.ports = sl.ports := rfl
@[simp] theorem Slot.idle_compat (sl : Slot) : sl.idle.compat = sl.compat := rfl
@[simp] theorem Slot.idle_sent (sl : Slot) : sl.idle.sent = sl.sent := rfl
@[simp] theorem Slot.idle_bad (sl : Slot) : sl.idle.bad = sl.bad := rfl
@[simp] theorem Slot.idle_behind (sl : Slot) : sl.idle.behind = none := rfl
@[simp] theorem Slot.idle_flights (sl : Slot) : sl.idle.flights = [] := rfl
@[simp] theorem Slot.idle_early (sl : Slot) : sl.idle.early = [] := rfl

@[simp] theorem Slot.wx_live (sl : Slot) (r : Reg) (v : Word) : (sl.wx r v).live = sl.live := by unfold Slot.wx; split <;> rfl
@[simp] theorem Slot.wx_wait (sl : Slot) (r : Reg) (v : Word) : (sl.wx r v).wait = sl.wait := by unfold Slot.wx; split <;> rfl
@[simp] theorem Slot.wx_pc (sl : Slot) (r : Reg) (v : Word) : (sl.wx r v).pc = sl.pc := by unfold Slot.wx; split <;> rfl
@[simp] theorem Slot.wx_v (sl : Slot) (r : Reg) (v : Word) : (sl.wx r v).v = sl.v := by unfold Slot.wx; split <;> rfl
@[simp] theorem Slot.wx_p (sl : Slot) (r : Reg) (v : Word) : (sl.wx r v).p = sl.p := by unfold Slot.wx; split <;> rfl
@[simp] theorem Slot.wx_lq (sl : Slot) (r : Reg) (v : Word) : (sl.wx r v).lq = sl.lq := by unfold Slot.wx; split <;> rfl
@[simp] theorem Slot.wx_sq (sl : Slot) (r : Reg) (v : Word) : (sl.wx r v).sq = sl.sq := by unfold Slot.wx; split <;> rfl
@[simp] theorem Slot.wx_bq (sl : Slot) (r : Reg) (v : Word) : (sl.wx r v).bq = sl.bq := by unfold Slot.wx; split <;> rfl
@[simp] theorem Slot.wx_aq (sl : Slot) (r : Reg) (v : Word) : (sl.wx r v).aq = sl.aq := by unfold Slot.wx; split <;> rfl
@[simp] theorem Slot.wx_pfx (sl : Slot) (r : Reg) (v : Word) : (sl.wx r v).pfx = sl.pfx := by unfold Slot.wx; split <;> rfl
@[simp] theorem Slot.wx_fbuf (sl : Slot) (r : Reg) (v : Word) : (sl.wx r v).fbuf = sl.fbuf := by unfold Slot.wx; split <;> rfl
@[simp] theorem Slot.wx_sel (sl : Slot) (r : Reg) (v : Word) : (sl.wx r v).sel = sl.sel := by unfold Slot.wx; split <;> rfl
@[simp] theorem Slot.wx_left (sl : Slot) (r : Reg) (v : Word) : (sl.wx r v).left = sl.left := by unfold Slot.wx; split <;> rfl
@[simp] theorem Slot.wx_spawnb (sl : Slot) (r : Reg) (v : Word) : (sl.wx r v).spawnb = sl.spawnb := by unfold Slot.wx; split <;> rfl
@[simp] theorem Slot.wx_amoscope (sl : Slot) (r : Reg) (v : Word) : (sl.wx r v).amoscope = sl.amoscope := by unfold Slot.wx; split <;> rfl
@[simp] theorem Slot.wx_tabsel (sl : Slot) (r : Reg) (v : Word) : (sl.wx r v).tabsel = sl.tabsel := by unfold Slot.wx; split <;> rfl
@[simp] theorem Slot.wx_instret (sl : Slot) (r : Reg) (v : Word) : (sl.wx r v).instret = sl.instret := by unfold Slot.wx; split <;> rfl
@[simp] theorem Slot.wx_crit (sl : Slot) (r : Reg) (v : Word) : (sl.wx r v).crit = sl.crit := by unfold Slot.wx; split <;> rfl
@[simp] theorem Slot.wx_msgid (sl : Slot) (r : Reg) (v : Word) : (sl.wx r v).msgid = sl.msgid := by unfold Slot.wx; split <;> rfl
@[simp] theorem Slot.wx_baywin (sl : Slot) (r : Reg) (v : Word) : (sl.wx r v).baywin = sl.baywin := by unfold Slot.wx; split <;> rfl
@[simp] theorem Slot.wx_sends (sl : Slot) (r : Reg) (v : Word) : (sl.wx r v).sends = sl.sends := by unfold Slot.wx; split <;> rfl
@[simp] theorem Slot.wx_chan (sl : Slot) (r : Reg) (v : Word) : (sl.wx r v).chan = sl.chan := by unfold Slot.wx; split <;> rfl
@[simp] theorem Slot.wx_first (sl : Slot) (r : Reg) (v : Word) : (sl.wx r v).first = sl.first := by unfold Slot.wx; split <;> rfl
@[simp] theorem Slot.wx_trigger (sl : Slot) (r : Reg) (v : Word) : (sl.wx r v).trigger = sl.trigger := by unfold Slot.wx; split <;> rfl
@[simp] theorem Slot.wx_taken (sl : Slot) (r : Reg) (v : Word) : (sl.wx r v).taken = sl.taken := by unfold Slot.wx; split <;> rfl
@[simp] theorem Slot.wx_pending (sl : Slot) (r : Reg) (v : Word) : (sl.wx r v).pending = sl.pending := by unfold Slot.wx; split <;> rfl
@[simp] theorem Slot.wx_regdem (sl : Slot) (r : Reg) (v : Word) : (sl.wx r v).regdem = sl.regdem := by unfold Slot.wx; split <;> rfl
@[simp] theorem Slot.wx_baydem (sl : Slot) (r : Reg) (v : Word) : (sl.wx r v).baydem = sl.baydem := by unfold Slot.wx; split <;> rfl
@[simp] theorem Slot.wx_bay (sl : Slot) (r : Reg) (v : Word) : (sl.wx r v).bay = sl.bay := by unfold Slot.wx; split <;> rfl
@[simp] theorem Slot.wx_budget (sl : Slot) (r : Reg) (v : Word) : (sl.wx r v).budget = sl.budget := by unfold Slot.wx; split <;> rfl
@[simp] theorem Slot.wx_ports (sl : Slot) (r : Reg) (v : Word) : (sl.wx r v).ports = sl.ports := by unfold Slot.wx; split <;> rfl
@[simp] theorem Slot.wx_compat (sl : Slot) (r : Reg) (v : Word) : (sl.wx r v).compat = sl.compat := by unfold Slot.wx; split <;> rfl
@[simp] theorem Slot.wx_task (sl : Slot) (r : Reg) (v : Word) : (sl.wx r v).task = sl.task := by unfold Slot.wx; split <;> rfl
@[simp] theorem Slot.wx_trigd (sl : Slot) (r : Reg) (v : Word) : (sl.wx r v).trigd = sl.trigd := by unfold Slot.wx; split <;> rfl
@[simp] theorem Slot.wx_begun (sl : Slot) (r : Reg) (v : Word) : (sl.wx r v).begun = sl.begun := by unfold Slot.wx; split <;> rfl
@[simp] theorem Slot.wx_sent (sl : Slot) (r : Reg) (v : Word) : (sl.wx r v).sent = sl.sent := by unfold Slot.wx; split <;> rfl
@[simp] theorem Slot.wx_owed (sl : Slot) (r : Reg) (v : Word) : (sl.wx r v).owed = sl.owed := by unfold Slot.wx; split <;> rfl
@[simp] theorem Slot.wx_flow (sl : Slot) (r : Reg) (v : Word) : (sl.wx r v).flow = sl.flow := by unfold Slot.wx; split <;> rfl
@[simp] theorem Slot.wx_behind (sl : Slot) (r : Reg) (v : Word) : (sl.wx r v).behind = sl.behind := by unfold Slot.wx; split <;> rfl
@[simp] theorem Slot.wx_flights (sl : Slot) (r : Reg) (v : Word) : (sl.wx r v).flights = sl.flights := by unfold Slot.wx; split <;> rfl
@[simp] theorem Slot.wx_early (sl : Slot) (r : Reg) (v : Word) : (sl.wx r v).early = sl.early := by unfold Slot.wx; split <;> rfl

@[simp] theorem Slot.wp_live (sl : Slot) (p : PReg) (v : BitVec 32) : (sl.wp p v).live = sl.live := by unfold Slot.wp; split <;> rfl
@[simp] theorem Slot.wp_wait (sl : Slot) (p : PReg) (v : BitVec 32) : (sl.wp p v).wait = sl.wait := by unfold Slot.wp; split <;> rfl
@[simp] theorem Slot.wp_pc (sl : Slot) (p : PReg) (v : BitVec 32) : (sl.wp p v).pc = sl.pc := by unfold Slot.wp; split <;> rfl
@[simp] theorem Slot.wp_x (sl : Slot) (p : PReg) (v : BitVec 32) : (sl.wp p v).x = sl.x := by unfold Slot.wp; split <;> rfl
@[simp] theorem Slot.wp_v (sl : Slot) (p : PReg) (v : BitVec 32) : (sl.wp p v).v = sl.v := by unfold Slot.wp; split <;> rfl
@[simp] theorem Slot.wp_lq (sl : Slot) (p : PReg) (v : BitVec 32) : (sl.wp p v).lq = sl.lq := by unfold Slot.wp; split <;> rfl
@[simp] theorem Slot.wp_sq (sl : Slot) (p : PReg) (v : BitVec 32) : (sl.wp p v).sq = sl.sq := by unfold Slot.wp; split <;> rfl
@[simp] theorem Slot.wp_bq (sl : Slot) (p : PReg) (v : BitVec 32) : (sl.wp p v).bq = sl.bq := by unfold Slot.wp; split <;> rfl
@[simp] theorem Slot.wp_aq (sl : Slot) (p : PReg) (v : BitVec 32) : (sl.wp p v).aq = sl.aq := by unfold Slot.wp; split <;> rfl
@[simp] theorem Slot.wp_pfx (sl : Slot) (p : PReg) (v : BitVec 32) : (sl.wp p v).pfx = sl.pfx := by unfold Slot.wp; split <;> rfl
@[simp] theorem Slot.wp_fbuf (sl : Slot) (p : PReg) (v : BitVec 32) : (sl.wp p v).fbuf = sl.fbuf := by unfold Slot.wp; split <;> rfl
@[simp] theorem Slot.wp_sel (sl : Slot) (p : PReg) (v : BitVec 32) : (sl.wp p v).sel = sl.sel := by unfold Slot.wp; split <;> rfl
@[simp] theorem Slot.wp_left (sl : Slot) (p : PReg) (v : BitVec 32) : (sl.wp p v).left = sl.left := by unfold Slot.wp; split <;> rfl
@[simp] theorem Slot.wp_spawnb (sl : Slot) (p : PReg) (v : BitVec 32) : (sl.wp p v).spawnb = sl.spawnb := by unfold Slot.wp; split <;> rfl
@[simp] theorem Slot.wp_amoscope (sl : Slot) (p : PReg) (v : BitVec 32) : (sl.wp p v).amoscope = sl.amoscope := by unfold Slot.wp; split <;> rfl
@[simp] theorem Slot.wp_tabsel (sl : Slot) (p : PReg) (v : BitVec 32) : (sl.wp p v).tabsel = sl.tabsel := by unfold Slot.wp; split <;> rfl
@[simp] theorem Slot.wp_instret (sl : Slot) (p : PReg) (v : BitVec 32) : (sl.wp p v).instret = sl.instret := by unfold Slot.wp; split <;> rfl
@[simp] theorem Slot.wp_crit (sl : Slot) (p : PReg) (v : BitVec 32) : (sl.wp p v).crit = sl.crit := by unfold Slot.wp; split <;> rfl
@[simp] theorem Slot.wp_msgid (sl : Slot) (p : PReg) (v : BitVec 32) : (sl.wp p v).msgid = sl.msgid := by unfold Slot.wp; split <;> rfl
@[simp] theorem Slot.wp_baywin (sl : Slot) (p : PReg) (v : BitVec 32) : (sl.wp p v).baywin = sl.baywin := by unfold Slot.wp; split <;> rfl
@[simp] theorem Slot.wp_sends (sl : Slot) (p : PReg) (v : BitVec 32) : (sl.wp p v).sends = sl.sends := by unfold Slot.wp; split <;> rfl
@[simp] theorem Slot.wp_chan (sl : Slot) (p : PReg) (v : BitVec 32) : (sl.wp p v).chan = sl.chan := by unfold Slot.wp; split <;> rfl
@[simp] theorem Slot.wp_first (sl : Slot) (p : PReg) (v : BitVec 32) : (sl.wp p v).first = sl.first := by unfold Slot.wp; split <;> rfl
@[simp] theorem Slot.wp_trigger (sl : Slot) (p : PReg) (v : BitVec 32) : (sl.wp p v).trigger = sl.trigger := by unfold Slot.wp; split <;> rfl
@[simp] theorem Slot.wp_taken (sl : Slot) (p : PReg) (v : BitVec 32) : (sl.wp p v).taken = sl.taken := by unfold Slot.wp; split <;> rfl
@[simp] theorem Slot.wp_pending (sl : Slot) (p : PReg) (v : BitVec 32) : (sl.wp p v).pending = sl.pending := by unfold Slot.wp; split <;> rfl
@[simp] theorem Slot.wp_regdem (sl : Slot) (p : PReg) (v : BitVec 32) : (sl.wp p v).regdem = sl.regdem := by unfold Slot.wp; split <;> rfl
@[simp] theorem Slot.wp_baydem (sl : Slot) (p : PReg) (v : BitVec 32) : (sl.wp p v).baydem = sl.baydem := by unfold Slot.wp; split <;> rfl
@[simp] theorem Slot.wp_bay (sl : Slot) (p : PReg) (v : BitVec 32) : (sl.wp p v).bay = sl.bay := by unfold Slot.wp; split <;> rfl
@[simp] theorem Slot.wp_budget (sl : Slot) (p : PReg) (v : BitVec 32) : (sl.wp p v).budget = sl.budget := by unfold Slot.wp; split <;> rfl
@[simp] theorem Slot.wp_ports (sl : Slot) (p : PReg) (v : BitVec 32) : (sl.wp p v).ports = sl.ports := by unfold Slot.wp; split <;> rfl
@[simp] theorem Slot.wp_compat (sl : Slot) (p : PReg) (v : BitVec 32) : (sl.wp p v).compat = sl.compat := by unfold Slot.wp; split <;> rfl
@[simp] theorem Slot.wp_task (sl : Slot) (p : PReg) (v : BitVec 32) : (sl.wp p v).task = sl.task := by unfold Slot.wp; split <;> rfl
@[simp] theorem Slot.wp_trigd (sl : Slot) (p : PReg) (v : BitVec 32) : (sl.wp p v).trigd = sl.trigd := by unfold Slot.wp; split <;> rfl
@[simp] theorem Slot.wp_begun (sl : Slot) (p : PReg) (v : BitVec 32) : (sl.wp p v).begun = sl.begun := by unfold Slot.wp; split <;> rfl
@[simp] theorem Slot.wp_sent (sl : Slot) (p : PReg) (v : BitVec 32) : (sl.wp p v).sent = sl.sent := by unfold Slot.wp; split <;> rfl
@[simp] theorem Slot.wp_owed (sl : Slot) (p : PReg) (v : BitVec 32) : (sl.wp p v).owed = sl.owed := by unfold Slot.wp; split <;> rfl
@[simp] theorem Slot.wp_flow (sl : Slot) (p : PReg) (v : BitVec 32) : (sl.wp p v).flow = sl.flow := by unfold Slot.wp; split <;> rfl
@[simp] theorem Slot.wp_bad (sl : Slot) (p : PReg) (v : BitVec 32) : (sl.wp p v).bad = sl.bad := by unfold Slot.wp; split <;> rfl
@[simp] theorem Slot.wp_behind (sl : Slot) (p : PReg) (v : BitVec 32) : (sl.wp p v).behind = sl.behind := by unfold Slot.wp; split <;> rfl
@[simp] theorem Slot.wp_flights (sl : Slot) (p : PReg) (v : BitVec 32) : (sl.wp p v).flights = sl.flights := by unfold Slot.wp; split <;> rfl
@[simp] theorem Slot.wp_early (sl : Slot) (p : PReg) (v : BitVec 32) : (sl.wp p v).early = sl.early := by unfold Slot.wp; split <;> rfl

@[simp] theorem Slot.wv_live (sl : Slot) (r : Nat) (v : Vec) : (sl.wv r v).live = sl.live := by unfold Slot.wv; split <;> rfl
@[simp] theorem Slot.wv_wait (sl : Slot) (r : Nat) (v : Vec) : (sl.wv r v).wait = sl.wait := by unfold Slot.wv; split <;> rfl
@[simp] theorem Slot.wv_pc (sl : Slot) (r : Nat) (v : Vec) : (sl.wv r v).pc = sl.pc := by unfold Slot.wv; split <;> rfl
@[simp] theorem Slot.wv_x (sl : Slot) (r : Nat) (v : Vec) : (sl.wv r v).x = sl.x := by unfold Slot.wv; split <;> rfl
@[simp] theorem Slot.wv_p (sl : Slot) (r : Nat) (v : Vec) : (sl.wv r v).p = sl.p := by unfold Slot.wv; split <;> rfl
@[simp] theorem Slot.wv_lq (sl : Slot) (r : Nat) (v : Vec) : (sl.wv r v).lq = sl.lq := by unfold Slot.wv; split <;> rfl
@[simp] theorem Slot.wv_sq (sl : Slot) (r : Nat) (v : Vec) : (sl.wv r v).sq = sl.sq := by unfold Slot.wv; split <;> rfl
@[simp] theorem Slot.wv_bq (sl : Slot) (r : Nat) (v : Vec) : (sl.wv r v).bq = sl.bq := by unfold Slot.wv; split <;> rfl
@[simp] theorem Slot.wv_aq (sl : Slot) (r : Nat) (v : Vec) : (sl.wv r v).aq = sl.aq := by unfold Slot.wv; split <;> rfl
@[simp] theorem Slot.wv_pfx (sl : Slot) (r : Nat) (v : Vec) : (sl.wv r v).pfx = sl.pfx := by unfold Slot.wv; split <;> rfl
@[simp] theorem Slot.wv_fbuf (sl : Slot) (r : Nat) (v : Vec) : (sl.wv r v).fbuf = sl.fbuf := by unfold Slot.wv; split <;> rfl
@[simp] theorem Slot.wv_sel (sl : Slot) (r : Nat) (v : Vec) : (sl.wv r v).sel = sl.sel := by unfold Slot.wv; split <;> rfl
@[simp] theorem Slot.wv_left (sl : Slot) (r : Nat) (v : Vec) : (sl.wv r v).left = sl.left := by unfold Slot.wv; split <;> rfl
@[simp] theorem Slot.wv_spawnb (sl : Slot) (r : Nat) (v : Vec) : (sl.wv r v).spawnb = sl.spawnb := by unfold Slot.wv; split <;> rfl
@[simp] theorem Slot.wv_amoscope (sl : Slot) (r : Nat) (v : Vec) : (sl.wv r v).amoscope = sl.amoscope := by unfold Slot.wv; split <;> rfl
@[simp] theorem Slot.wv_tabsel (sl : Slot) (r : Nat) (v : Vec) : (sl.wv r v).tabsel = sl.tabsel := by unfold Slot.wv; split <;> rfl
@[simp] theorem Slot.wv_instret (sl : Slot) (r : Nat) (v : Vec) : (sl.wv r v).instret = sl.instret := by unfold Slot.wv; split <;> rfl
@[simp] theorem Slot.wv_crit (sl : Slot) (r : Nat) (v : Vec) : (sl.wv r v).crit = sl.crit := by unfold Slot.wv; split <;> rfl
@[simp] theorem Slot.wv_msgid (sl : Slot) (r : Nat) (v : Vec) : (sl.wv r v).msgid = sl.msgid := by unfold Slot.wv; split <;> rfl
@[simp] theorem Slot.wv_baywin (sl : Slot) (r : Nat) (v : Vec) : (sl.wv r v).baywin = sl.baywin := by unfold Slot.wv; split <;> rfl
@[simp] theorem Slot.wv_sends (sl : Slot) (r : Nat) (v : Vec) : (sl.wv r v).sends = sl.sends := by unfold Slot.wv; split <;> rfl
@[simp] theorem Slot.wv_chan (sl : Slot) (r : Nat) (v : Vec) : (sl.wv r v).chan = sl.chan := by unfold Slot.wv; split <;> rfl
@[simp] theorem Slot.wv_first (sl : Slot) (r : Nat) (v : Vec) : (sl.wv r v).first = sl.first := by unfold Slot.wv; split <;> rfl
@[simp] theorem Slot.wv_trigger (sl : Slot) (r : Nat) (v : Vec) : (sl.wv r v).trigger = sl.trigger := by unfold Slot.wv; split <;> rfl
@[simp] theorem Slot.wv_taken (sl : Slot) (r : Nat) (v : Vec) : (sl.wv r v).taken = sl.taken := by unfold Slot.wv; split <;> rfl
@[simp] theorem Slot.wv_pending (sl : Slot) (r : Nat) (v : Vec) : (sl.wv r v).pending = sl.pending := by unfold Slot.wv; split <;> rfl
@[simp] theorem Slot.wv_regdem (sl : Slot) (r : Nat) (v : Vec) : (sl.wv r v).regdem = sl.regdem := by unfold Slot.wv; split <;> rfl
@[simp] theorem Slot.wv_baydem (sl : Slot) (r : Nat) (v : Vec) : (sl.wv r v).baydem = sl.baydem := by unfold Slot.wv; split <;> rfl
@[simp] theorem Slot.wv_bay (sl : Slot) (r : Nat) (v : Vec) : (sl.wv r v).bay = sl.bay := by unfold Slot.wv; split <;> rfl
@[simp] theorem Slot.wv_budget (sl : Slot) (r : Nat) (v : Vec) : (sl.wv r v).budget = sl.budget := by unfold Slot.wv; split <;> rfl
@[simp] theorem Slot.wv_ports (sl : Slot) (r : Nat) (v : Vec) : (sl.wv r v).ports = sl.ports := by unfold Slot.wv; split <;> rfl
@[simp] theorem Slot.wv_compat (sl : Slot) (r : Nat) (v : Vec) : (sl.wv r v).compat = sl.compat := by unfold Slot.wv; split <;> rfl
@[simp] theorem Slot.wv_task (sl : Slot) (r : Nat) (v : Vec) : (sl.wv r v).task = sl.task := by unfold Slot.wv; split <;> rfl
@[simp] theorem Slot.wv_trigd (sl : Slot) (r : Nat) (v : Vec) : (sl.wv r v).trigd = sl.trigd := by unfold Slot.wv; split <;> rfl
@[simp] theorem Slot.wv_begun (sl : Slot) (r : Nat) (v : Vec) : (sl.wv r v).begun = sl.begun := by unfold Slot.wv; split <;> rfl
@[simp] theorem Slot.wv_sent (sl : Slot) (r : Nat) (v : Vec) : (sl.wv r v).sent = sl.sent := by unfold Slot.wv; split <;> rfl
@[simp] theorem Slot.wv_owed (sl : Slot) (r : Nat) (v : Vec) : (sl.wv r v).owed = sl.owed := by unfold Slot.wv; split <;> rfl
@[simp] theorem Slot.wv_flow (sl : Slot) (r : Nat) (v : Vec) : (sl.wv r v).flow = sl.flow := by unfold Slot.wv; split <;> rfl
@[simp] theorem Slot.wv_behind (sl : Slot) (r : Nat) (v : Vec) : (sl.wv r v).behind = sl.behind := by unfold Slot.wv; split <;> rfl
@[simp] theorem Slot.wv_flights (sl : Slot) (r : Nat) (v : Vec) : (sl.wv r v).flights = sl.flights := by unfold Slot.wv; split <;> rfl
@[simp] theorem Slot.wv_early (sl : Slot) (r : Nat) (v : Vec) : (sl.wv r v).early = sl.early := by unfold Slot.wv; split <;> rfl

end Sys2Proof.Machine
end

