-- ==== Sys2Proof/Laws/Slots.lean ====
section
/-!
SUPPORT. The laws of cores, slots and registers: what is read after a write, and that a change of the current slot changes nothing
else.
-/
namespace Sys2Proof.Machine

/-- What a vector holds after a write. -/
theorem get_set {α : Type} {n : Nat} (v : Vector α n) (i : Nat) (x : α) (h : i < n) (j : Fin n) :
    (v.set i x h).get j = if i = j.val then x else v.get j := by
  show (v.set i x h)[j.val] = if i = j.val then x else v[j.val]
  rw [Vector.getElem_set]

/-! ### Cores and slots -/

theorem State.core_modCore (s : State) (c d : Nat) (f : CoreSt → CoreSt) :
    (s.modCore c f).core d = if d = c then f (s.core c) else s.core d := by
  simp only [State.core, State.modCore, AMap.getD_put]

@[simp] theorem State.core_modCore_self (s : State) (c : Nat) (f : CoreSt → CoreSt) :
    (s.modCore c f).core c = f (s.core c) := by simp [State.core_modCore]

theorem State.slotOf_modSlotOf (s : State) (c d : Nat) (k j : Fin 4) (f : Slot → Slot) :
    (s.modSlotOf c k f).slotOf d j = if d = c ∧ j = k then f (s.slotOf c k) else s.slotOf d j := by
  simp only [State.slotOf, State.modSlotOf, State.core_modCore]
  by_cases hd : d = c
  · subst hd
    simp only [if_true, true_and, get_set]
    by_cases hj : j = k
    · subst hj; simp
    · rw [if_neg (fun e => hj (Fin.ext e.symm)), if_neg hj]
  · rw [if_neg hd, if_neg fun e => hd e.1]

@[simp] theorem State.slotOf_modSlotOf_self (s : State) (c : Nat) (k : Fin 4) (f : Slot → Slot) :
    (s.modSlotOf c k f).slotOf c k = f (s.slotOf c k) := by simp [State.slotOf_modSlotOf]

@[simp] theorem State.slot_modSlot (s : State) (f : Slot → Slot) : (s.modSlot f).slot = f s.slot := by
  simp [State.slot, State.modSlot]

/-- A change of a slot leaves what its core holds beside its slots. -/
theorem State.core_modSlotOf (s : State) (c d : Nat) (k : Fin 4) (f : Slot → Slot) :
    { (s.modSlotOf c k f).core d with slots := (s.core d).slots } = s.core d := by
  simp only [State.modSlotOf, State.core_modCore]
  split
  · subst d; rfl
  · rfl

/-- A change of the current slot changes nothing else. -/
theorem State.onlySlot_modSlot (s : State) (f : Slot → Slot) : OnlySlot s (s.modSlot f) (f s.slot) where
  here := by simp [State.slot, State.modSlot]
  slots := fun c k h => by
    simp only [State.modSlot, State.slotOf_modSlotOf]
    split
    · rename_i e; rcases h with h | h
      · exact absurd e.1 h
      · exact absurd e.2 h
    · rfl
  cores := fun c => s.core_modSlotOf s.cur.core c s.cur.slot f
  rest := rfl

/-! ### x registers -/

@[simp] theorem Slot.rx_zero (sl : Slot) : sl.rx 0 = 0 := rfl

/-- What an x register reads as after a write; x0 reads zero (R75). -/
theorem Slot.rx_wx (sl : Slot) (r q : Reg) (v : Word) :
    (sl.wx r v).rx q = if q = r ∧ r ≠ 0 then v else sl.rx q := by
  unfold Slot.wx Slot.rx
  by_cases hr : r = 0
  · rw [if_pos hr, if_neg fun e : q = r ∧ r ≠ 0 => e.2 hr]
  · rw [if_neg hr]
    by_cases hq : q = 0
    · rw [if_pos hq, if_pos hq, if_neg fun e : q = r ∧ r ≠ 0 => hr (e.1 ▸ hq)]
    · rw [if_neg hq, if_neg hq, get_set]
      by_cases e : q = r
      · subst e; rw [if_pos rfl, if_pos ⟨rfl, hr⟩]
      · rw [if_neg fun h => e (BitVec.eq_of_toNat_eq h.symm), if_neg fun h => e h.1]

theorem Slot.wx_retire (sl : Slot) (rd : Reg) (v : Word) : (sl.wx rd v).retire = sl.after rd v := by
  unfold Slot.wx Slot.retire Slot.after
  split <;> rfl

/-- What an instruction that writes rd and retires comes to. -/
theorem State.onlySlot_done (s : State) (rd : Reg) (v : Word) : OnlySlot s (s.done rd v) (s.slot.after rd v) := by
  rw [← Slot.wx_retire]
  exact s.onlySlot_modSlot fun sl => (sl.wx rd v).retire

theorem State.onlySlot_retire (s : State) : OnlySlot s s.retire s.slot.next := s.onlySlot_modSlot Slot.retire

/-! ### Predicates and vector registers -/

/-- What a predicate reads as after a write; p0 reads as all ones (R11). -/
theorem Slot.rp_wp (sl : Slot) (p q : PReg) (v : BitVec 32) :
    (sl.wp p v).rp q = if q = p ∧ p ≠ 0 then v else sl.rp q := by
  unfold Slot.wp Slot.rp
  by_cases hr : p = 0
  · rw [if_pos hr, if_neg fun e : q = p ∧ p ≠ 0 => e.2 hr]
  · rw [if_neg hr]
    by_cases hq : q = 0
    · rw [if_pos hq, if_pos hq, if_neg fun e : q = p ∧ p ≠ 0 => hr (e.1 ▸ hq)]
    · rw [if_neg hq, if_neg hq, get_set]
      by_cases e : q = p
      · subst e; rw [if_pos rfl, if_pos ⟨rfl, hr⟩]
      · rw [if_neg fun h => e (BitVec.eq_of_toNat_eq h.symm), if_neg fun h => e h.1]

end Sys2Proof.Machine
end

