-- ==== Sys2Proof/Laws/Flight.lean ====
section
/-!
SUPPORT. A slot with nothing under way and no early read: nothing lands before an instruction of it, and its instruction is `exec`
with the orders of R131, R134 and R154 around it.
-/
namespace Sys2Proof.Machine

/-- The current slot has nothing under way, and no read of it has come early. -/
structure State.calm (s : State) : Prop where
  flights : s.slot.flights = []
  early : s.slot.early = []

/-- Where nothing is under way nothing lands. -/
theorem State.land_none (s : State) (h : s.slot.flights = []) (n id : Nat) : s.land n id = s := by
  cases n with
  | zero => rfl
  | succ n => simp [State.land, h]

theorem State.landList_none (s : State) (h : s.slot.flights = []) (n : Nat) (ids : List Nat) :
    ids.foldl (fun s id => s.land n id) s = s := by
  induction ids with
  | nil => rfl
  | cons a l ih => rw [List.foldl_cons, s.land_none h, ih]

theorem State.landThese_none (s : State) (h : s.slot.flights = []) (p : Flight → Bool) : s.landThese p = s := by
  simp [State.landThese, h]

theorem State.landAll_none (s : State) (h : s.slot.flights = []) : s.landAll = s := s.landThese_none h _

/-- Nothing lands before an instruction. -/
theorem State.readyFor_none (s : State) (h : s.slot.flights = []) (i : Instr) : s.readyFor i = s := by
  have key : ∀ ids : List Nat, ids.foldl (fun t id => t.land t.slot.flights.length id) s = s := by
    intro ids
    induction ids with
    | nil => rfl
    | cons a l ih => rw [List.foldl_cons, s.land_none h, ih]
  simp [State.readyFor, h, key]

theorem State.mayRun_none (s : State) (h : s.slot.flights = []) (i : Instr) :
    s.mayRun i = (slotReady s s.cur.core s.cur.slot && (s.dues i).all s.payable) := by
  simp [State.mayRun, h]

theorem State.whole_none (s : State) (h : s.slot.flights = []) (run : State → State) : s.whole run = run s := by
  simp [State.whole, h]

/-- Without early reads an instruction is its meaning. -/
theorem State.effect_none (s : State) (h : s.slot.early = []) (i : Instr) : s.effect i = stateOf (exec i s) s := by
  simp [State.effect, State.earlyFor, h]

theorem State.earlyAfter_none (s t : State) (i : Instr) (h : (t.slotOf s.cur.core s.cur.slot).early = []) : s.earlyAfter t i = t := by
  simp [State.earlyAfter, h]

/-- What an instruction of a calm slot comes to: a stall for what its fences owe, a trap on a register in error, or its effect. -/
theorem State.runInstr_calm (s : State) (i : Instr) (h : s.slot.flights = []) :
    s.runInstr i =
      if slotReady s s.cur.core s.cur.slot && (s.dues i).all s.payable then
        match s.regError i with
        | some b => s.trapUncorr b 0
        | none => (s.before i).earlyAfter ((s.before i).after ((s.before i).effect i) i) i
      else s := by
  unfold State.runInstr
  simp only [s.readyFor_none h, s.mayRun_none h]
  cases slotReady s s.cur.core s.cur.slot && (s.dues i).all s.payable <;> rfl

end Sys2Proof.Machine
end

