-- ==== Sys2Proof/Laws/Memory.lean ====
section
/-!
SUPPORT. The laws of memory: a byte read after a write, and the canonical form that every operation on memory keeps.
-/
namespace Sys2Proof.Machine

/-! ### One byte -/

theorem memGet_memInsert (base : Nat → Byte) (m : List Host.Cell) (a : Nat) (b : Byte) (x : Nat) :
    memGet base (memInsert m a b) x = if x = a then b else memGet base m x := by
  induction m with
  | nil => simp [memInsert, memGet, eq_comm]
  | cons p m ih =>
    obtain ⟨k, c⟩ := p
    unfold memInsert
    split
    · simp [memGet, eq_comm]
    · split
      · subst k; simp only [memGet]; by_cases h : a = x <;> simp [h, eq_comm]
      · simp only [memGet, ih]
        by_cases h : k = x
        · subst h; simp [*]
        · simp [h]

theorem memGet_filter_ne (base : Nat → Byte) (m : List Host.Cell) (a x : Nat) :
    memGet base (m.filter fun c => c.1 ≠ a) x = if x = a then base a else memGet base m x := by
  induction m with
  | nil => by_cases h : x = a <;> simp [memGet, h]
  | cons p m ih =>
    obtain ⟨k, c⟩ := p
    by_cases hk : k = a
    · subst hk
      simp only [ne_eq, not_true_eq_false, decide_false, Bool.false_eq_true, not_false_eq_true, List.filter_cons_of_neg,
        memGet] at ih ⊢
      rw [ih]
      by_cases h : x = k
      · simp [h]
      · simp [h, Ne.symm h]
    · simp only [ne_eq, hk, not_false_eq_true, decide_true, List.filter_cons_of_pos, memGet] at ih ⊢
      rw [ih]
      by_cases h : k = x
      · subst h; simp [hk]
      · simp [h]

/-- A byte after a write of one byte: the value written there, and elsewhere what was there. -/
theorem memGet_memSet (base : Nat → Byte) (m : List Host.Cell) (a : Nat) (b : Byte) (x : Nat) :
    memGet base (memSet base m a b) x = if x = a then b else memGet base m x := by
  unfold memSet
  split
  · rename_i h; rw [memGet_filter_ne, h]
  · exact memGet_memInsert base m a b x

/-- A byte that a write of several does not name is as before. -/
theorem memGet_memWrite_ne (base : Nat → Byte) (cs : List (Nat × Byte)) (m : List Host.Cell) (x : Nat)
    (h : x ∉ cs.map Prod.fst) : memGet base (memWrite base m cs) x = memGet base m x := by
  induction cs generalizing m with
  | nil => rfl
  | cons c cs ih =>
    simp only [List.map_cons, List.mem_cons, not_or] at h
    show memGet base (memWrite base (memSet base m c.1 c.2) cs) x = _
    rw [ih _ h.2, memGet_memSet, if_neg h.1]

/-- A byte that a write of several names, each key once, reads as the value written. -/
theorem memGet_memWrite_mem (base : Nat → Byte) (cs : List (Nat × Byte)) (m : List Host.Cell) (x : Nat) (b : Byte)
    (hn : (cs.map Prod.fst).Nodup) (h : (x, b) ∈ cs) : memGet base (memWrite base m cs) x = b := by
  induction cs generalizing m with
  | nil => simp at h
  | cons c cs ih =>
    simp only [List.map_cons, List.nodup_cons] at hn
    show memGet base (memWrite base (memSet base m c.1 c.2) cs) x = b
    rcases List.mem_cons.mp h with e | h
    · subst e
      rw [memGet_memWrite_ne _ _ _ _ hn.1, memGet_memSet, if_pos rfl]
    · exact ih _ hn.2 h

/-! ### The canonical form -/

theorem memWf_iff (base : Nat → Byte) (m : List Host.Cell) :
    memWf base m = true ↔ m.Pairwise (fun a b => a.1 < b.1) ∧ ∀ c ∈ m, c.2 ≠ base c.1 := by
  simp [memWf]

theorem mem_memInsert (m : List Host.Cell) (a : Nat) (b : Byte) (c : Host.Cell) :
    c ∈ memInsert m a b → c = (a, b) ∨ c ∈ m := by
  induction m with
  | nil => simp [memInsert]
  | cons p m ih =>
    obtain ⟨k, d⟩ := p
    unfold memInsert
    split
    · simp
    · split
      · simp only [List.mem_cons]; tauto
      · simp only [List.mem_cons]
        rintro (h | h)
        · exact .inr (.inl h)
        · rcases ih h with h | h
          · exact .inl h
          · exact .inr (.inr h)

theorem pairwise_memInsert (m : List Host.Cell) (a : Nat) (b : Byte) (h : m.Pairwise fun a b => a.1 < b.1) :
    (memInsert m a b).Pairwise fun a b => a.1 < b.1 := by
  induction m with
  | nil => simp [memInsert]
  | cons p m ih =>
    obtain ⟨k, d⟩ := p
    rw [List.pairwise_cons] at h
    unfold memInsert
    split
    · rename_i hk
      refine List.pairwise_cons.mpr ⟨fun c hc => ?_, List.pairwise_cons.mpr h⟩
      rcases List.mem_cons.mp hc with e | hc
      · subst e; exact hk
      · exact lt_trans hk (h.1 c hc)
    · split
      · rename_i e; subst e
        exact List.pairwise_cons.mpr h
      · refine List.pairwise_cons.mpr ⟨fun c hc => ?_, ih h.2⟩
        rcases mem_memInsert m a b c hc with e | hc
        · subst e; show k < a; omega
        · exact h.1 c hc

/-- A write of one byte keeps the canonical form. -/
theorem memWf_memSet (base : Nat → Byte) (m : List Host.Cell) (a : Nat) (b : Byte) (h : memWf base m = true) :
    memWf base (memSet base m a b) = true := by
  rw [memWf_iff] at h ⊢
  unfold memSet
  split
  · exact ⟨h.1.filter _, fun c hc => h.2 c (List.mem_of_mem_filter hc)⟩
  · rename_i hb
    refine ⟨pairwise_memInsert m a b h.1, fun c hc => ?_⟩
    rcases mem_memInsert m a b c hc with e | hc
    · subst e; exact hb
    · exact h.2 c hc

/-- A write of several bytes keeps the canonical form. -/
theorem memWf_memWrite (base : Nat → Byte) (cs : List (Nat × Byte)) (m : List Host.Cell) (h : memWf base m = true) :
    memWf base (memWrite base m cs) = true := by
  induction cs generalizing m with
  | nil => exact h
  | cons c cs ih => exact ih _ (memWf_memSet base m c.1 c.2 h)

/-- The write of an agent keeps the canonical form. -/
theorem State.wf_writeCells (s : State) (ag : Agent) (cs : List (Nat × Byte)) (h : s.wf = true) :
    (s.writeCells ag cs).wf = true := by
  unfold State.writeCells
  split
  · exact h
  · exact memWf_memWrite s.base cs s.mem h

/-- A write that no agent can see half done keeps the canonical form. -/
theorem State.wf_setCells (s : State) (cs : List (Nat × Byte)) (h : s.wf = true) : (s.setCells cs).wf = true :=
  memWf_memWrite s.base cs s.mem h

/-- New contents of some memory are in canonical form, where what an unlisted key reads as changes for those keys alone. -/
theorem State.wf_newContents (s : State) (has : Nat → Bool) (ls : List Lost) (keep : List (Nat × Byte))
    (hb : ∀ k, has k = false → baseOf ls k = baseOf s.lost k) (h : s.wf = true) :
    (s.newContents has ls keep).wf = true := by
  refine memWf_memWrite _ keep _ ?_
  have h' : memWf s.base s.mem = true := h
  rw [memWf_iff] at h' ⊢
  refine ⟨h'.1.filter _, fun c hc => ?_⟩
  rw [List.mem_filter] at hc
  show c.2 ≠ baseOf ls c.1
  rw [hb c.1 (by simpa using hc.2)]
  exact h'.2 c hc.1

/-- Memory that one more reset has left undefined is in canonical form. -/
theorem State.wf_newContents_lost (s : State) (l : Lost) (keep : List (Nat × Byte)) (h : s.wf = true) :
    (s.newContents l.has (l :: s.lost) keep).wf = true :=
  s.wf_newContents l.has _ keep (fun k hk => by simp [baseOf, hk]) h

/-! ### What a write changes -/

@[simp] theorem State.lost_writeCells (s : State) (ag : Agent) (cs : List (Nat × Byte)) :
    (s.writeCells ag cs).lost = s.lost := by unfold State.writeCells; split <;> rfl

/-- Nothing that a write does not name changes in its newest value. -/
theorem State.byte_writeCells_ne (s : State) (ag : Agent) (cs : List (Nat × Byte)) (a : Nat) (h : a ∉ cs.map Prod.fst) :
    (s.writeCells ag cs).byte a = s.byte a := by
  unfold State.writeCells
  split
  · rfl
  · exact memGet_memWrite_ne s.base cs s.mem a h

/-- What a write names reads as written, in its newest value. -/
theorem State.byte_writeCells_mem (s : State) (ag : Agent) (cs : List (Nat × Byte)) (a : Nat) (b : Byte)
    (hn : (cs.map Prod.fst).Nodup) (h : (a, b) ∈ cs) : (s.writeCells ag cs).byte a = b := by
  unfold State.writeCells
  split
  · rename_i e; simp only [List.isEmpty_iff] at e; subst e; simp at h
  · exact memGet_memWrite_mem s.base cs s.mem a b hn h

/-- Two states with the same memory have the same bytes. -/
theorem sameBytes_of_mem {s t : State} (hm : t.mem = s.mem) (hl : t.lost = s.lost) : SameBytes s t := fun a => by
  simp only [State.byte, State.base, hm, hl]

end Sys2Proof.Machine
end

