-- ==== Sys2Proof/Laws/Ops.lean ====
section
/-!
SUPPORT. What the shared operations can do: the operations on messages and queues, taking a trap and ending an activation leave
memory, the engines and the fields as they were; a fence changes its slot and the counter of identities alone; jumps and branches are a change
of the slot or a trap.
-/
namespace Sys2Proof.Machine

/-- Two states agree outside the cores, the network, the hidden writes, the reservations, the controller and the message counter. -/
structure Keeps (s t : State) : Prop where
  cur : t.cur = s.cur
  clusters : t.clusters = s.clusters
  rings : t.rings = s.rings
  fields : t.fields = s.fields
  parts : t.parts = s.parts
  queues : t.queues = s.queues
  mem : t.mem = s.mem
  lost : t.lost = s.lost
  bad : t.bad = s.bad
  reports : t.reports = s.reports
  insts : t.insts = s.insts
  loads : t.loads = s.loads
  copies : t.copies = s.copies
  hot : t.hot = s.hot
  saved : t.saved = s.saved
  sched : t.sched = s.sched
  turn : t.turn = s.turn
  free : t.free = s.free

theorem Keeps.refl (s : State) : Keeps s s :=
  ⟨rfl, rfl, rfl, rfl, rfl, rfl, rfl, rfl, rfl, rfl, rfl, rfl, rfl, rfl, rfl, rfl, rfl, rfl⟩

theorem Keeps.trans {s t u : State} (h : Keeps s t) (k : Keeps t u) : Keeps s u :=
  ⟨k.1.trans h.1, k.2.trans h.2, k.3.trans h.3, k.4.trans h.4, k.5.trans h.5, k.6.trans h.6, k.7.trans h.7, k.8.trans h.8,
    k.9.trans h.9, k.10.trans h.10, k.11.trans h.11, k.12.trans h.12, k.13.trans h.13, k.14.trans h.14, k.15.trans h.15,
    k.16.trans h.16, k.17.trans h.17, k.18.trans h.18⟩

/-- States that agree on memory have memory in canonical form alike. -/
theorem State.wf_of_mem {s t : State} (hm : t.mem = s.mem) (hl : t.lost = s.lost) : t.wf = s.wf := by
  unfold State.wf State.base
  rw [hm, hl]

theorem Keeps.wf {s t : State} (h : Keeps s t) : t.wf = s.wf := State.wf_of_mem h.mem h.lost

/-- A byte reads the same. -/
theorem Keeps.byte {s t : State} (h : Keeps s t) (a : Nat) : t.byte a = s.byte a := by
  unfold State.byte State.base
  rw [h.mem, h.lost]

/-! ### Messages and queues -/

theorem State.keeps_modCore (s : State) (c : Nat) (f : CoreSt → CoreSt) : Keeps s (s.modCore c f) :=
  ⟨rfl, rfl, rfl, rfl, rfl, rfl, rfl, rfl, rfl, rfl, rfl, rfl, rfl, rfl, rfl, rfl, rfl, rfl⟩

theorem State.keeps_modSlotOf (s : State) (c : Nat) (k : Fin 4) (f : Slot → Slot) : Keeps s (s.modSlotOf c k f) :=
  s.keeps_modCore c _

theorem State.keeps_modChan (s : State) (c ch : Nat) (f : Chan → Chan) : Keeps s (s.modChan c ch f) :=
  s.keeps_modCore c _

theorem State.keeps_post (s : State) (src : Src) (e : Bool) (b : Body) : Keeps s (s.post src e b) :=
  ⟨rfl, rfl, rfl, rfl, rfl, rfl, rfl, rfl, rfl, rfl, rfl, rfl, rfl, rfl, rfl, rfl, rfl, rfl⟩

theorem State.keeps_tell (s : State) (r : Report) : Keeps s (s.tell r) :=
  ⟨rfl, rfl, rfl, rfl, rfl, rfl, rfl, rfl, rfl, rfl, rfl, rfl, rfl, rfl, rfl, rfl, rfl, rfl⟩

theorem State.keeps_queueOut (s : State) (c : Nat) (b : Body) : Keeps s (s.queueOut c b) := by
  unfold State.queueOut
  split
  · exact (s.keeps_modCore c _).trans (State.keeps_post _ _ _ _)
  · exact ⟨rfl, rfl, rfl, rfl, rfl, rfl, rfl, rfl, rfl, rfl, rfl, rfl, rfl, rfl, rfl, rfl, rfl, rfl⟩

/-- With a free entry a message takes it and leaves at once (R68). -/
theorem State.queueOut_of_room (s : State) (c : Nat) (b : Body) (h : (s.core c).outb.length < 16) :
    s.queueOut c b =
      (s.modCore c fun co => { co with outb := co.outb ++ [s.nextId] }).post (.core c) true b := if_pos h

theorem State.keeps_finishEntry (s : State) (c id : Nat) : Keeps s (s.finishEntry c id) := by
  unfold State.finishEntry
  extract_lets co outb
  split
  · split
    · exact ⟨rfl, rfl, rfl, rfl, rfl, rfl, rfl, rfl, rfl, rfl, rfl, rfl, rfl, rfl, rfl, rfl, rfl, rfl⟩
    · exact s.keeps_modCore c _
  · exact s.keeps_modCore c _

theorem State.keeps_grantRoom (c ch : Nat) : ∀ (n : Nat) (s : State), Keeps s (s.grantRoom c ch n)
  | 0, s => Keeps.refl s
  | n + 1, s => by
    unfold State.grantRoom
    extract_lets q
    split
    · split
      · exact ((s.keeps_modChan c ch _).trans (State.keeps_post _ _ _ _)).trans (State.keeps_grantRoom c ch n _)
      · exact Keeps.refl s
    · exact Keeps.refl s

/-- A fold of changes that keep keeps. -/
theorem keeps_foldl {α : Type} (f : State → α → State) (h : ∀ s a, Keeps s (f s a)) :
    ∀ (l : List α) (s : State), Keeps s (l.foldl f s)
  | [], s => Keeps.refl s
  | a :: l, s => (h s a).trans (keeps_foldl f h l (f s a))

theorem State.keeps_releaseEntries (s : State) (c k : Nat) : Keeps s (s.releaseEntries c k) := by
  refine keeps_foldl _ (fun s ch => ?_) _ s
  split
  · exact (s.keeps_modChan c ch _).trans (State.keeps_grantRoom c ch _ _)
  · exact Keeps.refl s

theorem State.keeps_unbusy (s : State) (c : Nat) (ch : Option Nat) : Keeps s (s.unbusy c ch) := by
  cases ch with
  | none => exact Keeps.refl s
  | some ch => exact s.keeps_modChan c ch fun q => { q with busy := false }

theorem State.keeps_disown (s : State) (c k : Nat) : Keeps s (s.disown c k) :=
  ⟨rfl, rfl, rfl, rfl, rfl, rfl, rfl, rfl, rfl, rfl, rfl, rfl, rfl, rfl, rfl, rfl, rfl, rfl⟩

theorem State.keeps_clearResv (s : State) (c : Nat) (k : Fin 4) : Keeps s (s.clearResv c k) :=
  ⟨rfl, rfl, rfl, rfl, rfl, rfl, rfl, rfl, rfl, rfl, rfl, rfl, rfl, rfl, rfl, rfl, rfl, rfl⟩

theorem State.keeps_withdraw (s : State) (c : Nat) (k : Fin 4) : Keeps s (s.withdraw c k) := s.keeps_modCore c _

/-! ### Traps and the end of an activation -/

/-- A trap changes cores, messages, reservations and the controller's reports only (R65). -/
theorem State.keeps_trapAt (s : State) (c : Nat) (k : Fin 4) (cause : Nat) (value : Word) : Keeps s (s.trapAt c k cause value) := by
  unfold State.trapAt
  extract_lets sl words s₁ s₂ s₃ s₄ s₅
  have h₁ : Keeps s s₁ := keeps_foldl _ (fun s (t : Nat × BitVec 32) => s.keeps_modChan c t.1 fun q => q.toHead t.2) _ s
  have h₂ : Keeps s s₂ := by
    show Keeps s (match sl.first with | some f => _ | none => s)
    split
    · split
      · exact h₁
      · split
        · exact h₁.trans ((s₁.keeps_modChan c _ _).trans (State.keeps_modChan _ _ _ _))
        · exact h₁.trans (State.keeps_modChan _ _ _ _)
    · exact Keeps.refl s
  have h₃ : Keeps s₂ s₃ := ((s₂.keeps_unbusy c _).trans (State.keeps_releaseEntries _ _ _)).trans (State.keeps_disown _ _ _)
  have h₄ : Keeps s₃ s₄ := ((s₃.keeps_modSlotOf c k _).trans (State.keeps_clearResv _ _ _)).trans (State.keeps_withdraw _ _ _)
  have h₅ : Keeps s₄ s₅ := by
    show Keeps s₄ (match sl.task with | some t => _ | none => s₄)
    split
    · exact s₄.keeps_post _ _ _
    · exact Keeps.refl s₄
  have h := ((h₂.trans h₃).trans h₄).trans h₅
  split
  · exact h.trans (s₅.keeps_tell _)
  · exact h.trans (s₅.keeps_queueOut _ _)

/-- A slot that takes the pc of its oldest instruction changes nothing but itself. -/
theorem State.keeps_rejoin (s : State) (c : Nat) (k : Fin 4) : Keeps s (s.rejoin c k) := by
  unfold State.rejoin
  split
  · exact s.keeps_modSlotOf c k _
  · exact Keeps.refl s

/-- With nothing behind it stays as it is. -/
theorem State.rejoin_none (s : State) (c : Nat) (k : Fin 4) (h : (s.slotOf c k).behind = none) : s.rejoin c k = s := by
  simp [State.rejoin, h]

theorem State.keeps_trap (s : State) (cause : Nat) (value : Word) : Keeps s (s.trap cause value) := s.keeps_trapAt _ _ _ _

/-! ### Jumps and fences -/

/-- A jump goes to an aligned target, with its link, or traps with MISFETCH (R5). -/
theorem State.jump_cases (s : State) (rd : Reg) (target : Word) :
    (target.extractLsb' 0 2 = 0 ∧ OnlySlot s (s.jump rd target) { s.slot.wx rd ((s.slot.pc + 4).setWidth 64) with
      pc := target.setWidth 48, instret := s.slot.instret + 1 }) ∨
    (target.extractLsb' 0 2 ≠ 0 ∧ s.jump rd target = s.trap causeMisfetch target) := by
  unfold State.jump
  by_cases h : target.extractLsb' 0 2 = 0
  · rw [if_pos h]
    exact .inl ⟨h, s.onlySlot_modSlot _⟩
  · rw [if_neg h]
    exact .inr ⟨h, rfl⟩

/-- A branch jumps or goes on to the next instruction (R78). -/
theorem State.branch_cases (s : State) (taken : Bool) (off : BitVec 12) :
    (taken = true ∧ s.branch taken off = s.jump 0 (s.slot.pcW + (off ++ 0#1).signExtend 64)) ∨
    (taken = false ∧ s.branch taken off = s.retire) := by
  cases taken
  · exact .inr ⟨rfl, rfl⟩
  · exact .inl ⟨rfl, rfl⟩

/-- A write that becomes visible changes who sees it, and nothing else (R129). -/
theorem State.perform_hidden (s : State) (ids : List Nat) (v : View) : { s.perform ids v with hidden := s.hidden } = s := by
  unfold State.perform
  split <;> rfl

/-- What a read has returned is noted with the hidden writes, and nowhere else (R131). -/
theorem State.noteSpan_hidden (s : State) (ag : Agent) (keys ids : List Nat) : { s.noteSpan ag keys ids with hidden := s.hidden } = s := by
  unfold State.noteSpan
  cases ag <;> rfl

/-- Whose job made a write is noted with the hidden writes, and nowhere else (R153, R154). -/
theorem State.ofJob_hidden (t s : State) (c cls : Nat) (id : BitVec 16) : { t.ofJob s c cls id with hidden := t.hidden } = t := rfl

/-- The arbiters that begin their passes anew are all that changes where no unit is left for them (R146). -/
theorem State.restArbs_clusters (s : State) : { s.restArbs with clusters := s.clusters } = s := by
  have hm : ∀ (t : State) (cl : Nat), { t.restMat cl with clusters := s.clusters } = { t with clusters := s.clusters } := by
    intro t cl; unfold State.restMat; split <;> rfl
  have hc : ∀ (t : State) (cl : Nat), { t.restCopy cl with clusters := s.clusters } = { t with clusters := s.clusters } := by
    intro t cl; unfold State.restCopy; split <;> rfl
  have h : ∀ (l : List Nat) (t : State), { l.foldl (fun s cl => (s.restMat cl).restCopy cl) t with clusters := s.clusters } =
      { t with clusters := s.clusters } := by
    intro l
    induction l with
    | nil => intro t; rfl
    | cons a l ih => intro t; exact (ih _).trans ((hc _ a).trans (hm t a))
  exact h _ s

theorem State.perform_mem (s : State) (ids : List Nat) (v : View) : (s.perform ids v).mem = s.mem := by
  have h := congrArg (fun u : State => u.mem) (s.perform_hidden ids v)
  exact h

theorem State.perform_lost (s : State) (ids : List Nat) (v : View) : (s.perform ids v).lost = s.lost := by
  have h := congrArg (fun u : State => u.lost) (s.perform_hidden ids v)
  exact h

theorem State.performSlot_hidden (s : State) (reads writes : Bool) (v : View) :
    { s.performSlot reads writes v with hidden := s.hidden } = s := by
  have h : ∀ (t : State) (ids : List Nat), { t with hidden := s.hidden } = s → { t.perform ids v with hidden := s.hidden } = s := by
    intro t ids ht
    refine Eq.trans ?_ ht
    exact congrArg (fun u : State => { u with hidden := s.hidden }) (t.perform_hidden ids v)
  unfold State.performSlot
  cases reads <;> cases writes <;> simp only [Bool.false_eq_true, if_true, if_false]
  · exact h s _ rfl
  · exact h s _ rfl
  · exact h _ _ (h s _ rfl)

/-- What a fence owes stands in its slot: nothing but the slots and the counter of identities changes. -/
theorem State.owe_rest (s : State) (o : Owed) : { s.owe o with cores := s.cores, nextId := s.nextId } = s := by
  unfold State.owe
  cases o.later.reads && !s.slot.early.isEmpty <;> cases o.clear <;> rfl

/-- A fence that owes nothing, where no read has come early, changes nothing. -/
theorem State.owe_clear (s : State) (o : Owed) (h : o.clear = true) (he : s.slot.early = []) : s.owe o = s := by
  simp [State.owe, h, he]

/-- A fence waits for its messages to peers, or retires and owes its ordering (R134). -/
theorem State.fence_cases (s : State) (sc : Scope) (reads writes qr qw : Bool) :
    s.fence sc reads writes qr qw = s ∨
    s.fence sc reads writes qr qw = (s.owe (s.fenceOwed sc reads writes qr qw)).retire := by
  unfold State.fence
  split
  · exact .inl rfl
  · exact .inr rfl

/-- A fence changes its slot and the counter of identities alone (R134). -/
theorem State.fence_rest (s : State) (sc : Scope) (reads writes qr qw : Bool) :
    { s.fence sc reads writes qr qw with cores := s.cores, nextId := s.nextId } = s := by
  obtain h | h := s.fence_cases sc reads writes qr qw
  · rw [h]
  · rw [h]
    exact s.owe_rest _

theorem State.wf_fence (s : State) (sc : Scope) (reads writes qr qw : Bool) : (s.fence sc reads writes qr qw).wf = s.wf := by
  have h := s.fence_rest sc reads writes qr qw
  have hm := congrArg (fun u : State => u.mem) h
  have hl := congrArg (fun u : State => u.lost) h
  exact State.wf_of_mem hm hl

/-- Errors that are met change the errors that stand and the reports of the controller alone. -/
theorem State.meetBads_rest (l : List BadGranule) : ∀ s : State, { l.foldl State.meetBad s with bad := s.bad, ctl := s.ctl } = s := by
  induction l with
  | nil => exact fun _ => rfl
  | cons b l h => exact fun s => congrArg (fun u : State => { u with bad := s.bad, ctl := s.ctl }) (h (s.meetBad b))

theorem State.meetParts_rest (s : State) (ag : Agent) (cells : List (Nat × Byte)) :
    { s.meetParts ag cells with bad := s.bad, ctl := s.ctl } = s := State.meetBads_rest _ s

theorem State.meetAll_rest (s : State) (ag : Agent) (keys : List Nat) : { s.meetAll ag keys with bad := s.bad, ctl := s.ctl } = s :=
  State.meetBads_rest _ s

theorem State.clearBads_bad (s : State) (has : Nat → Bool) : { s.clearBads has with bad := s.bad } = s := rfl

/-- A result that is answered is written to its register, whose error it clears, and the instruction that waited for it retires. -/
theorem Slot.answered_frame (sl : Slot) (rd : Reg) (v : Word) :
    { sl.answered rd v with x := sl.x, pc := sl.pc, instret := sl.instret, wait := sl.wait, flow := sl.flow, bad := sl.bad } = sl := by
  unfold Slot.answered Slot.wx
  split <;> rfl

theorem State.keeps_setCmd (s : State) (c k : Nat) (m : Cmd) : Keeps s (s.setCmd c k m) := by
  unfold State.setCmd State.modClassQ; exact s.keeps_modCore c _

theorem State.keeps_moveResv (s : State) (src dst n : Nat) : Keeps s (s.moveResv src dst n) :=
  ⟨rfl, rfl, rfl, rfl, rfl, rfl, rfl, rfl, rfl, rfl, rfl, rfl, rfl, rfl, rfl, rfl, rfl, rfl⟩

/-- What the Reeve of a field has left to do is all that `takeTodo` changes. -/
theorem State.takeTodo_rest (s : State) (f : Nat) : { s.takeTodo f with fields := s.fields } = s := by
  unfold State.takeTodo; split <;> rfl

/-- A Reeve that has nothing left to do takes up nothing. -/
theorem State.takeTodo_none (s : State) (f : Nat) (h : (s.field f).todo = none) : s.takeTodo f = s := by
  simp [State.takeTodo, h]

end Sys2Proof.Machine
end

