-- ==== Sys2Proof/Laws/Pages.lean ====
section
/-!
SUPPORT. The laws of page-table entries and page tables: an entry gives back the leaf that it holds, and a new table is tidy.
-/
namespace Sys2Proof.Machine

/-! ### Entries (Table 19-5) -/

theorem wordOfLeaf_state (l : Leaf) : (wordOfLeaf l).extractLsb' 62 2 = BitVec.ofNat 2 (stateCode l.state) := by
  apply BitVec.eq_of_getLsbD_eq
  intro i hi
  simp only [wordOfLeaf, BitVec.getLsbD_extractLsb', BitVec.getLsbD_append, hi, decide_true, Bool.true_and]
  repeat rw [if_neg (by omega)]
  congr 1
  omega

theorem wordOfLeaf_tier (l : Leaf) : (wordOfLeaf l).extractLsb' 60 2 = BitVec.ofNat 2 (tierCode l.tier) := by
  apply BitVec.eq_of_getLsbD_eq
  intro i hi
  simp only [wordOfLeaf, BitVec.getLsbD_extractLsb', BitVec.getLsbD_append, hi, decide_true, Bool.true_and]
  repeat rw [if_neg (by omega)]
  rw [if_pos (by omega)]
  congr 1
  omega

theorem wordOfLeaf_home (l : Leaf) : (wordOfLeaf l).extractLsb' 50 10 = BitVec.ofNat 10 l.home := by
  apply BitVec.eq_of_getLsbD_eq
  intro i hi
  simp only [wordOfLeaf, BitVec.getLsbD_extractLsb', BitVec.getLsbD_append, hi, decide_true, Bool.true_and]
  repeat rw [if_neg (by omega)]
  rw [if_pos (by omega)]
  congr 1
  omega

theorem wordOfLeaf_frame (l : Leaf) : (wordOfLeaf l).extractLsb' 14 36 = BitVec.ofNat 36 (if l.big then l.frame - l.frame % 32 else l.frame) := by
  apply BitVec.eq_of_getLsbD_eq
  intro i hi
  simp only [wordOfLeaf, BitVec.getLsbD_extractLsb', BitVec.getLsbD_append, hi, decide_true, Bool.true_and]
  repeat rw [if_neg (by omega)]
  rw [if_pos (by omega)]
  congr 1
  omega

theorem wordOfLeaf_big (l : Leaf) : (wordOfLeaf l).getLsbD 5 = l.big := by
  simp only [wordOfLeaf, BitVec.getLsbD_append]
  simp

theorem wordOfLeaf_x (l : Leaf) : (wordOfLeaf l).getLsbD 4 = l.x := by
  simp only [wordOfLeaf, BitVec.getLsbD_append]
  simp

theorem wordOfLeaf_w (l : Leaf) : (wordOfLeaf l).getLsbD 3 = l.w := by
  simp only [wordOfLeaf, BitVec.getLsbD_append]
  simp

theorem wordOfLeaf_r (l : Leaf) : (wordOfLeaf l).getLsbD 2 = l.r := by
  simp only [wordOfLeaf, BitVec.getLsbD_append]
  simp


/-- A leaf's entry is no pointer, and a pointer is one. -/
theorem isPointer_wordOfLeaf (l : Leaf) : isPointer (wordOfLeaf l) = false := by
  simp only [isPointer, wordOfLeaf, BitVec.getLsbD_append]
  simp
theorem isPointer_zero : isPointer 0 = false := rfl
theorem isPointer_pointerTo (a : Nat) : isPointer (pointerTo a) = true := by
  simp only [isPointer, pointerTo, BitVec.getLsbD_ofNat, Nat.testBit_zero]
  simp only [Nat.zero_lt_succ, decide_true, Bool.true_and, decide_eq_true_eq]
  omega

/-- An entry gives back a leaf that fits it, unless it is zero and the leaf not lost. -/
theorem leafOfWord_wordOfLeaf (l : Leaf) (fits : leafFits l = true) (big : l.big = true → l.frame % 32 = 0)
    (nz : wordOfLeaf l ≠ 0 ∨ l.lost = true) : leafOfWord (wordOfLeaf l) l.lost = some l := by
  obtain ⟨state, tier, home, frame, b, x, w, r, lost⟩ := l
  simp only [leafFits, Bool.and_eq_true, decide_eq_true_eq] at fits
  have hf : (if b then frame - frame % 32 else frame) = frame := by
    cases b
    · rfl
    · have := big rfl
      simp [this]
  unfold leafOfWord
  rw [if_neg (by rintro ⟨h, k⟩; rcases nz with n | n; exacts [n h, by simp_all])]
  simp only [wordOfLeaf_state, wordOfLeaf_tier, wordOfLeaf_home, wordOfLeaf_frame, wordOfLeaf_big, wordOfLeaf_x, wordOfLeaf_w,
    wordOfLeaf_r, hf, BitVec.toNat_ofNat, Nat.mod_eq_of_lt fits.1, Nat.mod_eq_of_lt fits.2]
  cases state <;> cases tier <;> rfl

/-! ### Page tables -/

theorem leafOf_new (root pn : Nat) : leafOf (.new root) pn = none := by
  simp [leafOf, PageTable.entry1, PageTable.new, AMap.getD, AMap.get?, isPointer]

/-- A table to which nothing has been mapped is tidy. -/
theorem tidyTable_new (root : Nat) : TidyTable (.new root) where
  level2 := fun _ h => absurd rfl h
  level3 := fun _ h => absurd rfl h
  level4 := fun _ h => absurd rfl h
  lost := fun _ h => absurd h List.not_mem_nil
  big := fun _ _ h => absurd h (by simp [leafOf_new])

end Sys2Proof.Machine
end

