-- ==== Sys2Proof/Tests/Slice0.lean ====
section
/-!
SUPPORT. The tests: each limit of WellFormed refuses an ill-formed term; words written out from the encodings of the spec decode to their
instructions; small steps with results from the worked examples and tables of the spec; and, for each statement with hypotheses, a
concrete state and operands that meet them.
-/
namespace Sys2Proof.Tests
open Sys2Proof Sys2Proof.Machine

-- One kernel evaluation after another: side by side they take too much memory.
set_option Elab.async false


/-! ### States for the tests -/

/-- A module with one partition, field 0, whose core 0 runs in slot 0 with cycles left. -/
def st : State := { State.reset.placeWord 0x00500093 with sched := [] }

/-- `st` with its slot changed. -/
def on (f : Slot → Slot) : State := st.modSlot f

/-- `st` with some x registers written. -/
def regs (l : List (Reg × Word)) : State := on fun sl => l.foldl (fun sl p => sl.wx p.1 p.2) sl

/-- Addresses at the end of TCM, an odd one, and one above 48 bits. -/
def stEnds : State := regs [(1, 0xFFFF), (2, 0xFFFE), (3, 0xFFFC), (4, 0xFFF8), (5, 7), (6, 0x1000000000000)]

/-- An activation of channel 3, started by a message and a pending bit. -/
def stRun : State :=
  (on fun sl => { sl with chan := some 3, first := some 3, trigger := some 7, pending := true }).modChan 0 3 fun q =>
    { q with en := true, busy := true, queue := [⟨7, 0x100, [1, 2], none, some 0⟩] }

/-- A handler record for the tests. -/
def hr : HandlerRec :=
  { rel := true, qdecl := 2, pc := 0x100, budget := 1000, baydem := 1, regdem := 2, ports := .none, compat := false }

/-- `st` with channel 5 of core 0 bound. -/
def stBound : State := st.modChan 0 5 fun q => { q with hrec := some hr, en := true }

/-- A message for a channel of core 0, from core 1. -/
def msgTo (ch : Nat) : Msg := ⟨9, .core 1, true, false, .chan 0 ch 0x100 [1, 2] none⟩

/-- A state with a message under way. -/
def sending (s : State) (m : Msg) : State := { s with net := [m], nextId := 20 }

/-- The operands are ready. -/
def goes : VReady → Bool
  | .go .. => true
  | .stop _ => false

theorem goes_spec {r : VReady} (h : goes r = true) : ∃ x y sl, r = .go x y sl := by
  cases r with
  | go x y sl => exact ⟨x, y, sl, rfl⟩
  | stop t => exact absurd h (by simp [goes])

/-- `st` with four vector registers in use, and one entry in each port. -/
def stVec : State := on fun sl =>
  { sl with
    regdem := 4, ports := ⟨2, 2, 2, 2⟩, lq := [5], sq := [6], bq := [7], aq := [8]
    x := ((sl.x.set 1 0xFFE0).set 2 4).set 3 0xFFE1, p := sl.p.set 1 0xF00F000F, v := sl.v.set 1 0x0003000200010000 }

/-- `stVec` with a prefix pending. -/
def stFmt (h : Held) : State := stVec.modSlot fun sl => { sl with pfx := some h }

/-- A command word of a class and an opcode without a target, with some fields, by lowest bit and value. -/
def cw (cls op : Nat) (fs : List (Nat × Nat)) : Vec :=
  BitVec.ofNat 256 (op + cls * 256 + 0xFFFFFFFF * 2 ^ 16 + (fs.map fun f => f.2 * 2 ^ f.1).sum)

/-- A queued command of job 0. -/
def cmdOf (w : Vec) : Cmd := ⟨w, 0, List.replicate 4 0x02021002, some 0x40400, none, [], false, false, none, none⟩

/-- A job with a number of commands left. -/
def jobOf (left : Nat) (targets : List (BitVec 32)) : Job := ⟨0, true, 1, left, targets, none, false, false, false, [], []⟩

/-- A state in which a class of core 0 holds commands of job 0. -/
def queued (s : State) (cls : Nat) (ws : List Vec) : State :=
  s.modClassQ 0 cls fun q => { q with nextid := 1, queue := ws.map cmdOf, jobs := [jobOf ws.length []] }

/-- The number of what an arbiter picks. -/
def picked (p : Option (Nat × Arb)) : Option Nat := p.map Prod.fst

theorem picked_spec {p : Option (Nat × Arb)} {r : Nat} (h : picked p = some r) : ∃ a, p = some (r, a) := by
  cases p with
  | none => simp [picked] at h
  | some x => exact ⟨x.2, by simp [picked] at h; simp [← h]⟩

/-- `st` with a vector in v1. -/
def vecSt (w : Vec) : State := on fun sl => { sl with regdem := 4, v := sl.v.set 1 w }

/-- Copies of four kinds, and one from a page that is not present. -/
def copyWords : List Vec :=
  [cw 2 0x20 [(64, 0x1000000), (112, 4), (128, 0x1000100)],
    cw 2 0x22 [(64, 0x1000000), (112, 4), (128, 0x1000100), (176, 2), (192, 8), (224, 4)],
    cw 2 0x23 [(64, 0x1000000), (112, 2), (128, 0x1000100), (176, 2), (192, 8), (224, 8)],
    cw 2 0x21 [(64, 0x1000000), (112, 2), (128, 0x1000100), (192, 0x1000200)]]
def copyPage : Vec := cw 2 0x20 [(64, 0x100000000), (112, 4), (128, 0x1000000)]

/-- What a copy does next is some moves, is a page fault, and is an error met. -/
def goesOn : Plan → Bool
  | .go _ => true
  | _ => false
def pageFaults : Plan → Bool
  | .page .. => true
  | _ => false
def meetsBad : Plan → Bool
  | .bad _ => true
  | _ => false

/-- A tile of 2 × 2 FP32 elements, and a ring with one tile of each family at station 3 and a table of one open entry that names them. -/
def tileOf (tag : BitVec 8) : Tile := ⟨List.replicate 16 0, tag, 0x00010202, 0x1000000, 0, []⟩
def ringOf (typ : Nat) (pass : Option Pass) : RingSt :=
  { RingSt.reset with
    sheaf := RingSt.reset.sheaf.set 3 (some (tileOf 1)), swath := RingSt.reset.swath.set 3 (some (tileOf 2))
    tbl := true, tblAddr := 0x1001000, entries := [⟨BitVec.ofNat 64 (1 + 2 * 256 + typ * 2 ^ 24), true⟩], pass := pass }
def passOf (phase : RingPhase) : Pass :=
  ⟨0, 0, none, 0, 1024, 4, noTarget, none, 0, 0, 0, phase, false, 0, [], [], [], none, false, [], false, false⟩

/-- The ring of supergroup 0 with a command of core 0 in its queue. -/
def ringSt (r : RingSt) (w : Vec) : State := (queued st 3 [w]).modRing 0 fun _ => r

/-- Memory that holds an area at the start of the bay. -/
def areaSt (r : RingSt) (p : Option Pass) (w : Vec) : State :=
  (ringSt RingSt.reset w).setCells (cellsAt (bayKey 0 0x1000000) (saveArea r p))
def areaBytes (s : State) : List Byte := (List.range 640).map fun i => s.readByte (.ring 0) (bayKey 0 0x1000000 + i)

/-- A command is the next one of an idle ring, and passes the common checks. -/
def ringTakes (s : State) (w : Vec) : Bool := ringNext s 0 == some (0, cmdOf w) && commonCheck s 0 w == none && s.bad.isEmpty && !(s.classQ 0 3).due


/-- No team stands at a cluster, and no word waits in a class of a core. -/
def calm (s : State) : Bool :=
  (s.clusters.all fun p => p.2.teams.isEmpty && p.2.pool.isEmpty) &&
    s.cores.all fun p => p.2.jobs.toList.all fun q => q.waiting.isEmpty && q.jobs.all fun j => !j.doomed

theorem get?_all {α : Type} {f : α → Bool} {n : Nat} {v : α} :
    ∀ {m : AMap α}, (m.all fun p => f p.2) = true → m.get? n = some v → f v = true
  | [], _, h => by simp [AMap.get?] at h
  | (k, w) :: m, hm, h => by
    simp only [List.all_cons, Bool.and_eq_true] at hm
    unfold AMap.get? at h
    split at h
    · injection h with h; exact h ▸ hm.1
    · exact get?_all hm.2 h

theorem getD_all {α : Type} {f : α → Bool} {d : α} (hd : f d = true) {m : AMap α} (hm : (m.all fun p => f p.2) = true) (n : Nat) :
    f (m.getD n d) = true := by
  unfold AMap.getD
  cases h : m.get? n with
  | none => exact hd
  | some v => exact get?_all hm h

theorem calm_spec {s : State} (h : calm s = true) :
    (∀ cl, (s.cluster cl).teams = []) ∧ (∀ cl, (s.cluster cl).pool = []) ∧
    ∀ c k, (s.classQ c k).waiting = [] ∧ ∀ j ∈ (s.classQ c k).jobs, j.doomed = false := by
  simp only [calm, Bool.and_eq_true] at h
  have hc := getD_all (f := fun p : ClusterSt => p.teams.isEmpty && p.pool.isEmpty) (d := ClusterSt.reset) (by decide +kernel) h.1
  have hk := getD_all (f := fun p : CoreSt => p.jobs.toList.all fun q => q.waiting.isEmpty && q.jobs.all fun j => !j.doomed)
    (d := CoreSt.reset) (by decide +kernel) h.2
  refine ⟨fun cl => ?_, fun cl => ?_, fun c k => ?_⟩
  · exact List.isEmpty_iff.mp (Bool.and_eq_true _ _ ▸ hc cl).1
  · exact List.isEmpty_iff.mp (Bool.and_eq_true _ _ ▸ hc cl).2
  · have h := List.all_eq_true.mp (hk c) ((s.core c).jobs.get (clsIx k)) (by
      show _ ∈ (s.core c).jobs.toList
      rw [Vector.get, Vector.toList]; exact Array.getElem_mem_toList _)
    simp only [Bool.and_eq_true, List.isEmpty_iff, List.all_eq_true, Bool.not_eq_true'] at h
    exact h

/-- A node of graph 1, and a field that holds some nodes of that graph from slot 16 on. -/
def nodeOf (state : NodeState) (typ pending : Nat) (succs : List (Nat × Nat)) : Node :=
  { graph := 1, idx := 0, typ := typ, commit := false, indir := false, limit := 1, used := 0, wmask := 0, init := 2
    pending := pending, trig := 0, exited := 0, succs := succs, arrived := [], ext := 0
    pay := if typ = 1 then [0xA00, 0, 2, 7] else [0, 0, 0, 0], state := state, count := if state = .running then 2 else 0
    retired := false, surplus := false, trigd := false, job := none, sub := none, staged := false
    order := if state = .faulted then some 4 else none }
def graphOf : Graph := ⟨0, 16, 2, 0x04000040, [], 0, 0, none, none, false⟩
def nodesSt (ns : List (Nat × Node)) : State :=
  stBound.modField 0 fun fs => { fs with nodes := ns, graphs := if ns.isEmpty then [] else [(1, graphOf)] }
def quietSt (s : State) (n : Nat) : Bool :=
  decide (((s.field 0).nodes.map Prod.fst).Pairwise (· < ·)) && (s.graph 0 1).isSome &&
    ((s.field 0).graphs.all fun p => (s.field 0).nodes.any fun q => q.2.graph == p.1) &&
    ((s.field 0).nodes.all fun p => p.1 == n || (p.2.state == .armed && p.2.order == none)) && (s.field 0).todo.isNone && calm s

/-- Memory that holds a graph of one node, of a type and with a count of tokens. -/
def graphSt (typ init : Nat) : State :=
  (nodesSt []).setCells (cellsAt (granKey 0 0x04000000) (bytesOf 8 1 ++ bytesOf 8 0x04000040 ++ bytesOf 48 0 ++ bytesOf 8 (typ * 2 ^ 32) ++
    bytesOf 56 init))

/-- A checked graph. -/
def graphIs (r : Except (Nat × Nat) (Nat × List Node × List (Nat × Nat) × GHdr)) (f : Nat → List Node → Bool) : Bool :=
  match r with
  | .ok (b, us, _, _) => f b us
  | .error _ => false

theorem graphIs_spec {r : Except (Nat × Nat) (Nat × List Node × List (Nat × Nat) × GHdr)} {f : Nat → List Node → Bool}
    (h : graphIs r f = true) : ∃ b us ws h, r = .ok (b, us, ws, h) ∧ f b us = true := by
  cases r with
  | error e => exact absurd h (by simp [graphIs])
  | ok x => exact ⟨x.1, x.2.1, x.2.2.1, x.2.2.2, rfl, h⟩


/-- A core whose loft holds a directory with one layer of key 3 and one group, of some row pairs, and a reward in the core's queue. -/
def dirSt (version count : Nat) : State :=
  let put (s : State) (off : Nat) (bs : List Byte) := s.setCells (cellsAt (dirKey 0 off) bs)
  let s := put (put (put st 0 (bytesOf 4 version ++ [1, 0, 1, 0])) 0x40 (bytesOf 8 5 ++ [3, 1])) 0x140
    (bytesOf 2 7 ++ bytesOf 2 count ++ [0, 0] ++ bytesOf 2 9 ++ bytesOf 4 0 ++ bytesOf 4 0x3F800000 ++ bytesOf 8 4)
  (s.modSlotOf 0 0 fun sl => { sl with live := false }).modCore 0 fun co => { co with rewards := [⟨0x40000000, false, 3, noTarget, 1⟩] }

/-- The group of that directory. -/
def grp (first count : Nat) : SweepGroup := ⟨0, first, count, 0x40000000, 9, 0⟩

/-- The first class 5 command of a state passes its checks and has not joined. -/
def collTakes (s : State) (c : Nat) (w : Vec) : Bool :=
  (s.classQ c 5).queue == [cmdOf w] && joined s c == false && commonCheck s c w == none && collCheck s c (cmdOf w) == none &&
    s.bad.isEmpty && calm s && !(s.classQ c 5).due
def kredOf (dst tag : Nat) : Vec :=
  cw 5 0x50 [(64, 0x1000000), (128, dst), (112, 0), (192, 2), (200, 1), (208, 4), (240, tag)]
def collSt (w : Vec) (ms : List Member) : State := { queued st 5 [w] with insts := if ms.isEmpty then [] else [(7, ⟨0, 3, ms, 0⟩)] }


/-- A page of a partition, and a state whose partition 0 has one at page 0x10000. -/
def leafIn (state : PageState) : Leaf := ⟨state, .silo, 0, 0, false, false, true, true, false⟩
def paged (state : PageState) : State := st.modPart 0 fun q => { q with pages := putLeaf [0x10000, 0x11000, 0x12000] q.pages 0x10000 (leafIn state) }

/-- An image of one text section of zeros and one handler, for channel 3. -/
def imageOf (magic : Nat) : List Byte :=
  bytesOf 4 magic ++ bytesOf 4 2 ++ bytesOf 4 128 ++ bytesOf 20 0 ++ bytesOf 4 128 ++ bytesOf 4 1 ++ bytesOf 4 144 ++ bytesOf 4 1 ++
    bytesOf 80 0 ++ (bytesOf 4 1 ++ bytesOf 4 0 ++ bytesOf 4 8 ++ bytesOf 4 0) ++
    (bytesOf 4 0x10103 ++ bytesOf 4 4 ++ bytesOf 4 100 ++ bytesOf 4 0)

/-- A launch of an image in paged space on core 0. -/
def launchOf (imageVA : Nat) : LaunchReq := ⟨0, imageVA, 160, 0x0001000101010000, 0x800, true⟩
def imageSt (magic : Nat) : State := (paged .present).setCells (cellsAt (Place.silo.key 0) (imageOf magic))
def loadSt (cores : List Nat) : State :=
  { (st.modSlotOf 0 0 fun sl => { sl with live := false }).modCore 0 fun co => { co with loadHold := some 7 } with
    loads := [(7, ⟨launchOf 0x100000000, imageOf 0x31435A4D, cores, cores⟩)] }

/-- A queue of partition 0. -/
def bindTo (t : QTarget) : QBinding := ⟨0, 4, t, 0x1000, 16, 0x2000⟩
def queueSt (t : QTarget) (posts : List (List Byte)) : State :=
  stBound.modQueue 2 fun _ => { QueueSt.reset with bind := some (bindTo t), posts := posts }
def takesPost (t : QTarget) (p : List Byte) : Bool :=
  let s := queueSt t []
  postOk s (bindTo t) p && decide (p.length = 64) && partRuns s 0 && targetTakes s 0 t && (s.queue 2).wasReset == false

/-- A range that an access of the host resolves, and one that it does not. -/
def hostOk (s : State) (write : Bool) (va n : Nat) : Bool :=
  match hostKeys s 0 write va n with
  | some ks => decide (ks.length = n) && decide (realKeys ks).Nodup
  | none => false

theorem hostOk_spec {s : State} {write : Bool} {va n : Nat} (h : hostOk s write va n = true) :
    ∃ ks, hostKeys s 0 write va n = some ks ∧ (realKeys ks).Nodup := by
  unfold hostOk at h
  split at h
  · exact ⟨_, ‹_›, (by simpa using h : _ ∧ _).2⟩
  · simp at h

/-- A message to a static route, and a route table with one entry. -/
def staticOf (core : Nat) : Msg := ⟨9, .core 0, true, false, .static core 5 0xA00 [1] 3⟩
def routed (core : Nat) (entry : Word) : State := sending (st.modPart 0 fun q => { q with routes := [(3, entry)] }) (staticOf core)


/-- A request for a partition of some fields. -/
def reqOf (fields : List Nat) : PartReq := ⟨fields, 0xFFF, true, 0, [], [], [], false, false, false⟩

/-- A guarded partition with W of 100 cycles whose queue 2 holds posts since time 5, at some time of its field. -/
def guardSt (posts : List (List Byte)) (expired : Option Nat) (now : Nat) : State :=
  (((queueSt (.chan 0 5) posts).modQueue 2 fun q => { q with since := 5, expired := expired }).modPart 0 fun q =>
    { q with guarded := true, watchdog := 100 }).modField 0 fun f => { f with time := BitVec.ofNat 64 now }
def guards (s : State) : Bool :=
  (s.queue 2).bind == some (bindTo (.chan 0 5)) && (bindTo (.chan 0 5)).part == 0 &&
    ((s.parts.get? 0).any fun q => q.guarded && q.out == false && q.watchdog == 100)

/-- A context that is switched out, with a loft save area. -/
def ctxOf (bs : List Byte) : Context := ⟨[(0, st.core 0)], [], [], [], [], [], [], [], [], [(0, bs)]⟩
def idleSt : State := st.modSlotOf 0 0 fun sl => { sl with live := false }
def ctxSt (bs : List Byte) : State := { idleSt.modPart 0 fun q => { q with out := true } with saved := [(0, ctxOf bs)] }

/-- A fault of core 0 that the controller holds, at a page of a state of partition 0. -/
def held0 (kind page : Nat) (seen asked : Bool) : HeldFault := ⟨0, 0, false, kind, BitVec.ofNat 64 (page * 0x10000 + 8), seen, asked, false⟩
def faultSt (state : PageState) (ask : Bool) (f : HeldFault) : State :=
  let s := (paged state).modPart 0 fun q => { q with askFaults := ask }
  { s with ctl := { s.ctl with faults := [(4, f)] } }
def holds0 (s : State) (f : HeldFault) : Bool :=
  s.ctl.faults.get? 4 == some f && corePart s f.core == some 0 && (s.parts.get? 0).isSome && decide (sgOf f.core < 1024) &&
    decide (f.slot < 4)

/-- Silo frames are found where no frame of channel 1 is used. -/
theorem someFrames_of {s : State} {l : List Nat} (hu : ∀ f ∈ usedFrames s, f / 49152 ≠ 1) (h : 1 ∈ l) : ∃ x, someFrames s l 1 = some x := by
  rw [← Option.isSome_iff_exists]
  unfold someFrames
  rw [List.findSome?_isSome_iff]
  refine ⟨1, ?_, ?_⟩
  · rwa [List.mem_append, or_comm, ← List.mem_append, List.take_append_drop]
  · rw [List.find?_isSome]
    refine ⟨_, List.mem_map.mpr ⟨0, List.mem_range.mpr (Nat.succ_pos _), rfl⟩, ?_⟩
    simp only [List.all_eq_true, List.mem_range, Nat.lt_one_iff, forall_eq, Bool.not_eq_true', List.contains_eq_mem,
      decide_eq_false_iff_not, chanFrames]
    intro hm
    have := hu _ hm
    omega

/-- A state whose one page is discarded and stands on a channel that is retired. -/
def retiredSt : State :=
  let s := paged .discarded
  { s with ctl := { s.ctl with silo := s.ctl.silo.put 0 .retired }, free := s.free + 2 ^ 40 }

theorem someFrames_found :
    (∃ x, someFrames (paged .moving) ((List.range 512).filter fun c => chanState (paged .moving) c == .full) 1 = some x) ∧
    ∃ x, someFrames retiredSt ((List.range 512).filter fun c => chanState retiredSt c == .full) 1 = some x :=
  ⟨someFrames_of (by decide +kernel) (by decide +kernel), someFrames_of (by decide +kernel) (by decide +kernel)⟩

/-! ### The limits of the operands -/

/-- Unlisted and read-only CSR numbers, counts past the register file, empty sets, scopes, classes, formats, and the word of `fence.tso`. -/
theorem test_wf_refuses_scalar : ([
    .fence 8 3 3 1 1, .csrrw 1 0x806 1, .csrrw 1 0xC01 1, .csrrs 1 0xC03 0, .csrrs 1 0xC01 1, .csrrc 1 0xC03 0, .csrrc 1 0xC01 1,
      .csrrwi 1 0x806 1, .csrrwi 1 0xC01 1, .csrrsi 1 0xC03 0, .csrrsi 1 0xC01 1, .csrrci 1 0xC03 0, .csrrci 1 0xC01 1, .send 1 30 3,
      .sendr 1 30 3 1, .sendv 1 28 3, .sendv 1 4 0, .sendv 1 4 5, .cmd 1 29, .jwait 1 0, .jwait 1 6, .jpoll 1 1 0, .jpoll 1 1 6,
      .fenceS 7 1 0 1 0, .fenceS 1 0 0 1 0, .fenceS 1 1 0 0 0, .ifenceS 7, .xfence 0 1, .xfence 1 0, .fmt 12 3 0 1 0 0,
      .fmt 2 12 0 1 0 0, .fmt 2 3 1 1 0 0, .fmt 2 3 0 1 1 3, .fmt 2 3 0 1 0 1] : List Instr).all (fun i => !i.wf) = true := by
  decide +kernel

/-- A lane width code of 3. -/
theorem test_wf_refuses_lane_width : ([
    .vadd 1 3 3 4 5, .vsubSatc 1 3 3 4 5, .vmulhC 1 3 3 4 5, .vxor 1 3 3 4 5, .vsra 1 3 3 4 5, .vmaxC 1 3 3 4 5, .vcmpEq 1 3 1 1 4 5,
      .vcmpLe 1 3 1 1 4 5, .vlds 1 3 3 1 1, .vsts 1 3 3 1 1, .vldx 1 3 3 1 6, .vstx 1 3 3 1 6, .vbc 1 3 3 1, .vmvx 3 1 4 1, .vmxv 3 3 1 1,
      .vperm 1 3 3 4 6, .vrot 1 3 3 4 1, .vvote 1 3 3 4 1, .vmatch 1 3 3 4, .vredAdd 1 3 3 4] : List Instr).all (fun i => !i.wf) = true := by
  decide +kernel

/-- A field that names no register and no port of its place: `sq` as a source, `bq` in field b, `lq` as a destination, `bq` as one, `sq`
as the data of a load, `lq` as that of a store, a port as an index or as the destination of `vfma`. -/
theorem test_wf_refuses_ports : ([
    .vadd 1 2 3 29 5, .vadd 1 2 3 4 30, .vadd 1 2 28 4 5, .vsub 1 2 30 4 5, .vcmpLt 1 2 1 1 29 5, .vcmpNe 1 2 1 1 4 30, .vsel 1 3 29 5,
      .vsel 1 28 4 5, .vfadd 1 3 4 30, .vfma 1 29 4 5, .vfma 1 3 29 5, .vfrcp 1 3 31, .vfcmpUn 1 1 4 30, .vcvt 1 28 4, .venc8 1 3 29,
      .vdec8 1 30 4, .vtfade 1 3 4 30, .vtacc 1 28 4 5, .vtdec 1 3 29, .vtenc 1 28 4, .vld 1 29 1 1, .vst 1 28 1 1, .vlds 1 2 30 1 1,
      .vsts 1 2 31 1 1, .vldx 1 2 3 1 28, .vstx 1 2 3 1 28, .vbc 1 2 28 1, .vperm 1 2 3 4 29, .vrot 1 2 28 4 1, .vvote 1 2 28 4 1,
      .vmatch 1 2 30 4, .vredAdd 1 2 3 29, .vredFadd 1 31 4, .vredMin 1 1 3 30, .vredMax 1 1 28 4] : List Instr).all (fun i => !i.wf) =
      true := by
  decide +kernel

/-- Lane numbers, votes and the two ports that only lane 0 moves. -/
theorem test_wf_refuses_lanes : ([.vmvx 2 1 4 8, .vmvx 2 1 30 1, .vmxv 2 3 1 8, .vmxv 2 31 1 1, .vrot 1 2 3 4 8, .vvote 1 2 3 4 4] :
    List Instr).all (fun i => !i.wf) = true := by
  decide +kernel

/-! ### Words written out from the encodings of the spec -/

theorem test_decode_upper_and_jumps :
    decode (0b10101011110011011110#20 ++ 0b01001#5 ++ 0b0110111#7) = some (.lui 9 0xabcde) ∧
    decode (0b10101011110011011110#20 ++ 0b01001#5 ++ 0b0010111#7) = some (.auipc 9 0xabcde) ∧
    decode (0b10101011110011011110#20 ++ 0b01001#5 ++ 0b1101111#7) = some (.jal 9 0xef15e) ∧
    decode (0b101010111100#12 ++ 0b01010#5 ++ 0b000#3 ++ 0b01001#5 ++ 0b1100111#7) = some (.jalr 9 10 0xabc) := by
  decide +kernel

theorem test_decode_branches :
    decode (0b0000100#7 ++ 0b01011#5 ++ 0b01010#5 ++ 0b000#3 ++ 0b00001#5 ++ 0b1100011#7) = some (.beq 10 11 0x440) ∧
    decode (0b0000100#7 ++ 0b01011#5 ++ 0b01010#5 ++ 0b001#3 ++ 0b00001#5 ++ 0b1100011#7) = some (.bne 10 11 0x440) ∧
    decode (0b0000100#7 ++ 0b01011#5 ++ 0b01010#5 ++ 0b100#3 ++ 0b00001#5 ++ 0b1100011#7) = some (.blt 10 11 0x440) ∧
    decode (0b0000100#7 ++ 0b01011#5 ++ 0b01010#5 ++ 0b101#3 ++ 0b00001#5 ++ 0b1100011#7) = some (.bge 10 11 0x440) ∧
    decode (0b0000100#7 ++ 0b01011#5 ++ 0b01010#5 ++ 0b110#3 ++ 0b00001#5 ++ 0b1100011#7) = some (.bltu 10 11 0x440) ∧
    decode (0b0000100#7 ++ 0b01011#5 ++ 0b01010#5 ++ 0b111#3 ++ 0b00001#5 ++ 0b1100011#7) = some (.bgeu 10 11 0x440) := by
  decide +kernel

theorem test_decode_loads :
    decode (0b101010111100#12 ++ 0b01010#5 ++ 0b000#3 ++ 0b01001#5 ++ 0b0000011#7) = some (.lb 9 10 0xabc) ∧
    decode (0b101010111100#12 ++ 0b01010#5 ++ 0b001#3 ++ 0b01001#5 ++ 0b0000011#7) = some (.lh 9 10 0xabc) ∧
    decode (0b101010111100#12 ++ 0b01010#5 ++ 0b010#3 ++ 0b01001#5 ++ 0b0000011#7) = some (.lw 9 10 0xabc) ∧
    decode (0b101010111100#12 ++ 0b01010#5 ++ 0b011#3 ++ 0b01001#5 ++ 0b0000011#7) = some (.ld 9 10 0xabc) ∧
    decode (0b101010111100#12 ++ 0b01010#5 ++ 0b100#3 ++ 0b01001#5 ++ 0b0000011#7) = some (.lbu 9 10 0xabc) ∧
    decode (0b101010111100#12 ++ 0b01010#5 ++ 0b101#3 ++ 0b01001#5 ++ 0b0000011#7) = some (.lhu 9 10 0xabc) ∧
    decode (0b101010111100#12 ++ 0b01010#5 ++ 0b110#3 ++ 0b01001#5 ++ 0b0000011#7) = some (.lwu 9 10 0xabc) := by
  decide +kernel

theorem test_decode_stores :
    decode (0b0000100#7 ++ 0b01011#5 ++ 0b01010#5 ++ 0b000#3 ++ 0b00001#5 ++ 0b0100011#7) = some (.sb 11 10 0x81) ∧
    decode (0b0000100#7 ++ 0b01011#5 ++ 0b01010#5 ++ 0b001#3 ++ 0b00001#5 ++ 0b0100011#7) = some (.sh 11 10 0x81) ∧
    decode (0b0000100#7 ++ 0b01011#5 ++ 0b01010#5 ++ 0b010#3 ++ 0b00001#5 ++ 0b0100011#7) = some (.sw 11 10 0x81) ∧
    decode (0b0000100#7 ++ 0b01011#5 ++ 0b01010#5 ++ 0b011#3 ++ 0b00001#5 ++ 0b0100011#7) = some (.sd 11 10 0x81) := by
  decide +kernel

theorem test_decode_op_imm :
    decode (0b101010111100#12 ++ 0b01010#5 ++ 0b000#3 ++ 0b01001#5 ++ 0b0010011#7) = some (.addi 9 10 0xabc) ∧
    decode (0b101010111100#12 ++ 0b01010#5 ++ 0b010#3 ++ 0b01001#5 ++ 0b0010011#7) = some (.slti 9 10 0xabc) ∧
    decode (0b101010111100#12 ++ 0b01010#5 ++ 0b011#3 ++ 0b01001#5 ++ 0b0010011#7) = some (.sltiu 9 10 0xabc) ∧
    decode (0b101010111100#12 ++ 0b01010#5 ++ 0b100#3 ++ 0b01001#5 ++ 0b0010011#7) = some (.xori 9 10 0xabc) ∧
    decode (0b101010111100#12 ++ 0b01010#5 ++ 0b110#3 ++ 0b01001#5 ++ 0b0010011#7) = some (.ori 9 10 0xabc) ∧
    decode (0b101010111100#12 ++ 0b01010#5 ++ 0b111#3 ++ 0b01001#5 ++ 0b0010011#7) = some (.andi 9 10 0xabc) ∧
    decode (0b000000#6 ++ 0b010101#6 ++ 0b01010#5 ++ 0b001#3 ++ 0b01001#5 ++ 0b0010011#7) = some (.slli 9 10 21) ∧
    decode (0b000000#6 ++ 0b010101#6 ++ 0b01010#5 ++ 0b101#3 ++ 0b01001#5 ++ 0b0010011#7) = some (.srli 9 10 21) ∧
    decode (0b010000#6 ++ 0b010101#6 ++ 0b01010#5 ++ 0b101#3 ++ 0b01001#5 ++ 0b0010011#7) = some (.srai 9 10 21) := by
  decide +kernel

theorem test_decode_op :
    decode (0b0000000#7 ++ 0b01011#5 ++ 0b01010#5 ++ 0b000#3 ++ 0b01001#5 ++ 0b0110011#7) = some (.add 9 10 11) ∧
    decode (0b0100000#7 ++ 0b01011#5 ++ 0b01010#5 ++ 0b000#3 ++ 0b01001#5 ++ 0b0110011#7) = some (.sub 9 10 11) ∧
    decode (0b0000000#7 ++ 0b01011#5 ++ 0b01010#5 ++ 0b001#3 ++ 0b01001#5 ++ 0b0110011#7) = some (.sll 9 10 11) ∧
    decode (0b0000000#7 ++ 0b01011#5 ++ 0b01010#5 ++ 0b010#3 ++ 0b01001#5 ++ 0b0110011#7) = some (.slt 9 10 11) ∧
    decode (0b0000000#7 ++ 0b01011#5 ++ 0b01010#5 ++ 0b011#3 ++ 0b01001#5 ++ 0b0110011#7) = some (.sltu 9 10 11) ∧
    decode (0b0000000#7 ++ 0b01011#5 ++ 0b01010#5 ++ 0b100#3 ++ 0b01001#5 ++ 0b0110011#7) = some (.xor_ 9 10 11) ∧
    decode (0b0000000#7 ++ 0b01011#5 ++ 0b01010#5 ++ 0b101#3 ++ 0b01001#5 ++ 0b0110011#7) = some (.srl 9 10 11) ∧
    decode (0b0100000#7 ++ 0b01011#5 ++ 0b01010#5 ++ 0b101#3 ++ 0b01001#5 ++ 0b0110011#7) = some (.sra 9 10 11) ∧
    decode (0b0000000#7 ++ 0b01011#5 ++ 0b01010#5 ++ 0b110#3 ++ 0b01001#5 ++ 0b0110011#7) = some (.or_ 9 10 11) ∧
    decode (0b0000000#7 ++ 0b01011#5 ++ 0b01010#5 ++ 0b111#3 ++ 0b01001#5 ++ 0b0110011#7) = some (.and_ 9 10 11) ∧
    decode (0b0000001#7 ++ 0b01011#5 ++ 0b01010#5 ++ 0b000#3 ++ 0b01001#5 ++ 0b0110011#7) = some (.mul 9 10 11) ∧
    decode (0b0000001#7 ++ 0b01011#5 ++ 0b01010#5 ++ 0b001#3 ++ 0b01001#5 ++ 0b0110011#7) = some (.mulh 9 10 11) ∧
    decode (0b0000001#7 ++ 0b01011#5 ++ 0b01010#5 ++ 0b010#3 ++ 0b01001#5 ++ 0b0110011#7) = some (.mulhsu 9 10 11) ∧
    decode (0b0000001#7 ++ 0b01011#5 ++ 0b01010#5 ++ 0b011#3 ++ 0b01001#5 ++ 0b0110011#7) = some (.mulhu 9 10 11) ∧
    decode (0b0000001#7 ++ 0b01011#5 ++ 0b01010#5 ++ 0b100#3 ++ 0b01001#5 ++ 0b0110011#7) = some (.div 9 10 11) ∧
    decode (0b0000001#7 ++ 0b01011#5 ++ 0b01010#5 ++ 0b101#3 ++ 0b01001#5 ++ 0b0110011#7) = some (.divu 9 10 11) ∧
    decode (0b0000001#7 ++ 0b01011#5 ++ 0b01010#5 ++ 0b110#3 ++ 0b01001#5 ++ 0b0110011#7) = some (.rem 9 10 11) ∧
    decode (0b0000001#7 ++ 0b01011#5 ++ 0b01010#5 ++ 0b111#3 ++ 0b01001#5 ++ 0b0110011#7) = some (.remu 9 10 11) := by
  decide +kernel

theorem test_decode_op_imm_word :
    decode (0b101010111100#12 ++ 0b01010#5 ++ 0b000#3 ++ 0b01001#5 ++ 0b0011011#7) = some (.addiw 9 10 0xabc) ∧
    decode (0b0000000#7 ++ 0b10101#5 ++ 0b01010#5 ++ 0b001#3 ++ 0b01001#5 ++ 0b0011011#7) = some (.slliw 9 10 21) ∧
    decode (0b0000000#7 ++ 0b10101#5 ++ 0b01010#5 ++ 0b101#3 ++ 0b01001#5 ++ 0b0011011#7) = some (.srliw 9 10 21) ∧
    decode (0b0100000#7 ++ 0b10101#5 ++ 0b01010#5 ++ 0b101#3 ++ 0b01001#5 ++ 0b0011011#7) = some (.sraiw 9 10 21) := by
  decide +kernel

theorem test_decode_op_word :
    decode (0b0000000#7 ++ 0b01011#5 ++ 0b01010#5 ++ 0b000#3 ++ 0b01001#5 ++ 0b0111011#7) = some (.addw 9 10 11) ∧
    decode (0b0100000#7 ++ 0b01011#5 ++ 0b01010#5 ++ 0b000#3 ++ 0b01001#5 ++ 0b0111011#7) = some (.subw 9 10 11) ∧
    decode (0b0000000#7 ++ 0b01011#5 ++ 0b01010#5 ++ 0b001#3 ++ 0b01001#5 ++ 0b0111011#7) = some (.sllw 9 10 11) ∧
    decode (0b0000000#7 ++ 0b01011#5 ++ 0b01010#5 ++ 0b101#3 ++ 0b01001#5 ++ 0b0111011#7) = some (.srlw 9 10 11) ∧
    decode (0b0100000#7 ++ 0b01011#5 ++ 0b01010#5 ++ 0b101#3 ++ 0b01001#5 ++ 0b0111011#7) = some (.sraw 9 10 11) ∧
    decode (0b0000001#7 ++ 0b01011#5 ++ 0b01010#5 ++ 0b000#3 ++ 0b01001#5 ++ 0b0111011#7) = some (.mulw 9 10 11) ∧
    decode (0b0000001#7 ++ 0b01011#5 ++ 0b01010#5 ++ 0b100#3 ++ 0b01001#5 ++ 0b0111011#7) = some (.divw 9 10 11) ∧
    decode (0b0000001#7 ++ 0b01011#5 ++ 0b01010#5 ++ 0b101#3 ++ 0b01001#5 ++ 0b0111011#7) = some (.divuw 9 10 11) ∧
    decode (0b0000001#7 ++ 0b01011#5 ++ 0b01010#5 ++ 0b110#3 ++ 0b01001#5 ++ 0b0111011#7) = some (.remw 9 10 11) ∧
    decode (0b0000001#7 ++ 0b01011#5 ++ 0b01010#5 ++ 0b111#3 ++ 0b01001#5 ++ 0b0111011#7) = some (.remuw 9 10 11) := by
  decide +kernel

theorem test_decode_atomics :
    decode (0b00010#5 ++ 0b1#1 ++ 0b0#1 ++ 0b00000#5 ++ 0b01010#5 ++ 0b010#3 ++ 0b01001#5 ++ 0b0101111#7) = some (.lrW 1 0 9 10) ∧
    decode (0b00010#5 ++ 0b1#1 ++ 0b0#1 ++ 0b00000#5 ++ 0b01010#5 ++ 0b011#3 ++ 0b01001#5 ++ 0b0101111#7) = some (.lrD 1 0 9 10) ∧
    decode (0b00011#5 ++ 0b1#1 ++ 0b0#1 ++ 0b01011#5 ++ 0b01010#5 ++ 0b010#3 ++ 0b01001#5 ++ 0b0101111#7) = some (.scW 1 0 9 11 10) ∧
    decode (0b00011#5 ++ 0b1#1 ++ 0b0#1 ++ 0b01011#5 ++ 0b01010#5 ++ 0b011#3 ++ 0b01001#5 ++ 0b0101111#7) = some (.scD 1 0 9 11 10) ∧
    decode (0b00001#5 ++ 0b1#1 ++ 0b1#1 ++ 0b01011#5 ++ 0b01010#5 ++ 0b010#3 ++ 0b01001#5 ++ 0b0101111#7) = some (.amoswapW 1 1 9 11 10) ∧
    decode (0b00001#5 ++ 0b1#1 ++ 0b1#1 ++ 0b01011#5 ++ 0b01010#5 ++ 0b011#3 ++ 0b01001#5 ++ 0b0101111#7) = some (.amoswapD 1 1 9 11 10) ∧
    decode (0b00000#5 ++ 0b1#1 ++ 0b1#1 ++ 0b01011#5 ++ 0b01010#5 ++ 0b010#3 ++ 0b01001#5 ++ 0b0101111#7) = some (.amoaddW 1 1 9 11 10) ∧
    decode (0b00000#5 ++ 0b1#1 ++ 0b1#1 ++ 0b01011#5 ++ 0b01010#5 ++ 0b011#3 ++ 0b01001#5 ++ 0b0101111#7) = some (.amoaddD 1 1 9 11 10) ∧
    decode (0b00100#5 ++ 0b1#1 ++ 0b1#1 ++ 0b01011#5 ++ 0b01010#5 ++ 0b010#3 ++ 0b01001#5 ++ 0b0101111#7) = some (.amoxorW 1 1 9 11 10) ∧
    decode (0b00100#5 ++ 0b1#1 ++ 0b1#1 ++ 0b01011#5 ++ 0b01010#5 ++ 0b011#3 ++ 0b01001#5 ++ 0b0101111#7) = some (.amoxorD 1 1 9 11 10) ∧
    decode (0b01100#5 ++ 0b1#1 ++ 0b1#1 ++ 0b01011#5 ++ 0b01010#5 ++ 0b010#3 ++ 0b01001#5 ++ 0b0101111#7) = some (.amoandW 1 1 9 11 10) ∧
    decode (0b01100#5 ++ 0b1#1 ++ 0b1#1 ++ 0b01011#5 ++ 0b01010#5 ++ 0b011#3 ++ 0b01001#5 ++ 0b0101111#7) = some (.amoandD 1 1 9 11 10) ∧
    decode (0b01000#5 ++ 0b1#1 ++ 0b1#1 ++ 0b01011#5 ++ 0b01010#5 ++ 0b010#3 ++ 0b01001#5 ++ 0b0101111#7) = some (.amoorW 1 1 9 11 10) ∧
    decode (0b01000#5 ++ 0b1#1 ++ 0b1#1 ++ 0b01011#5 ++ 0b01010#5 ++ 0b011#3 ++ 0b01001#5 ++ 0b0101111#7) = some (.amoorD 1 1 9 11 10) ∧
    decode (0b10000#5 ++ 0b1#1 ++ 0b1#1 ++ 0b01011#5 ++ 0b01010#5 ++ 0b010#3 ++ 0b01001#5 ++ 0b0101111#7) = some (.amominW 1 1 9 11 10) ∧
    decode (0b10000#5 ++ 0b1#1 ++ 0b1#1 ++ 0b01011#5 ++ 0b01010#5 ++ 0b011#3 ++ 0b01001#5 ++ 0b0101111#7) = some (.amominD 1 1 9 11 10) ∧
    decode (0b10100#5 ++ 0b1#1 ++ 0b1#1 ++ 0b01011#5 ++ 0b01010#5 ++ 0b010#3 ++ 0b01001#5 ++ 0b0101111#7) = some (.amomaxW 1 1 9 11 10) ∧
    decode (0b10100#5 ++ 0b1#1 ++ 0b1#1 ++ 0b01011#5 ++ 0b01010#5 ++ 0b011#3 ++ 0b01001#5 ++ 0b0101111#7) = some (.amomaxD 1 1 9 11 10) ∧
    decode (0b11000#5 ++ 0b1#1 ++ 0b1#1 ++ 0b01011#5 ++ 0b01010#5 ++ 0b010#3 ++ 0b01001#5 ++ 0b0101111#7) = some (.amominuW 1 1 9 11 10) ∧
    decode (0b11000#5 ++ 0b1#1 ++ 0b1#1 ++ 0b01011#5 ++ 0b01010#5 ++ 0b011#3 ++ 0b01001#5 ++ 0b0101111#7) = some (.amominuD 1 1 9 11 10) ∧
    decode (0b11100#5 ++ 0b1#1 ++ 0b1#1 ++ 0b01011#5 ++ 0b01010#5 ++ 0b010#3 ++ 0b01001#5 ++ 0b0101111#7) = some (.amomaxuW 1 1 9 11 10) ∧
    decode (0b11100#5 ++ 0b1#1 ++ 0b1#1 ++ 0b01011#5 ++ 0b01010#5 ++ 0b011#3 ++ 0b01001#5 ++ 0b0101111#7) = some (.amomaxuD 1 1 9 11 10) := by
  decide +kernel

theorem test_decode_fences :
    decode (0b0000#4 ++ 0b0011#4 ++ 0b0101#4 ++ 0b01010#5 ++ 0b000#3 ++ 0b01001#5 ++ 0b0001111#7) = some (.fence 0 3 5 10 9) ∧
    decode (0b100000110011#12 ++ 0b01010#5 ++ 0b000#3 ++ 0b01001#5 ++ 0b0001111#7) = some (.fenceTso 10 9) ∧
    decode (0b101010111100#12 ++ 0b01010#5 ++ 0b001#3 ++ 0b01001#5 ++ 0b0001111#7) = some (.fenceI 0xabc 10 9) := by
  decide +kernel

theorem test_decode_system :
    decode (0b00000000000000000000000001110011#32) = some .ecall ∧
    decode (0b00000000000100000000000001110011#32) = some .ebreak ∧
    decode (0b100000000011#12 ++ 0b01010#5 ++ 0b001#3 ++ 0b01001#5 ++ 0b1110011#7) = some (.csrrw 9 0x803 10) ∧
    decode (0b100000000011#12 ++ 0b01010#5 ++ 0b010#3 ++ 0b01001#5 ++ 0b1110011#7) = some (.csrrs 9 0x803 10) ∧
    decode (0b100000000011#12 ++ 0b01010#5 ++ 0b011#3 ++ 0b01001#5 ++ 0b1110011#7) = some (.csrrc 9 0x803 10) ∧
    decode (0b100000000011#12 ++ 0b10001#5 ++ 0b101#3 ++ 0b01001#5 ++ 0b1110011#7) = some (.csrrwi 9 0x803 17) ∧
    decode (0b100000000011#12 ++ 0b10001#5 ++ 0b110#3 ++ 0b01001#5 ++ 0b1110011#7) = some (.csrrsi 9 0x803 17) ∧
    decode (0b100000000011#12 ++ 0b10001#5 ++ 0b111#3 ++ 0b01001#5 ++ 0b1110011#7) = some (.csrrci 9 0x803 17) := by
  decide +kernel

theorem test_decode_custom_0 :
    decode (0b0000#4 ++ 0b011#3 ++ 0b01101#5 ++ 0b01100#5 ++ 0b000000000001011#15) = some (.send 12 13 3) ∧
    decode (0b0001#4 ++ 0b011#3 ++ 0b01101#5 ++ 0b01100#5 ++ 0b000#3 ++ 0b01001#5 ++ 0b0001011#7) = some (.sendr 12 13 3 9) ∧
    decode (0b0010#4 ++ 0b011#3 ++ 0b01101#5 ++ 0b01100#5 ++ 0b000000000001011#15) = some (.sendv 12 13 3) ∧
    decode (0b00000000000000000001000000001011#32) = some .exit ∧
    decode (0b000100000000#12 ++ 0b01100#5 ++ 0b001000000001011#15) = some (.exitSucc 12) ∧
    decode (0b0010000#7 ++ 0b01101#5 ++ 0b01100#5 ++ 0b001#3 ++ 0b01001#5 ++ 0b0001011#7) = some (.spawn 9 12 13) ∧
    decode (0b001100000000#12 ++ 0b01100#5 ++ 0b001#3 ++ 0b01001#5 ++ 0b0001011#7) = some (.waitm 9 12) ∧
    decode (0b01000000000000000001000000001011#32) = some .critOn ∧
    decode (0b01010000000000000001000000001011#32) = some .critOff ∧
    decode (0b0000000#7 ++ 0b01101#5 ++ 0b01100#5 ++ 0b010#3 ++ 0b01001#5 ++ 0b0001011#7) = some (.chmask 9 12 13) ∧
    decode (0b0001000#7 ++ 0b01101#5 ++ 0b01100#5 ++ 0b010#3 ++ 0b01001#5 ++ 0b0001011#7) = some (.chpend 9 12 13) ∧
    decode (0b0000000#7 ++ 0b01101#5 ++ 0b01100#5 ++ 0b011000000001011#15) = some (.gtok 12 13) ∧
    decode (0b000100000000#12 ++ 0b01100#5 ++ 0b011#3 ++ 0b01001#5 ++ 0b0001011#7) = some (.glaunch 9 12) ∧
    decode (0b001000000000#12 ++ 0b01100#5 ++ 0b011000000001011#15) = some (.gcancel 12) ∧
    decode (0b001100000000#12 ++ 0b01100#5 ++ 0b011#3 ++ 0b01001#5 ++ 0b0001011#7) = some (.gstat 9 12) ∧
    decode (0b01000000000000000011000000001011#32) = some .gtrig ∧
    decode (0b000000#6 ++ 0b1#1 ++ 0b01101#5 ++ 0b01100#5 ++ 0b100000000001011#15) = some (.rwd 12 13 1) := by
  decide +kernel

theorem test_decode_custom_1_a :
    decode (0b011#3 ++ 0b01#2 ++ 0b00#2 ++ 0b01101#5 ++ 0b01100#5 ++ 0b000#3 ++ 0b01001#5 ++ 0b0101011#7) = some (.vadd 3 1 9 12 13) ∧
    decode (0b011#3 ++ 0b01#2 ++ 0b01#2 ++ 0b01101#5 ++ 0b01100#5 ++ 0b000#3 ++ 0b01001#5 ++ 0b0101011#7) = some (.vaddSat 3 1 9 12 13) ∧
    decode (0b011#3 ++ 0b01#2 ++ 0b10#2 ++ 0b01101#5 ++ 0b01100#5 ++ 0b000#3 ++ 0b01001#5 ++ 0b0101011#7) = some (.vaddSatc 3 1 9 12 13) ∧
    decode (0b011#3 ++ 0b01#2 ++ 0b00#2 ++ 0b01101#5 ++ 0b01100#5 ++ 0b001#3 ++ 0b01001#5 ++ 0b0101011#7) = some (.vsub 3 1 9 12 13) ∧
    decode (0b011#3 ++ 0b01#2 ++ 0b01#2 ++ 0b01101#5 ++ 0b01100#5 ++ 0b001#3 ++ 0b01001#5 ++ 0b0101011#7) = some (.vsubSat 3 1 9 12 13) ∧
    decode (0b011#3 ++ 0b01#2 ++ 0b10#2 ++ 0b01101#5 ++ 0b01100#5 ++ 0b001#3 ++ 0b01001#5 ++ 0b0101011#7) = some (.vsubSatc 3 1 9 12 13) ∧
    decode (0b011#3 ++ 0b01#2 ++ 0b00#2 ++ 0b01101#5 ++ 0b01100#5 ++ 0b010#3 ++ 0b01001#5 ++ 0b0101011#7) = some (.vmul 3 1 9 12 13) ∧
    decode (0b011#3 ++ 0b01#2 ++ 0b01#2 ++ 0b01101#5 ++ 0b01100#5 ++ 0b010#3 ++ 0b01001#5 ++ 0b0101011#7) = some (.vmulh 3 1 9 12 13) ∧
    decode (0b011#3 ++ 0b01#2 ++ 0b10#2 ++ 0b01101#5 ++ 0b01100#5 ++ 0b010#3 ++ 0b01001#5 ++ 0b0101011#7) = some (.vmulhC 3 1 9 12 13) ∧
    decode (0b011#3 ++ 0b01#2 ++ 0b00#2 ++ 0b01101#5 ++ 0b01100#5 ++ 0b011#3 ++ 0b01001#5 ++ 0b0101011#7) = some (.vand 3 1 9 12 13) ∧
    decode (0b011#3 ++ 0b01#2 ++ 0b01#2 ++ 0b01101#5 ++ 0b01100#5 ++ 0b011#3 ++ 0b01001#5 ++ 0b0101011#7) = some (.vor 3 1 9 12 13) ∧
    decode (0b011#3 ++ 0b01#2 ++ 0b10#2 ++ 0b01101#5 ++ 0b01100#5 ++ 0b011#3 ++ 0b01001#5 ++ 0b0101011#7) = some (.vxor 3 1 9 12 13) ∧
    decode (0b011#3 ++ 0b01#2 ++ 0b00#2 ++ 0b01101#5 ++ 0b01100#5 ++ 0b100#3 ++ 0b01001#5 ++ 0b0101011#7) = some (.vsll 3 1 9 12 13) ∧
    decode (0b011#3 ++ 0b01#2 ++ 0b01#2 ++ 0b01101#5 ++ 0b01100#5 ++ 0b100#3 ++ 0b01001#5 ++ 0b0101011#7) = some (.vsrl 3 1 9 12 13) ∧
    decode (0b011#3 ++ 0b01#2 ++ 0b10#2 ++ 0b01101#5 ++ 0b01100#5 ++ 0b100#3 ++ 0b01001#5 ++ 0b0101011#7) = some (.vsra 3 1 9 12 13) ∧
    decode (0b011#3 ++ 0b01#2 ++ 0b00#2 ++ 0b01101#5 ++ 0b01100#5 ++ 0b101#3 ++ 0b01001#5 ++ 0b0101011#7) = some (.vmin 3 1 9 12 13) ∧
    decode (0b011#3 ++ 0b01#2 ++ 0b01#2 ++ 0b01101#5 ++ 0b01100#5 ++ 0b101#3 ++ 0b01001#5 ++ 0b0101011#7) = some (.vminC 3 1 9 12 13) ∧
    decode (0b011#3 ++ 0b01#2 ++ 0b10#2 ++ 0b01101#5 ++ 0b01100#5 ++ 0b101#3 ++ 0b01001#5 ++ 0b0101011#7) = some (.vmax 3 1 9 12 13) ∧
    decode (0b011#3 ++ 0b01#2 ++ 0b11#2 ++ 0b01101#5 ++ 0b01100#5 ++ 0b101#3 ++ 0b01001#5 ++ 0b0101011#7) = some (.vmaxC 3 1 9 12 13) ∧
    decode (0b011#3 ++ 0b01#2 ++ 0b00#2 ++ 0b01101#5 ++ 0b01100#5 ++ 0b1100#4 ++ 0b1#1 ++ 0b110#3 ++ 0b0101011#7) = some (.vcmpEq 3 1 6 1 12 13) ∧
    decode (0b011#3 ++ 0b01#2 ++ 0b01#2 ++ 0b01101#5 ++ 0b01100#5 ++ 0b1100#4 ++ 0b1#1 ++ 0b110#3 ++ 0b0101011#7) = some (.vcmpNe 3 1 6 1 12 13) ∧
    decode (0b011#3 ++ 0b01#2 ++ 0b10#2 ++ 0b01101#5 ++ 0b01100#5 ++ 0b1100#4 ++ 0b1#1 ++ 0b110#3 ++ 0b0101011#7) = some (.vcmpLt 3 1 6 1 12 13) ∧
    decode (0b011#3 ++ 0b01#2 ++ 0b11#2 ++ 0b01101#5 ++ 0b01100#5 ++ 0b1100#4 ++ 0b1#1 ++ 0b110#3 ++ 0b0101011#7) = some (.vcmpLe 3 1 6 1 12 13) ∧
    decode (0b101#3 ++ 0b0000#4 ++ 0b01101#5 ++ 0b01100#5 ++ 0b111#3 ++ 0b01001#5 ++ 0b0101011#7) = some (.vsel 5 9 12 13) := by
  decide +kernel

theorem test_decode_custom_1_b :
    decode (0b011#3 ++ 0b1100#4 ++ 0b01101#5 ++ 0b01100#5 ++ 0b000#3 ++ 0b01001#5 ++ 0b0101011#7) = some (.vfadd 3 9 12 13) ∧
    decode (0b011#3 ++ 0b1101#4 ++ 0b01101#5 ++ 0b01100#5 ++ 0b000#3 ++ 0b01001#5 ++ 0b0101011#7) = some (.vfsub 3 9 12 13) ∧
    decode (0b011#3 ++ 0b1110#4 ++ 0b01101#5 ++ 0b01100#5 ++ 0b000#3 ++ 0b01001#5 ++ 0b0101011#7) = some (.vfmul 3 9 12 13) ∧
    decode (0b011#3 ++ 0b1111#4 ++ 0b01101#5 ++ 0b01100#5 ++ 0b000#3 ++ 0b01001#5 ++ 0b0101011#7) = some (.vfma 3 9 12 13) ∧
    decode (0b011#3 ++ 0b1100#4 ++ 0b01101#5 ++ 0b01100#5 ++ 0b001#3 ++ 0b01001#5 ++ 0b0101011#7) = some (.vfmin 3 9 12 13) ∧
    decode (0b011#3 ++ 0b1101#4 ++ 0b01101#5 ++ 0b01100#5 ++ 0b001#3 ++ 0b01001#5 ++ 0b0101011#7) = some (.vfmax 3 9 12 13) ∧
    decode (0b011#3 ++ 0b111000000#9 ++ 0b01100#5 ++ 0b001#3 ++ 0b01001#5 ++ 0b0101011#7) = some (.vfrcp 3 9 12) ∧
    decode (0b011#3 ++ 0b1100#4 ++ 0b01101#5 ++ 0b01100#5 ++ 0b01000#5 ++ 0b101#3 ++ 0b0101011#7) = some (.vfcmpEq 3 5 12 13) ∧
    decode (0b011#3 ++ 0b1101#4 ++ 0b01101#5 ++ 0b01100#5 ++ 0b01000#5 ++ 0b101#3 ++ 0b0101011#7) = some (.vfcmpLt 3 5 12 13) ∧
    decode (0b011#3 ++ 0b1110#4 ++ 0b01101#5 ++ 0b01100#5 ++ 0b01000#5 ++ 0b101#3 ++ 0b0101011#7) = some (.vfcmpLe 3 5 12 13) ∧
    decode (0b011#3 ++ 0b1111#4 ++ 0b01101#5 ++ 0b01100#5 ++ 0b01000#5 ++ 0b101#3 ++ 0b0101011#7) = some (.vfcmpUn 3 5 12 13) ∧
    decode (0b011#3 ++ 0b110000000#9 ++ 0b01100#5 ++ 0b011#3 ++ 0b01001#5 ++ 0b0101011#7) = some (.vcvt 3 9 12) ∧
    decode (0b011#3 ++ 0b110100000#9 ++ 0b01100#5 ++ 0b011#3 ++ 0b01001#5 ++ 0b0101011#7) = some (.venc8 3 9 12) ∧
    decode (0b011#3 ++ 0b111000000#9 ++ 0b01100#5 ++ 0b011#3 ++ 0b01001#5 ++ 0b0101011#7) = some (.vdec8 3 9 12) ∧
    decode (0b011#3 ++ 0b1100#4 ++ 0b01101#5 ++ 0b01100#5 ++ 0b100#3 ++ 0b01001#5 ++ 0b0101011#7) = some (.vtfade 3 9 12 13) ∧
    decode (0b011#3 ++ 0b1101#4 ++ 0b01101#5 ++ 0b01100#5 ++ 0b100#3 ++ 0b01001#5 ++ 0b0101011#7) = some (.vtacc 3 9 12 13) ∧
    decode (0b011#3 ++ 0b111000000#9 ++ 0b01100#5 ++ 0b100#3 ++ 0b01001#5 ++ 0b0101011#7) = some (.vtdec 3 9 12) ∧
    decode (0b011#3 ++ 0b111100000#9 ++ 0b01100#5 ++ 0b100#3 ++ 0b01001#5 ++ 0b0101011#7) = some (.vtenc 3 9 12) := by
  decide +kernel

theorem test_decode_custom_2_a :
    decode (0b011#3 ++ 0b010100101#9 ++ 0b01100#5 ++ 0b000#3 ++ 0b01001#5 ++ 0b1011011#7) = some (.vld 3 9 12 0xa5) ∧
    decode (0b011#3 ++ 0b010100101#9 ++ 0b01100#5 ++ 0b001#3 ++ 0b01001#5 ++ 0b1011011#7) = some (.vst 3 9 12 0xa5) ∧
    decode (0b011#3 ++ 0b01#2 ++ 0b00#2 ++ 0b01101#5 ++ 0b01100#5 ++ 0b010#3 ++ 0b01001#5 ++ 0b1011011#7) = some (.vlds 3 1 9 12 13) ∧
    decode (0b011#3 ++ 0b01#2 ++ 0b01#2 ++ 0b01101#5 ++ 0b01100#5 ++ 0b010#3 ++ 0b01001#5 ++ 0b1011011#7) = some (.vsts 3 1 9 12 13) ∧
    decode (0b011#3 ++ 0b01#2 ++ 0b10#2 ++ 0b01101#5 ++ 0b01100#5 ++ 0b010#3 ++ 0b01001#5 ++ 0b1011011#7) = some (.vldx 3 1 9 12 13) ∧
    decode (0b011#3 ++ 0b01#2 ++ 0b11#2 ++ 0b01101#5 ++ 0b01100#5 ++ 0b010#3 ++ 0b01001#5 ++ 0b1011011#7) = some (.vstx 3 1 9 12 13) ∧
    decode (0b011#3 ++ 0b01#2 ++ 0b0000000#7 ++ 0b01100#5 ++ 0b011#3 ++ 0b01001#5 ++ 0b1011011#7) = some (.vbc 3 1 9 12) ∧
    decode (0b000#3 ++ 0b01#2 ++ 0b01#2 ++ 0b00101#5 ++ 0b01100#5 ++ 0b011#3 ++ 0b01001#5 ++ 0b1011011#7) = some (.vmvx 1 9 12 5) ∧
    decode (0b000#3 ++ 0b01#2 ++ 0b10#2 ++ 0b00101#5 ++ 0b01100#5 ++ 0b011#3 ++ 0b01001#5 ++ 0b1011011#7) = some (.vmxv 1 9 12 5) ∧
    decode (0b011#3 ++ 0b01#2 ++ 0b00#2 ++ 0b01101#5 ++ 0b01100#5 ++ 0b100#3 ++ 0b01001#5 ++ 0b1011011#7) = some (.vperm 3 1 9 12 13) ∧
    decode (0b011#3 ++ 0b01#2 ++ 0b01#2 ++ 0b00101#5 ++ 0b01100#5 ++ 0b100#3 ++ 0b01001#5 ++ 0b1011011#7) = some (.vrot 3 1 9 12 5) ∧
    decode (0b011#3 ++ 0b01#2 ++ 0b10#2 ++ 0b00010#5 ++ 0b01100#5 ++ 0b100#3 ++ 0b01001#5 ++ 0b1011011#7) = some (.vvote 3 1 9 12 2) ∧
    decode (0b011#3 ++ 0b01#2 ++ 0b1100000#7 ++ 0b01100#5 ++ 0b100#3 ++ 0b01001#5 ++ 0b1011011#7) = some (.vmatch 3 1 9 12) ∧
    decode (0b011#3 ++ 0b01#2 ++ 0b0000000#7 ++ 0b01100#5 ++ 0b101#3 ++ 0b01001#5 ++ 0b1011011#7) = some (.vredAdd 3 1 9 12) ∧
    decode (0b011#3 ++ 0b100100000#9 ++ 0b01100#5 ++ 0b101#3 ++ 0b01001#5 ++ 0b1011011#7) = some (.vredFadd 3 9 12) ∧
    decode (0b011#3 ++ 0b01#2 ++ 0b1000000#7 ++ 0b01100#5 ++ 0b101#3 ++ 0b01001#5 ++ 0b1011011#7) = some (.vredMin 3 1 9 12) ∧
    decode (0b011#3 ++ 0b01#2 ++ 0b1100000#7 ++ 0b01100#5 ++ 0b101#3 ++ 0b01001#5 ++ 0b1011011#7) = some (.vredMax 3 1 9 12) ∧
    decode (0b000000000#9 ++ 0b101#3 ++ 0b00#2 ++ 0b100#3 ++ 0b11000#5 ++ 0b001#3 ++ 0b1011011#7) = some (.pand 1 4 5) ∧
    decode (0b000000100#9 ++ 0b101#3 ++ 0b00#2 ++ 0b100#3 ++ 0b11000#5 ++ 0b001#3 ++ 0b1011011#7) = some (.por 1 4 5) ∧
    decode (0b00000100000000#14 ++ 0b100#3 ++ 0b11000#5 ++ 0b001#3 ++ 0b1011011#7) = some (.pnot 1 4) ∧
    decode (0b000001100000#12 ++ 0b01100#5 ++ 0b11000#5 ++ 0b001#3 ++ 0b1011011#7) = some (.pset 1 12) ∧
    decode (0b000000000000#12 ++ 0b01100#5 ++ 0b111#3 ++ 0b01001#5 ++ 0b1011011#7) = some (.credAdd 9 12) ∧
    decode (0b000010000000#12 ++ 0b01100#5 ++ 0b111#3 ++ 0b01001#5 ++ 0b1011011#7) = some (.credFadd 9 12) ∧
    decode (0b000100000000#12 ++ 0b01100#5 ++ 0b111#3 ++ 0b01001#5 ++ 0b1011011#7) = some (.credMin 9 12) := by
  decide +kernel

theorem test_decode_custom_2_b :
    decode (0b000110000000#12 ++ 0b01100#5 ++ 0b111#3 ++ 0b01001#5 ++ 0b1011011#7) = some (.credMax 9 12) ∧
    decode (0b00000010000000000111000001011011#32) = some .cbar ∧
    decode (0b0000010#7 ++ 0b01101#5 ++ 0b01100#5 ++ 0b111#3 ++ 0b01001#5 ++ 0b1011011#7) = some (.cbc 9 12 13) ∧
    decode (0b0000011#7 ++ 0b01101#5 ++ 0b01100#5 ++ 0b111#3 ++ 0b01001#5 ++ 0b1011011#7) = some (.cxch 9 12 13) := by
  decide +kernel

theorem test_decode_custom_3_a :
    decode (0b000000000000#12 ++ 0b01100#5 ++ 0b000#3 ++ 0b01001#5 ++ 0b1111011#7) = some (.cmd 9 12) ∧
    decode (0b0000011#7 ++ 0b0#1 ++ 0b0100#4 ++ 0b00000001000001111011#20) = some (.jwait 3 4) ∧
    decode (0b00000001#8 ++ 0b0100#4 ++ 0b01100#5 ++ 0b001#3 ++ 0b01001#5 ++ 0b1111011#7) = some (.jpoll 9 12 4) ∧
    decode (0b0#1 ++ 0b100#3 ++ 0b00#2 ++ 0b0#1 ++ 0b1#1 ++ 0b00#2 ++ 0b1#1 ++ 0b1#1 ++ 0b00000010000001111011#20) = some (.fenceS 4 0 1 1 1) ∧
    decode (0b1#1 ++ 0b101#3 ++ 0b0000000000000010000001111011#28) = some (.ifenceS 5) ∧
    decode (0b00010101#8 ++ 0b01100010#8 ++ 0b0011000001111011#16) = some (.xfence 21 0x62) ∧
    decode (0b0100#4 ++ 0b0010#4 ++ 0b11#2 ++ 0b10#2 ++ 0b01010#5 ++ 0b100000#6 ++ 0b01#2 ++ 0b1111011#7) = some (.fmt 4 2 3 2 10 1) ∧
    decode (0b0000#4 ++ 0b011#3 ++ 0b01011#5 ++ 0b01100#5 ++ 0b101#3 ++ 0b01001#5 ++ 0b1111011#7) = some (.amoScSwapW 3 9 11 12) ∧
    decode (0b0001#4 ++ 0b011#3 ++ 0b01011#5 ++ 0b01100#5 ++ 0b101#3 ++ 0b01001#5 ++ 0b1111011#7) = some (.amoScAddW 3 9 11 12) ∧
    decode (0b0010#4 ++ 0b011#3 ++ 0b01011#5 ++ 0b01100#5 ++ 0b101#3 ++ 0b01001#5 ++ 0b1111011#7) = some (.amoScXorW 3 9 11 12) ∧
    decode (0b0011#4 ++ 0b011#3 ++ 0b01011#5 ++ 0b01100#5 ++ 0b101#3 ++ 0b01001#5 ++ 0b1111011#7) = some (.amoScAndW 3 9 11 12) ∧
    decode (0b0100#4 ++ 0b011#3 ++ 0b01011#5 ++ 0b01100#5 ++ 0b101#3 ++ 0b01001#5 ++ 0b1111011#7) = some (.amoScOrW 3 9 11 12) ∧
    decode (0b0101#4 ++ 0b011#3 ++ 0b01011#5 ++ 0b01100#5 ++ 0b101#3 ++ 0b01001#5 ++ 0b1111011#7) = some (.amoScMinW 3 9 11 12) ∧
    decode (0b0110#4 ++ 0b011#3 ++ 0b01011#5 ++ 0b01100#5 ++ 0b101#3 ++ 0b01001#5 ++ 0b1111011#7) = some (.amoScMaxW 3 9 11 12) ∧
    decode (0b0111#4 ++ 0b011#3 ++ 0b01011#5 ++ 0b01100#5 ++ 0b101#3 ++ 0b01001#5 ++ 0b1111011#7) = some (.amoScMinCW 3 9 11 12) ∧
    decode (0b1000#4 ++ 0b011#3 ++ 0b01011#5 ++ 0b01100#5 ++ 0b101#3 ++ 0b01001#5 ++ 0b1111011#7) = some (.amoScMaxCW 3 9 11 12) ∧
    decode (0b1001#4 ++ 0b011#3 ++ 0b01011#5 ++ 0b01100#5 ++ 0b101#3 ++ 0b01001#5 ++ 0b1111011#7) = some (.amoScFaddW 3 9 11 12) ∧
    decode (0b0000#4 ++ 0b011#3 ++ 0b01011#5 ++ 0b01100#5 ++ 0b110#3 ++ 0b01001#5 ++ 0b1111011#7) = some (.amoScSwapD 3 9 11 12) ∧
    decode (0b0001#4 ++ 0b011#3 ++ 0b01011#5 ++ 0b01100#5 ++ 0b110#3 ++ 0b01001#5 ++ 0b1111011#7) = some (.amoScAddD 3 9 11 12) ∧
    decode (0b0010#4 ++ 0b011#3 ++ 0b01011#5 ++ 0b01100#5 ++ 0b110#3 ++ 0b01001#5 ++ 0b1111011#7) = some (.amoScXorD 3 9 11 12) ∧
    decode (0b0011#4 ++ 0b011#3 ++ 0b01011#5 ++ 0b01100#5 ++ 0b110#3 ++ 0b01001#5 ++ 0b1111011#7) = some (.amoScAndD 3 9 11 12) ∧
    decode (0b0100#4 ++ 0b011#3 ++ 0b01011#5 ++ 0b01100#5 ++ 0b110#3 ++ 0b01001#5 ++ 0b1111011#7) = some (.amoScOrD 3 9 11 12) ∧
    decode (0b0101#4 ++ 0b011#3 ++ 0b01011#5 ++ 0b01100#5 ++ 0b110#3 ++ 0b01001#5 ++ 0b1111011#7) = some (.amoScMinD 3 9 11 12) ∧
    decode (0b0110#4 ++ 0b011#3 ++ 0b01011#5 ++ 0b01100#5 ++ 0b110#3 ++ 0b01001#5 ++ 0b1111011#7) = some (.amoScMaxD 3 9 11 12) := by
  decide +kernel

theorem test_decode_custom_3_b :
    decode (0b0111#4 ++ 0b011#3 ++ 0b01011#5 ++ 0b01100#5 ++ 0b110#3 ++ 0b01001#5 ++ 0b1111011#7) = some (.amoScMinCD 3 9 11 12) ∧
    decode (0b1000#4 ++ 0b011#3 ++ 0b01011#5 ++ 0b01100#5 ++ 0b110#3 ++ 0b01001#5 ++ 0b1111011#7) = some (.amoScMaxCD 3 9 11 12) := by
  decide +kernel

/-! ### Small operations and single steps -/

/-- The worked layouts of chapter 3 and Table 3-5. -/
theorem test_number_formats :
    let half3 : Ex := .fin false 3 2 0
    rne32 half3 = 0x3FC00000 ∧ encFloat layBf16 .rne half3 = 0x3FC0 ∧ encF19 (.ofInt 1) = 0x1FC00 ∧ encF19 (.ofInt 2) = 0x20000 ∧
    encF19 (.ofInt 3) = 0x20200 ∧ encF19 (.inf false) = 0x3FC00 ∧ (se53 0x00).isZero = true ∧ (se53 0x07).eq (.fin false 7 1 (-17)) = true ∧
    (se53 0x08).eq (.fin false 1 1 (-14)) = true ∧ (se53 0x78).eq (.ofInt 1) = true ∧ (se53 0x7C).eq half3 = true ∧
    (se53 0xFE).eq (.ofInt 114688) = true ∧ (se53 0xFF).isNan = true := by
  decide +kernel

/-- Table 3-3: a wider cardinal of a negative number is its sign extension, a narrower one its clamp. -/
theorem test_integer_conversions :
    (Fmt.mk .i16 .c32 .rne (fun _ => 0) 0 (.zero false)).convert 0xFFFF = 0xFFFFFFFF ∧
    (Fmt.mk .i16 .c8 .rne (fun _ => 0) 0 (.zero false)).convert 0xFFFF = 0 := by
  decide +kernel

/-- The table of the T8 examples, and their results. -/
theorem test_t8_codes :
    let bytes : List Byte := bytesOf 4 0 ++ bytesOf 4 0x1FC00 ++ bytesOf 4 0x20000 ++ bytesOf 4 0x20200
    let t : T8Image := fun o => if o < 16 then bytes.getD o 0 else if o < 1024 then (bytesOf 4 0x3FE00).getD (o % 4) 0
      else if o < 1028 then (bytesOf 4 4).getD (o - 1024) 0 else BitVec.ofNat 8 (o - 1028)
    let x (neg : Bool) (num : Nat) : Ex := .fin neg num 2 0
    t8Encode (x false 3) t .rne = 2 ∧ t8Encode (x false 5) t .rne = 2 ∧ t8Encode (x false 1) t .rne = 0 ∧ t8Encode (x true 14) t .rne = 0 ∧
    t8Encode (x false 18) t .rne = 3 ∧ t8Encode .nan t .rne = 4 ∧ t8Encode (x false 3) t .down = 1 := by
  decide +kernel

/-- Table 3-6, and the values after R125. -/
theorem test_traces :
    encodeTl16 0x3F800000 = 0x0000 ∧ encodeTl16 0x3FC00000 = 0x0096 ∧ encodeTl16 0xBE800000 = 0xFE00 ∧ encodeTl16 0x80000000 = 0x4000 ∧
    encodeTl16 0x7FC00000 = 0xC000 ∧ encodeTl16 0x62800000 = 0x3FFF ∧ encodeTl16 0x1C800000 = 0x4000 ∧ decode32 0xC000 = 0x7FC00000 ∧
    decode32 0xFE00 = 0xBE800000 ∧ fadeTl16 232 3 256 (-1024) = 0x7DE8 ∧ fadeTl16 232 5 256 (-1024) = 0x4000 ∧
    fadeTl16 0x0096 1 256 (-1024) = 0x7F96 := by
  decide +kernel

/-- The example of R46: the tree of `vred.fadd`, pushed into `bq`. -/
theorem test_vred_fadd :
    let s := on fun sl =>
      { sl with
        regdem := 2, ports := ⟨0, 0, 1, 0⟩, p := sl.p.set 1 0xFFFFFFFF
        v := sl.v.set 1 (BitVec.ofNat 256 (0x4B800000 + 0x3F8000003F8000003F8000003F800000 * 2 ^ 128)) }
    (stateOf (exec (.vredFadd 1 30 1) s) s).slot.bq = [0x4B800002] := by
  decide +kernel

/-- The second line of the values after R125. -/
theorem test_vtacc :
    let s := on fun sl =>
      { sl with regdem := 4, ports := ⟨1, 0, 0, 0⟩, lq := [0x3F800000], p := sl.p.set 1 3, v := sl.v.set 1 0x7F96 }
    lane 16 0 ((stateOf (exec (.vtacc 1 3 1 28) s) s).slot.v.get 3) = 0x00CF := by
  decide +kernel

/-- Lane 1 of the sweep of the running example: w01. -/
theorem test_reward_lane : (rewardLane 0x3E800000 false 0x7F523400).1 = 0x7F52367F := by
  decide +kernel

/-- The header example of chapter 4: core 641, channel 12, normal priority. -/
theorem test_header : hdrDest 0x0000000001409800 = 641 ∧ hdrChan 0x0000000001409800 = 12 ∧ hdrPrio 0x0000000001409800 = false := by
  decide +kernel

/-- The example after R60: slot 3 takes channel 12, slot 0 channel 9, and slot 2 channel 3. -/
theorem test_selection :
    let head (ch : Nat) (hi : Word) (s : State) : State := s.modChan 0 ch fun q =>
      { q with hrec := some { hr with baydem := 0, regdem := 0 }, en := true, queue := [⟨1, hi, [], none, none⟩] }
    let s := (head 3 0 <| head 5 0 <| head 9 0 <| head 12 0x100 st).modCore 0 fun co => { co with lastLo := 5 }
    let s := (s.modSlotOf 0 0 fun sl => { sl with live := false }).modSlotOf 0 1 fun sl => { sl with live := true }
    let t := s.modSlotOf 0 3 fun sl => { sl with live := true }
    let u := ((t.modChan 0 9 fun q => { q with busy := true }).modSlotOf 0 0 fun sl => { sl with live := true }).modCore 0 fun co =>
      { co with lastLo := 9 }
    let ask (s : State) := (select s 0).map fun p => (p.ch, p.slot)
    ask s = some (12, 3) ∧ ask t = some (9, 0) ∧ ask u = some (3, 2) := by
  decide +kernel

/-- The worked example of Table 2-19: feature bit 11 is missing. -/
theorem test_feature_check :
    let bs := bytesOf 4 0x31435A4D ++ bytesOf 4 2 ++ bytesOf 4 128 ++ bytesOf 4 0 ++ bytesOf 8 0x807 ++ bytesOf 104 0
    checkMagic bs = none ∧ checkIssue bs = none ∧ checkFeature 0x1FF bs = some (3, 11) := by
  decide +kernel

/-- The corners of division: by 0, and the most negative number by −1. -/
theorem test_division_corners :
    let s := regs [(1, 0x8000000000000000), (2, BitVec.allOnes 64), (3, 7)]
    (stateOf (exec (.div 4 3 0) s) s).rx 4 = BitVec.allOnes 64 ∧ (stateOf (exec (.rem 4 3 0) s) s).rx 4 = 7 ∧
    (stateOf (exec (.div 4 1 2) s) s).rx 4 = 0x8000000000000000 ∧ (stateOf (exec (.rem 4 1 2) s) s).rx 4 = 0 := by
  decide +kernel

/-- A store at the end of TCM, read back with its sign. -/
theorem test_store_then_load :
    let s := regs [(1, 0xFFFE), (2, 0x8001)]
    let t := stateOf (exec (.sh 2 1 0) s) s
    (stateOf (exec (.lh 3 1 0) t) t).rx 3 = 0xFFFFFFFFFFFF8001 ∧ (stateOf (exec (.lbu 3 1 1) t) t).rx 3 = 0x80 := by
  decide +kernel

/-- `x0` discards writes. -/
theorem test_x0 : (stateOf (exec (.addi 0 0 5) st) st).rx 0 = 0 := by
  decide +kernel

/-- `sc` fails without a reservation, and writes 1. -/
theorem test_sc_fails :
    let s := regs [(1, 0x100), (2, 5)]
    (stateOf (exec (.scW 0 0 3 2 1) s) s).rx 3 = 1 ∧
      (stateOf (exec (.scW 0 0 3 2 1) s) s).byte ((Place.tcm 0).key 0x100) = s.byte ((Place.tcm 0).key 0x100) := by
  decide +kernel

/-- The first step after reset with a word placed runs it: `addi x1, x0, 5` of Table 2-11. -/
theorem test_step_runs_placed_word :
    let s := State.reset.withFetchWord 32 0x00500093
    (stateOf (step s) s).rx 1 = 5 := by
  decide +kernel

/-- A word of zeros is no instruction, and traps. -/
theorem test_step_traps_on_zeros :
    let s := State.reset.withFetchWord 32 0
    (stateOf (step s) s).slot.live = false := by
  decide +kernel

/-- The end of Table 20-1: the route from (5, 5) to (9, 5) round a dead router at (6, 5), in the rows 4 and 5. -/
theorem test_detour :
    let live (p : Nat) : Bool := (p / 24 == 4 || p / 24 == 5) && 5 ≤ p % 24 && p % 24 ≤ 9 && p != 126
    routePath live 129 1008 (Head.start 125) = [125, 101, 102, 103, 104, 105, 129] := by
  decide +kernel

/-- The state after reset keeps its memory canonical. -/
theorem reset_wf : State.reset.wf = true := by
  decide +kernel

theorem witness_EncodeInvertsDecode : decode 0x00500093 = some (.addi 1 0 5) := by
  decide +kernel

/-- FIPS 180-4, the example of one block: "abc". -/
theorem test_sha512_abc : sha512 [0x61, 0x62, 0x63] = bytesBE 64
    0xDDAF35A193617ABACC417349AE20413112E6FA4E89A97EA20A9EEEE64B55D39A2192992A274FC1A836BA3C23A3FEEBBD454D4423643CE80E2A9AC94FA54CA49F := by
  decide +kernel

/-- R131: a load may read before a change that an earlier load would see; R134: not past a fence that orders reads. -/
theorem test_early_read :
    let s := (regs [(2, 0x200)]).setCells (cellsAt ((Place.tcm 0).key 0x200) [7])
    let t := (stateOf (execEarlyRead 0 0 0x200 8 s) s).setCells (cellsAt ((Place.tcm 0).key 0x200) [9])
    (t.runInstr (.ld 1 2 0)).rx 1 = 7 ∧ ((t.runInstr (.fenceS 5 1 0 1 0)).runInstr (.ld 1 2 0)).rx 1 = 9 ∧
    ((t.runInstr (.fenceS 5 1 0 0 1)).runInstr (.ld 1 2 0)).rx 1 = 7 := by
  decide +kernel

/-- Table 20-8: 3 posts accepted, 2 discarded, 1 of 16 entries taken, bound. -/
theorem test_queue_status :
    queueStatusWord ((queueSt (.chan 0 5) [[]]).modQueue 2 fun q => { q with acc := 3, bad := 2 }) 2 = 0x000300020F000001 := by
  decide +kernel

/-- Table 20-3: NOEP, cause 0x26, to the sender's service core, with the endpoint handle in word 3. -/
theorem test_peer_refusal :
    let s := sending st ⟨9, .core 0, true, false, .peerMsg 0 2 0x100 [1] 0 0⟩
    (stateOf (execPeerRefusal 9 s) s).reports.map (fun p => p.2.body) = [serviceBody 0 0 [0x2600000000, 0, 0, 2]] := by
  decide +kernel

/-! ### States that meet the hypotheses of the statements -/

theorem witness_TrapsEndTheActivationAndReturnItsMessage :
    stRun.slot.chan = some 3 ∧ stRun.slot.first = some 3 ∧ stRun.slot.task = none ∧ stRun.cur.core < 2 ^ 17 ∧
    ¬(stRun.cur.core % 128 = 0 ∧ stRun.slot.chan = some 62) ∧ stRun.slot.trigger = some 7 ∧ stRun.slot.taken = [] ∧
    (stRun.chan stRun.cur.core 3).queue.find? (fun e => e.seq == 7) = some ⟨7, 0x100, [1, 2], none, some 0⟩ := by
  decide +kernel

/-- A graph activation, and a spawned child. -/
theorem witness_TrapsEndTheActivationAndReturnItsMessage_others :
    let g := stRun.modSlot fun sl => { sl with task := some ⟨3, 1⟩ }
    let child := stRun.modSlot fun sl => { sl with first := none, trigger := none, chan := none }
    g.slot.first = some 3 ∧ g.slot.task = some ⟨3, 1⟩ ∧ g.slot.taken = [] ∧ child.slot.first = none ∧ child.cur.core < 2 ^ 17 := by
  decide +kernel

theorem witness_LoadsOfTcmGiveTheirBytes :
    ∀ p ∈ ([(1, 1), (2, 2), (3, 4), (4, 8)] : List (Reg × Nat)),
      let va : Word := BitVec.ofInt 64 ((stEnds.rx p.1).toInt + (0 : BitVec 12).toInt)
      va.toNat % p.2 = 0 ∧ va.toNat + p.2 = 0x10000 ∧
        stEnds.badRead stEnds.agent ((List.range p.2).map ((Place.tcm stEnds.cur.core).key va.toNat + ·)) = none := by
  decide +kernel

theorem witness_StoresToTcmWriteTheirBytes :
    ∀ p ∈ ([(1, 1), (2, 2), (3, 4), (4, 8)] : List (Reg × Nat)),
      let va : Word := BitVec.ofInt 64 ((stEnds.rx p.1).toInt + (0 : BitVec 12).toInt)
      va.toNat % p.2 = 0 ∧ va.toNat + p.2 = 0x10000 ∧
        stEnds.badPart stEnds.agent ((List.range p.2).map ((Place.tcm stEnds.cur.core).key va.toNat + ·)) = none := by
  decide +kernel

theorem witness_MisalignedAndUnmappedAccessesTrap :
    (∀ n ∈ [2, 4, 8], (stEnds.rx 1).toNat % n ≠ 0 ∧ inAlias (stEnds.rx 1) = false) ∧
    (∀ n ∈ [1, 2, 4, 8], (stEnds.rx 6).toNat % n = 0 ∧ 2 ^ 48 ≤ (stEnds.rx 6).toNat) := by
  decide +kernel

theorem witness_OnlyStoresChangeMemory :
    (∃ t, exec (.sd 1 4 0) stEnds = .next t) ∧ (∃ t, exec (.ld 1 4 0) stEnds = .next t) ∧
    ∃ va n a ks, stEnds.prepare .store va n = .keys a ks ∧ realKeys ks ≠ [] :=
  ⟨⟨_, rfl⟩, ⟨_, rfl⟩, 0xFFF8, 8, _, _, rfl, by decide +kernel⟩

theorem witness_AtomicsUpdateTcmIndivisibly :
    stEnds.sendsOut .part = false ∧
    ∀ p ∈ ([(3, 4), (4, 8)] : List (Reg × Nat)), (stEnds.rx p.1).toNat % p.2 = 0 ∧ (stEnds.rx p.1).toNat + p.2 = 0x10000 ∧
      stEnds.badRead stEnds.agent ((List.range p.2).map ((Place.tcm stEnds.cur.core).key (stEnds.rx p.1).toNat + ·)) = none := by
  decide +kernel

/-- A slot that holds the reservation of its granule, and one that holds none. -/
theorem witness_ReservationsPairLrWithSc :
    let key := (Place.tcm 0).key 0xFFF8
    let held := { stEnds with resv := [⟨0, 0, key / 8⟩] }
    (∀ s ∈ [stEnds, held], s.sendsOut .part = false ∧ (s.rx 4).toNat % 8 = 0 ∧ (s.rx 4).toNat + 8 ≤ 0x10000 ∧
      s.badRead s.agent ((List.range 8).map (key + ·)) = none ∧ s.badPart s.agent ((List.range 8).map (key + ·)) = none) ∧
    held.resv.any (fun r => decide (r.core = 0 ∧ r.slot = 0) && r.granule == key / 8) = true ∧
    stEnds.resv.any (fun r => decide (r.core = 0 ∧ r.slot = 0) && r.granule == key / 8) = false := by
  decide +kernel

theorem witness_CsrFormsReadAndWriteTheirFields :
    let s := on fun sl => { sl with tabsel := 321 }
    let e := on fun sl => { sl with tabsel := 320, sel := 63 }
    let b (old : Bool) : Behind := ⟨true, [.todo 0 0 (namesOf (.fence 15 15 1 0 0)), .ran ⟨[], [], []⟩ false], st.slot.regs, old, 0, none⟩
    e.slot.sel = 63 ∧ e.slot.tabsel.toNat % 512 = 320 ∧ s.slot.sel ≠ 63 ∧ s.cur.core < 2 ^ 17 ∧ posOf s (sgOf s.cur.core) < 1008 ∧ 320 < s.slot.tabsel.toNat % 512 ∧
    corePart s s.cur.core = some 0 ∧ (s.parts.get? 0).isSome = true ∧
    s.slot.behind = none ∧ ∀ old, (on fun sl => { sl with behind := some (b old) }).slot.behind = some (b old) := by
  decide +kernel

/-- A fence at system scope that waits for a message to a peer, and one that waits for none; one that owes a message of its slot, a write of
it and one that it has read; and a load that what is owed of a message keeps back. -/
theorem witness_FencesOrderAndReachTheFetchPath :
    let w := sending (on fun sl => { sl with sent := [9] }) (msgTo 3)
    let p := sending (on fun sl => { sl with sent := [9] }) ⟨9, .core 0, true, false, .peerMsg 0 1 0x100 [1] 0 1⟩
    let h (n : Nat) (ag : Agent) (readers : List Agent) : Hidden :=
      { id := n, writer := ag, old := [((Place.granary 0).key (8 * n), 1)], readers := readers, seen := [], deps := [] }
    let s := { w with hidden := [h 5 (.slot 0 0) [], h 6 (.slot 1 0) [.slot 0 0]] }
    let o := s.fenceOwed .part true true true false
    let t := stateOf (exec (.fenceS 5 1 1 1 0) s) s
    (Scope.sys == .sys && p.peerOut) = true ∧ (Scope.sys == .sys && st.peerOut) = false ∧ (Scope.part == .sys && w.peerOut) = false ∧
    scopeOfCode 5 = .part ∧ o.ids = [5, 6] ∧ o.msgs = [9] ∧ t.slot.owed = [o] ∧ o.holds t.slot (.ld 1 2 0) = true ∧
    o.holds t.slot (.sd 1 2 0) = false ∧ (t.net.any fun m => o.msgs.contains m.id && msgIn t .part m) = true ∧ t.slot.flights = [] ∧
    inScope s .part s.agent (.slot 1 0) = true ∧ t.slot.instret = s.slot.instret + 1 := by
  decide +kernel

/-- A load that retires before it reads, one that does not need it and ones that do; and what it then reads. -/
theorem witness_FencesOrderAndReachTheFetchPath_late :
    let s := (regs [(2, 0x200), (3, 0x208)]).setCells (cellsAt ((Place.tcm 0).key 0x200) [7])
    let t := (s.takeOff (.ld 1 2 0)).getD s
    let k := (t.slot.flights.map Flight.id).headD 0
    let u := stateOf (execFlightLand 0 0 k t) t
    s.bad = [] ∧ s.slot.bad = [] ∧ s.slot.live = true ∧ s.slot.wait = .none ∧ s.slot.flights = [] ∧ s.slot.early = [] ∧ s.slot.owed = [] ∧
    s.slot.pfx = none ∧ s.slot.behind = none ∧ (s.rx 2).toNat % 8 = 0 ∧ (s.rx 2).toNat + 8 ≤ 0x10000 ∧ t.slot.flights.length = 1 ∧
    (t.slot.flights.all fun f => f.olds.isEmpty && f.fences.isEmpty && f.regs.fx.isEmpty && f.instr == .ld 1 2 0 &&
      f.names == { namesOf (.ld 1 2 0) with keys := (List.range 8).map ((Place.tcm 0).key 0x200 + ·) } && !f.stops t (.ld 4 3 0) &&
      f.stops t (.ld 4 1 0) && f.stops t (.ld 1 3 0) && f.stops t (.ld 4 2 0)) = true ∧
    t.rx 1 = 0 ∧ u.rx 1 = 7 ∧ u.slot.flights = [] := by
  decide +kernel

theorem witness_PrefixIsHeldForTheNextInstruction :
    let s := on fun sl => { sl with pfx := some Held.zero }
    st.slot.pfx = none ∧ s.slot.pfx ≠ none ∧ encode (.fmt 1 2 0 0 0 0) = some 0x1200407B ∧
    decode 0x00500093 = some (.addi 1 0 5) ∧ isFmt (.addi 1 0 5) = false ∧
    ¬((0x00500093 : BitVec 32).extractLsb' 0 7 = 0x2B ∧ (0x00500093 : BitVec 32).extractLsb' 27 2 = 3) := by
  decide +kernel

theorem witness_DecodeInvertsEncode :
    (Instr.vmvx 2 5 30 0).wf = true ∧ encode (.vmvx 2 5 30 0) = some 0x120F32DB ∧ decode 0x120F32DB = some (.vmvx 2 5 30 0) := by
  decide +kernel

theorem witness_IllegalWordsTrap :
    decode 0x00000000 = none ∧ (0 : BitVec 32).extractLsb' 0 2 ≠ 3 ∧ (0x00000077 : BitVec 32).extractLsb' 0 2 = 3 ∧
    (0x00000077 : BitVec 32).extractLsb' 0 7 ∉ ([0x03, 0x0B, 0x0F, 0x13, 0x17, 0x1B, 0x23, 0x2B, 0x2F, 0x33, 0x37, 0x3B, 0x5B, 0x63,
      0x67, 0x6F, 0x73, 0x7B] : List (BitVec 7)) := by
  decide +kernel

theorem witness_StepRunsTheDecodedInstruction :
    let s := { st with sched := [.issue 0] }
    let u : State := { s with sched := [], cur := ⟨0, 0⟩ }
    let v := u.modSlot fun sl => { sl with fbuf := refill u 0 8 (u.slotOf 0 0).pc }
    issueOrder { s with sched := [] } 0 = [0] ∧ (s.slotOf 0 0).left ≠ 0 ∧ (s.slotOf 0 0).fbuf = [] ∧
    (u.slotOf 0 0).pc.toNat + 4 ≤ 0x10000 ∧ s.badRead (.fetch 0) ((List.range 4).map ((Place.tcm 0).key (u.slotOf 0 0).pc.toNat + ·)) = none ∧
    (s.slotOf 0 0).pfx = none ∧ (s.slotOf 0 0).behind = none ∧ (s.slotOf 0 0).flights = [] ∧ (s.slotOf 0 0).early = [] ∧
    (v.dues (.addi 1 0 5)).all v.payable = true ∧ decode (BitVec.ofNat 32 (natOfBytes ((List.range 4).map fun j => s.readByte (.fetch 0) ((Place.tcm 0).key (u.slotOf 0 0).pc.toNat + j)))) =
      some (.addi 1 0 5) ∧
    v.regError (.addi 1 0 5) = none ∧ (s.slotOf 0 0).flow = .none ∧ (s.slotOf 0 0).owed = [] ∧ (v.before (.addi 1 0 5)).hidden = [] ∧
    (let b := v.before (.addi 1 0 5)
     let q := stateOf (exec (.addi 1 0 5) b) v
     q.hidden = [] ∧ (q.slotOf 0 0).early = [] ∧
       issued { s with sched := [] } (b.earlyAfter (b.after q (.addi 1 0 5)) (.addi 1 0 5)) 0 0 = true) := by
  decide +kernel

theorem witness_StepsKeepMemoryCanonical : State.reset.wf = true ∧ st.wf = true ∧ st.mem ≠ [] := by
  decide +kernel

theorem witness_SendsAreBufferedOrTrap :
    let s := on fun sl => { sl with regdem := 4 }
    (3 : Reg).toNat < 28 ∧ (s.cur.slot = 3 ∨ (3 : Reg).toNat < s.slot.regdem) ∧ corePart s s.cur.core ≠ none ∧
    sendTrap s 0x200 0 none = none ∧ sendTrap s 0x20F 0 none = some (0x08, 0x20F) ∧ sendTrap s 0x7E00 0 none = some (0x09, 63) := by
  decide +kernel

/-- Sends that fit, none among them, and sends that do not. -/
theorem witness_ExitReleasesItsActivation :
    let s := st.modCore 0 fun co => { co with outb := List.range 16 }
    let w := s.modSlot fun sl => { sl with sends := [.token 1 1] }
    st.slot.task = none ∧ w.slot.task = none ∧ st.slot.sends.length ≤ 16 - (st.core 0).outb.length ∧
    ¬(w.slot.sends.length ≤ 16 - (w.core 0).outb.length) := by
  decide +kernel

theorem witness_SuccessorsTakeOverTheSlot :
    let s (reg : Nat) (x : Word) (w : Wait) (busy : Bool) : State :=
      (stBound.modChan 0 5 fun q => { q with busy := busy }).modSlot fun sl =>
        { sl.wx 1 x with regdem := reg, baydem := 1, chan := some 3, wait := w }
    let free (s : State) := (s.chan 0 5).busy = false ∨ s.slot.chan = some 5
    (s 2 63 .none false).cur = ⟨0, 0⟩ ∧ ((s 2 63 .none false).rx 1).toNat = 63 ∧
    ((s 2 62 .none false).chan 0 62).hrec = none ∧ ((s 2 62 .none false).rx 1).toNat = 62 ∧
    ((s 1 5 .none false).chan 0 5).hrec = some hr ∧ (s 1 5 .none false).slot.regdem < hr.regdem ∧
    ¬free (s 2 5 .none true) ∧ hr.regdem ≤ (s 2 5 .none true).slot.regdem ∧ hr.baydem ≤ (s 2 5 .none true).slot.baydem ∧
    free (s 2 5 .none false) ∧ ((s 2 5 .none false).core 0).outb.length + (s 2 5 .none false).slot.sends.length ≤ 16 ∧
    ((s 2 5 (.succ 5) false).slotOf 0 0).wait = .succ 5 ∧ ((s 2 5 (.succ 5) false).slotOf 0 0).left ≠ 0 ∧ ((s 2 5 (.succ 5) false).chan 0 5).busy = false ∧
    ((s 2 5 (.release (some 5)) true).slotOf 0 0).wait = .release (some 5) ∧ ((s 2 5 (.release (some 5)) true).chan 0 5).busy = true ∧
    ((s 2 5 (.release (some 5)) true).core 0).outb.length < 16 := by
  decide +kernel

theorem witness_SpawnAsksAndIsAnswered :
    let s := regs [(1, 1), (2, 122880), (3, 0x102), (4, 0x100)]
    let named (x : Word) := x.toNat / 128 < 960 ∧ corePart s 0 ≠ none ∧ corePart s x.toNat = corePart s 0
    let q := sending s ⟨9, .core 0, false, false, .spawnReq 0 0 1 0x100 [1, 2, 3, 4] 2 100⟩
    let full := q.modCore 1 fun co => { co with loadHold := some 1 }
    let due := q.modCore 1 fun co => { co with rewards := [⟨1, false, 0, 0, 1⟩] }
    let a (left : Nat) := sending (s.modSlot fun sl => { sl with wait := .spawn 5, left := left }) ⟨9, .core 1, false, false, .spawnAns 0 0 true⟩
    named (s.rx 1) ∧ ¬named (s.rx 2) ∧ (s.rx 3).toNat % 4 ≠ 0 ∧ (s.rx 4).toNat % 4 = 0 ∧
    q.msg? 9 = some ⟨9, .core 0, false, false, .spawnReq 0 0 1 0x100 [1, 2, 3, 4] 2 100⟩ ∧
    (([0, 1, 2] : List (Fin 4)).filter fun j => !((q.core 1).slots.get j).live) ≠ [] ∧ (q.core 1).cutHold = false ∧
    (q.core 1).loadHold = none ∧ 2 ≤ poolFree (q.core 1) ∧ (full.core 1).loadHold ≠ none ∧
    (q.core 1).rewards = [] ∧ (full.core 1).rewards = [] ∧ (due.core 1).rewards ≠ [] ∧ (due.core 1).sweep = none ∧
    (due.core 1).cutHold = false ∧ due.msg? 9 = q.msg? 9 ∧
    ∀ left ∈ [0, 7], (a left).msg? 9 = some ⟨9, .core 1, false, false, .spawnAns 0 0 true⟩ ∧
      ((a left).slotOf 0 (slotIx 0)).wait = .spawn 5 ∧ ((a left).slotOf 0 (slotIx 0)).left = left := by
  decide +kernel

theorem witness_WaitmTakesTheOldestMessage :
    let e : QEntry := ⟨3, 0x40, [1, 2], none, none⟩
    let s := (regs [(1, 63), (2, 62), (3, 5)]).modChan 0 5 fun q => { q with hrec := some hr, queue := [e] }
    let w := s.modSlotOf 0 1 fun sl => { sl with live := true, left := 5, wait := .waitm 4 5 7 }
    62 < (s.rx 1).toNat ∧ (stBound.chan 0 5).en = true ∧ (s.rx 2).toNat ≤ 62 ∧ (s.chan 0 62).en = false ∧
    (s.chan 0 62).queue.find? (fun q => q.taken == none) = none ∧ (s.rx 3).toNat ≤ 62 ∧ (s.chan 0 5).en = false ∧
    (s.chan 0 5).queue.find? (fun q => q.taken == none) = some e ∧ waiting s 0 5 = false ∧ waiting w 0 5 = true ∧
    (7, (1 : Fin 4), (4 : Reg)) ∈ waiters w 0 5 ∧ ∀ x ∈ waiters w 0 5, 7 < x.1 ∨ x = (7, 1, 4) := by
  decide +kernel

theorem witness_ChannelMasksAndCriticalWindows :
    let s := regs [(1, 63), (2, 62)]
    let busy := s.modSlotOf 0 3 fun sl => { sl with live := true }
    let wait := s.modSlotOf 0 1 fun sl => { sl with live := true, left := 5, wait := .critOn }
    62 < (s.rx 1).toNat ∧ (s.rx 2).toNat ≤ 62 ∧ (s.slotOf 0 3).live = false ∧ busy.cur.slot ≠ 3 ∧ (busy.slotOf 0 3).live = true ∧
    (wait.slotOf 0 1).wait = .critOn ∧ (wait.slotOf 0 1).left ≠ 0 ∧ (wait.slotOf 0 3).live = false := by
  decide +kernel

/-- A message with the form of a slot's reply, and of a copy's, that nobody awaits; an unbound channel, channel 63, room, reserved room, a full reliable channel and a full event channel. -/
theorem witness_ArrivalsAreQueuedHeldDroppedOrDiscarded :
    let e : QEntry := ⟨3, 0x40, [], none, none⟩
    let bound (r : HandlerRec) (q : List QEntry) (res : List Nat) :=
      sending (stBound.modChan 0 5 fun ch => { ch with hrec := some r, queue := q, reserved := res }) (msgTo 5)
    (∀ s ∈ [sending st (msgTo 5), bound hr [e] [], bound hr [e] [9], bound hr [e, e] [], bound { hr with rel := false } [e, e] []],
      s.msg? 9 = some (msgTo 5) ∧ arrivable s (msgTo 5) = true ∧ formsReply (msgTo 5) = false) ∧
    (∀ mark ∈ [0xFFFF, 0xFFFE], let m : Msg := ⟨9, .controller, false, false, .chan 0 62 (BitVec.ofNat 64 (mark * 2 ^ 48 + 0x100)) [0] none⟩
      (sending st m).msg? 9 = some m ∧ formsReply m = true) ∧ (st.chan 0 5).hrec = none ∧
    ((bound hr [e] []).chan 0 5).queue.length + ((bound hr [e] []).chan 0 5).reserved.length < hr.qdecl ∧
    9 ∈ ((bound hr [e] [9]).chan 0 5).reserved ∧
    ¬(((bound hr [e, e] []).chan 0 5).queue.length + ((bound hr [e, e] []).chan 0 5).reserved.length < hr.qdecl) ∧
    (sending (st.modChan 0 63 fun q => { q with hrec := some hr }) (msgTo 63)).msg? 9 = some (msgTo 63) := by
  decide +kernel

theorem witness_DispatchStartsTheSelectedHandler :
    let s := stBound.modChan 0 5 fun q => { q with queue := [⟨3, 0x40, [1], none, none⟩] }
    let p := stBound.modChan 0 5 fun q => { q with pend := true }
    (select s 0).map (fun p => (p.ch, p.slot)) = some (5, 1) ∧ (select p 0).map (fun p => (p.ch, p.slot)) = some (5, 1) ∧
    (select st 0).isNone = true := by
  decide +kernel

theorem witness_SelectionTakesTheFirstEligibleChannel :
    let s := stBound.modChan 0 5 fun q => { q with queue := [⟨3, 0x140, [1], none, none⟩] }
    (select s 0).map (fun p => (p.ch, p.slot)) = some (5, 3) := by
  decide +kernel

theorem witness_FlowControlReportsBudgetsAndRepliesMoveOn :
    let f (retry : Bool) := sending st ⟨9, .core 1, false, false, .flow 0 8 retry⟩
    let y : Msg := ⟨4, .report (.mailbox 1), false, false, serviceBody 0 1 [1]⟩
    let r := { st with reports := [(.mailbox 1, y)] }
    let spent := on fun sl => { sl with left := 0 }
    let m : Msg := ⟨9, .controller, false, false, .chan 0 62 0xFFFF000000000100 [0] none⟩
    let p := sending (on fun sl => { sl with wait := .page 0x100000000 }) m
    let i := on fun sl => { sl with wait := .interlock 7 }
    (f false).msg? 9 = some ⟨9, .core 1, false, false, .flow 0 8 false⟩ ∧ (f true).msg? 9 = some ⟨9, .core 1, false, false, .flow 0 8 true⟩ ∧
    r.reports.find? (fun q => q.1 == .mailbox 1) = some (.mailbox 1, y) ∧ bodyDest y.body = some (0, 62) ∧
    (spent.slotOf 0 0).live = true ∧ (spent.slotOf 0 0).left = 0 ∧ (spent.slotOf 0 0).wait = .none ∧
    (spent.slotOf 0 0).behind = none ∧
    ((spent.modSlot fun sl => { sl with behind := some ⟨true, [], sl.regs, false, 0, none⟩ }).slotOf 0 0).behind ≠ none ∧
    (sending st m).msg? 9 = some m ∧ arrivable (sending st m) m = true ∧ (st.slotOf 0 0).wait = .none ∧ p.msg? 9 = some m ∧ arrivable p m = true ∧ isReply m markSlot = true ∧ slotIx ((0xFFFF000000000100 : Word).extractLsb' 32 2).toNat = 0 ∧
    (p.slotOf 0 0).wait = .page 0x100000000 ∧ (i.slotOf 0 0).wait = .interlock 7 ∧ interlocked i 0 7 = false := by
  decide +kernel

theorem witness_TranslationsAreFilledAndDropped :
    let l : Leaf := { r := true, w := true, x := false, state := .present, tier := .silo, frame := 0, home := 0, big := false, lost := false }
    let s := st.modPart 0 fun p => { p with pages := putLeaf [0x10000, 0x11000, 0x12000] p.pages 0x10000 l }
    let g := st.modPart 0 fun p => { p with pages := putLeaf [0x10000, 0x11000] p.pages 0x10000 { l with state := .discarded, big := true } }
    winOf 0x100000000 = .paged ∧ winOf 0x100230000 = .paged ∧
    tlbFind (s.core 0).dtlb 0x10000 = none ∧ tlbFind (s.core 0).itlb 0x10000 = none ∧
    tlbFind (s.cluster (clusterOf 0)).l2tlb 0x10000 = none ∧ tlbFind (g.core 0).dtlb 0x10000 = none ∧
    tlbFind (g.core 0).itlb 0x10000 = none ∧ tlbFind (g.cluster (clusterOf 0)).l2tlb 0x10000 = none ∧
    leafOf (s.pageTable (corePart s 0)) 0x10000 = some l ∧ l.state = .present ∧
    leafOf (g.pageTable (corePart g 0)) 0x10003 = some { l with state := .discarded, big := true } := by
  decide +kernel

/-- Each outcome: a port declared 0, a register beyond the demand, a full destination port, an empty source port, and ready operands. -/
theorem witness_VectorOperandsComeFromRegistersAndPorts :
    let none0 := stVec.modSlot fun sl => { sl with ports := ⟨0, 2, 2, 2⟩ }
    let full := stVec.modSlot fun sl => { sl with ports := ⟨2, 1, 2, 2⟩ }
    portIllegal none0 28 = true ∧ vregBad stVec 4 = true ∧ vregBad stVec 3 = false ∧ portRoom full 29 = false ∧
    portRoom stVec 29 = true ∧ goes (stVec.vready (.vadd 0 0 29 28 31) [(28, 8), (31, 8)] [] (some 29)) = true ∧
    goes (stVec.vready (.vadd 0 0 29 28 28) [(28, 8), (28, 8)] [] (some 29)) = false := by
  decide +kernel

/-- A form whose port stays empty stalls its stream; another one of the stream and one that needs nothing of it stand after it. -/
theorem witness_VectorOperandsComeFromRegistersAndPorts_behind :
    let w (i : Instr) : BitVec 32 := (encode i).getD 0
    let i : Instr := .vadd 0 0 2 28 28
    let b : Behind := ⟨true, [.todo 0 (w i) (namesOf i)], stVec.slot.regs, false, stVec.slot.instret, none⟩
    let s := stVec.modSlot fun sl => { sl with behind := some b }
    slotReady stVec stVec.cur.core stVec.cur.slot = true ∧ stVec.slot.pfx = none ∧ stVec.slot.flow = .none ∧ stVec.slot.owed = [] ∧
    stVec.slot.flights = [] ∧ stVec.slot.early = [] ∧
    stVec.hidden = [] ∧ decode (w i) = some i ∧ stVec.slot.behind = none ∧ stVec.regError i = none ∧
    s.slot.behind = some b ∧ b.exec = true ∧ b.old = false ∧ b.prefixed = false ∧ decode (w (.addi 4 1 5)) = some (.addi 4 1 5) ∧
    1 ∉ b.toCome.xs ∧
    s.regError (.addi 4 1 5) = none := by
  decide +kernel

/-- The oldest form that stalled has its entry, and what ran ahead of it wrote its register, or another one. -/
theorem witness_VectorOperandsComeFromRegistersAndPorts_oldest :
    let i : Instr := .vadd 0 0 2 28 1
    let word : BitVec 32 := (encode i).getD 0
    let s (r : Reg) : State := stVec.modSlot fun sl => { sl with
      pc := sl.pc + 8
      behind := some ⟨true, [.todo sl.pc word (namesOf i), .ran ⟨[], [(r, 5)], []⟩], sl.regs, false, sl.instret, none⟩ }
    decode word = some i ∧ ∀ r ∈ ([2, 3] : List Reg), (s r).slot.behind.isSome = true ∧
      slotReady (s r) (s r).cur.core (s r).cur.slot = true ∧ (s r).slot.pfx = none ∧ (s r).slot.flow = .none ∧ (s r).slot.owed = [] ∧
      (s r).hidden = [] ∧ (s r).slot.flights = [] ∧ (s r).slot.early = [] ∧
      ∀ b ∈ (s r).slot.behind, b.old = false ∧ b.mark = (s r).slot.instret ∧ b.regs.pfx = none ∧
        b.items.head? = some (.todo stVec.slot.pc word (namesOf i)) ∧ b.items.drop 1 = [.ran ⟨[], [(r, 5)], []⟩] ∧
        (let u := (s r).modSlot fun sl => { sl.withRegs b.regs with
           behind := some { b with regs := sl.regs, old := true, mark := sl.instret } }
         u.regError i = none ∧ goes (u.vready i [(28, 8), (1, 8)] [] (some 2)) = true) := by
  decide +kernel

theorem witness_VectorOperandsComeFromRegistersAndPorts_stall :
    stVec.vready (.vadd 0 0 2 28 28) [(28, widthOf 0), (28, widthOf 0)] [] (some 2) = .stop stVec := by
  rfl

theorem witness_IntegerLanesGiveTheirResults :
    ∃ x y sl, stVec.vready (.vadd 1 1 3 28 2) [(28, widthOf 1), (2, widthOf 1)] [] (some 3) = .go x y sl :=
  goes_spec (by decide +kernel)

theorem witness_ComparisonsAndSelectionActByLane :
    (∃ x y sl, stVec.vready (.vcmpLt 1 2 2 1 1 31) [(1, widthOf 2), (31, widthOf 2)] [] none = .go x y sl) ∧
    ∃ x y sl, stVec.vready (.vsel 1 3 1 2) [(1, 8), (2, 8)] [] (some 3) = .go x y sl :=
  ⟨goes_spec (by decide +kernel), goes_spec (by decide +kernel)⟩

/-- No prefix, prefixes that are accepted, and prefixes that are not. -/
theorem witness_FloatingLanesRoundExactResultsOnce :
    stVec.slot.pfx = none ∧ (arithFmt (stFmt ⟨2, 3, 0, 1, 2, 0x85⟩)).isSome = true ∧ arithFmt (stFmt ⟨1, 2, 0, 0, 0, 0⟩) = none ∧
    (cmpFmt (stFmt ⟨2, 0, 0, 0, 1, 0x85⟩)).isSome = true ∧ cmpFmt (stFmt ⟨1, 0, 0, 1, 0, 0⟩) = none ∧
    (∃ x y sl, (stFmt ⟨2, 3, 0, 1, 2, 0x85⟩).vready (.vfadd 1 3 1 2) [(1, 16), (2, 16)] [] (some 3) = .go x y sl) ∧
    (∃ x y sl, (stFmt ⟨2, 3, 0, 1, 2, 0x85⟩).vready (.vfrcp 1 3 1) [(1, 16)] [] (some 3) = .go x y sl) ∧
    ∃ x y sl, (stFmt ⟨2, 0, 0, 0, 1, 0x85⟩).vready (.vfcmpEq 1 2 1 2) [(1, 16), (2, 16)] [] none = .go x y sl := by
  refine ⟨by decide +kernel, by decide +kernel, ?_, by decide +kernel, ?_, goes_spec (by decide +kernel), goes_spec (by decide +kernel),
    goes_spec (by decide +kernel)⟩
  · exact Option.isNone_iff_eq_none.mp (by decide +kernel)
  · exact Option.isNone_iff_eq_none.mp (by decide +kernel)

theorem witness_ConversionsAndTracesGiveTheirLanes :
    (cvtFmt (stFmt ⟨1, 8, 0, 2, 0, 0⟩)).isSome = true ∧ (cvtFmt (stFmt ⟨4, 8, 0, 2, 0, 0⟩)).isNone = true ∧
    (encFmt (stFmt ⟨2, 4, 1, 0, 1, 0x80⟩)).isSome = true ∧ (encFmt (stFmt ⟨2, 7, 0, 0, 0, 0⟩)).isNone = true ∧
    (dec8Fmt (stFmt ⟨4, 1, 1, 0, 0, 0⟩)).isSome = true ∧ (dec8Fmt (stFmt ⟨7, 1, 0, 0, 0, 0⟩)).isNone = true ∧
    traceFmt stVec = some () ∧ (traceFmt (stFmt ⟨0, 0, 0, 0, 0, 1⟩)).isNone = true ∧
    (∃ x y sl, stVec.vready (.vtfade 1 3 1 2) [(1, 16), (2, 32)] [] (some 3) = .go x y sl) ∧
    ∃ x y sl, stVec.vready (.vtenc 1 3 1) [(1, 32)] [] (some 3) = .go x y sl :=
  ⟨by decide +kernel, by decide +kernel, by decide +kernel, by decide +kernel, by decide +kernel, by decide +kernel, by decide +kernel,
    by decide +kernel, goes_spec (by decide +kernel), goes_spec (by decide +kernel)⟩

theorem witness_LanesMoveAndReduce :
    (∃ x y sl, stVec.vready (.vbc 1 2 29 1) [] [] (some 29) = .go x y sl) ∧
    (∃ x y sl, stVec.vready (.vmvx 2 1 28 0) [(28, widthOf 2)] [] none = .go x y sl) ∧
    (let none0 := stVec.modSlot fun sl => { sl with ports := ⟨2, 2, 0, 2⟩ }
     let empty := stVec.modSlot fun sl => { sl with bq := [] }
     stVec.slot.bq = 7 :: [] ∧ stVec.slot.ports.bq ≠ 0 ∧ none0.slot.compat = false ∧ none0.slot.ports.bq = 0 ∧ empty.slot.bq = [] ∧
       empty.slot.ports.bq ≠ 0) ∧
    (∃ x y sl, stVec.vready (.vmxv 0 31 1 0) [] [] (some 31) = .go x y sl) ∧
    (∃ x y sl, stVec.vready (.vmxv 0 3 1 31) [] [] (some 3) = .go x y sl) ∧
    (∃ x y sl, stVec.vready (.vperm 1 1 3 1 2) [(1, widthOf 1), (2, widthOf 1)] [] (some 3) = .go x y sl) ∧
    (∃ x y sl, stVec.vready (.vrot 1 1 3 28 5) [(28, widthOf 1)] [] (some 3) = .go x y sl) ∧
    (∃ x y sl, stVec.vready (.vvote 1 1 30 1 2) [(1, widthOf 1)] [] (some 30) = .go x y sl) ∧
    ∃ x y sl, stVec.vready (.vredMin 1 3 3 1) [(1, widthOf 3)] [] (some 3) = .go x y sl :=
  ⟨goes_spec (by decide +kernel), goes_spec (by decide +kernel), by decide +kernel, goes_spec (by decide +kernel),
    goes_spec (by decide +kernel), goes_spec (by decide +kernel), goes_spec (by decide +kernel), goes_spec (by decide +kernel),
    goes_spec (by decide +kernel)⟩

/-- The last 32 bytes of TCM, a strided and an indexed access, and a base that is not a multiple of 4. -/
theorem witness_VectorMemoryFormsMoveTcm :
    stVec.bad = [] ∧ (∃ x y sl, stVec.vready (.vld 0 28 1 0) [] [] (some 28) = .go x y sl) ∧
    (∃ x y sl, stVec.storeReady (.vst 0 29 1 0) 29 [] = .go x y sl) ∧
    (∃ x y sl, stVec.vready (.vlds 1 0 3 1 2) [] [] (some 3) = .go x y sl) ∧
    (∃ x y sl, stVec.vready (.vldx 1 1 3 2 1) [] [1] (some 3) = .go x y sl) ∧
    (stVec.rx 1).toNat % 4 = 0 ∧ (∀ j < 32, (stVec.rx 1 + BitVec.ofNat 64 j).toNat + 1 ≤ 0x10000) ∧
    (∀ j < 8, (BitVec.ofInt 64 ((stVec.rx 1).toInt + ((j : Nat) : Int) * (stVec.rx 2).toInt)).toNat % 4 = 0 ∧
      (BitVec.ofInt 64 ((stVec.rx 1).toInt + j * (stVec.rx 2).toInt)).toNat + 4 ≤ 0x10000) ∧
    stVec.slot.rp 0 ≠ 0 ∧ (stVec.rx 3 + BitVec.ofInt 64 ((0 : BitVec 9).toInt * 4)).toNat % 4 ≠ 0 :=
  ⟨by decide +kernel, goes_spec (by decide +kernel), goes_spec (by decide +kernel), goes_spec (by decide +kernel),
    goes_spec (by decide +kernel), by decide +kernel, by decide +kernel, by decide +kernel, by decide +kernel, by decide +kernel⟩

/-- An operation in flight, a core above 7 and the last one, eight cores that agree, and eight of which one does not. -/
theorem witness_ClusterRoundsJoinAndComplete :
    let s := regs [(1, 7), (2, 8)]
    let j (_ f : Nat) : Join := ⟨0, f, 1, 0, 0⟩
    let all (f : Nat → Nat) : State := (List.range 8).foldl (fun s r => (s.modCore r fun co => { co with join := some (j r (f r)) }).modSlotOf
      r 0 fun sl => { sl with live := true, left := 5, wait := .round 3 }) s
    (s.core 0).join = none ∧ ((all fun _ => 0).core 0).join ≠ none ∧ (s.rx 1).toNat ≤ 7 ∧ 7 < (s.rx 2).toNat ∧
    (∀ r : Fin 8, ((all fun _ => 5).core (0 * 8 + r.val)).join = some ⟨0, 5, 1, 0, 0⟩ ∧
      ((all fun _ => 5).slotOf (0 * 8 + r.val) 0).wait = .round 3 ∧ ((all fun _ => 5).slotOf (0 * 8 + r.val) 0).left ≠ 0) ∧
    (((all fun _ => 5).modSlotOf 3 0 fun sl => { sl with left := 0 }).slotOf (0 * 8 + 3) 0).left = 0 ∧
    (∀ r : Fin 8, ((all fun r => r / 7).core (0 * 8 + r.val)).join = some ⟨0, r.val / 7, 1, 0, 0⟩) ∧ 7 / 7 ≠ 0 / 7 := by
  decide +kernel

/-- A record that leaves, an idle cluster, the messages of a steal, and the end of a back-off; a resident team in its last cycle and
past it, and its swap for a team that has been here. -/
theorem witness_PoolRecordsAndTeamsTakeTheirTurns :
    let rec0 : TaskRec := ⟨⟨1, 0⟩, 0xA00, [1], none, false, 0, 0⟩
    let s := stBound.modCluster 0 fun q => { q with pool := [rec0] }
    let idle := st.modSlotOf 0 0 fun sl => { sl with live := false }
    let q := sending s ⟨9, .gleaner 1, false, false, .stealReq 1 0⟩
    let a := sending s ⟨9, .gleaner 1, false, false, .stealAns 0 []⟩
    let ta : Team := ⟨⟨1, 0⟩, 0, none, 0⟩
    let tb : Team := ⟨⟨2, 0⟩, 0, some [], 0⟩
    let teams (now : Nat) := ((st.modField 0 fun f => { f with time := BitVec.ofNat 64 now }).modCluster 0 fun q =>
      { q with teams := [ta, tb], expired := true })
    (nextRec s 0).map Prod.fst = some rec0 ∧ clusterIdle idle 0 = true ∧ (idle.cluster 0).asking = false ∧ (idle.cluster 0).backoff = false ∧
    q.msg? 9 = some ⟨9, .gleaner 1, false, false, .stealReq 1 0⟩ ∧ a.msg? 9 = some ⟨9, .gleaner 1, false, false, .stealAns 0 []⟩ ∧
    ((st.modCluster 0 fun q => { q with backoff := true }).cluster 0).backoff = true ∧
    ((teams 0).cluster 0).teams = ta :: tb :: [] ∧ 65536 ≤ ((teams 65536).field (sgField (teams 65536) 0)).time.toNat - ta.since ∧
    ((teams 65535).field (sgField (teams 65535) 0)).time.toNat - ta.since < 65536 ∧ ((teams 0).cluster 0).expired = true ∧
    (∀ c : Fin 8, ∀ k, ((teams 0).slotOf (0 * 8 + c.val) k).live = true → ((teams 0).slotOf (0 * 8 + c.val) k).task ≠ some ta.task) ∧
    queuedRecords (teams 0) 0 ta.task = [] ∧ (teams 0).net = [] ∧ tb.region.map List.length = some (tb.tb * 4096) := by
  decide +kernel

/-- Classes 0 and 6, a full queue, 64 jobs, and room. -/
theorem witness_CommandsJoinTheOpenJobOfTheirClass :
    ([cw 0 0 [], cw 6 0x10 [], cw 1 0x10 [], cw 5 0x50 []].all fun w => goes ((vecSt w).vready (.cmd 2 1) [(1, 32)] [] none)) = true ∧
    ((cw 0 0 []).extractLsb' 8 4).toNat < 1 ∧ 5 < ((cw 6 0x10 []).extractLsb' 8 4).toNat ∧ ((cw 5 0x50 []).extractLsb' 8 4).toNat = 5 ∧
    ((vecSt 0).classQ 0 1).queue.length < 16 ∧ ((vecSt 0).classQ 0 1).jobs.length < 64 := by
  decide +kernel

theorem witness_CommandsJoinTheOpenJobOfTheirClass_waits :
    let full := queued (vecSt (cw 1 0x10 [])) 1 (List.replicate 16 (cw 1 0x10 []))
    let jobs := (vecSt (cw 1 0x10 [])).modClassQ 0 1 fun q => { q with jobs := List.replicate 64 (jobOf 1 []) }
    16 ≤ (full.classQ 0 1).queue.length ∧ (∀ j ∈ (full.classQ 0 1).jobs, j.faulted = false) ∧
    (openJob (jobs.classQ 0 1)).isNone = true ∧ 64 ≤ (jobs.classQ 0 1).jobs.length ∧ ∀ j ∈ (jobs.classQ 0 1).jobs, j.faulted = false := by
  decide +kernel

theorem witness_JobsSealCompleteAndHoldCrossPathFences :
    let s := st.modClassQ 0 1 fun q => { q with nextid := 1, jobs := [jobOf 0 [1]] }
    let b := s.modSlot fun sl => { sl with begun := some [(1, 1)] }
    let f := st.modSlot fun sl => { sl with begun := some [] }
    s.slot.begun = none ∧ b.slot.begun ≠ none ∧ ((b.classQ 0 1).jobs.filter fun j => !j.faulted).length ≤ 1 ∧
    0 < ((b.classQ 0 1).jobs.filter fun j => !j.faulted).length ∧ (s.classQ 0 1).jobs.filter (fun j => !j.faulted) = jobOf 0 [1] :: [] ∧
    (s.classQ 0 1).waiting = [] ∧ (jobOf 0 [1]).sealed = true ∧ (jobOf 0 [1]).left = 0 ∧
    b.slot.begun = some [(1, 1)] ∧ ((b.classQ 0 1).jobs.filter fun j => !j.faulted).map Job.id = [0] ∧ (b.classQ 0 1).nextid = 1 ∧
    (0 - 1 : BitVec 16).toNat = 65535 ∧ (1 - 1 : BitVec 16).toNat = 0 ∧
    (f.slot.begun).getD [] = [] ∧ f.sendsOut .part = false := by
  decide +kernel

/-- A write of another core that a job of the slot's core, opened before its fence began, has read. -/
theorem witness_JobsSealCompleteAndHoldCrossPathFences_users :
    let h : Hidden := { id := 5, writer := .slot 1 0, old := [((Place.granary 0).key 8, 1)], readers := [], seen := [], deps := [],
                        users := [(0, 1, 0)] }
    let s := { st.modClassQ 0 1 fun q => { q with nextid := 1 } with hidden := [h] }
    s.slot.begun = none ∧ (s.classQ 0 1).jobs = [] ∧ (s.classQ 0 1).nextid = 1 ∧ h ∈ s.hidden ∧ (s.cur.core, 1, 0) ∈ h.jobs ++ h.users ∧
    (0 - 1 : BitVec 16).toNat = 65535 ∧ s.sendsOut .part = false := by
  decide +kernel

/-- A slot that owes a write of its own to the loads that follow. -/
theorem witness_JobsSealCompleteAndHoldCrossPathFences_owed :
    let o : Owed := ⟨0, [5], [], true, true, [], .classes (.slot 0 0) 1, ⟨true, true, false, false⟩, 0⟩
    let s := (on fun sl => { sl with owed := [o] })
    let s := { s with hidden := [⟨5, .slot 0 0, [((Place.granary 0).key 8, 1)], [], [], [], none, [], [], [], false⟩] }
    s.slot.owed = [o] ∧ o.view = .classes s.agent 1 ∧ o.holds s.slot (.ld 1 2 0) = true ∧
    (s.before (.ld 1 2 0)).hidden.any (fun h => h.id == 5) = true ∧ inScope s .part s.agent (.slot 1 2) = true ∧
    (1 : BitVec 8).getLsbD (pathBit (.slot 1 2)) = true := by
  decide +kernel

/-- What the reads of a slot have returned, on a path that the first set names without L. -/
theorem witness_JobsSealCompleteAndHoldCrossPathFences_read :
    let h : Hidden := { id := 5, writer := .copy 1, old := [((Place.granary 0).key 8, 1)], readers := [.slot 0 0], seen := [], deps := [] }
    let s := { st with hidden := [h] }
    h ∈ s.hidden ∧ s.agent ∈ h.readers ∧ (2 : BitVec 8).getLsbD (pathBit h.writer) = true ∧ (2 : BitVec 8).getLsbD 0 = false ∧
    s.slot.begun = none ∧ s.sendsOut .part = false := by
  decide +kernel

/-- A common check that fails, and a check of the command's own. -/
theorem witness_FailedCommandsFaultTheirJobs :
    let bad (op : Nat) := queued st 1 [cw 1 op [(13, 1)]]
    let own := queued st 2 [cw 2 0x22 [(176, 0)]]
    (∀ op ∈ [0x10, 0x11, 0x12, 0x13, 0x14, 0x15], picked (matPick (bad op) 0) = some 0 ∧
      commonCheck (bad op) 0 (cw 1 op [(13, 1)]) = some 3) ∧
    picked (copyPick own 0) = some 0 ∧ commonCheck own 0 (cw 2 0x22 []) = none ∧ copyCheck (cmdOf (cw 2 0x22 [(176, 0)])) = some 0x14 ∧
    ((bad 0x10).classQ 0 1).waiting = [] ∧ ((bad 0x10).classQ 0 1).due = false ∧ ((own).classQ 0 2).due = false ∧
    (jobOf 1 []).faulted = false ∧ jobOf 1 [] ∈ ((bad 0x10).classQ 0 1).jobs ∧ (jobOf 1 []).id = (cmdOf (cw 1 0x10 [])).job := by
  decide +kernel

/-- A job that is to complete before the next command of its class begins. -/
theorem witness_FailedCommandsFaultTheirJobs_due :
    let s := (queued st 1 [cw 1 0x14 []]).modClassQ 0 1 fun q => { q with jobs := { jobOf 0 [] with id := 3 } :: q.jobs }
    picked (matPick s 0) = some 0 ∧ (s.classQ 0 1).queue = cmdOf (cw 1 0x14 []) :: [] ∧ (s.classQ 0 1).waiting = [] ∧
    (s.classQ 0 1).due = true := by
  decide +kernel

/-- A command of a faulted job that is taken in its turn. -/
theorem witness_FailedCommandsFaultTheirJobs_later :
    let s := (queued st 1 [cw 1 0x14 []]).modClassQ 0 1 fun q => { q with jobs := q.jobs.map fun j => { j with faulted := true } }
    picked (matPick s 0) = some 0 ∧ (s.classQ 0 1).queue = cmdOf (cw 1 0x14 []) :: [] ∧ (s.classQ 0 1).waiting = [] ∧
    (s.classQ 0 1).due = false ∧ ∀ k ∈ (s.classQ 0 1).jobs, k.id = (cmdOf (cw 1 0x14 [])).job → k.faulted = true := by
  decide +kernel

/-- A source in no window, a list in none, and a source element that is misaligned and one in no window behind one that is neither. -/
theorem witness_FailedCommandsFaultTheirJobs_addresses :
    let cpy := cw 2 0x20 [(64, 0x2000000), (112, 4), (128, 0x1000100)]
    let list (il : Nat) := cw 2 0x21 [(48, 1), (64, 0x1000000), (112, 2), (128, 0x1000100), (192, il)]
    let s (w : Vec) (o : Nat) := (queued st 2 [w]).setCells (cellsAt (bayKey 0 0x1000204) (bytesOf 4 o))
    let ok (w : Vec) (o : Nat) := picked (copyPick (s w o) 0) == some 0 && commonCheck (s w o) 0 w == none && copyCheck (cmdOf w) == none &&
      !((s w o).classQ 0 2).due && (s w o).bad.isEmpty
    let gives (w : Vec) (o : Nat) (va : Int) (n : Nat) := match copyRes (s w o) 0 .load va n with
      | .keys _ => true
      | _ => false
    let v := copyArgs (list 0x1000200)
    ok cpy 0 = true ∧ copyOut (s cpy 0) 0 .load 0x2000000 4 = true ∧ ok (list 0x2000000) 0 = true ∧
    copyOut (s (list 0x2000000) 0) 0 .load 0x2000000 8 = true ∧ ok (list 0x1000200) 1 = true ∧ ok (list 0x1000200) 0x1000000 = true ∧
    gives (list 0x1000200) 1 0x1000200 8 = true ∧ firstInterlock (s (list 0x1000200) 1) 0 0x1000200 8 = none ∧ v.n = 2 ∧ v.es = 2 ∧
    natOfBytes ((s (list 0x1000200) 1).readRes (.copy 0) (copyKeys (s (list 0x1000200) 1) 0 .load 0x1000200 4)) = 0 ∧
    gives (list 0x1000200) 1 0x1000000 2 = true ∧
    natOfBytes ((s (list 0x1000200) 1).readRes (.copy 0) (copyKeys (s (list 0x1000200) 1) 0 .load 0x1000204 4)) = 1 ∧
    natOfBytes ((s (list 0x1000200) 0x1000000).readRes (.copy 0) (copyKeys (s (list 0x1000200) 0x1000000) 0 .load 0x1000204 4)) = 0x1000000 ∧
    copyOut (s (list 0x1000200) 0x1000000) 0 .load 0x2000000 2 = true := by
  decide +kernel

theorem witness_MatrixCommandsHaveTheirEffect :
    let s (w : Vec) := queued st 1 [w]
    (∀ p ∈ [(cw 1 0x10 [(64, 0x1000000)], memCheck), (cw 1 0x11 [(64, 0x1000000)], memCheck), (cw 1 0x12 [(64, 0x1000000)], memCheck),
        (cw 1 0x13 [(54, 1)], mmaCheck), (cw 1 0x14 [], mzeroCheck), (cw 1 0x15 [(52, 1), (64, 0x1000000), (144, 2), (152, 2)], accCheck)],
      picked (matPick (s p.1) 0) = some 0 ∧ commonCheck (s p.1) 0 p.1 = none ∧ p.2 (cmdOf p.1) = none) ∧
    (s (cw 1 0x14 [])).bad = [] ∧ ((s (cw 1 0x14 [])).classQ 0 1).queue = cmdOf (cw 1 0x14 []) :: [] ∧
    ((s (cw 1 0x14 [])).classQ 0 1).waiting = [] ∧ (∀ j ∈ ((s (cw 1 0x14 [])).classQ 0 1).jobs, j.doomed = false ∧ j.due = false) ∧
    ∃ j ∈ ((s (cw 1 0x14 [])).classQ 0 1).jobs, j.id = (cmdOf (cw 1 0x14 [])).job ∧ j.faulted = false := by
  decide +kernel

theorem witness_CopiesStageTheirSourceWhole :
    (copyWords.all fun w => picked (copyPick (queued st 2 [w]) 0) == some 0 && commonCheck (queued st 2 [w]) 0 w == none &&
      copyCheck (cmdOf w) == none && !((queued st 2 [w]).classQ 0 2).due && goesOn (copyPlan (queued st 2 [w]) 0 w).1) = true ∧
    picked (copyPick (queued st 2 [copyPage]) 0) = some 0 ∧ copyCheck (cmdOf copyPage) = none ∧
    pageFaults (copyPlan (queued st 2 [copyPage]) 0 copyPage).1 = true ∧
    (∃ j ∈ ((queued st 2 [copyPage]).classQ 0 2).jobs, j.id = (cmdOf copyPage).job ∧ j.faulted = false) := by
  decide +kernel

theorem witness_CopiesStageTheirSourceWhole_reply :
    let m : Msg := ⟨9, .controller, false, false, .chan 0 62 0xFFFE000000000100 [0] none⟩
    let held := sending ((queued st 2 [copyPage]).modClassQ 0 2 fun q => { q with hold := some 0x100000000 }) m
    held.msg? 9 = some m ∧ arrivable held m = true ∧ isReply m 0xFFFE = true ∧ (held.classQ 0 2).queue = cmdOf copyPage :: [] ∧ (held.classQ 0 2).hold = some 0x100000000 ∧
    jobOf 1 [] ∈ (held.classQ 0 2).jobs ∧ (held.classQ 0 2).waiting = [] ∧ (sending st m).msg? 9 = some m ∧
    arrivable (sending st m) m = true ∧ ((sending st m).classQ 0 2).hold = none := by
  decide +kernel

/-- An error that each kind of matrix command reads, and one of the bay that a row of `mst` and of `macc.st` covers in part. -/
theorem witness_MatrixCommandsHaveTheirEffect_errors :
    let s (w : Vec) (k : Nat) : State := { queued st 1 [w] with bad := [⟨k, 8, .any, false⟩] }
    let bay := bayKey 0 0x1000000
    let mst := cw 1 0x12 [(64, 0x1000004)]
    let macc := cw 1 0x15 [(52, 1), (64, 0x1000004), (144, 2), (152, 2)]
    (∀ p ∈ [(cw 1 0x10 [(64, 0x1000000)], memCheck, bay), (cw 1 0x11 [(64, 0x1000000)], memCheck, bay), (mst, memCheck, tileKey 0 0 0 0),
        (cw 1 0x13 [(54, 1)], mmaCheck, tileKey 0 1 0 0), (cw 1 0x13 [(54, 1)], mmaCheck, accKey 0 0 0 0), (macc, accCheck, accKey 0 0 0 0),
        (mst, memCheck, bay), (macc, accCheck, bay)],
      picked (matPick (s p.1 p.2.2) 0) = some 0 ∧ commonCheck (s p.1 p.2.2) 0 p.1 = none ∧ p.2.1 (cmdOf p.1) = none ∧
      injMatches (classAgent (s p.1 p.2.2) 0 1) .any = true) ∧
    bayKey 0 (0x1000004 + 0 * 32 + 0) = bay + 4 ∧ bay ≤ bay + 4 ∧ bay + 4 < bay + 8 ∧
    bay ∉ (List.range 2).flatMap fun i => span (bayKey 0 (0x1000004 + i * 32)) 32 := by
  decide +kernel

theorem witness_CopiesStageTheirSourceWhole_error :
    let cpy := cw 2 0x20 [(64, 0x1000000), (112, 4), (128, 0x1000100)]
    let cpyg := cw 2 0x21 [(64, 0x1000000), (112, 2), (128, 0x1000100), (192, 0x1000200)]
    let s (w : Vec) (k : Nat) : State := { queued st 2 [w] with bad := [⟨bayKey 0 k, 8, .any, false⟩] }
    (∀ p ∈ [(cpy, 0x1000000), (cpy, 0x1000100), (cpyg, 0x1000200), (cpyg, 0x1000000), (cpyg, 0x1000100)],
      picked (copyPick (s p.1 p.2) 0) = some 0 ∧ commonCheck (s p.1 p.2) 0 p.1 = none ∧ copyCheck (cmdOf p.1) = none ∧
      meetsBad (copyPlan (s p.1 p.2) 0 p.1).1 = true ∧ injMatches (classAgent (s p.1 p.2) 0 2) .any = true ∧
      copyLocked (s p.1 p.2) 0 (copyMoves (copyArgs p.1) (if cmdOpcode p.1 = 0x21 then listOffs (s p.1 p.2) 0 (copyArgs p.1) else [])) = false) ∧
    copyKeys (s cpy 0x1000000) 0 .load 0x1000000 4 = (List.range 4).map fun i => some (bayKey 0 0x1000000 + i) := by
  decide +kernel

theorem witness_RingCommandsHaveTheirEffect :
    let rgin := cw 3 0x30 [(48, 3), (56, 1), (64, 0x1000000), (160, 0x00010202)]
    let rgmatch := cw 3 0x31 [(64, 0x1000000), (112, 1)]
    let rggo := cw 3 0x32 [(64, 0x1000020)]
    ringTakes (ringSt RingSt.reset rgin) rgin = true ∧ rginCheck (cmdOf rgin) = none ∧
    (((ringSt RingSt.reset rgin).ring 0).family false).get 3 = none ∧ ringTakes (ringSt (ringOf 0 none) rgin) rgin = true ∧
    (((ringSt (ringOf 0 none) rgin).ring 0).family false).get 3 ≠ none ∧
    ringTakes (ringSt RingSt.reset rgmatch) rgmatch = true ∧ rgmatchCheck (cmdOf rgmatch) = none ∧
    (readTable (ringSt RingSt.reset rgmatch) 0 0x1000000 1).1 = [⟨0, true⟩] ∧ tableFault [⟨0, true⟩] = none ∧
    ringTakes (ringSt (ringOf 0 none) rggo) rggo = true ∧ rggoCheck (cmdOf rggo) = none ∧
    passCheck (ringOf 0 none) 0x1000020 = none ∧ (ringOf 0 none).openOnes ≠ [] ∧ (0x40400 : BitVec 20).extractLsb' 16 4 ≠ 0 ∧
    ∀ d < 128, headOp (ringSt (ringOf 0 none) rggo) d 3 ≠ some 0x34 := by
  decide +kernel

theorem witness_RingCommandsHaveTheirEffect_out :
    let out := cw 3 0x33 [(48, 3), (52, 1), (64, 0x1000000)]
    let acc := cw 3 0x33 [(48, 3), (60, 1), (64, 0x1000000)]
    ringTakes (ringSt (ringOf 0 none) out) out = true ∧ rgoutCheck (cmdOf out) = none ∧
    ((ringOf 0 none).family false).get 3 = some (tileOf 1) ∧ inBay 0x1000000 (tileOf 1).d.rows 8 8 = true ∧
    (tileOf 1).d.len = 8 ∧ (tileOf 1).bytes.length = (tileOf 1).d.rows * (tileOf 1).d.len ∧ (tileOf 1).bad = [] ∧
    ringTakes (ringSt (ringOf 0 none) acc) acc = true ∧ rgoutCheck (cmdOf acc) = none ∧
    picked (matPick (ringSt (ringOf 0 none) acc) (0 * 16 + 3)) = some 8 := by
  decide +kernel

/-- A save of an idle ring, and the return of an idle one and of one that stood between two laps. -/
theorem witness_RingCommandsHaveTheirEffect_save :
    let save := cw 3 0x34 [(64, 0x1000000)]
    let rest := cw 3 0x35 [(64, 0x1000000)]
    let idle := areaSt RingSt.reset none rest
    let runs := (areaSt (ringOf 0 none) (some { passOf .lapBoundary with lap := 1, holdFirst := true }) rest).setCells
      (cellsAt (bayKey 0 0x1001000) (bytesOf 8 0x201))
    let es := (readTable runs 0 0x1001000 1).1
    ringTakes (ringSt (ringOf 0 none) save) save = true ∧ areaCheck (cmdOf save) = none ∧ rgrestCheck (cmdOf rest) = none ∧
    areaCheck (cmdOf rest) = none ∧ tilesOf RingSt.reset.sheaf = [] ∧ tilesOf RingSt.reset.swath = [] ∧
    ringTakes idle rest = true ∧ areaBad (areaBytes idle) = false ∧ areaField (areaBytes idle) 5 1 = 0 ∧
    restoreFault (areaBytes idle) [] = none ∧ tableFault [] = none ∧ areaTiles idle 0 (areaBytes idle) = [] ∧
    ringTakes runs rest = true ∧ areaBad (areaBytes runs) = false ∧ areaField (areaBytes runs) 5 1 = 2 ∧
    areaField (areaBytes runs) 7 1 = 1 ∧ areaField (areaBytes runs) 0x18 8 = 0x1001000 ∧ areaField (areaBytes runs) 14 2 = 1 ∧
    restoreFault (areaBytes runs) ((areaTiles runs 0 (areaBytes runs)).map fun t => t.2.2.1) = none ∧ tableFault es = none := by
  decide +kernel

/-- The return of a ring that stood at the start of a lap, with no save command on any core. -/
theorem witness_RingCommandsHaveTheirEffect_lap :
    let rest := cw 3 0x35 [(64, 0x1000000)]
    let runs := (areaSt (ringOf 0 none) (some { passOf .lapBoundary with lap := 1 }) rest).setCells
      (cellsAt (bayKey 0 0x1001000) (bytesOf 8 0x201))
    let es := (readTable runs 0 0x1001000 1).1
    ringTakes runs rest = true ∧ areaBad (areaBytes runs) = false ∧ areaField (areaBytes runs) 5 1 = 1 ∧
    restoreFault (areaBytes runs) ((areaTiles runs 0 (areaBytes runs)).map fun t => t.2.2.1) = none ∧ tableFault es = none ∧
    areaField (areaBytes runs) 4 1 < areaField (areaBytes runs) 6 1 ∧ (∀ d < 128, headOp runs d 3 ≠ some 0x34) ∧
    (restoredRing RingSt.reset (areaBytes runs) (areaTiles runs 0 (areaBytes runs)) es).openOnes ≠ [] := by
  decide +kernel

/-- A pass at each of its points: no offer left, a move, the last move of a lap, a hold, an offer within and past the patience, an
accepted task, a save, and a cancellation. -/
theorem witness_RingPassesStepMeetAndEnd :
    let at_ (p : Pass) : State := ringSt (ringOf 0 (some p)) (cw 3 0x34 [(64, 0x1000000)])
    let b := passOf .boundary
    let o : Encounter := ⟨3, 0, some (tileOf 1), some (tileOf 2), []⟩
    ((at_ b).ring 0).pass = some b ∧ b.phase = .boundary ∧ b.offers = [] ∧ b.cancel = false ∧
    b.fault = none ∧ b.dead = false ∧ b.zero = [] ∧
    (passOf .move).step < 7 ∧ 7 ≤ { passOf .move with step := 7 }.step ∧ (ringOf 0 none).openOnes ≠ [] ∧
    (({ passOf .move with step := 7 }.lap + 1) % 256 < (passOf .move).limit) ∧
    saveCore (ringSt (ringOf 0 (some { passOf .move with step := 7 })) (cw 3 0x33 [])) 0 = none ∧
    { b with offers := [o] }.offers.find? (fun o => o.station == 3) = some o ∧ (ringOf 0 none).entries[0]? =
      some ⟨BitVec.ofNat 64 (1 + 2 * 256), true⟩ ∧
    { b with patience := 0 }.patience ≤ (((at_ b).field (sgField (at_ b) 0)).time - b.since).toNat ∧
    (((at_ b).field (sgField (at_ b) 0)).time - b.since).toNat ≤ b.patience ∧
    picked (matPick (at_ { b with offers := [o] }) (0 * 16 + 3)) = some 8 ∧
    { b with tasks := [o] }.tasks.find? (fun x => x.entry == o.entry) = some o ∧
    ((at_ b).classQ 0 3).due = false ∧ saveCore (at_ (passOf .lapBoundary)) 0 = some 0 ∧ inFlight (at_ (passOf .lapBoundary)) 0 = false := by
  decide +kernel

/-- A hold step, a task of type 1 in a move, and accumulators to clear, of which the engine selects the last and another one. -/
theorem witness_RingPassesStepMeetAndEnd_more :
    let at_ (typ : Nat) (p : Pass) : State := ringSt (ringOf typ (some p)) (cw 3 0x32 [])
    let o : Encounter := ⟨3, 0, some (tileOf 1), some (tileOf 2), []⟩
    let z (l : List (Nat × Nat)) := { passOf .lapBoundary with zero := l }
    let one := at_ 1 { passOf .move with tasks := [o] }
    ((at_ 0 (passOf .hold)).ring 0).pass = some (passOf .hold) ∧ (passOf .hold).fault = none ∧ (passOf .hold).dead = false ∧
    ((one.ring 0).entries[0]?).map MatchEntry.typ = some 1 ∧ one.bad = [] ∧ (tileOf 1).bad = [] ∧ (tileOf 2).bad = [] ∧
    (one.ring 0).dstride = 0 ∧ { o with added := [(0, 1)] }.toAdd (tileOf 1) (tileOf 2) = [(0, 0), (1, 0), (1, 1)] ∧ (passOf .move).cancel = false ∧
    (∀ l ∈ [[(3, 0)], [(3, 0), (4, 0)]], (z l).zero.find? (fun e => (matPick (at_ 0 (z l)) e.1).any fun r => r.1 == 8) = some (3, 0) ∧
      picked (matPick (at_ 0 (z l)) 3) = some 8) ∧
    saveCore (at_ 0 (z [(3, 0)])) 0 = none ∧ (ringOf 0 none).openOnes ≠ [] ∧ (z []).lap < (z []).limit := by
  decide +kernel

/-- The ends of a pass: after its last lap with an open entry and without, by its last task, and by a fault that stands; and a task of
each kind that meets an error in a tile, in an accumulator and in the bay. -/
theorem witness_RingPassesStepMeetAndEnd_ends :
    let at_ (r : RingSt) (p : Pass) : State := ringSt { r with pass := some p } (cw 3 0x33 [])
    let openR := ringOf 0 none
    let done := { openR with entries := [⟨BitVec.ofNat 64 (1 + 2 * 256), false⟩], met := 1 }
    let o : Encounter := ⟨3, 0, some (tileOf 1), some (tileOf 2), []⟩
    let m := { passOf .move with step := 7, lap := 3 }
    let ok (s : State) := s.bad.isEmpty && (s.classQ 0 3).waiting.isEmpty && (s.classQ 0 3).jobs.all (fun j => !j.doomed) &&
      (s.classQ 0 3).jobs.any (fun j => j.id == 0 && !j.faulted) && (saveCore s 0).isNone
    let bad := { tileOf 1 with bad := [5] }
    let err (k : Nat) : State := { at_ openR { passOf .move with tasks := [o] } with bad := [⟨k, 8, .any, false⟩] }
    (∀ x ∈ [(openR, m), (openR, { m with tasks := [o] }), ({ done with retired := 1 }, m), (done, { m with tasks := [o] }),
        (openR, { passOf .move with fault := some 9 }), (openR, { passOf .hold with fault := some 9 }),
        (done, { passOf .drain with tasks := [o] }), (done, { passOf .drain with tasks := [o], fault := some 9 }),
        (openR, { passOf .boundary with tasks := [o], fault := some 9, cancel := true }),
        (openR, { passOf .lapBoundary with tasks := [o], lap := 4 })],
      ok (at_ x.1 x.2) = true ∧ ((at_ x.1 x.2).ring 0).pass = some x.2 ∧ x.2.zero = [] ∧ x.2.dead = false ∧ x.2.job = 0) ∧
    m.limit ≤ (m.lap + 1) % 256 ∧ openR.openOnes ≠ [] ∧ done.openOnes = [] ∧ done.retired + 1 = done.entries.length ∧
    done.entries[o.entry]? = some ⟨BitVec.ofNat 64 (1 + 2 * 256), false⟩ ∧ (tileOf 1).bad = [] ∧ (tileOf 2).bad = [] ∧
    (∃ f ∈ bad.bad, f < bad.bytes.length) ∧ taskTileError 0 o (tileOf 1) (tileOf 2) = none ∧
    (err (accKey 3 0 0 0)).bad = [⟨accKey 3 0 0 0, 8, .any, false⟩] ∧ injMatches (.matrix 3) .any = true ∧ injMatches (.ring 0) .any = true ∧
    0 < (tileOf 1).d.rows ∧ 0 < (tileOf 2).d.rows ∧ o.added = [] ∧
    (err (bayKey 0 0x01000000)).bad = [⟨bayKey (0 * 128) (0x01000000 + 4 * 0 + 0 * 8) + 4 * 0, 8, .any, false⟩] := by
  decide +kernel

theorem witness_RingPassesStepMeetAndEnd_cancel :
    let drain := { passOf .drain with dead := true }
    let stop := { passOf .boundary with dead := true, cancel := true }
    (∀ p ∈ [drain, stop], let s := ringSt (ringOf 0 (some p)) (cw 3 0x34 [(64, 0x1000000)])
      (s.ring 0).pass = some p ∧ p.dead = true ∧ p.tasks = [] ∧ (s.classQ p.core 3).waiting = [] ∧
      jobOf 1 [] ∈ (s.classQ p.core 3).jobs ∧ (jobOf 1 []).id = p.job ∧ (jobOf 1 []).faulted = false ∧ p.status = 0) ∧
    drain.phase = .drain ∧ stop.phase = .boundary ∧ { stop with status := 0x1000020 }.status ≠ 0 := by
  decide +kernel

theorem witness_GraphFormsAskTheReeve :
    let s := regs [(1, 0x10003), (2, 0x400000), (3, 0), (4, 2)]
    let full := s.modSlot fun sl => { sl with sends := List.replicate 16 (.token 1 1) }
    let g := s.modSlot fun sl => { sl with task := some ⟨3, 1⟩ }
    let w := sending (g.modSlot fun sl => { sl with sent := [9] }) (msgTo 3)
    let a (left : Nat) := sending (s.modSlot fun sl => { sl with wait := .glaunch 5, left := left }) ⟨9, .reeve 0, false, false, .glaunchAns 0 0 3⟩
    let b (left : Nat) := sending (s.modSlot fun sl => { sl with wait := .gstat 5, left := left }) ⟨9, .reeve 0, false, false, .gstatAns 0 0 3⟩
    let q := sending (nodesSt [(16, nodeOf .armed 1 2 [])]) ⟨9, .core 0, false, false, .gstatReq 0 0 16⟩
    nodeIdOk s (corePart s 0) ((s.rx 2).setWidth 32).toNat = false ∧ nodeIdOk s (corePart s 0) ((s.rx 3).setWidth 32).toNat = true ∧
    ((s.rx 3).setWidth 16).toNat = 0 ∧ ((s.rx 4).setWidth 16).toNat ≠ 0 ∧ s.slot.sends.length < 16 ∧ 16 ≤ full.slot.sends.length ∧
    s.slot.task = none ∧ g.slot.task = some ⟨3, 1⟩ ∧ g.slot.trigd = false ∧ g.sendsOut .fld = false ∧ w.slot.task = some ⟨3, 1⟩ ∧
    w.slot.trigd = false ∧ w.sendsOut .fld = true ∧
    (∀ left ∈ [0, 7], (a left).msg? 9 = some ⟨9, .reeve 0, false, false, .glaunchAns 0 0 3⟩ ∧
      ((a left).slotOf 0 (slotIx 0)).wait = .glaunch 5 ∧ ((a left).slotOf 0 (slotIx 0)).left = left ∧
      (b left).msg? 9 = some ⟨9, .reeve 0, false, false, .gstatAns 0 0 3⟩ ∧ ((b left).slotOf 0 (slotIx 0)).wait = .gstat 5 ∧
      ((b left).slotOf 0 (slotIx 0)).left = left) ∧
    q.msg? 9 = some ⟨9, .core 0, false, false, .gstatReq 0 0 16⟩ ∧ q.node (nodeField 16) (nodeSlot 16) ≠ none ∧
    s.node (nodeField 16) (nodeSlot 16) = none := by
  decide +kernel

/-- Tokens and an edge that leave a node armed, the last tokens and the last edge of a handler node; surplus and counted tokens; tokens
for a free slot; records for a pool with room and for a full one. -/
theorem witness_NodesFireTriggerFaultAndRetry_tokens :
    let u := nodeOf .armed 1 2 []
    let on1 := { nodeOf .armed 1 1 [] with ext := 1 }
    let msg (count : Nat) (edge rep : Option Nat) : Msg := ⟨9, .core 1, true, false, .token 16 count edge (some 1) rep⟩
    let s (u : Node) (count : Nat) (edge : Option Nat) : State :=
      sending (nodesSt [(16, u), (17, nodeOf .armed 0 1 [])]) (msg count edge none)
    let r : TaskRec := ⟨⟨16, 1⟩, 0x10001000000A00, [7, 0, 2], none, false, 0, 0⟩
    let full := (sending st ⟨9, .reeve 0, false, false, .records 0 [r]⟩).modCluster 0 fun cl => { cl with pool := List.replicate 256 r }
    let room := sending st ⟨9, .reeve 0, false, false, .records 0 [r]⟩
    (s u 1 none).msg? 9 = some (msg 1 none none) ∧ (s u 1 none).node 0 16 = some u ∧
    (s u 1 none).node 0 18 = none ∧ (s u 1 none).graph 0 1 = some graphOf ∧ quietSt (s u 1 none) 16 = true ∧ 1 < u.pending ∧
    3 ∉ u.arrived ∧ quietSt (s u 1 (some 3)) 16 = true ∧ quietSt (s u 2 none) 16 = true ∧ 2 = u.pending ∧ u.typ = 1 ∧
    u.indir = false ∧ u.wmask = 0 ∧ nodeBound (s u 2 none) u = true ∧ (u.pay.getD 2 0).extractLsb' 0 16 ≠ 0 ∧
    quietSt (s on1 1 (some 3)) 16 = true ∧ on1.pending = 1 ∧ 3 ∉ on1.arrived ∧ nodeBound (s on1 1 (some 3)) on1 = true ∧
    quietSt (s (nodeOf .running 1 0 []) 1 none) 16 = true ∧ (nodeOf .running 1 0 []).ext ≤ (nodeOf .running 1 0 []).init ∧
    quietSt (s (nodeOf .faulted 1 0 []) 1 none) 16 = true ∧ (nodeOf .faulted 1 0 []).order ≠ none ∧
    (sending (nodesSt []) (msg 1 none (some 0))).node 0 16 = none ∧
    r.tb = 0 ∧ (room.cluster 0).pool.length + 1 ≤ 256 ∧ (full.cluster 0).pool.length = 256 ∧ (full.cluster 0).teams = [] ∧
    (full.net.map Msg.id).Nodup ∧ full.msg? 9 = some ⟨9, .reeve 0, false, false, .records 0 [r]⟩ := by
  decide +kernel

/-- A trigger that is counted, one that is the last and sends a token, the last exit, a fault and its retry, and a cancellation. -/
theorem witness_NodesFireTriggerFaultAndRetry_runs :
    let run := nodeOf .running 1 0 [(1, 3)]
    let last := { run with trig := 1 }
    let exits := { run with trig := 2, exited := 1, trigd := true }
    let w := nodeOf .armed 0 2 []
    let from_ : Node := { nodeOf .armed 0 1 [(0, 5)] with idx := 1 }
    let sent (b : Body) : Msg := ⟨9, .core 1, false, false, b⟩
    let s (u : Node) (b : Body) : State := sending (nodesSt [(16, u), (17, w)]) (sent b)
    let x := sending (nodesSt [(16, exits), (17, from_)]) (sent (.trigger ⟨16, 1⟩ false true))
    let trig : Body := .trigger ⟨16, 1⟩ true false
    let bad := nodeOf .faulted 1 0 []
    let armed := nodeOf .armed 0 2 []
    let spent := { armed with used := 1 }
    let fault : Body := .fault 16 (some 1) 1 2
    quietSt (s run trig) 16 = true ∧ taskFirst (s run trig) (sent trig) ⟨16, 1⟩ = true ∧ run.exited ≠ run.count ∧
    run.trig + 1 ≠ run.count ∧ quietSt (s last trig) 16 = true ∧ last.trig + 1 = last.count ∧ last.trigd = false ∧ last.succs = [(1, 3)] ∧
    graphOf.base + 1 ≠ 16 ∧ (s last trig).node 0 (graphOf.base + 1) = some w ∧ 3 ∉ w.arrived ∧ 1 < w.pending ∧
    quietSt x 16 = true ∧ taskFirst x (sent (.trigger ⟨16, 1⟩ false true)) ⟨16, 1⟩ = true ∧ exits.exited + 1 = exits.count ∧
    exits.trigd = true ∧ ((predsOf x 0 exits).any fun p => p.1 != 16 && !p.2.1.retired) = true ∧
    (nodesSt []).node 0 16 = none ∧ ((nodesSt []).field 0).nodes = [] ∧ ((nodesSt []).field 0).graphs = [] ∧ calm (nodesSt []) = true ∧
    reportFirst (sending (nodesSt []) (sent fault)) (sent fault) = true ∧
    armed.retired = false ∧ armed.used < armed.limit ∧ armed.succs = [] ∧ quietSt (s armed fault) 16 = true ∧
    reportFirst (s armed fault) (sent fault) = true ∧ quietSt (s spent fault) 16 = true ∧ ¬spent.used < spent.limit ∧
    quietSt (s bad trig) 16 = true ∧ taskFirst (s bad trig) (sent trig) ⟨16, 1⟩ = true ∧
    quietSt (s bad (.gcancelReq 3)) 16 = true ∧ bad.order = some 4 ∧ bad.used < bad.limit ∧
    nodeActive (s bad (.gcancelReq 3)) 0 16 bad = false ∧ bad.succs = [] ∧ bad.arrived.dedup.length + bad.ext < bad.init ∧
    quietSt (s armed (.gcancelReq 16)) 16 = true ∧ (17, w) ∈ ((s armed (.gcancelReq 16)).field 0).nodes ∧ (17, w) ≠ (16, armed) ∧
    w.graph = 1 := by
  decide +kernel

/-- A graph at an address that is not aligned, one with a node of type 6, and one that is launched. -/
theorem witness_NodesFireTriggerFaultAndRetry_launch :
    let q (a : Nat) (s : State) : State := sending s ⟨9, .core 0, false, false, .glaunchReq 0 0 (BitVec.ofNat 64 a)⟩
    let now (a : Nat) (s : State) : State := ((q a s).dropMsg 9).reeveReads 0 (graphRanges ((q a s).dropMsg 9) 0 a)
    let s := graphSt 0 1
    coreField s 0 = 0 ∧ (s.field 0).nodes = [] ∧ (s.field 0).graphs = [] ∧ calm s = true ∧
    (match checkGraph (now 1 s) (fieldPart s 0) 0 1 with | .error e => e == (0, 1) | .ok _ => false) = true ∧
    (match checkGraph (now 0x04000000 (graphSt 6 1)) (fieldPart s 0) 0 0x04000000 with | .error e => e == (0, 3) | .ok _ => false) = true ∧
    graphIs (checkGraph (now 0x04000000 s) (fieldPart s 0) 0 0x04000000) (fun b us => us.length == 1 &&
      us.all fun v => v.graph == 20 && v.state == .armed && v.pending != 0 && s.node 0 (b + v.idx) == none) = true := by
  decide +kernel

/-- A malformed target, none, and a full buffer; a reward at a core with a full queue, with room, and behind another one. -/
theorem witness_RewardsArriveAndAreCut :
    let s := regs [(1, 0x3F800000), (2, 0x400000 <<< 16), (3, 0xFFFFFFFF0005), (4, 0x100005)]
    let full := s.modSlot fun sl => { sl with sends := List.replicate 16 (.token 1 1) }
    let x : Msg := ⟨9, .core 1, true, false, .reward 0 1 false 3 noTarget 1 []⟩
    let q (n : Nat) : State := (sending s x).modCore 0 fun co => { co with rewards := List.replicate n ⟨1, false, 3, noTarget, 1⟩ }
    let tgt (r : Reg) : BitVec 32 := (s.rx r).extractLsb' 16 32
    tgt 2 ≠ 0xFFFFFFFF ∧ nodeIdOk s (corePart s s.cur.core) (tgt 2).toNat = false ∧ tgt 3 = 0xFFFFFFFF ∧
    nodeIdOk s (corePart s s.cur.core) (tgt 4).toNat = true ∧ s.slot.sends.length < 16 ∧ 16 ≤ full.slot.sends.length ∧
    (q 4).msg? 9 = some x ∧ coreIn (q 4) (some 0) 0 = true ∧ rewardBefore (q 4) x 0 = false ∧ 4 ≤ ((q 4).core 0).rewards.length ∧
    9 ∉ ((q 4).core 0).rwdHeld ∧ (q 3).msg? 9 = some x ∧ coreIn (q 3) (some 0) 0 = true ∧ rewardBefore (q 3) x 0 = false ∧
    ((q 3).core 0).rewards.length < 4 ∧ ((q 3).core 0).rwdHeld = [] ∧ ((partCores (q 3) 0).any fun d => d == 1) = true := by
  decide +kernel

/-- The last core that a reward reaches. -/
theorem witness_RewardsArriveAndAreCut_last : 0 ∉ List.range' 1 122880 ∧ ∀ d ∈ partCores st 0, d = 0 ∨ d ∈ List.range' 1 122880 := by
  refine ⟨by simp, fun d hd => ?_⟩
  simp only [partCores, partSgs, List.mem_flatMap, List.mem_filter, List.mem_range, List.mem_map, List.mem_range'_1] at hd ⊢
  obtain ⟨g, ⟨hg, -⟩, i, hi, rfl⟩ := hd
  omega

/-- A core without layers, with an invalid directory, without a group of the key, and with one. -/
theorem witness_RewardsArriveAndAreCut_cut :
    let m : Reward := ⟨0x40000000, false, 3, noTarget, 1⟩
    ((dirSt 0 2).core 0).rewards = [m] ∧ ((dirSt 0 2).core 0).cutHold = false ∧ ((dirSt 0 2).core 0).sweep = none ∧
    coreQuiet (dirSt 0 2) 0 = true ∧ (((dirSt 1 2).modCore 0 fun co => { co with cutHold := true }).core 0).cutHold = true ∧ areaField (dirBytes (dirSt 0 2) 0) 0 4 ≠ 1 ∧
    areaField (dirBytes (dirSt 1 0) 0) 0 4 = 1 ∧ dirFault (dirBytes (dirSt 1 0) 0) = some 0 ∧
    areaField (dirBytes (dirSt 1 2) 0) 0 4 = 1 ∧ dirFault (dirBytes (dirSt 1 2) 0) = none ∧
    cutGroups (dirBytes (dirSt 1 2) 0) { m with key := 4 } = [] ∧ cutGroups (dirBytes (dirSt 1 2) 0) m = [grp 7 2] := by
  decide +kernel

/-- A `lass` that counts, the REWARD, FADE and pass programs, and a sweep before and after its row pairs; a command resumed after one of
its two row pairs. -/
theorem witness_LoftCommandsAndSweepsActOnEveryLane :
    let lass := cw 4 0x40 [(48, 1), (64, 0x200), (96, 7), (112, 2), (128, 5), (160, 7)]
    let rew := cw 4 0x41 [(96, 4094), (112, 2), (144, 1), (192, 0x3F800000)]
    let fade := cw 4 0x41 [(112, 0), (144, 2), (192, 0x0005)]
    let pass := cw 4 0x41 [(112, 1), (128, 0x300)]
    let s (w : Vec) : State := (queued st 4 [w]).setCells (cellsAt ((Place.tcm 0).key 0x300) (bytesOf 16 0))
    let ok (w : Vec) : Bool := ((s w).classQ 0 4).queue == [cmdOf w] && ((s w).classQ 0 4).waiting.isEmpty &&
      (((s w).classQ 0 4).jobs.all fun j => !j.doomed) && (s w).bad.isEmpty && loftReady (s w) 0 && commonCheck (s w) 0 w == none &&
      loftCheck (s w) 0 (cmdOf w) == none
    let sw (left : List Nat) (tgt : BitVec 32) : State :=
      st.modCore 0 fun co => { co with sweep := some ⟨⟨0, false, 3, tgt, 1⟩, [grp 7 2], 0, left⟩ }
    let mid : Cmd := { cmdOf lass with run := some ⟨[7], 3, []⟩ }
    let back := (s lass).modClassQ 0 4 fun q => { q with queue := [mid] }
    (cmdOf lass).dead = false ∧ mid.dead = false ∧ (back.classQ 0 4).queue = [mid] ∧ (back.classQ 0 4).waiting = [] ∧
    ((back.classQ 0 4).jobs.all fun j => !j.doomed) = true ∧ back.bad = [] ∧ loftReady back 0 = true ∧ commonCheck back 0 lass = none ∧
    loftCheck back 0 mid = none ∧ ok lass = true ∧ ok rew = true ∧ ok fade = true ∧ ok pass = true ∧ (readProg (s pass) 0 256 0x300).isOk = true ∧
    ((sw [7, 8] noTarget).core 0).sweep = some ⟨⟨0, false, 3, noTarget, 1⟩, [grp 7 2], 0, [7, 8]⟩ ∧
    ((sw [] 0x10).core 0).sweep = some ⟨⟨0, false, 3, 0x10, 1⟩, [grp 7 2], 0, []⟩ ∧ (sw [7, 8] noTarget).bad = [] ∧
    (sw [] 0x10).bad = [] := by
  decide +kernel

/-- The busy byte of the one group of a sweep stands in error, of the array or injected. -/
theorem witness_LoftCommandsAndSweepsActOnEveryLane_error : ∀ armed,
    let b : BadGranule := ⟨dirKey 0 0x160, 8, .engine, armed⟩
    let w : Sweep := ⟨⟨0, false, 3, noTarget, 1⟩, [grp 7 2], 0, []⟩
    let s := { st.modCore 0 fun co => { co with sweep := some w } with bad := [b] }
    (s.core 0).sweep = some w ∧ w.left = [] ∧ w.grps = [grp 7 2] ∧ s.bad = [b] ∧ (grp 7 2).idx = 0 ∧ b.size = 8 ∧ b.cls ≠ .slot := by
  decide +kernel

/-- Two groups of a sweep have no row pair in common. -/
theorem witness_LoftCommandsAndSweepsActOnEveryLane_groups :
    [grp 7 2, grp 9 1].Pairwise fun g h => ∀ p, ¬((g.first ≤ p ∧ p < g.first + g.count ∧ p ∈ [7, 8, 9]) ∧
      (h.first ≤ p ∧ p < h.first + h.count ∧ p ∈ [7, 8, 9])) := by
  simp only [List.pairwise_cons, List.mem_singleton, forall_eq, grp]
  exact ⟨by omega, by simp⟩

/-- A command that begins an instance, one that joins it, and one that differs; a full instance, and one in its last cycle and past it. -/
theorem witness_CollectivesJoinCombineAndExpire :
    let w := kredOf 0x1000100 3
    let me (sg : Nat) (w : Vec) : Member := ⟨sg, sg * 128, 0, w⟩
    let finds (s : State) := (s.insts.find? fun p => joins s 0 0 (collArgs w) p.2).map Prod.fst
    let at_ (now : Nat) : State := (collSt w [me 0 w]).modField 0 fun f => { f with time := BitVec.ofNat 64 now }
    collTakes (collSt w []) 0 w = true ∧ finds (collSt w []) = none ∧
    collTakes (collSt w [me 1 w]) 0 w = true ∧ finds (collSt w [me 1 w]) = some 7 ∧ sameCommand w w = true ∧
    collTakes (collSt w [me 1 (kredOf 0x1000200 3)]) 0 w = true ∧ finds (collSt w [me 1 (kredOf 0x1000200 3)]) = some 7 ∧
    sameCommand (kredOf 0x1000200 3) w = false ∧ participants (at_ 0) (collArgs w) = [0, 1] ∧
    (∀ g ∈ participants (at_ 0) (collArgs w), ∃ y ∈ [me 0 w, me 1 w], y.sg = g) ∧ ([me 0 w, me 1 w].map Member.core).Nodup ∧
    (¬∀ g ∈ participants (at_ 0) (collArgs w), ∃ y ∈ [me 0 w], y.sg = g) ∧
    2 ^ 24 ≤ ((at_ (2 ^ 24)).field (sgField (at_ (2 ^ 24)) (collArgs w).root)).time.toNat - 0 ∧
    ((at_ (2 ^ 24 - 1)).field (sgField (at_ (2 ^ 24 - 1)) (collArgs w).root)).time.toNat - 0 < 2 ^ 24 ∧
    (at_ 0).insts.get? 7 = some ⟨0, 3, [me 0 w], 0⟩ ∧ calm (at_ 0) = true ∧ (at_ 0).bad = [] := by
  decide +kernel

/-- An image that cannot be read, one that fails its first check and one that passes them all; a core of two, and of one, to be loaded. -/
theorem witness_LaunchesAreCheckedThenLoadCoreByCore : ∃ p, (imageSt 0x31435A4D).parts.get? 0 = some p ∧ p.out = false ∧
    imageBytes (imageSt 0x31435A4D) (launchOf 0x100000000) = some (imageOf 0x31435A4D) ∧
    launchCheck (imageSt 0x31435A4D) (launchOf 0x100000000) p (imageOf 0x31435A4D) = none ∧
    placedCores (imageSt 0x31435A4D) 0 (launchOf 0).placement = some [0] ∧
    ((imageSt 0x31435A4D).core 0).loadHold = none ∧ imageBytes (imageSt 1) (launchOf 0x100000000) = some (imageOf 1) ∧
    launchCheck (imageSt 1) (launchOf 0x100000000) p (imageOf 1) = some (1, 0) ∧
    imageBytes (imageSt 1) (launchOf 0x200000000) = none := by
  refine ⟨_, rfl, ?_⟩
  decide +kernel

theorem witness_LaunchesAreCheckedThenLoadCoreByCore_load :
    let i := imageOf 0x31435A4D
    ((loadSt [0]).core 0).loadHold = some 7 ∧ (loadSt [0]).loads.get? 7 = some ⟨launchOf 0x100000000, i, [0], [0]⟩ ∧
    (loadSt [0, 1]).loads.get? 7 = some ⟨launchOf 0x100000000, i, [0, 1], [0, 1]⟩ ∧
    [0].Nodup ∧ ((loadSt [0, 1]).core 0).loadHold = some 7 ∧ (loadSt [0, 1]).net = [] ∧ calm (loadSt [0, 1]) = true ∧
    coreQuiet (loadSt [0, 1]) 0 = true ∧
    coreQuiet (loadSt [0]) 0 = true ∧ calm (loadSt [0]) = true ∧ (loadSt [0]).net = [] ∧ (sections i).length = 1 ∧
    ((sections i).all fun x => x.kind == 1 && x.size == 8 && x.addr == 0 && x.file == 0) = true ∧ (recFor i 3).isSome = true ∧
    (recFor i 5).isSome = false ∧ 5 ∈ (({ loadSt [0] with cores := stBound.cores }).core 0).chans.keys := by
  decide +kernel

/-- A queue that may be bound and one that may not; posts for each target, a full queue, and posts that break their format; a queue that was
reset and one that is not bound; a full reliable channel and a full channel 63. -/
theorem witness_WorkQueuesCarryPostsAndReplies :
    let ch : QTarget := .chan 0 5
    let post (w0 w1 : Nat) : List Byte := bytesOf 8 w0 ++ bytesOf 8 w1 ++ bytesOf 48 0
    let full := queueSt ch (List.replicate 16 (post 2 1))
    let r := sending (queueSt ch []) ⟨9, .core 0, true, false, .queueMsg 0 4 0x102 [1, 2]⟩
    let gone := (queueSt ch []).modQueue 2 fun q => { q with wasReset := true }
    let packed := (queueSt ch []).modChan 0 5 fun q => { q with queue := [⟨7, 0x100, [], none, some 0⟩, ⟨8, 0x100, [], none, some 0⟩] }
    let rich := (queueSt .reward []).modCore 0 fun co => { co with rewards := List.replicate 4 ⟨1, false, 3, noTarget, 1⟩ }
    (gone.queue 2).wasReset = true ∧ (st.queue 2).bind = none ∧ (packed.queue 2).bind = some (bindTo ch) ∧
    (packed.chan 0 5).hrec = some hr ∧ hr.rel = true ∧ (packed.chan 0 5).room = false ∧ (rich.queue 2).bind = some (bindTo .reward) ∧
    corePart rich 0 = some (bindTo .reward).part ∧ 4 ≤ (rich.core 0).rewards.length ∧ bindOk st 2 (bindTo ch) = true ∧ bindOk st 2 (bindTo (.chan 0 63)) = false ∧ bindOk (queueSt ch []) 2 (bindTo ch) = false ∧
    takesPost ch (post 2 1) = true ∧ takesPost (.node 3) (post 5 0) = true ∧ takesPost (.node 3) (post 0 0) = true ∧
    takesPost .reward (post 0xFFFFFFFF0301 0x3F800000) = true ∧ (queueSt ch []).queue 2 = { QueueSt.reset with bind := some (bindTo ch) } ∧
    128 / 64 = 2 ∧ 128 % 64 = 0 ∧ ((queueSt ch []).queue 2).posts.length < 16 ∧ ¬((full.queue 2).posts.length < 16) ∧
    postOk st (bindTo ch) (post 8 0) = false ∧ 132 / 64 = 2 ∧ 132 % 64 ≠ 0 ∧
    ((queueSt ch [post 2 1]).queue 2).posts = post 2 1 :: [] ∧ r.msg? 9 = some ⟨9, .core 0, true, false, .queueMsg 0 4 0x102 [1, 2]⟩ ∧
    queueAt r 0 4 = some (2, bindTo ch) ∧ 0x1000 + 64 * 15 + 64 ≤ (bindTo ch).countAddr := by
  decide +kernel

/-- Host accesses and copies of a page that is present and of one that is not; a message for a peer, and one from a peer for a partition
that runs, in whose table the sender has a handle and has none, and for one that does not. -/
theorem witness_HostCopiesAndStaticRoutesMoveData :
    let s := paged .present
    let op (dir page tgt note : Nat) : CopyOp := ⟨0, 0, [BitVec.ofNat 64 dir, BitVec.ofNat 64 (page * 0x10000), 0x4000,
      BitVec.ofNat 64 (7 * 2 ^ 32), BitVec.ofNat 64 tgt, BitVec.ofNat 64 note]⟩
    let c := { s with copies := [(6, op 0 0x10000 0xFFFFFFFF 5)] }
    let q := sending s ⟨9, .core 0, true, false, .copyReq 0 0 0x100 [1]⟩
    let e := sending (s.modPart 0 fun p => { p with endpoints := [(2, ⟨1, 2, 3⟩)] }) ⟨9, .core 0, true, false, .peerMsg 0 2 0x100 [1] 0 0⟩
    s.bad = [] ∧ hostKeys s 0 true 0x200000000 4 = none ∧ hostOk s true 0x100000010 4 = true ∧ hostKeys s 0 false 0x200000000 4 = none ∧
    hostOk s false 0x100000010 4 = true ∧ hostOk s false (op 0 0x10000 0xFFFFFFFF 5).words[1]!.toNat 8 = true ∧
    c.copies.get? 6 = some (op 0 0x10000 0xFFFFFFFF 5) ∧ (op 1 0x10000 3 0).words.getD 0 0 = 1 ∧
    nodeIdOk s (some 0) ((op 1 0x10000 3 0).words.getD 4 0).toNat = true ∧ hostOk s true (op 1 0x10000 3 0).words[1]!.toNat 8 = true ∧
    ((op 0 0x20000 0xFFFFFFFF 5).words.getD 0 0) ≤ 1 ∧ hostKeys s 0 false ((op 0 0x20000 3 0).words.getD 1 0).toNat 8 = none ∧
    q.msg? 9 = some ⟨9, .core 0, true, false, .copyReq 0 0 0x100 [1]⟩ ∧ (op 2 0 3 0).words.getD 0 0 = 2 ∧
    2 < ((op 3 0 3 0).words.getD 0 0).toNat ∧ ((s.parts.get? 0).bind fun p => p.endpoints.get? 0) = none ∧
    ((e.parts.get? 0).bind fun p => p.endpoints.get? ((BitVec.ofNat 64 (7 * 2 ^ 32 + 2)).extractLsb' 0 16).toNat).isSome = true ∧
    e.msg? 9 = some ⟨9, .core 0, true, false, .peerMsg 0 2 0x100 [1] 0 0⟩ ∧ (e.parts.get? 0).isSome = true ∧
    ((e.parts.get? 0).bind fun p => p.endpoints.get? 2) = some ⟨1, 2, 3⟩ ∧ (e.net.all fun y => y.id == 9 || y.src != .core 0) = true ∧
    partRuns e 0 = true ∧ coreIn e (some 0) 0 = true ∧ hdrChan 0xA00 = 5 ∧ hdrChan 0x7E00 = 63 ∧ handleOf e 0 ⟨1, 2, 3⟩ = 2 ∧ handleOf e 0 ⟨1, 2, 4⟩ = 0xFFFF ∧
    (e.net.all fun y => y.id == 9 || y.src != .core 0) = true ∧ 2 < 262144 ∧ partRuns e 1 = false := by
  decide +kernel

/-- A route that ends at another supergroup than its core's, or in another field; one with a dead router before it, with a way round
and with none. -/
theorem witness_HostCopiesAndStaticRoutesMoveData_fails :
    let two : Word := 0x0100000000000002
    let dead (l : List Nat) : State := { routed (if l = [] then 256 else 128) two with ctl := { st.ctl with holes := l.map fun p => (p, true) } }
    let leaves (s : State) (b : Bool) : Bool := match followLegs s (legHops (legsOf two)) (Head.start 0) with
      | .leaves g => g.pos == 0 && (routeCost (routeOk s g.pos 2) g 2).isSome == b
      | .arrives => false
    legsEnd 0 (legsOf two) = some 2 ∧ sgAt (dead []) 2 ≠ some (128 / 128) ∧ legsEnd 0 (legsOf 0x0100000000000008) = some 8 ∧
    fieldPart (dead []) (fieldOfPos 8) ≠ corePart (dead []) 0 ∧ (dead [1]).msg? 9 = some (staticOf 128) ∧
    sgAt (dead [1]) 2 = some (128 / 128) ∧ fieldPart (dead [1]) (fieldOfPos 2) = corePart (dead [1]) 0 ∧
    leaves (dead [1]) true = true ∧ sgAt (dead [1, 24]) 2 = some (128 / 128) ∧ leaves (dead [1, 24]) false = true := by
  decide +kernel

/-- A route of one leg east, one of length 0, one with a west leg after another one, and an index that is too large; a route that ends
at the supergroup of its core, and one that leaves the mesh. -/
theorem witness_HostCopiesAndStaticRoutesMoveData_routes :
    let east : Word := 0x0100000000000001
    let west : Word := 0x0100000000000041
    (legsOf east).length = 1 ∧ ((legsOf east).all fun l => l.2 != 0) = true ∧ east.extractLsb' 59 5 = 0 ∧
    ((legsOf 0x0100000000000000).all fun l => l.2 != 0) = false ∧ (legsOf 0x0200000000002081).map Prod.fst = [.east, .west] ∧
    (0x0200000000002081 : Word).extractLsb' 12 2 = 2 ∧ (routed 128 east).msg? 9 = some (staticOf 128) ∧
    legsEnd (posOf (routed 128 east) 0) (legsOf (routeEntry (routed 128 east) (some 0) 3)) = some 1 ∧
    sgAt (routed 128 east) 1 = some (128 / 128) ∧ fieldPart (routed 128 east) (fieldOfPos 1) = corePart (routed 128 east) 0 ∧
    followLegs (routed 128 east) (legHops (legsOf east)) (Head.start 0) = .arrives ∧
    legsEnd (posOf (routed 0 west) 0) (legsOf (routeEntry (routed 0 west) (some 0) 3)) = none := by
  decide +kernel

/-- A free field of two routers, and one in use; a watchdog before and at W, and before and at a further W; contexts out and in, one with
a class 4 command; a copy, a peer message and a commit window of the partition that is reset. -/
theorem witness_PartitionsAreMadeResetAndSwitched :
    let p : List Byte := bytesOf 8 2 ++ bytesOf 56 0
    let good := bytesOf 4 1 ++ bytesOf 4 1152
    let run := bytesOf 4 1 ++ bytesOf 4 1152 ++ bytesOf 5 0 ++ [1] ++ bytesOf 1138 0
    let holds := (queued st 4 [cw 4 0x41 [(96, 1), (144, 1)]]).core 0
    let ctx : Context := { ctxOf run with cores := [(0, holds)] }
    let cross := { sending (st.modField 0 fun f => { f with windows := [(0x04000000, 64)] })
      ⟨9, .peerCore ⟨1, 2, 3⟩, false, false, .chan 0 5 0x100 [1] none⟩ with copies := [(6, ⟨0, 0, []⟩)] }
    (0x04000000, 64) ∈ (cross.field 0).windows ∧ (6, ⟨0, 0, []⟩) ∈ cross.copies ∧ corePart cross 0 = some 0 ∧
    ctx.loft = [(0, run)] ∧ (0, holds) ∈ ctx.cores ∧ areaField run 0 4 = 1 ∧ areaField run 4 4 = 1152 ∧ areaField run 0x0C 1 ≠ 1 ∧
    ((holds.jobs.get (clsIx 4)).queue[0]?).isSome = true ∧ 0 < areaField run 0x0D 1 ∧
    let few := { st with ctl := { st.ctl with holes := ((fieldPositions [1]).drop 2).map fun p => (p, true) } }
    partReqOk few (reqOf [1]) = true ∧ partReqOk st (reqOf [0]) = false ∧ guards (guardSt [p] none 105) = true ∧
    ((guardSt [p] none 105).queue 2).posts ≠ [] ∧ ((guardSt [p] none 105).queue 2).expired = none ∧ (100 ≤ 105 - 5) ∧
    guards (guardSt [p] none 104) = true ∧ (104 - 5 < 100) ∧ guards (guardSt [p] (some 105) 205) = true ∧
    ((guardSt [p] (some 105) 205).queue 2).expired = some 105 ∧ (100 ≤ 205 - 105) ∧ (204 - 105 < 100) ∧
    ((guardSt [p] none 105).field (targetField (guardSt [p] none 105) (bindTo (.chan 0 5)))).time.toNat = 105 ∧
    (idleSt.parts.get? 0).any (fun q => q.out == false && atPoints idleSt q.fields) = true ∧ idleSt.loads = [] ∧
    (ctxSt good).saved.get? 0 = some (ctxOf good) ∧ ((ctxSt good).parts.get? 0).isSome = true ∧ areaField good 0 4 = 1 ∧
    areaField good 4 4 = 1152 ∧ ((ctxOf good).cores.map Prod.fst).Nodup ∧ (∀ e ∈ (ctxOf good).cores, e.2.sweep = none) ∧
    areaField (bytesOf 8 0) 0 4 ≠ 1 := by
  decide +kernel

/-- One partition, with its field and with one of another; faults at pages of each state, at none and at a lost one; a leaf that the
partition may see and one that it may not; a page table without a small leaf beside a big one. -/
theorem witness_TheControllerBootsAttestsAndAnswersFaults :
    let f := held0 0 0x10000 true false
    let g := held0 1 0x10000 true false
    let h := held0 0 0x20000 true false
    let a := held0 0 0x20000 true true
    let pages (s : State) : PageTable := s.pageTable (some 0)
    (st.parts.map Prod.fst) = [0] ∧ fieldPart st 0 = some 0 ∧ fieldPart st 1 = none ∧ (leafIn .present).tier ≠ .second ∧
    holds0 (faultSt .present false f) f = true ∧ leafOf (pages (faultSt .present false f)) 0x10000 = some (leafIn .present) ∧
    f.va.toNat / 0x10000 = 0x10000 ∧ h.va.toNat / 0x10000 = 0x20000 ∧
    holds0 (faultSt .moving false f) f = true ∧ leafOf (pages (faultSt .moving false f)) 0x10000 = some (leafIn .moving) ∧
    holds0 (faultSt .discarded false f) f = true ∧ leafOf (pages (faultSt .discarded false f)) 0x10000 = some (leafIn .discarded) ∧
    accOfNum f.kind = .load ∧ holds0 (faultSt .discarded false g) g = true ∧ accOfNum g.kind = .store ∧
    (leafIn .discarded).big = false ∧ holds0 (faultSt .present false h) h = true ∧
    leafOf (pages (faultSt .present false h)) 0x20000 = none ∧ holds0 (faultSt .present true h) h = true ∧
    ((faultSt .present true h).parts.get? 0).any (fun q => q.askFaults) = true ∧ holds0 (faultSt .present true a) a = true ∧
    a.asked = true ∧ (leafIn .present).state = .present ∧
    (let far : Leaf := { leafIn .present with tier := .second }
     let gone : Leaf := { leafIn .notPresent with lost := true }
     let lost := (faultSt .present false f).modPart 0 fun q => { q with pages := putLeaf [] q.pages 0x10000 gone }
     let sees := (faultSt .present true a).modPart 0 fun q => { q with cap := 0x200 }
     let cap (s : State) : Word := ((s.parts.get? 0).map PartSt.cap).getD 0
     far.tier = .second ∧ (cap sees).getLsbD 9 = true ∧
     (cap ((faultSt .present true a).modPart 0 fun q => { q with cap := 0 })).getLsbD 9 = false ∧ holds0 lost f = true ∧
     leafOf (pages lost) 0x10000 = some gone ∧ gone.lost = true ∧ f.asked = false ∧ f.moved = false ∧ { f with moved := true }.moved = true ∧
     (leafIn .notPresent).lost = false ∧ mayMap (faultSt .present true a) (leafIn .present) = true ∧
     mayMap (faultSt .present true a) { leafIn .present with frame := 2 ^ 36 } = false ∧
     leafAllows (leafIn .present) .load = true ∧ leafAllows { leafIn .present with w := false } (accOfNum g.kind) = false ∧
     accOfNum 2 = .fetch) := by
  decide +kernel

/-- A page in a channel that is retired; failures that hit the partition and ones that hit none; a hot page; a move. -/
theorem witness_FailuresMigrationsAndPowerActOnTheirParts :
    let s := paged .present
    let hot (q : List Nat) : State := { s with hot := [(0, [(0x10000, q)])] }
    let hit (test : Leaf → Bool) : List Nat :=
      (s.parts.filter fun e => e.2.pages.leaves.any fun g => g.2.state != .notPresent && test g.2).map Prod.fst
    let isHot (e : List Nat) : Bool := decide (256 ≤ e.getD 0 0) && decide (e.getD 0 0 * 3 ≤ ((e.drop 1).take 4).foldl max 0 * 4)
    let cool := idleSt.modField 0 fun fs => { fs with migrate := true }
    s.parts.map Prod.fst = [0] ∧ (s.parts.all fun q => q.2.pages.leaves == [(0x10000, leafIn .present)]) = true ∧ (leafIn .present).big = false ∧
    (leafIn .present).tier = .silo ∧ (leafIn .present).frame / 49152 = 0 ∧ (leafIn .present).state = .present ∧
    hit (fun l => (leafFrames l).any fun x => x / 49152 / 32 == 0) = [0] ∧
    hit (fun l => (leafFrames l).any fun x => x / 49152 / 32 == 1) = [] ∧ hit (fun l => l.tier == .second) = [] ∧
    (({ s with parts := [] }).parts.keys.filter fun e => routedThrough s e 3) = [] ∧ fieldPart s 0 = some 0 ∧ s.hot = [] ∧
    isHot [256, 192, 0, 0, 64, 256, 9, 9] = true ∧ isHot [255, 255, 0, 0, 0, 255, 9, 9] = false ∧ isHot [256, 191, 0, 0, 65, 256, 9, 9] = false ∧
    ((hot [256, 192, 0, 0, 64, 256, 9, 9]).hot.filter fun h => sgField s h.1 == 0) = [(0, [(0x10000, [256, 192, 0, 0, 64, 256, 9, 9])])] ∧
    (let warm := st.modField 0 fun fs => { fs with migrate := true }
     let mask := warm.modSlot fun sl => { sl with crit := true }
     (mask.field 0).migrate = true ∧ maskedIn mask 0 = true ∧ maskedIn warm 0 = false ∧ atPoints warm [0] = false) ∧
    ((paged .discarded).parts.all fun q => q.2.pages.leaves == [(0x10000, leafIn .discarded)]) = true ∧
    granuleAt s 0 0 = some (0, 8) ∧ (cool.field 0).migrate = true ∧ maskedIn cool 0 = false ∧ atPoints cool [0] = true := by
  decide +kernel

/-- The router of the partition's first supergroup. -/
theorem witness_FailuresMigrationsAndPowerActOnTheirParts_router :
    st.parts.keys.filter (fun e => routedThrough st e 0) = [0] := by
  decide +kernel

/-- A page that moves to another frame of the silo, one of the second tier behind a port, and one of a granary with free frames. -/
theorem witness_FailuresMigrationsAndPowerActOnTheirParts_move :
    let q (l : Leaf) : State := st.modPart 0 fun p => { p with pages := putLeaf [0x10000, 0x11000, 0x12000] p.pages 0x10000 l }
    let far : Leaf := { leafIn .present with tier := .second, frame := 4194304 }
    leafOf ((paged .moving).pageTable (some 0)) 0x10000 = some (leafIn .moving) ∧ (paged .moving).lost = [] ∧
    memWf (paged .moving).base (paged .moving).mem = true ∧ (partSgs (paged .moving) 0).isEmpty = false ∧
    (partFields (paged .moving) 0).isEmpty = false ∧
    ((q far).parts.filter fun e => e.2.pages.leaves.any fun g => g.2.state != .notPresent && (g.2.tier == .second && g.2.frame / 4194304 == 1)).map
      Prod.fst = [0] ∧ ({ far with state := .moving } : Leaf).tier = .second ∧
    (let g : Leaf := { leafIn .moving with tier := .granary }
     g.tier = .granary ∧ (granaryFree (q g) 0 1).isEmpty = false ∧ (q g).lost = [] ∧ memWf (q g).base (q g).mem = true ∧
     (((q g).parts.get? 0).map PartSt.fields) = some [0] ∧ ((partSgs (q g) 0).any fun h => sgField (q g) h == 0) = true) := by
  decide +kernel
/-- A table of one small leaf is tidy. -/
theorem witness_TheControllerBootsAttestsAndAnswersFaults_tidy : TidyTable ((paged .present).pageTable (some 0)) := by
  have h : (paged .present).pageTable (some 0) = ⟨(st.pageTable (some 0)).root, [(0, pointerTo 0x10000)], [(4, pointerTo 0x11000)],
    [(2048, pointerTo 0x12000)], [(0x10000, wordOfLeaf (leafIn .present))], []⟩ := by decide +kernel
  have p : ∀ a, isPointer (pointerTo a) = true := isPointer_pointerTo
  rw [h]
  constructor
  · intro pn
    simp only [PageTable.entry1, PageTable.entry2, AMap.getD, AMap.get?]
    split <;> intro e
    · rw [if_pos (by omega)]; exact p _
    · exact absurd rfl e
  · intro pn
    simp only [PageTable.entry2, PageTable.entry3, AMap.getD, AMap.get?]
    split <;> intro e
    · rw [if_pos (by omega)]; exact p _
    · exact absurd rfl e
  · intro pn
    simp only [PageTable.entry3, PageTable.entry4, AMap.getD, AMap.get?]
    split <;> intro e
    · rw [if_pos (by omega)]; exact p _
    · exact absurd rfl e
  · intro pn e; exact absurd e List.not_mem_nil
  · intro pn l e b
    unfold leafOf at e
    split at e
    · simp at e
    · split at e
      · simp only [Option.filter_eq_some_iff] at e; simp [b] at e
      · rename_i n
        have z : (PageTable.entry3 ⟨(st.pageTable (some 0)).root, [(0, pointerTo 0x10000)], [(4, pointerTo 0x11000)],
          [(2048, pointerTo 0x12000)], [(0x10000, wordOfLeaf (leafIn .present))], []⟩ pn) = 0 := by
          simp only [PageTable.entry3, AMap.getD, AMap.get?] at n ⊢
          split at n
          · exact absurd (p _) n
          · rename_i k; rw [if_neg k]; rfl
        rw [z] at e
        simp [leafOfWord, PageTable.isLost] at e

end Sys2Proof.Tests
end

section
/-!
PROOFS. Decoding and encoding agree (R5 to R18). A word is a row's pattern with fields put at their places; the rows are settled
one chunk of the instruction map at a time, by one computation on fields that every row shares.
-/
namespace Sys2Proof

/-! ### Fields of a word -/

/-- The bits of a word that a field of `n` bits from `lo` on takes. -/
def fieldMask (lo n : Nat) : BitVec 32 := BitVec.ofNat 32 ((2 ^ n - 1) <<< lo)

theorem getLsbD_put {n : Nat} (lo : Nat) (x : BitVec n) (i : Nat) :
    (put lo x).getLsbD i = (decide (i < 32) && decide (lo ≤ i) && x.getLsbD (i - lo)) := by
  by_cases h : lo ≤ i <;> by_cases g : i < 32 <;> simp [put, h, g]

theorem getLsbD_fieldMask (lo n i : Nat) :
    (fieldMask lo n).getLsbD i = (decide (i < 32) && decide (lo ≤ i) && decide (i - lo < n)) := by
  simp only [fieldMask, BitVec.getLsbD_ofNat, Nat.testBit_shiftLeft, Nat.testBit_two_pow_sub_one, Bool.and_assoc, ge_iff_le]

/-- Taking a field and putting it back keeps the bits of the field. -/
theorem put_extractLsb' (w : BitVec 32) (lo n : Nat) : put lo (w.extractLsb' lo n) = w &&& fieldMask lo n := by
  refine BitVec.eq_of_getLsbD_eq fun i hi => ?_
  simp only [getLsbD_put, BitVec.getLsbD_and, getLsbD_fieldMask, BitVec.getLsbD_extractLsb']
  by_cases h : lo ≤ i
  · simp [h, hi, Bool.and_comm]
  · simp [h]

/-- A field put at its place is read back whole. -/
theorem extractLsb'_put_self {n : Nat} (lo : Nat) (x : BitVec n) (h : lo + n ≤ 32) : (put lo x).extractLsb' lo n = x := by
  refine BitVec.eq_of_getLsbD_eq fun i hi => ?_
  simp [getLsbD_put, hi]
  omega

theorem put_and_fieldMask {n : Nat} (lo : Nat) (x : BitVec n) : put lo x &&& fieldMask lo n = put lo x := by
  refine BitVec.eq_of_getLsbD_eq fun i _ => ?_
  simp only [getLsbD_put, BitVec.getLsbD_and, getLsbD_fieldMask]
  cases hx : x.getLsbD (i - lo)
  · simp
  · simp [BitVec.lt_of_getLsbD hx]

/-- A field lies outside a mask that has none of its bits. -/
theorem put_and_eq_zero {n : Nat} (lo : Nat) (x : BitVec n) (m : BitVec 32) (h : fieldMask lo n &&& m = 0#32) :
    put lo x &&& m = 0#32 := by
  rw [← put_and_fieldMask, BitVec.and_assoc, h, BitVec.and_zero]

/-- What a word has outside a field is not read with it. -/
theorem extractLsb'_eq_zero (x : BitVec 32) (lo n : Nat) (h : x &&& fieldMask lo n = 0#32) : x.extractLsb' lo n = 0#n := by
  refine BitVec.eq_of_getLsbD_eq fun i hi => ?_
  have b : (x &&& fieldMask lo n).getLsbD (lo + i) = false := by rw [h]; exact BitVec.getLsbD_zero
  rw [BitVec.getLsbD_and, getLsbD_fieldMask] at b
  by_cases g : lo + i < 32
  · simpa [hi, g] using b
  · simp [BitVec.getLsbD_of_ge x (lo + i) (by omega)]

theorem extractLsb'_put_ne {n : Nat} (lo : Nat) (x : BitVec n) (lo' n' : Nat) (h : fieldMask lo n &&& fieldMask lo' n' = 0#32) :
    (put lo x).extractLsb' lo' n' = 0#n' :=
  extractLsb'_eq_zero _ _ _ (put_and_eq_zero _ _ _ h)

/-! ### The three split immediates -/

theorem putB_immB (w : BitVec 32) : putB (immB w) = w &&& 0xFE000F80#32 := by
  refine BitVec.eq_of_getLsbD_eq fun i hi => ?_
  simp only [putB, immB, getLsbD_put, BitVec.getLsbD_or, BitVec.getLsbD_and, BitVec.getLsbD_append, BitVec.getLsbD_extractLsb']
  interval_cases i <;> simp

theorem putS_immS (w : BitVec 32) : putS (immS w) = w &&& 0xFE000F80#32 := by
  refine BitVec.eq_of_getLsbD_eq fun i hi => ?_
  simp only [putS, immS, getLsbD_put, BitVec.getLsbD_or, BitVec.getLsbD_and, BitVec.getLsbD_append, BitVec.getLsbD_extractLsb']
  interval_cases i <;> simp

theorem putJ_immJ (w : BitVec 32) : putJ (immJ w) = w &&& 0xFFFFF000#32 := by
  refine BitVec.eq_of_getLsbD_eq fun i hi => ?_
  simp only [putJ, immJ, getLsbD_put, BitVec.getLsbD_or, BitVec.getLsbD_append, BitVec.getLsbD_extractLsb']
  interval_cases i <;> simp

theorem immB_putB (x : BitVec 12) : immB (putB x) = x := by
  refine BitVec.eq_of_getLsbD_eq fun i hi => ?_
  simp only [putB, immB, getLsbD_put, BitVec.getLsbD_or, BitVec.getLsbD_append, BitVec.getLsbD_extractLsb']
  interval_cases i <;> simp

theorem immS_putS (x : BitVec 12) : immS (putS x) = x := by
  refine BitVec.eq_of_getLsbD_eq fun i hi => ?_
  simp only [putS, immS, getLsbD_put, BitVec.getLsbD_or, BitVec.getLsbD_append, BitVec.getLsbD_extractLsb']
  interval_cases i <;> simp

theorem immJ_putJ (x : BitVec 20) : immJ (putJ x) = x := by
  refine BitVec.eq_of_getLsbD_eq fun i hi => ?_
  simp only [putJ, immJ, getLsbD_put, BitVec.getLsbD_or, BitVec.getLsbD_append, BitVec.getLsbD_extractLsb']
  interval_cases i <;> simp




theorem immB_or (a b : BitVec 32) : immB (a ||| b) = immB a ||| immB b := by
  refine BitVec.eq_of_getLsbD_eq fun i hi => ?_
  simp only [immB, BitVec.getLsbD_or, BitVec.getLsbD_append, BitVec.getLsbD_extractLsb']
  interval_cases i <;> simp

theorem immS_or (a b : BitVec 32) : immS (a ||| b) = immS a ||| immS b := by
  refine BitVec.eq_of_getLsbD_eq fun i hi => ?_
  simp only [immS, BitVec.getLsbD_or, BitVec.getLsbD_append, BitVec.getLsbD_extractLsb']
  interval_cases i <;> simp

theorem immJ_or (a b : BitVec 32) : immJ (a ||| b) = immJ a ||| immJ b := by
  refine BitVec.eq_of_getLsbD_eq fun i hi => ?_
  simp only [immJ, BitVec.getLsbD_or, BitVec.getLsbD_append, BitVec.getLsbD_extractLsb']
  interval_cases i <;> simp

theorem putB_and_eq_zero (x : BitVec 12) (m : BitVec 32) (h : 0xFE000F80#32 &&& m = 0#32) : putB x &&& m = 0#32 := by
  rw [← immB_putB x, putB_immB, BitVec.and_assoc, h, BitVec.and_zero]

theorem putS_and_eq_zero (x : BitVec 12) (m : BitVec 32) (h : 0xFE000F80#32 &&& m = 0#32) : putS x &&& m = 0#32 := by
  rw [← immS_putS x, putS_immS, BitVec.and_assoc, h, BitVec.and_zero]

theorem putJ_and_eq_zero (x : BitVec 20) (m : BitVec 32) (h : 0xFFFFF000#32 &&& m = 0#32) : putJ x &&& m = 0#32 := by
  rw [← immJ_putJ x, putJ_immJ, BitVec.and_assoc, h, BitVec.and_zero]

theorem immB_eq_zero (w : BitVec 32) (h : w &&& 0xFE000F80#32 = 0#32) : immB w = 0#12 := by
  rw [← immB_putB (immB w), putB_immB, h]; rfl

theorem immS_eq_zero (w : BitVec 32) (h : w &&& 0xFE000F80#32 = 0#32) : immS w = 0#12 := by
  rw [← immS_putS (immS w), putS_immS, h]; rfl

theorem immJ_eq_zero (w : BitVec 32) (h : w &&& 0xFFFFF000#32 = 0#32) : immJ w = 0#20 := by
  rw [← immJ_putJ (immJ w), putJ_immJ, h]; rfl


theorem extractLsb'_putB (x : BitVec 12) (lo n : Nat) (h : 0xFE000F80#32 &&& fieldMask lo n = 0#32) : (putB x).extractLsb' lo n = 0#n :=
  extractLsb'_eq_zero _ _ _ (putB_and_eq_zero _ _ h)

theorem extractLsb'_putS (x : BitVec 12) (lo n : Nat) (h : 0xFE000F80#32 &&& fieldMask lo n = 0#32) : (putS x).extractLsb' lo n = 0#n :=
  extractLsb'_eq_zero _ _ _ (putS_and_eq_zero _ _ h)

theorem extractLsb'_putJ (x : BitVec 20) (lo n : Nat) (h : 0xFFFFF000#32 &&& fieldMask lo n = 0#32) : (putJ x).extractLsb' lo n = 0#n :=
  extractLsb'_eq_zero _ _ _ (putJ_and_eq_zero _ _ h)

theorem immB_put {n : Nat} (lo : Nat) (x : BitVec n) (h : fieldMask lo n &&& 0xFE000F80#32 = 0#32) : immB (put lo x) = 0#12 :=
  immB_eq_zero _ (put_and_eq_zero _ _ _ h)

theorem immS_put {n : Nat} (lo : Nat) (x : BitVec n) (h : fieldMask lo n &&& 0xFE000F80#32 = 0#32) : immS (put lo x) = 0#12 :=
  immS_eq_zero _ (put_and_eq_zero _ _ _ h)

theorem immJ_put {n : Nat} (lo : Nat) (x : BitVec n) (h : fieldMask lo n &&& 0xFFFFF000#32 = 0#32) : immJ (put lo x) = 0#20 :=
  immJ_eq_zero _ (put_and_eq_zero _ _ _ h)

/-- What a mask fixes of a word, it fixes of each field it covers. -/
theorem extractLsb'_of_and_eq {w m p : BitVec 32} (h : w &&& m = p) (lo n : Nat) (hm : m &&& fieldMask lo n = fieldMask lo n) :
    w.extractLsb' lo n = p.extractLsb' lo n := by
  have masked (x : BitVec 32) : (x &&& fieldMask lo n).extractLsb' lo n = x.extractLsb' lo n := by
    refine BitVec.eq_of_getLsbD_eq fun i hi => ?_
    simp only [BitVec.getLsbD_extractLsb', BitVec.getLsbD_and, getLsbD_fieldMask]
    by_cases g : lo + i < 32
    · simp [hi, g]
    · simp [BitVec.getLsbD_of_ge x (lo + i) (by omega)]
  rw [← masked w, ← masked p, ← h, BitVec.and_assoc, hm]

/-! ### The rows of the instruction map -/

/-- A property of every row holds where it holds of each chunk. -/
theorem forall_mem_rows {P : Row → Prop} (h0 : ∀ r ∈ rows0, P r) (h1 : ∀ r ∈ rows1, P r) (h2 : ∀ r ∈ rows2, P r)
    (h3 : ∀ r ∈ rows3, P r) (h4 : ∀ r ∈ rows4, P r) (h5 : ∀ r ∈ rows5, P r) (h6 : ∀ r ∈ rows6, P r) (h7 : ∀ r ∈ rows7, P r) :
    ∀ r ∈ rows, P r := by
  simp only [rows, List.forall_mem_append]
  exact ⟨⟨⟨⟨⟨⟨⟨h0, h1⟩, h2⟩, h3⟩, h4⟩, h5⟩, h6⟩, h7⟩

/-- The encoder gives what a row builds from a word the row's pattern, and the word's own bits outside the row's mask. -/
theorem encode_build : ∀ r ∈ rows, ∀ w, encode (r.build w) = some (r.pat ||| w &&& ~~~r.mask) := by
  apply forall_mem_rows
  all_goals
    simp only [rows0, rows1, rows2, rows3, rows4, rows5, rows6, rows7, List.forall_mem_cons, List.not_mem_nil, false_imp_iff,
      implies_true, and_true]
    delta encode
    dsimp only
    simp [put_extractLsb', putB_immB, putS_immS, putJ_immJ, BitVec.or_assoc, ← BitVec.and_or_distrib_left, fieldMask]

theorem encode_build_of_matches {r : Row} (hr : r ∈ rows) {w : BitVec 32} (h : w &&& r.mask = r.pat) :
    encode (r.build w) = some w := by
  rw [encode_build r hr, ← h, ← BitVec.and_or_distrib_left, BitVec.or_not_self, BitVec.and_allOnes]

/-- The form that a row stands for, as the place of its constructor. -/
def Row.form (r : Row) : Nat := (r.build 0).ctorIdx

/-- The row reads an instruction back: it matches its word, and builds it from that word. -/
def Row.Reads (r : Row) (i : Instr) : Prop := ∀ w, encode i = some w → w &&& r.mask = r.pat ∧ r.build w = i

/-- An instruction of a row's form is its constructor applied to some operands. -/
theorem reads_of_form {r : Row} (h : Instr.ctorElimType (motive := r.Reads) r.form) (i : Instr) (hi : r.form = i.ctorIdx) :
    r.Reads i :=
  Instr.ctorElim r.form i hi h

/-- Each row reads back every instruction of its form: each operand stands in its own field, and no field meets another. -/
theorem reads_of_mem_rows : ∀ r ∈ rows, ∀ i : Instr, r.form = i.ctorIdx → r.Reads i := by
  apply forall_mem_rows
  all_goals
    simp only [rows0, rows1, rows2, rows3, rows4, rows5, rows6, rows7, List.forall_mem_cons, List.not_mem_nil, false_imp_iff,
      implies_true, and_true]
    refine ⟨?_, ?_, ?_, ?_, ?_, ?_, ?_, ?_, ?_, ?_, ?_, ?_, ?_, ?_, ?_, ?_, ?_, ?_, ?_, ?_, ?_, ?_, ?_, ?_, ?_, ?_⟩
  all_goals
    refine reads_of_form ⟨?_⟩
    intros
    intro w h
    obtain rfl := Option.some.inj h
    simp (disch := decide) only [BitVec.ofNat_eq_ofNat, BitVec.reduceAnd, BitVec.or_zero, BitVec.zero_or,
      BitVec.and_or_distrib_right, put_and_eq_zero, putB_and_eq_zero, putS_and_eq_zero, putJ_and_eq_zero,
      BitVec.extractLsb'_or, extractLsb'_put_self, extractLsb'_put_ne, BitVec.reduceExtractLsb', extractLsb'_putB,
      extractLsb'_putS, extractLsb'_putJ, immB_or, immS_or, immJ_or, immB_put, immS_put, immJ_put, immB_putB, immS_putS,
      immJ_putJ, immB_eq_zero, immS_eq_zero, immJ_eq_zero, and_self]

/-- The first 208 forms are those that have a word. -/
theorem isSome_encode (i : Instr) : (encode i).isSome = decide (i.ctorIdx < 208) := by
  cases i <;> rfl

/-- Each of the forms that have a word has a row. -/
theorem forms_have_rows : List.range 208 ⊆ rows.map Row.form := by
  decide +kernel

/-- An instruction that has a word has a row that reads it back. -/
theorem exists_row_of_encode {i : Instr} {w : BitVec 32} (h : encode i = some w) :
    ∃ r ∈ rows, w &&& r.mask = r.pat ∧ r.build w = i := by
  have lt : i.ctorIdx < 208 := by simpa [h] using isSome_encode i
  obtain ⟨r, hr, hf⟩ := List.mem_map.mp (forms_have_rows (List.mem_range.mpr lt))
  exact ⟨r, hr, reads_of_mem_rows r hr i hf w h⟩

/-! ### Which of two rows a word meets -/

/-- No word matches both rows: they fix some bit differently. -/
def Row.apart (q r : Row) : Bool := q.mask &&& r.mask &&& (q.pat ^^^ r.pat) != 0

/-- A row of custom-1 that leaves the field ew open. -/
def Row.ewOpen (r : Row) : Bool := r.pat &&& 0x7F == 0x2B && r.mask &&& 0x18000000 == 0

/-- A row that fixes the field ew at 3 (form space F). -/
def Row.ewThree (r : Row) : Bool := r.mask &&& r.pat &&& 0x18000000 == 0x18000000

/-- Any two rows are apart, but for form space F before the integer rows, and `fence.tso` before `fence`. -/
theorem rows_apart : rows.Pairwise fun q r =>
    q.apart r = true ∨ q.ewThree = true ∧ r.ewOpen = true ∨
      q.mask = 0xFFF0707F ∧ q.pat = 0x8330000F ∧ r.pat = 0x0000000F := by
  decide +kernel

theorem and_ne_of_apart {q r : Row} (h : q.apart r = true) {w : BitVec 32} (hq : w &&& q.mask = q.pat) :
    w &&& r.mask ≠ r.pat := by
  intro hr
  have e : q.mask &&& r.mask &&& (q.pat ^^^ r.pat) = 0#32 := by
    rw [← hq, ← hr]
    ext i
    simp only [BitVec.getElem_and, BitVec.getElem_xor, BitVec.getElem_zero]
    cases w[i] <;> cases q.mask[i] <;> cases r.mask[i] <;> rfl
  simp [Row.apart, e] at h

theorem ew_of_ewThree {q : Row} (h : q.ewThree = true) {w : BitVec 32} (hq : w &&& q.mask = q.pat) :
    w.extractLsb' 27 2 = 3 := by
  have t : q.mask &&& (w &&& q.mask) &&& 0x18000000#32 = 0x18000000#32 := by rw [hq]; exact eq_of_beq h
  have e : w &&& 0x18000000#32 = 0x18000000#32 := by
    rw [← t]
    ext i
    simp only [BitVec.getElem_and]
    cases w[i] <;> cases q.mask[i] <;> simp
  exact extractLsb'_of_and_eq e 27 2 (by decide)

/-- An integer row admits no word with ew = 3 (R102). -/
theorem not_wf_of_ewOpen : ∀ r ∈ rows, r.ewOpen = true → ∀ w : BitVec 32, w.extractLsb' 27 2 = 3 →
    (r.build w).wf = false := by
  apply forall_mem_rows
  all_goals
    simp only [rows0, rows1, rows2, rows3, rows4, rows5, rows6, rows7, List.forall_mem_cons, List.not_mem_nil, false_imp_iff,
      implies_true, and_true]
    delta Instr.wf
    dsimp only
    simp +contextual [Row.ewOpen]

/-- The row of `fence` admits no word of `fence.tso`. -/
theorem not_wf_of_fenceTso : ∀ r ∈ rows, r.pat = 0x0000000F → ∀ w : BitVec 32, w &&& 0xFFF0707F = 0x8330000F →
    (r.build w).wf = false := by
  apply forall_mem_rows
  all_goals
    simp only [rows0, rows1, rows2, rows3, rows4, rows5, rows6, rows7, List.forall_mem_cons, List.not_mem_nil, false_imp_iff,
      implies_true, and_true]
    delta Instr.wf
    dsimp only
    simp
  case h7 =>
    intro w h
    have hf (lo : Nat) := extractLsb'_of_and_eq h lo 4
    exact ⟨⟨hf 28 (by decide), hf 24 (by decide)⟩, hf 20 (by decide)⟩

/-- Of two rows that a word matches, the later one builds nothing well-formed from it. -/
theorem rows_shadow : rows.Pairwise fun q r => ∀ w, w &&& q.mask = q.pat → w &&& r.mask = r.pat → (r.build w).wf = false := by
  refine rows_apart.imp_of_mem fun {q r} _ hr h w hq hw => ?_
  obtain h | ⟨h3, ho⟩ | ⟨hm, hp, h0⟩ := h
  · exact absurd hw (and_ne_of_apart h hq)
  · exact not_wf_of_ewOpen r hr ho w (ew_of_ewThree h3 hq)
  · exact not_wf_of_fenceTso r hr h0 w (hm ▸ hp ▸ hq)

/-! ### Decoding -/

/-- A word decodes to what a row builds from it, where that is well-formed. -/
theorem decode_of_matches {r : Row} {w : BitVec 32} (hr : r ∈ rows) (hm : w &&& r.mask = r.pat)
    (hwf : (r.build w).wf = true) : decode w = some (r.build w) := by
  obtain ⟨as, bs, hab⟩ := List.append_of_mem hr
  have before : ∀ q ∈ as, ¬w &&& q.mask = q.pat := fun q hq hqw => by
    have shadow := rows_shadow
    rw [hab, List.pairwise_append] at shadow
    exact absurd hwf (by simp [shadow.2.2 q hq r List.mem_cons_self w hqw hm])
  have found : rows.find? (fun r => w &&& r.mask == r.pat) = some r :=
    List.find?_eq_some_iff_append.mpr ⟨by simpa using hm, as, bs, hab, by simpa using before⟩
  simp [decode, decodeRow, found, hwf]

/-- What a word decodes to is well-formed, and built by a row that the word matches. -/
theorem exists_row_of_decode {w : BitVec 32} {i : Instr} (h : decode w = some i) :
    ∃ r ∈ rows, w &&& r.mask = r.pat ∧ r.build w = i ∧ i.wf = true := by
  simp only [decode, decodeRow, Option.filter_eq_some_iff, Option.map_eq_some_iff] at h
  obtain ⟨⟨r, found, hb⟩, hwf⟩ := h
  exact ⟨r, List.mem_of_find?_eq_some found, by simpa using List.find?_some found, hb, hwf⟩

/-- Settles O16: its row reads the instruction back, and no earlier row takes its word. -/
theorem decodeInvertsEncode : Obligations.DecodeInvertsEncode := by
  intro i w hwf h
  obtain ⟨r, hr, hm, rfl⟩ := exists_row_of_encode h
  exact decode_of_matches hr hm hwf

/-- Settles O17: the row that a word matches builds an instruction whose word it is. -/
theorem encodeInvertsDecode : Obligations.EncodeInvertsDecode := by
  intro w i h
  obtain ⟨r, hr, hm, rfl, hwf⟩ := exists_row_of_decode h
  exact ⟨encode_build_of_matches hr hm, hwf⟩

end Sys2Proof
end

section
/-!
PROOFS. Jumps and branches (R5, R78).
-/
namespace Sys2Proof.Machine

theorem extractLsb'_two_eq_zero_iff (w : Word) : w.extractLsb' 0 2 = 0 ↔ w.toNat % 4 = 0 := by
  rw [← BitVec.toNat_inj]
  simp

/-- An offset in halfwords, doubled and sign-extended. -/
theorem signExtend_append_zero {n : Nat} (off : BitVec n) : (off ++ 0#1).signExtend 64 = BitVec.ofInt 64 (off.toInt * 2) := by
  have h : (off ++ 0#1).toInt = off.toInt * 2 := by
    rw [BitVec.toInt_append]
    split
    · obtain rfl : n = 0 := eq_of_beq ‹_›
      simp [BitVec.eq_nil off]
    · simp [mul_comm]
  rw [BitVec.signExtend, h]

theorem Slot.pcW_add (sl : Slot) {n : Nat} (off : BitVec n) :
    sl.pcW + (off ++ 0#1).signExtend 64 = BitVec.ofInt 64 (sl.pc.toNat + off.toInt * 2) := by
  rw [signExtend_append_zero, BitVec.ofInt_add, Slot.pcW, BitVec.ofInt_natCast, BitVec.ofNat_toNat]

theorem sext12_add (x : Word) (imm : BitVec 12) : x + sext12 imm = BitVec.ofInt 64 (x.toInt + imm.toInt) := by
  rw [BitVec.ofInt_add, BitVec.ofInt_toInt]
  rfl

theorem and_not_one (x : Word) : x &&& ~~~1#64 = BitVec.ofNat 64 (x.toNat / 2 * 2) := by
  refine BitVec.eq_of_getLsbD_eq fun i hi => ?_
  have h : x.toNat / 2 * 2 = x.toNat >>> 1 <<< 1 := by simp [Nat.shiftRight_eq_div_pow, Nat.shiftLeft_eq]
  rw [h, BitVec.getLsbD_and, BitVec.getLsbD_not, BitVec.getLsbD_one, BitVec.getLsbD_ofNat, Nat.testBit_shiftLeft,
    Nat.testBit_shiftRight]
  cases i with
  | zero => simp
  | succ i => simp [hi, Nat.add_comm 1 i, BitVec.getElem_eq_testBit_toNat]

/-- The link and the pc of a jump that is taken. -/
theorem Slot.wx_jumped (sl : Slot) (rd : Reg) (v : Word) (pc : BitVec 48) :
    { sl.wx rd v with pc := pc, instret := sl.instret + 1 } = { sl.after rd v with pc := pc } := by
  rw [← Slot.wx_retire]
  unfold Slot.wx Slot.retire
  split <;> rfl

/-- A jump links and goes to its target, or traps with MISFETCH and links nothing. -/
theorem State.jump_target (s : State) (rd : Reg) (target : Word) :
    if target.toNat % 4 = 0 then
      OnlySlot s (s.jump rd target) { s.slot.after rd ((s.slot.pc + 4).setWidth 64) with pc := target.setWidth 48 }
    else s.jump rd target = s.trap causeMisfetch target := by
  rw [← Slot.wx_jumped]
  obtain ⟨h, onlySlot⟩ | ⟨h, traps⟩ := s.jump_cases rd target
  · rw [if_pos ((extractLsb'_two_eq_zero_iff _).mp h)]
    exact onlySlot
  · rw [if_neg fun e => h ((extractLsb'_two_eq_zero_iff _).mpr e)]
    exact traps

/-- An instruction that is a jump links and goes to its target, or traps with MISFETCH. -/
theorem goes_of_jump {s : State} {i : Instr} {rd : Reg} {target : Word} (h : exec i s = .next (s.jump rd target)) :
    if target.toNat % 4 = 0 then Leaves i s { s.slot.after rd ((s.slot.pc + 4).setWidth 64) with pc := target.setWidth 48 }
    else exec i s = .next (s.trap causeMisfetch target) := by
  have j := s.jump_target rd target
  split at j
  · exact (if_pos ‹_›).mpr ⟨_, h, j⟩
  · rw [if_neg ‹_›, h, j]

/-- An instruction that is a branch goes to its target as a jump does, or on to the next one. -/
theorem goes_of_branch {s : State} {i : Instr} {taken : Bool} {off : BitVec 12} (h : exec i s = .next (s.branch taken off)) :
    if taken then
      if (BitVec.ofInt 64 (s.slot.pc.toNat + off.toInt * 2)).toNat % 4 = 0 then
        Leaves i s { s.slot.after 0 ((s.slot.pc + 4).setWidth 64) with
          pc := (BitVec.ofInt 64 (s.slot.pc.toNat + off.toInt * 2)).setWidth 48 }
      else exec i s = .next (s.trap causeMisfetch (BitVec.ofInt 64 (s.slot.pc.toNat + off.toInt * 2)))
    else Leaves i s s.slot.next := by
  obtain ⟨rfl, hb⟩ | ⟨rfl, hb⟩ := s.branch_cases taken off
  · rw [hb, Slot.pcW_add] at h
    exact goes_of_jump h
  · exact ⟨_, h, hb ▸ s.onlySlot_retire⟩

/-- Settles O3: each form is a jump or a branch of the model, with its target as a sum of integers. -/
theorem jumpsAndBranchesLinkAndTransfer : Obligations.JumpsAndBranchesLinkAndTransfer := by
  intro s rd rs rt imm off far
  refine ⟨goes_of_jump ?_, goes_of_jump ?_, goes_of_branch ?_, goes_of_branch ?_, goes_of_branch ?_, goes_of_branch ?_,
    goes_of_branch ?_, goes_of_branch ?_⟩
  · rw [← Slot.pcW_add]; rfl
  · rw [← sext12_add, ← and_not_one]; rfl
  · show execBeq rs rt off s = _
    simp only [execBeq, beq_eq_decide]
  · show execBne rs rt off s = _
    simp only [execBne, bne, beq_eq_decide, decide_not]
  · show execBlt rs rt off s = _
    simp only [execBlt, BitVec.slt]
  · show execBge rs rt off s = _
    simp only [execBge, BitVec.slt, ← decide_not, not_lt]
  · show execBltu rs rt off s = _
    simp only [execBltu, BitVec.ult]
  · show execBgeu rs rt off s = _
    simp only [execBgeu, BitVec.ult, ← decide_not, not_lt]

end Sys2Proof.Machine
end

section
/-!
PROOFS. Taking a trap (R65, R66, R227): what each part of it does to the channels, the slots and the network.
-/
namespace Sys2Proof.Machine

/-- `t` is `s` but for channels, messages under way and the counter of identities. -/
structure ChansAlone (s t : State) : Prop where
  rest : { t with cores := s.cores, net := s.net, nextId := s.nextId } = s
  cores : ∀ d, { t.core d with chans := (s.core d).chans } = s.core d

theorem ChansAlone.refl (s : State) : ChansAlone s s := ⟨rfl, fun _ => rfl⟩

theorem ChansAlone.trans {s t u : State} (h : ChansAlone s t) (k : ChansAlone t u) : ChansAlone s u where
  rest := by
    have e := k.rest
    have e' := congrArg (fun v : State => { v with cores := s.cores, net := s.net, nextId := s.nextId }) e
    exact e'.trans h.rest
  cores := fun d => by
    have e := congrArg (fun v : CoreSt => { v with chans := (s.core d).chans }) (k.cores d)
    exact e.trans (h.cores d)

theorem ChansAlone.slotOf {s t : State} (h : ChansAlone s t) (d : Nat) (j : Fin 4) : t.slotOf d j = s.slotOf d j := by
  have e := congrArg (fun co : CoreSt => co.slots.get j) (h.cores d)
  exact e

theorem ChansAlone.resv {s t : State} (h : ChansAlone s t) : t.resv = s.resv := by
  have e := congrArg State.resv h.rest
  exact e

theorem State.chansAlone_modChan (s : State) (c ch : Nat) (f : Chan → Chan) : ChansAlone s (s.modChan c ch f) where
  rest := rfl
  cores := fun d => by
    simp only [State.modChan, State.core_modCore]
    split
    · subst d; rfl
    · rfl

theorem State.chansAlone_post (s : State) (src : Src) (e : Bool) (b : Body) : ChansAlone s (s.post src e b) :=
  ⟨rfl, fun _ => rfl⟩

theorem State.chansAlone_disown (s : State) (c k : Nat) : ChansAlone s (s.disown c k) := ⟨rfl, fun _ => rfl⟩

theorem State.chansAlone_unbusy (s : State) (c : Nat) (ch : Option Nat) : ChansAlone s (s.unbusy c ch) := by
  cases ch with
  | none => exact .refl s
  | some ch => exact s.chansAlone_modChan c ch fun q => { q with busy := false }

/-! ### One channel -/

theorem State.chan_modChan (s : State) (c ch d : Nat) (f : Chan → Chan) :
    (s.modChan c ch f).chan c d = if d = ch then f (s.chan c ch) else s.chan c d := by
  simp only [State.chan, State.modChan, State.core_modCore_self, AMap.getD_put]

@[simp] theorem State.chan_post (s : State) (src : Src) (e : Bool) (b : Body) (c ch : Nat) :
    (s.post src e b).chan c ch = s.chan c ch := rfl

/-- Granting room changes only which messages a channel has refused, and for which it holds room. -/
theorem State.grantRoom_frame (c ch : Nat) : ∀ (n : Nat) (s : State),
    ChansAlone s (s.grantRoom c ch n) ∧ ∀ d, ∃ refused reserved,
      (s.grantRoom c ch n).chan c d = { s.chan c d with refused := refused, reserved := reserved }
  | 0, s => ⟨.refl s, fun _ => ⟨_, _, rfl⟩⟩
  | n + 1, s => by
    unfold State.grantRoom
    extract_lets q
    split
    · split
      · rename_i m more _ _
        extract_lets s₁ src
        obtain ⟨alone, chans⟩ := State.grantRoom_frame c ch n (s₁.post (.core c) false (.flow src m true))
        refine ⟨((s.chansAlone_modChan c ch _).trans (s₁.chansAlone_post _ _ _)).trans alone, fun d => ?_⟩
        obtain ⟨refused, reserved, h⟩ := chans d
        refine ⟨refused, reserved, h.trans ?_⟩
        rw [State.chan_post, State.chan_modChan]
        split
        · subst d; rfl
        · rfl
      · exact ⟨.refl s, fun _ => ⟨_, _, rfl⟩⟩
    · exact ⟨.refl s, fun _ => ⟨_, _, rfl⟩⟩

/-- A channel without the entries that a slot's chain holds. -/
def Chan.released (q : Chan) (k : Nat) : Chan := { q with queue := q.queue.filter fun e => e.taken ≠ some k }

theorem Chan.released_of_none {q : Chan} {k : Nat} (h : ¬(q.queue.any fun e => e.taken == some k) = true) : q.released k = q := by
  have all : ∀ e ∈ q.queue, decide (e.taken ≠ some k) = true := by simpa using h
  simp only [Chan.released, List.filter_eq_self.mpr all]

@[simp] theorem Chan.released_released (q : Chan) (k : Nat) : (q.released k).released k = q.released k := by
  simp [Chan.released]

/-- One channel's entries are released, as `releaseEntries` does it. -/
def State.releaseIn (s : State) (c k ch : Nat) : State :=
  if (s.chan c ch).queue.any fun e => e.taken == some k then
    (s.modChan c ch fun q => { q with queue := q.queue.filter fun e => e.taken ≠ some k }).grantRoom c ch
      (s.chan c ch).refused.length
  else s

theorem State.releaseEntries_eq (s : State) (c k : Nat) :
    s.releaseEntries c k = (s.core c).chans.keys.foldl (State.releaseIn · c k) s := rfl


theorem State.releaseIn_frame (s : State) (c k ch : Nat) :
    ChansAlone s (s.releaseIn c k ch) ∧ ∀ d, ∃ refused reserved, (s.releaseIn c k ch).chan c d =
      { if d = ch then (s.chan c d).released k else s.chan c d with refused := refused, reserved := reserved } := by
  unfold State.releaseIn
  split
  · obtain ⟨alone, chans⟩ := State.grantRoom_frame c ch (s.chan c ch).refused.length
      (s.modChan c ch fun q => { q with queue := q.queue.filter fun e => e.taken ≠ some k })
    refine ⟨(s.chansAlone_modChan c ch _).trans alone, fun d => ?_⟩
    obtain ⟨refused, reserved, h⟩ := chans d
    refine ⟨refused, reserved, h.trans ?_⟩
    rw [State.chan_modChan]
    split
    · subst d; rfl
    · rfl
  · refine ⟨.refl s, fun d => ⟨(s.chan c d).refused, (s.chan c d).reserved, ?_⟩⟩
    split
    · subst d; rw [Chan.released_of_none ‹_›]
    · rfl

theorem releaseFold_frame (c k : Nat) : ∀ (l : List Nat) (s : State),
    ChansAlone s (l.foldl (State.releaseIn · c k) s) ∧ ∀ d, ∃ refused reserved, (l.foldl (State.releaseIn · c k) s).chan c d =
      { if d ∈ l then (s.chan c d).released k else s.chan c d with refused := refused, reserved := reserved }
  | [], s => ⟨.refl s, fun d => ⟨_, _, rfl⟩⟩
  | ch :: l, s => by
    obtain ⟨alone₁, chans₁⟩ := s.releaseIn_frame c k ch
    obtain ⟨alone₂, chans₂⟩ := releaseFold_frame c k l (s.releaseIn c k ch)
    refine ⟨alone₁.trans alone₂, fun d => ?_⟩
    obtain ⟨_, _, h₁⟩ := chans₁ d
    obtain ⟨refused, reserved, h₂⟩ := chans₂ d
    refine ⟨refused, reserved, h₂.trans ?_⟩
    rw [h₁]
    by_cases hd : d = ch <;> by_cases hl : d ∈ l <;> simp [hd, hl, Chan.released]

theorem AMap.getD_of_not_mem {α : Type} (m : AMap α) (n : Nat) (d : α) (h : n ∉ m.keys) : m.getD n d = d := by
  suffices e : m.get? n = none by simp [AMap.getD, e]
  induction m with
  | nil => rfl
  | cons p m ih =>
    obtain ⟨k, v⟩ := p
    simp only [AMap.keys, List.map_cons, List.mem_cons, not_or] at h
    rw [AMap.get?, if_neg (Ne.symm h.1)]
    exact ih h.2

/-- Releasing the entries of a slot's chain takes them from every queue of its core. -/
theorem State.releaseEntries_frame (s : State) (c k : Nat) :
    ChansAlone s (s.releaseEntries c k) ∧ ∀ ch, ∃ refused reserved, (s.releaseEntries c k).chan c ch =
      { (s.chan c ch).released k with refused := refused, reserved := reserved } := by
  rw [State.releaseEntries_eq]
  obtain ⟨alone, chans⟩ := releaseFold_frame c k (s.core c).chans.keys s
  refine ⟨alone, fun ch => ?_⟩
  obtain ⟨refused, reserved, h⟩ := chans ch
  refine ⟨refused, reserved, h.trans ?_⟩
  split
  · rfl
  · have e : s.chan c ch = .reset := AMap.getD_of_not_mem _ _ _ ‹_›
    rw [e]; rfl

/-! ### The messages of a chain -/

theorem Chan.toHead_frame (q : Chan) (n : BitVec 32) : ∃ queue, q.toHead n = { q with queue := queue } := by
  unfold Chan.toHead
  split
  · exact ⟨_, rfl⟩
  · exact ⟨q.queue, rfl⟩

/-- The messages that a chain took by `waitm` go back to the heads of their queues. -/
theorem toHeads_frame (c : Nat) : ∀ (l : List (Nat × BitVec 32)) (s : State),
    let t := l.foldl (fun (s : State) (t : Nat × BitVec 32) => s.modChan c t.1 fun q => q.toHead t.2) s
    ChansAlone s t ∧ ∀ ch, ∃ queue, t.chan c ch = { s.chan c ch with queue := queue }
  | [], s => ⟨.refl s, fun _ => ⟨_, rfl⟩⟩
  | x :: l, s => by
    obtain ⟨alone, chans⟩ := toHeads_frame c l (s.modChan c x.1 fun q => q.toHead x.2)
    refine ⟨(s.chansAlone_modChan c x.1 _).trans alone, fun ch => ?_⟩
    obtain ⟨queue, h⟩ := chans ch
    refine ⟨queue, h.trans ?_⟩
    rw [State.chan_modChan]
    split
    · subst ch
      obtain ⟨_, e⟩ := (s.chan c x.1).toHead_frame x.2
      rw [e]
    · rfl

/-- What a trap does first: the messages of the chain return to the heads of their queues and its first channel is disabled, but for a
graph activation's, and for a spawned child's (R65, R227). -/
def State.takeBack (s : State) (c : Nat) (sl : Slot) : State :=
  match sl.first with
  | some f =>
    let s := sl.taken.foldl (fun (s : State) (t : Nat × BitVec 32) => s.modChan c t.1 fun q => q.toHead t.2) s
    if sl.task.isSome then s
    else
      let s := match sl.trigger with
        | some t => s.modChan c f fun q => q.toHead t
        | none => s
      s.modChan c f fun q => { q with en := false, pend := q.pend || sl.pending }
  | none => s

theorem State.takeBack_child (s : State) (c : Nat) {sl : Slot} (h : sl.first = none) : s.takeBack c sl = s := by
  simp only [State.takeBack, h]

theorem State.takeBack_untaken (s : State) (c : Nat) {sl : Slot} (h : sl.taken = []) (task : sl.task.isSome = true) :
    s.takeBack c sl = s := by
  unfold State.takeBack
  split
  · simp [h, task]
  · rfl

/-- Every channel stays busy or not as it was, and, for a graph activation, enabled and pending as it was. -/
theorem State.takeBack_frame (s : State) (c : Nat) (sl : Slot) :
    ChansAlone s (s.takeBack c sl) ∧ ∀ ch, ((s.takeBack c sl).chan c ch).busy = (s.chan c ch).busy ∧
      (sl.task.isSome = true → ((s.takeBack c sl).chan c ch).en = (s.chan c ch).en ∧
        ((s.takeBack c sl).chan c ch).pend = (s.chan c ch).pend) := by
  unfold State.takeBack
  split
  case h_2 => exact ⟨.refl s, fun _ => ⟨rfl, fun _ => ⟨rfl, rfl⟩⟩⟩
  case h_1 f _ =>
    extract_lets s₁ s₂
    obtain ⟨alone, chans⟩ := toHeads_frame c sl.taken s
    have same (ch : Nat) : ∃ queue, s₁.chan c ch = { s.chan c ch with queue := queue } := chans ch
    split
    · refine ⟨alone, fun ch => ?_⟩
      obtain ⟨_, h⟩ := same ch
      rw [h]
      exact ⟨rfl, fun _ => ⟨rfl, rfl⟩⟩
    · have second : ChansAlone s₁ s₂ ∧ ∀ ch, (s₂.chan c ch).busy = (s₁.chan c ch).busy := by
        show ChansAlone s₁ (match sl.trigger with | some t => _ | none => s₁) ∧
          ∀ ch, (State.chan (match sl.trigger with | some t => _ | none => s₁) c ch).busy = _
        split
        · refine ⟨s₁.chansAlone_modChan c f _, fun ch => ?_⟩
          rw [State.chan_modChan]
          split
          · subst ch
            obtain ⟨_, h⟩ := (s₁.chan c f).toHead_frame ‹_›
            rw [h]
          · rfl
        · exact ⟨.refl s₁, fun _ => rfl⟩
      refine ⟨(alone.trans second.1).trans (s₂.chansAlone_modChan c f _), fun ch => ⟨?_, fun h => absurd h ‹_›⟩⟩
      obtain ⟨_, h⟩ := same ch
      have e : (s₂.chan c ch).busy = (s.chan c ch).busy := by rw [second.2, h]
      rw [State.chan_modChan]
      split
      · subst ch; exact e
      · exact e

/-- The first channel of a chain is disabled, with its pending bit set again if a pending bit started the chain (R65). -/
theorem State.takeBack_first (s : State) (c : Nat) {sl : Slot} {f : Nat} (first : sl.first = some f) (task : sl.task = none) :
    ((s.takeBack c sl).chan c f).en = false ∧ ((s.takeBack c sl).chan c f).pend = ((s.chan c f).pend || sl.pending) := by
  simp only [State.takeBack, first, task, Option.isSome_none, Bool.false_eq_true, if_false]
  obtain ⟨-, chans⟩ := toHeads_frame c sl.taken s
  obtain ⟨_, h⟩ := chans f
  rw [State.chan_modChan, if_pos rfl]
  refine ⟨rfl, congrArg (· || sl.pending) ?_⟩
  split
  · rw [State.chan_modChan, if_pos rfl, h]
    obtain ⟨_, e⟩ := ({ s.chan c f with queue := _ } : Chan).toHead_frame ‹_›
    rw [e]
  · rw [h]

/-- The message that started a chain goes back to the head of the queue of its first channel, held by nobody (R65). -/
theorem State.takeBack_trigger (s : State) (c : Nat) {sl : Slot} {f : Nat} {n : BitVec 32} {e : QEntry} (first : sl.first = some f)
    (trigger : sl.trigger = some n) (task : sl.task = none) (taken : sl.taken = [])
    (found : (s.chan c f).queue.find? (fun e => e.seq == n) = some e) :
    ∃ rest, ((s.takeBack c sl).chan c f).queue = { e with taken := none } :: rest := by
  simp only [State.takeBack, first, trigger, task, taken, List.foldl_nil, Option.isSome_none, Bool.false_eq_true, if_false,
    State.chan_modChan, if_true, Chan.toHead, found]
  exact ⟨_, rfl⟩

/-! ### The report -/

/-- A message that is queued changes nothing of a core but its outbound buffer and what waits for it. -/
theorem State.core_queueOut (s : State) (c : Nat) (b : Body) (d : Nat) :
    ∃ outb backlog, (s.queueOut c b).core d = { s.core d with outb := outb, backlog := backlog } := by
  unfold State.queueOut
  split
  · simp only [State.core, State.post, State.modCore, AMap.getD_put]
    split
    · subst d; exact ⟨_, _, rfl⟩
    · exact ⟨_, _, rfl⟩
  · simp only [State.core, State.modCore, AMap.getD_put]
    split
    · subst d; exact ⟨_, _, rfl⟩
    · exact ⟨_, _, rfl⟩

theorem State.slotOf_queueOut (s : State) (c : Nat) (b : Body) (d : Nat) (j : Fin 4) :
    (s.queueOut c b).slotOf d j = s.slotOf d j := by
  obtain ⟨_, _, h⟩ := s.core_queueOut c b d
  rw [State.slotOf, h]; rfl

theorem State.chan_queueOut (s : State) (c : Nat) (b : Body) (ch : Nat) : (s.queueOut c b).chan c ch = s.chan c ch := by
  obtain ⟨_, _, h⟩ := s.core_queueOut c b c
  rw [State.chan, h]; rfl

theorem State.resv_queueOut (s : State) (c : Nat) (b : Body) : (s.queueOut c b).resv = s.resv := by
  unfold State.queueOut
  split <;> rfl

theorem State.mem_net_queueOut (s : State) (c : Nat) (b : Body) {m : Msg} (h : m ∈ s.net) : m ∈ (s.queueOut c b).net := by
  unfold State.queueOut
  split
  · exact List.mem_append_left _ h
  · exact h

/-- A message queued in an outbound buffer is on its way, or waits for an entry (R68). -/
theorem State.queueOut_has (s : State) (c : Nat) (b : Body) :
    ∃ m ∈ (s.queueOut c b).net ++ ((s.queueOut c b).core c).backlog, m.src = .core c ∧ m.body = b := by
  unfold State.queueOut
  split
  · exact ⟨_, List.mem_append_left _ (List.mem_append_right _ (List.mem_singleton.mpr rfl)), rfl, rfl⟩
  · refine ⟨⟨s.nextId, .core c, true, false, b⟩, List.mem_append_right _ ?_, rfl, rfl⟩
    simp [State.core, State.modCore]

/-- Payload word 0 of a service message, by its fields (R66). -/
theorem serviceWord0_eq (cause core : Nat) (k : Fin 4) (hc : cause < 2 ^ 8) (hd : core < 2 ^ 17) :
    serviceWord0 cause core k.val =
      (BitVec.ofNat 24 0 ++ BitVec.ofNat 8 cause ++ BitVec.ofNat 17 core ++ BitVec.ofNat 13 0 ++ BitVec.ofNat 2 k.val : Word) := by
  apply BitVec.eq_of_toNat_eq
  have hk := k.isLt
  simp only [serviceWord0, BitVec.toNat_append, BitVec.toNat_ofNat]
  rw [Nat.mod_eq_of_lt hc, Nat.mod_eq_of_lt hd, Nat.mod_eq_of_lt hk, ← Nat.shiftLeft_add_eq_or_of_lt hc,
    ← Nat.shiftLeft_add_eq_or_of_lt hd, ← Nat.shiftLeft_add_eq_or_of_lt (Nat.mod_lt 0 (by decide)),
    ← Nat.shiftLeft_add_eq_or_of_lt hk]
  simp only [Nat.shiftLeft_eq]
  omega

/-! ### The whole trap -/

/-- The state in which a trap has let go of the messages and the channel of its chain. -/
def State.letGo (s : State) (c : Nat) (k : Fin 4) : State :=
  (((s.takeBack c (s.slotOf c k)).unbusy c (s.slotOf c k).chan).releaseEntries c k.val).disown c k.val

/-- The state in which its slot is idle as well, and its node has been told. -/
def State.ended (s : State) (c : Nat) (k : Fin 4) (cause : Nat) : State :=
  let t := (((s.letGo c k).modSlotOf c k Slot.idle).clearResv c k).withdraw c k
  match (s.slotOf c k).task with
  | some g => t.post (.core c) false (.fault g.node (some g.graph) 1 cause)
  | none => t

theorem State.trapAt_eq (s : State) (c : Nat) (k : Fin 4) (cause : Nat) (value : Word) :
    let words := serviceWords cause c k.val (s.slotOf c k).msgid (s.slotOf c k).pcW value
    s.trapAt c k cause value =
      if isServiceCore c && (s.slotOf c k).chan == some 62 then (s.ended c k cause).tell (.serviceTrap c words)
      else (s.ended c k cause).queueOut c (serviceBody (sgOf c) c words) := rfl

/-- A trap ends as its report does: nothing but the report comes after the state in which the slot is idle. -/
theorem State.trapAt_cases (s : State) (c : Nat) (k : Fin 4) (cause : Nat) (value : Word) :
    (∀ d j, (s.trapAt c k cause value).slotOf d j = (s.ended c k cause).slotOf d j) ∧
    (∀ ch, (s.trapAt c k cause value).chan c ch = (s.ended c k cause).chan c ch) ∧
    (s.trapAt c k cause value).resv = (s.ended c k cause).resv ∧
    (∀ m ∈ (s.ended c k cause).net, m ∈ (s.trapAt c k cause value).net) := by
  rw [State.trapAt_eq]
  split
  · exact ⟨fun _ _ => rfl, fun _ => rfl, rfl, fun _ h => h⟩
  · exact ⟨State.slotOf_queueOut _ _ _, State.chan_queueOut _ _ _, State.resv_queueOut _ _ _,
      fun _ => State.mem_net_queueOut _ _ _⟩

theorem State.letGo_alone (s : State) (c : Nat) (k : Fin 4) : ChansAlone s (s.letGo c k) :=
  (((s.takeBack_frame c _).1.trans (State.chansAlone_unbusy _ _ _)).trans (State.releaseEntries_frame _ _ _).1).trans
    (State.chansAlone_disown _ _ _)

/-- A channel that a trap has let go of: as its chain's messages left it, without the entries of the slot, and not busy if it was the
activation's own. -/
theorem State.chan_letGo (s : State) (c : Nat) (k : Fin 4) (ch : Nat) : ∃ refused reserved,
    (s.letGo c k).chan c ch = { ((s.takeBack c (s.slotOf c k)).chan c ch).released k.val with
      busy := if (s.slotOf c k).chan = some ch then false else (s.chan c ch).busy, refused := refused, reserved := reserved } := by
  obtain ⟨refused, reserved, h⟩ :=
    (State.releaseEntries_frame ((s.takeBack c (s.slotOf c k)).unbusy c (s.slotOf c k).chan) c k.val).2 ch
  refine ⟨refused, reserved, h.trans ?_⟩
  rw [← ((s.takeBack_frame c (s.slotOf c k)).2 ch).1]
  cases hc : (s.slotOf c k).chan with
  | none => rfl
  | some own =>
    rw [State.unbusy, State.chan_modChan]
    by_cases e : ch = own
    · subst ch; simp [Chan.released]
    · simp [e, Ne.symm e, Chan.released]

/-- The state in which the slot is idle has the channels of the one before, and the slot's reservation is gone. -/
theorem State.ended_frame (s : State) (c : Nat) (k : Fin 4) (cause : Nat) :
    (∀ d j, (s.ended c k cause).slotOf d j = if d = c ∧ j = k then (s.slotOf c k).idle else s.slotOf d j) ∧
    (∀ ch, (s.ended c k cause).chan c ch = (s.letGo c k).chan c ch) ∧
    (s.ended c k cause).resv = s.resv.filter (fun r => !(r.core == c && r.slot == k.val)) := by
  have alone := s.letGo_alone c k
  unfold State.ended
  extract_lets t
  have slots : ∀ d j, t.slotOf d j = if d = c ∧ j = k then (s.slotOf c k).idle else s.slotOf d j := fun d j => by
    rw [← alone.slotOf c k, ← alone.slotOf d j, ← State.slotOf_modSlotOf]
    show State.slotOf (State.modCore _ _ _) d j = _
    simp only [State.slotOf, State.core_modCore]
    split
    · subst d; rfl
    · rfl
  have chans : ∀ ch, t.chan c ch = (s.letGo c k).chan c ch := fun ch => by
    simp only [t, State.withdraw, State.chan, State.core_modCore_self]
    show ((((s.letGo c k).modSlotOf c k Slot.idle).core c).chans).getD ch .reset = _
    simp only [State.modSlotOf, State.core_modCore_self]
  have resv : t.resv = s.resv.filter (fun r => !(r.core == c && r.slot == k.val)) := by
    rw [← alone.resv]; rfl
  split
  · exact ⟨slots, chans, resv⟩
  · exact ⟨slots, chans, resv⟩

/-- The node of a graph activation is told of its fault (R227). -/
theorem State.ended_tells (s : State) (c : Nat) (k : Fin 4) (cause : Nat) {g : Task} (h : (s.slotOf c k).task = some g) :
    ∃ m ∈ (s.ended c k cause).net, m.src = .core c ∧ m.body = .fault g.node (some g.graph) 1 cause := by
  simp only [State.ended, h]
  exact ⟨_, List.mem_append_right _ (List.mem_singleton.mpr rfl), rfl, rfl⟩

/-! ### What a trap leaves -/

section
variable (s : State) (c : Nat) (k : Fin 4) (cause : Nat) (value : Word)

theorem State.slotOf_trapAt (d : Nat) (j : Fin 4) :
    (s.trapAt c k cause value).slotOf d j = if d = c ∧ j = k then (s.slotOf c k).idle else s.slotOf d j := by
  rw [(s.trapAt_cases c k cause value).1, (s.ended_frame c k cause).1]

theorem State.resv_trapAt :
    (s.trapAt c k cause value).resv = s.resv.filter (fun r => r.core ≠ c ∨ r.slot ≠ k.val) := by
  obtain ⟨-, -, h, -⟩ := s.trapAt_cases c k cause value
  obtain ⟨-, -, e⟩ := s.ended_frame c k cause
  rw [h, e]
  refine List.filter_congr fun r _ => ?_
  by_cases hc : r.core = c <;> by_cases hk : r.slot = k.val <;> simp [hc, hk]

/-- A channel of the core after a trap. -/
theorem State.chan_trapAt (ch : Nat) : ∃ refused reserved,
    (s.trapAt c k cause value).chan c ch = { ((s.takeBack c (s.slotOf c k)).chan c ch).released k.val with
      busy := if (s.slotOf c k).chan = some ch then false else (s.chan c ch).busy, refused := refused, reserved := reserved } := by
  obtain ⟨-, chans, -⟩ := s.trapAt_cases c k cause value
  obtain ⟨-, ended, -⟩ := s.ended_frame c k cause
  rw [chans, ended]
  exact s.chan_letGo c k ch

theorem State.trapAt_tells {g : Task} (h : (s.slotOf c k).task = some g) :
    ∃ m ∈ (s.trapAt c k cause value).net, m.src = .core c ∧ m.body = .fault g.node (some g.graph) 1 cause := by
  obtain ⟨m, hm, rest⟩ := s.ended_tells c k cause h
  exact ⟨m, (s.trapAt_cases c k cause value).2.2.2 m hm, rest⟩

/-- But for a trap of channel 62 on a service core, a service message is on its way or waits for an outbound entry (R66, R155). -/
theorem State.trapAt_reports (h : ¬(c % 128 = 0 ∧ (s.slotOf c k).chan = some 62)) :
    ∃ m ∈ (s.trapAt c k cause value).net ++ ((s.trapAt c k cause value).core c).backlog, m.src = .core c ∧
      m.body = serviceBody (sgOf c) c (serviceWords cause c k.val (s.slotOf c k).msgid (s.slotOf c k).pcW value) := by
  rw [State.trapAt_eq, if_neg (by simpa [isServiceCore] using h)]
  exact State.queueOut_has _ _ _

end

/-- What taking a trap for the current slot comes to, as O4 states it for `ebreak` and for an illegal word. -/
theorem trap_ends_activation (s : State) (i : Instr) (cause : Nat) (value : Word) (hcause : cause < 2 ^ 8)
    (h : exec i s = .next (s.trap cause value)) :
    let c := s.cur.core
    let k := s.cur.slot
    let word0 : Word := BitVec.ofNat 24 0 ++ BitVec.ofNat 8 cause ++ BitVec.ofNat 17 c ++ BitVec.ofNat 13 0 ++ BitVec.ofNat 2 k.val
    ∃ t, exec i s = .next t ∧
      t.slotOf c k = s.slot.idle ∧
      (∀ d j, d ≠ c ∨ j ≠ k → t.slotOf d j = s.slotOf d j) ∧
      t.mem = s.mem ∧ t.lost = s.lost ∧
      t.resv = s.resv.filter (fun r => r.core ≠ c ∨ r.slot ≠ k.val) ∧
      (∀ ch, ∀ e ∈ (t.chan c ch).queue, e.taken ≠ some k.val) ∧
      (∀ ch, s.slot.chan = some ch → (t.chan c ch).busy = false) ∧
      (∀ f, s.slot.first = some f → s.slot.task = none →
        (t.chan c f).en = false ∧ (t.chan c f).pend = ((s.chan c f).pend || s.slot.pending)) ∧
      (∀ f g, s.slot.first = some f → s.slot.task = some g →
        (t.chan c f).en = (s.chan c f).en ∧ (t.chan c f).pend = (s.chan c f).pend ∧
          (s.slot.taken = [] → (t.chan c f).queue = (s.chan c f).queue.filter fun e => e.taken ≠ some k.val) ∧
          ∃ m ∈ t.net, m.src = .core c ∧ m.body = .fault g.node (some g.graph) 1 cause) ∧
      (s.slot.first = none → ∀ ch, (t.chan c ch).queue = (s.chan c ch).queue.filter fun e => e.taken ≠ some k.val) ∧
      (c < 2 ^ 17 → ¬(c % 128 = 0 ∧ s.slot.chan = some 62) →
        ∃ m ∈ t.net ++ (t.core c).backlog, m.src = .core c ∧
          m.body = serviceBody (sgOf c) c [word0, s.slot.msgid, s.slot.pc.setWidth 64, value]) := by
  intro c k word0
  have chans := s.chan_trapAt c k cause value
  have back := (s.takeBack_frame c s.slot).2
  refine ⟨_, h, ?_, ?_, (s.keeps_trap cause value).mem, (s.keeps_trap cause value).lost, s.resv_trapAt c k cause value, ?_, ?_, ?_, ?_,
    ?_, ?_⟩
  · exact (s.slotOf_trapAt c k cause value c k).trans (if_pos ⟨rfl, rfl⟩)
  · intro d j hdj
    exact (s.slotOf_trapAt c k cause value d j).trans (if_neg fun e => hdj.elim (· e.1) (· e.2))
  · intro ch e he
    obtain ⟨_, _, hch⟩ := chans ch
    rw [State.trap, hch] at he
    simpa using (List.mem_filter.mp he).2
  · intro ch own
    obtain ⟨_, _, hch⟩ := chans ch
    rw [State.trap, hch]
    exact if_pos own
  · intro f first task
    obtain ⟨_, _, hch⟩ := chans f
    rw [State.trap, hch]
    exact s.takeBack_first c first task
  · intro f g first task
    obtain ⟨_, _, hch⟩ := chans f
    have graph : s.slot.task.isSome = true := by rw [task]; rfl
    refine ⟨?_, ?_, ?_, s.trapAt_tells c k cause value task⟩
    · rw [State.trap, hch]; exact ((back f).2 graph).1
    · rw [State.trap, hch]; exact ((back f).2 graph).2
    · intro taken
      rw [State.trap, hch]
      exact congrArg (fun t : State => ((t.chan c f).released k.val).queue) (s.takeBack_untaken c taken graph)
  · intro first ch
    obtain ⟨_, _, hch⟩ := chans ch
    rw [State.trap, hch]
    exact congrArg (fun t : State => ((t.chan c ch).released k.val).queue) (s.takeBack_child c first)
  · intro hc service
    have reports := s.trapAt_reports c k cause value service
    rw [serviceWords, serviceWord0_eq cause c k hcause hc] at reports
    exact reports

/-- Settles O4: both traps are the model's one trap, which lets go of the chain, idles the slot and reports. -/
theorem trapsEndTheActivationAndReturnItsMessage : Obligations.TrapsEndTheActivationAndReturnItsMessage := by
  refine ⟨fun s w p hp => ?_, fun s f n e first trigger task taken found => ?_⟩
  · rw [List.mem_pair] at hp
    obtain rfl | rfl := hp
    · exact trap_ends_activation s .ebreak causeEbreak 0 (by decide) rfl
    · exact trap_ends_activation s (.illegalInstruction w) causeIllegal (w.setWidth 64) (by decide) rfl
  · obtain ⟨rest, queue⟩ := s.takeBack_trigger s.cur.core first trigger task taken found
    obtain ⟨_, _, hch⟩ := s.chan_trapAt s.cur.core s.cur.slot causeEbreak 0 f
    refine ⟨_, rfl, ?_⟩
    rw [State.trap, hch]
    show (List.filter _ ((s.takeBack s.cur.core s.slot).chan s.cur.core f).queue).head? = _
    rw [queue]
    rfl

end Sys2Proof.Machine
end

section
/-!
PROOFS. `cmd`, and the open job that takes its word (R98, R100, R159).
-/
namespace Sys2Proof.Machine

/-! ### The queue of one class -/

/-- `t` is `s` but for what a core holds for one engine class. -/
structure OnlyClassQ (s t : State) (c cls : Nat) : Prop where
  rest : { t with cores := s.cores } = s
  others : ∀ d, d ≠ c → t.core d = s.core d
  core : { t.core c with jobs := (s.core c).jobs } = s.core c
  classes : ∀ o, clsIx o ≠ clsIx cls → t.classQ c o = s.classQ c o

theorem OnlyClassQ.refl (s : State) (c cls : Nat) : OnlyClassQ s s c cls := ⟨rfl, fun _ _ => rfl, rfl, fun _ _ => rfl⟩

theorem OnlyClassQ.trans {s t u : State} {c cls : Nat} (h : OnlyClassQ s t c cls) (k : OnlyClassQ t u c cls) :
    OnlyClassQ s u c cls where
  rest := by
    have e := congrArg (fun v : State => { v with cores := s.cores }) k.rest
    exact e.trans h.rest
  others := fun d hd => (k.others d hd).trans (h.others d hd)
  core := by
    have e := congrArg (fun v : CoreSt => { v with jobs := (s.core c).jobs }) k.core
    exact e.trans h.core
  classes := fun o ho => (k.classes o ho).trans (h.classes o ho)

theorem OnlyClassQ.slotOf {s t : State} {c cls : Nat} (h : OnlyClassQ s t c cls) (d : Nat) (j : Fin 4) :
    t.slotOf d j = s.slotOf d j := by
  by_cases hd : d = c
  · subst hd
    have e := congrArg (fun co : CoreSt => co.slots.get j) h.core
    exact e
  · rw [State.slotOf, h.others d hd]; rfl

theorem OnlyClassQ.cur {s t : State} {c cls : Nat} (h : OnlyClassQ s t c cls) : t.cur = s.cur := by
  have e := congrArg State.cur h.rest
  exact e

theorem OnlyClassQ.net {s t : State} {c cls : Nat} (h : OnlyClassQ s t c cls) : t.net = s.net := by
  have e := congrArg State.net h.rest
  exact e

theorem OnlyClassQ.rest_net {s t : State} {c cls : Nat} (h : OnlyClassQ s t c cls) :
    { t with cores := s.cores, net := s.net, nextId := s.nextId } = s := by
  have e := congrArg (fun v : State => { v with net := s.net, nextId := s.nextId }) h.rest
  exact e

theorem State.onlyClassQ_modClassQ (s : State) (c cls : Nat) (f : ClassQ → ClassQ) : OnlyClassQ s (s.modClassQ c cls f) c cls where
  rest := rfl
  others := fun d hd => by rw [State.modClassQ, State.core_modCore, if_neg hd]
  core := by rw [State.modClassQ, State.core_modCore_self]
  classes := fun o ho => by
    rw [State.classQ, State.modClassQ, State.core_modCore_self, get_set, if_neg fun e => ho (Fin.ext e.symm)]
    rfl

@[simp] theorem State.classQ_modClassQ_self (s : State) (c cls : Nat) (f : ClassQ → ClassQ) :
    (s.modClassQ c cls f).classQ c cls = f (s.classQ c cls) := by
  rw [State.classQ, State.modClassQ, State.core_modCore_self, get_set, if_pos rfl]
  rfl

/-! ### Fields of a command word -/

theorem extractLsb'_toNat_fld (w : Vec) (lo n : Nat) : (w.extractLsb' lo n).toNat = fld w lo n := by
  rw [BitVec.extractLsb'_toNat, Nat.shiftRight_eq_div_pow, fld]

/-! ### Jobs -/

theorem openJob_eq_some {q : ClassQ} {j : Job} (h : openJob q = some j) : q.jobs.getLast? = some j ∧ j.sealed = false := by
  unfold openJob at h
  split at h
  · split at h
    · exact absurd h (by simp)
    · rename_i k last unsealed
      obtain rfl := Option.some.inj h
      exact ⟨last, by simpa using unsealed⟩
  · exact absurd h (by simp)

theorem openJob_of_getLast? {q : ClassQ} {j : Job} (h : q.jobs.getLast? = some j) :
    openJob q = if j.sealed then none else some j := by
  simp only [openJob, h]

/-- With no fault every job of a class is unfinished. -/
theorem unfinished_of_sound {q : ClassQ} (h : ∀ j ∈ q.jobs, j.faulted = false) : unfinished q = q.jobs := by
  refine List.filter_eq_self.mpr fun j hj => ?_
  rw [h j hj]; rfl

/-- What a word that a sound job takes adds to it (R98). -/
def Job.takes (j : Job) (t : BitVec 32) : Job :=
  { j with
    words := j.words + 1
    left := if j.faulted then 0 else j.left + 1
    targets := if t ≠ noTarget then j.targets ++ [t] else j.targets }

/-- A class whose open job takes a word. -/
def ClassQ.pushed (q : ClassQ) (m : Cmd) (j : Job) : ClassQ :=
  let q := { q with queue := q.queue ++ [m] }.modJob j.id fun k => k.takes (cmdTarget m.word)
  if cmdSeal m.word || decide (16 ≤ j.words + 1) then q.sealOpen else q

/-- The command that a word becomes in the queue of its class. -/
def State.queued (s : State) (c cls : Nat) (w : Vec) (id : BitVec 16) (node : Option Task) : Cmd :=
  let fails := (s.classQ c cls).queue.findSome? fun m => if m.job == id then m.fails else none
  recorded (s.core c) cls w id node (if cls = 4 && fails.isNone then rowsOf w else []) fails

/-- A word joins the queue of its class with its job, where that has not faulted. -/
theorem State.pushWord_sound (s : State) (c cls : Nat) (w : Vec) (node : Option Task) {j : Job}
    (isOpen : openJob (s.classQ c cls) = some j) (sound : j.faulted = false) :
    OnlyClassQ s (s.pushWord c cls w node) c cls ∧
      (s.pushWord c cls w node).classQ c cls = (s.classQ c cls).pushed (s.queued c cls w j.id node) j := by
  simp only [State.pushWord, isOpen, sound, Bool.false_and, Bool.false_eq_true, if_false]
  constructor
  · split
    · exact ((s.onlyClassQ_modClassQ c cls _).trans (State.onlyClassQ_modClassQ _ _ _ _)).trans (State.onlyClassQ_modClassQ _ _ _ _)
    · exact (s.onlyClassQ_modClassQ c cls _).trans (State.onlyClassQ_modClassQ _ _ _ _)
  · rw [apply_ite (State.classQ · c cls)]
    simp only [State.classQ_modClassQ_self]
    rfl

section
variable {q : ClassQ} {j : Job} (m : Cmd) (last : q.jobs.getLast? = some j) (sound : ∀ k ∈ q.jobs, k.faulted = false)

/-- The jobs of a class after a word, but for the seal. -/
def ClassQ.countedJobs (q : ClassQ) (m : Cmd) (j : Job) : List Job :=
  q.jobs.map fun k => if k.id == j.id then k.takes (cmdTarget m.word) else k

@[simp] theorem ClassQ.pushed_queue : (q.pushed m j).queue = q.queue ++ [m] := by
  unfold ClassQ.pushed
  extract_lets q'
  split <;> rfl

@[simp] theorem ClassQ.pushed_nextid : (q.pushed m j).nextid = q.nextid := by
  unfold ClassQ.pushed
  extract_lets q'
  split <;> rfl

include sound in
theorem ClassQ.countedJobs_sound : ∀ k ∈ q.countedJobs m j, k.faulted = false := by
  intro k hk
  obtain ⟨i, hi, rfl⟩ := List.mem_map.mp hk
  split
  · exact sound i hi
  · exact sound i hi

include sound in
/-- The seal falls on every job of the class; no job is forgotten, as none has faulted. -/
theorem ClassQ.pushed_jobs : (q.pushed m j).jobs = if cmdSeal m.word || decide (16 ≤ j.words + 1) then
    (q.countedJobs m j).map fun k => { k with sealed := true } else q.countedJobs m j := by
  unfold ClassQ.pushed
  extract_lets q'
  split
  · refine List.filter_eq_self.mpr fun k hk => ?_
    obtain ⟨i, hi, rfl⟩ := List.mem_map.mp hk
    simpa using ClassQ.countedJobs_sound m sound i hi
  · rfl

include sound in
theorem ClassQ.pushed_ids : (q.pushed m j).jobs.map Job.id = q.jobs.map Job.id := by
  rw [ClassQ.pushed_jobs m sound, apply_ite (List.map Job.id)]
  simp only [ClassQ.countedJobs, List.map_map]
  have ids : Job.id ∘ (fun k => if k.id == j.id then k.takes (cmdTarget m.word) else k) = Job.id := by
    funext k
    simp only [Function.comp]
    split <;> rfl
  have sealed : Job.id ∘ (fun k : Job => { k with sealed := true }) = Job.id := rfl
  rw [← Function.comp_assoc, sealed, ids, ite_self]

include last sound in
/-- The job stays open but for the word's seal bit and for its 16th command (R98). -/
theorem ClassQ.openJob_pushed (unsealed : j.sealed = false) :
    (openJob (q.pushed m j)).isNone = (cmdSeal m.word || decide (16 ≤ j.words + 1)) := by
  have counted : (q.countedJobs m j).getLast? = some (j.takes (cmdTarget m.word)) := by
    rw [ClassQ.countedJobs, List.getLast?_map, last]
    simp
  have jobs := ClassQ.pushed_jobs m (j := j) sound
  split at jobs
  · have h : (q.pushed m j).jobs.getLast? = some { j.takes (cmdTarget m.word) with sealed := true } := by
      rw [jobs, List.getLast?_map, counted]; rfl
    rw [openJob_of_getLast? h, if_pos rfl]
    exact Eq.symm ‹_›
  · have h : (q.pushed m j).jobs.getLast? = some (j.takes (cmdTarget m.word)) := by rw [jobs, counted]
    rw [openJob_of_getLast? h, if_neg (by simp [Job.takes, unsealed])]
    exact (Bool.eq_false_of_not_eq_true ‹_›).symm

end

theorem ClassQ.openJob_opened (q : ClassQ) (node : Option Task) :
    openJob (q.opened node) = some ⟨q.nextid, false, 0, 0, [], node, false, false, false, [], []⟩ := by
  rw [openJob_of_getLast? (List.getLast?_concat)]
  rfl

/-! ### `cmd` -/

/-- What the slot of a `cmd` becomes, with its job's id in rd. -/
theorem Slot.cmd_done (sl : Slot) (rd : Reg) (id : BitVec 16) :
    ({ sl.wx rd (id.setWidth 64) with pfx := none } : Slot).retire = { sl.after rd (id.setWidth 64) with pfx := none } := by
  rw [← Slot.wx_retire]; rfl

/-- What a vector form changes when it is done, beside the slot itself: nothing. -/
theorem State.core_vdone (t : State) (sl : Slot) (d : Nat) :
    ∃ slots, (t.vdone sl).core d = { t.core d with slots := slots } ∧ (d ≠ t.cur.core → slots = (t.core d).slots) := by
  rw [State.vdone, State.modSlot, State.modSlotOf, State.core_modCore]
  split
  · subst d; exact ⟨_, rfl, fun h => absurd rfl h⟩
  · exact ⟨_, rfl, fun _ => rfl⟩

theorem State.classQ_vdone (t : State) (sl : Slot) (c o : Nat) : (t.vdone sl).classQ c o = t.classQ c o := by
  obtain ⟨_, h, -⟩ := t.core_vdone sl c
  rw [State.classQ, h]; rfl

/-- `cmd` changes the current slot last, after what it changes of its core's classes. -/
theorem State.vdone_cmd {s t : State} (sl : Slot) (rd : Reg) (id : BitVec 16) (slots : ∀ d j, t.slotOf d j = s.slotOf d j)
    (cur : t.cur = s.cur) (rest : { t with cores := s.cores, net := s.net, nextId := s.nextId } = s)
    (others : ∀ d, d ≠ s.cur.core → t.core d = s.core d) :
    let u := t.vdone (sl.wx rd (id.setWidth 64))
    u.slotOf s.cur.core s.cur.slot = { sl.after rd (id.setWidth 64) with pfx := none } ∧
      (∀ d j, d ≠ s.cur.core ∨ j ≠ s.cur.slot → u.slotOf d j = s.slotOf d j) ∧
      { u with cores := s.cores, net := s.net, nextId := s.nextId } = s ∧ ∀ d, d ≠ s.cur.core → u.core d = s.core d := by
  intro u
  have only := t.onlySlot_modSlot fun _ => { sl.wx rd (id.setWidth 64) with pfx := none }.retire
  rw [Slot.cmd_done] at only
  obtain ⟨⟨here, elsewhere, -⟩, -⟩ := only
  rw [cur] at here elsewhere
  have done : u = t.modSlot fun _ => { sl.after rd (id.setWidth 64) with pfx := none } := by
    rw [← Slot.cmd_done]; rfl
  refine ⟨done ▸ here, fun d j h => ?_, rest, fun d hd => ?_⟩
  · rw [done]
    exact (elsewhere d j h).trans (slots d j)
  · obtain ⟨_, h, same⟩ := t.core_vdone (sl.wx rd (id.setWidth 64)) d
    rw [← others d hd]
    rw [same (cur ▸ hd)] at h
    exact h

/-- The state in which a class of a core has an open job: the one that it has, or the next one. -/
def State.withOpenJob (s : State) (c cls : Nat) : State :=
  if (openJob (s.classQ c cls)).isSome then s else s.modClassQ c cls (ClassQ.opened · none)

theorem State.withOpenJob_open (s : State) (c cls : Nat) (h : openJob (s.classQ c cls) ≠ none) : s.withOpenJob c cls = s :=
  if_pos (Option.isSome_iff_ne_none.mpr h)

theorem State.withOpenJob_closed (s : State) (c cls : Nat) (h : openJob (s.classQ c cls) = none) :
    s.withOpenJob c cls = s.modClassQ c cls (ClassQ.opened · none) :=
  if_neg (by rw [h]; decide)

/-- The job that is open then is the one that was, or the next one, which is new. -/
theorem State.withOpenJob_frame (s : State) (c cls : Nat) (sound : ∀ j ∈ (s.classQ c cls).jobs, j.faulted = false) :
    let q := s.classQ c cls
    let r := (s.withOpenJob c cls).classQ c cls
    OnlyClassQ s (s.withOpenJob c cls) c cls ∧ r.queue = q.queue ∧ (∀ j ∈ r.jobs, j.faulted = false) ∧
      r.nextid = (if openJob q = none then q.nextid + 1 else q.nextid) ∧
      r.jobs.map Job.id = q.jobs.map Job.id ++ (if openJob q = none then [q.nextid] else []) ∧
      ∃ j, openJob r = some j ∧ j.id = ((openJob q).map Job.id).getD q.nextid ∧
        j.words = ((openJob q).map Job.words).getD 0 := by
  intro q r
  cases h : openJob q with
  | some j =>
    have same : s.withOpenJob c cls = s := s.withOpenJob_open c cls (by rw [h]; exact Option.some_ne_none j)
    simp only [r, same, reduceCtorEq, if_false, List.append_nil]
    exact ⟨.refl s c cls, rfl, sound, rfl, rfl, j, h, rfl, rfl⟩
  | none =>
    simp only [r, s.withOpenJob_closed c cls h, State.classQ_modClassQ_self, if_true]
    refine ⟨s.onlyClassQ_modClassQ c cls _, rfl, fun j hj => ?_, rfl, List.map_append, _, ClassQ.openJob_opened _ _, rfl, rfl⟩
    obtain hj | hj := List.mem_append.mp hj
    · exact sound j hj
    · rw [List.mem_singleton.mp hj]

section
variable {s : State} {rd vs : Reg} {w y : Vec} {sl : Slot} (go : s.vready (.cmd rd vs) [(vs, 32)] [] none = .go w y sl)
include go

/-- `cmd` of a class outside 1 to 5 makes a faulted BADCLASS job (R22, R98, R100). -/
theorem exec_cmd_badClass (h : cmdClass w < 1 ∨ 5 < cmdClass w) :
    exec (.cmd rd vs) s = .next ((s.badClass s.cur.core (cmdClass w) w).1.vdone
      (sl.wx rd ((s.badClass s.cur.core (cmdClass w) w).2.setWidth 64))) := by
  show execCmd rd vs s = _
  simp only [execCmd, go, if_pos h]

variable (h₁ : 1 ≤ cmdClass w) (h₅ : cmdClass w ≤ 5)
include h₁ h₅

/-- With no open job `cmd` waits until one may be opened. -/
theorem exec_cmd_jobs_full (closed : openJob (s.classQ s.cur.core (cmdClass w)) = none)
    (full : jobRoom (s.classQ s.cur.core (cmdClass w)) = false) : exec (.cmd rd vs) s = .next s := by
  show execCmd rd vs s = _
  simp only [execCmd, go, if_neg (show ¬(cmdClass w < 1 ∨ 5 < cmdClass w) by omega), closed, full]
  rfl

variable (room : openJob (s.classQ s.cur.core (cmdClass w)) = none → jobRoom (s.classQ s.cur.core (cmdClass w)) = true)
include room

theorem exec_cmd_in_class :
    exec (.cmd rd vs) s = .next (if !queueRoom (s.classQ s.cur.core (cmdClass w)) then s.withOpenJob s.cur.core (cmdClass w)
      else ((s.withOpenJob s.cur.core (cmdClass w)).pushWord s.cur.core (cmdClass w) w none).vdone (sl.wx rd
        ((((openJob ((s.withOpenJob s.cur.core (cmdClass w)).classQ s.cur.core (cmdClass w))).map Job.id).getD 0).setWidth 64))) := by
  have free : ((openJob (s.classQ s.cur.core (cmdClass w))).isNone && !jobRoom (s.classQ s.cur.core (cmdClass w))) = false := by
    cases o : openJob (s.classQ s.cur.core (cmdClass w)) with
    | none => rw [room o]; rfl
    | some j => rfl
  show execCmd rd vs s = _
  simp only [execCmd, go, if_neg (show ¬(cmdClass w < 1 ∨ 5 < cmdClass w) by omega)]
  rw [if_neg (by rw [free]; decide)]
  rfl

/-- With a job open `cmd` waits while its queue is full. -/
theorem exec_cmd_queue_full (full : 16 ≤ (s.classQ s.cur.core (cmdClass w)).queue.length) :
    exec (.cmd rd vs) s = .next (s.withOpenJob s.cur.core (cmdClass w)) := by
  rw [exec_cmd_in_class go h₁ h₅ room, queueRoom, decide_eq_false (by omega)]
  rfl

/-- With a job open and room its word joins the queue. -/
theorem exec_cmd_joins (free : (s.classQ s.cur.core (cmdClass w)).queue.length < 16) {j : Job}
    (isOpen : openJob ((s.withOpenJob s.cur.core (cmdClass w)).classQ s.cur.core (cmdClass w)) = some j) :
    exec (.cmd rd vs) s = .next (((s.withOpenJob s.cur.core (cmdClass w)).pushWord s.cur.core (cmdClass w) w none).vdone
      (sl.wx rd (j.id.setWidth 64))) := by
  rw [exec_cmd_in_class go h₁ h₅ room, queueRoom, decide_eq_true free, isOpen]
  rfl

end

/-- A class with room for one more job has one. -/
theorem jobRoom_of_sound {q : ClassQ} (h : ∀ j ∈ q.jobs, j.faulted = false) : jobRoom q = decide (q.jobs.length < 64) := by
  rw [jobRoom, unfinished_of_sound h]

/-- A fault report adds a message for its node, if that is one of the core's field, and nothing else (R162). -/
theorem State.reportFault_eq (s : State) (c cls : Nat) (node : Option Task) (cause : Nat) (t : BitVec 32) :
    let named := nodeIdOk s (corePart s c) t.toNat = true ∧ nodeField t.toNat = coreField s c
    s.reportFault c cls node cause t = { s with
      net := s.net ++ (if named then [⟨s.nextId, .engine c cls, false, false, .fault t.toNat (node.map Task.graph) 2 cause⟩] else [])
      nextId := if named then s.nextId + 1 else s.nextId } := by
  intro named
  unfold State.reportFault
  by_cases h : named
  · rw [if_pos (by simpa using h), if_pos h, if_pos h]; rfl
  · rw [if_neg (by simpa [named] using h), if_neg h, if_neg h, List.append_nil]

/-- What a word of no class leaves: a faulted job of class 1, its BADCLASS in `jobstat`, and the report to the node that it names. -/
theorem State.badClass_frame (s : State) (c cls : Nat) (w : Vec) :
    let f := s.classQ c 1
    let t := (s.badClass c cls w).1
    (s.badClass c cls w).2 = f.nextid ∧ t.cur = s.cur ∧ (∀ d j, t.slotOf d j = s.slotOf d j) ∧
      { t with cores := s.cores, net := s.net, nextId := s.nextId } = s ∧ (∀ d, d ≠ c → t.core d = s.core d) ∧
      t.core c = { s.core c with
        jobs := (s.core c).jobs.set (clsIx 1)
          { f with nextid := f.nextid + 1, faults := (f.nextid, 1) :: f.faults.filter fun e => e.1 ≠ f.nextid }
        fjob := f.nextid, fcause := 1, fclass := BitVec.ofNat 4 cls, badc := true } ∧
      t.net = s.net ++ (if nodeIdOk s (corePart s c) (cmdTarget w).toNat ∧ nodeField (cmdTarget w).toNat = coreField s c then
        [⟨s.nextId, .engine c 1, false, false, .fault (cmdTarget w).toNat none 2 1⟩] else []) := by
  intro f t
  have cores : ∀ d, t.core d = if d = c then { s.core c with
      jobs := (s.core c).jobs.set (clsIx 1)
        { f with nextid := f.nextid + 1, faults := (f.nextid, 1) :: f.faults.filter fun e => e.1 ≠ f.nextid }
      fjob := f.nextid, fcause := 1, fclass := BitVec.ofNat 4 cls, badc := true } else s.core d := fun d => by
    simp only [t, State.badClass, State.reportFault_eq, State.core, State.modClassQ, State.modCore, AMap.getD_put]
    split
    · subst d; rfl
    · rfl
  refine ⟨rfl, ?_, fun d j => ?_, ?_, fun d hd => ?_, ?_, ?_⟩
  · simp only [t, State.badClass, State.reportFault_eq]; rfl
  · rw [State.slotOf, cores]
    split
    · subst d; rfl
    · rfl
  · simp only [t, State.badClass, State.reportFault_eq]; rfl
  · rw [cores, if_neg hd]
  · rw [cores, if_pos rfl]
  · simp only [t, State.badClass, State.reportFault_eq]; rfl

/-- Settles O43: `cmd` is a word of no class, a wait, an opened job that waits, or a word that joins its open job. -/
theorem commandsJoinTheOpenJobOfTheirClass : Obligations.CommandsJoinTheOpenJobOfTheirClass := by
  intro s rd vs w y sl go c k cls q frame node
  have class_eq : cls = cmdClass w := extractLsb'_toNat_fld w 8 4
  have node_eq : node = (cmdTarget w).toNat := by
    rw [cmdTarget, ← extractLsb'_toNat_fld, BitVec.ofNat_toNat, BitVec.setWidth_eq]
  clear_value cls node
  subst class_eq node_eq
  refine ⟨?_, fun h₁ h₅ sound => ⟨fun closed full => ?_, fun isOpen full => ?_, fun closed room full => ?_, ?_⟩⟩
  · intro h f
    obtain ⟨id, cur, slots, rest, others, core, net⟩ := s.badClass_frame c (cmdClass w) w
    obtain ⟨_, hcore, -⟩ := (s.badClass c (cmdClass w) w).1.core_vdone (sl.wx rd (f.nextid.setWidth 64)) c
    rw [core] at hcore
    refine ⟨_, exec_cmd_badClass go h, ?_⟩
    rw [id]
    refine ⟨State.vdone_cmd sl rd f.nextid slots cur rest others, ?_, ?_⟩
    · rw [State.classQ, hcore, get_set, if_pos rfl]
    · rw [hcore]
      exact ⟨rfl, rfl, rfl, rfl, rfl, net⟩
  · have full : jobRoom q = false := by rw [jobRoom_of_sound sound]; exact decide_eq_false (by omega)
    exact exec_cmd_jobs_full go h₁ h₅ closed full
  · have h := exec_cmd_queue_full go h₁ h₅ (fun closed => absurd closed isOpen) full
    rw [s.withOpenJob_open _ _ isOpen] at h
    exact h
  · have h := exec_cmd_queue_full go h₁ h₅ (fun _ => by rw [jobRoom_of_sound sound]; exact decide_eq_true room) full
    rw [s.withOpenJob_closed _ _ closed] at h
    have only := s.onlyClassQ_modClassQ c (cmdClass w) (ClassQ.opened · none)
    exact ⟨_, h, State.classQ_modClassQ_self _ _ _ _, only.slotOf, only.classes, only.rest⟩
  · intro free room id words
    obtain ⟨opens, queue, sound', nextid, ids, j, isOpen, jid, jwords⟩ := s.withOpenJob_frame c (cmdClass w) sound
    obtain ⟨last, unsealed⟩ := openJob_eq_some isOpen
    obtain ⟨pushes, pushed⟩ :=
      (s.withOpenJob c (cmdClass w)).pushWord_sound c (cmdClass w) w none isOpen (sound' j (List.mem_of_getLast? last))
    have h := exec_cmd_joins go h₁ h₅ (fun closed => by rw [jobRoom_of_sound sound]; exact decide_eq_true (room closed)) free isOpen
    have only := opens.trans pushes
    generalize (s.withOpenJob c (cmdClass w)).pushWord c (cmdClass w) w none = u at h pushes pushed only
    have tdesc : ((s.withOpenJob c (cmdClass w)).core c).tdesc = (s.core c).tdesc := by
      have e := congrArg CoreSt.tdesc opens.core
      exact e
    have rgpat : ((s.withOpenJob c (cmdClass w)).core c).rgpat = (s.core c).rgpat := by
      have e := congrArg CoreSt.rgpat opens.core
      exact e
    have hid : id = j.id := jid.symm
    have hwords : words = j.words + 1 := congrArg (· + 1) jwords.symm
    rw [hid, hwords]
    refine ⟨_, (s.withOpenJob c (cmdClass w)).queued c (cmdClass w) w j.id none, h,
      State.vdone_cmd sl rd j.id only.slotOf only.cur only.rest_net only.others, only.net, ?_, rfl, rfl, rfl, ?_, ?_, ?_, ?_, ?_, ?_⟩
    · rw [State.classQ_vdone, pushed, ClassQ.pushed_queue, queue]
    · intro h₁
      rw [State.queued, recorded, if_pos h₁, tdesc]
    · intro h₃
      simp only [State.queued, recorded, h₃, Option.isNone_none, and_self, if_true, ← rgpat]
    · rw [State.classQ_vdone, pushed, ClassQ.pushed_nextid, nextid]
    · rw [State.classQ_vdone, pushed, ClassQ.pushed_ids _ sound', ids]
    · rw [State.classQ_vdone, pushed, ClassQ.openJob_pushed _ last sound' unsealed]
      rfl
    · intro o ho
      rw [State.classQ_vdone, only.classes o ho]

end Sys2Proof.Machine
end

section
/-!
PROOFS. Words that decode to nothing, the sample words, and what `fmt` holds (R6, R7, R97).
-/
namespace Sys2Proof

/-- The major opcodes of the standard forms and of custom-0 to custom-3 (Table 2-1). -/
def majorOpcodes : List (BitVec 7) :=
  [0x03, 0x0B, 0x0F, 0x13, 0x17, 0x1B, 0x23, 0x2B, 0x2F, 0x33, 0x37, 0x3B, 0x5B, 0x63, 0x67, 0x6F, 0x73, 0x7B]

/-- The low seven bits of a row are fixed, and name a major opcode. -/
theorem rows_opcode : ∀ r ∈ rows, r.mask &&& fieldMask 0 7 = fieldMask 0 7 ∧ r.pat.extractLsb' 0 7 ∈ majorOpcodes := by
  decide +kernel

/-- A word that decodes has a major opcode. -/
theorem opcode_of_decode {w : BitVec 32} {i : Instr} (h : decode w = some i) : w.extractLsb' 0 7 ∈ majorOpcodes := by
  obtain ⟨r, hr, matches_, -⟩ := exists_row_of_decode h
  obtain ⟨fixed, opcode⟩ := rows_opcode r hr
  rwa [extractLsb'_of_and_eq matches_ 0 7 fixed]

/-- A word that decodes ends in 11. -/
theorem low_bits_of_decode {w : BitVec 32} {i : Instr} (h : decode w = some i) : w.extractLsb' 0 2 = 3 := by
  have low : w.extractLsb' 0 2 = (w.extractLsb' 0 7).extractLsb' 0 2 := by
    rw [BitVec.extractLsb'_extractLsb'_of_le (by decide)]
  have fixed : ∀ op ∈ majorOpcodes, op.extractLsb' 0 2 = 3 := by decide
  rw [low, fixed _ (opcode_of_decode h)]

theorem decode_eq_none {w : BitVec 32} (h : ∀ i, decode w ≠ some i) : decode w = none := Option.eq_none_iff_forall_ne_some.2 h

/-- Settles O15: each word is the encoding of its instruction, and 0 does not end in 11. -/
theorem wordsDecodeAsTheTablesSay : Obligations.WordsDecodeAsTheTablesSay := by
  have read (i : Instr) (w : BitVec 32) (hwf : i.wf = true) (he : encode i = some w) : decode w = some i :=
    decodeInvertsEncode i w hwf he
  refine ⟨read _ _ rfl rfl, read _ _ rfl rfl, read _ _ rfl rfl, read _ _ rfl rfl, read _ _ rfl rfl, read _ _ rfl rfl,
    read _ _ rfl rfl, read _ _ rfl rfl, read _ _ rfl rfl, read _ _ rfl rfl, read _ _ rfl rfl, read _ _ rfl rfl,
    read _ _ rfl rfl, read _ _ rfl rfl, read _ _ rfl rfl, read _ _ rfl rfl, decode_eq_none fun i h => ?_⟩
  exact absurd (low_bits_of_decode h) (by decide)

namespace Machine

theorem State.runWord_none (s : State) {w : BitVec 32} (h : decode w = none) : s.runWord w = s.trap causeIllegal (w.setWidth 64) := by
  rw [State.runWord, h]
  rfl

/-- A word that a pending `fmt` does not permit traps; any other runs as its instruction. -/
theorem State.runWord_some (s : State) {w : BitVec 32} {i : Instr} (h : decode w = some i) :
    s.runWord w = if s.slot.pfx.isSome && !inFormF w && !isFmt i then s.trap causeIllegal (w.setWidth 64) else s.runInstr i := by
  rw [State.runWord, h]
  rfl

/-- Settles O18: no row has such low bits or such a major opcode. -/
theorem illegalWordsTrap : Obligations.IllegalWordsTrap := by
  intro s w
  refine ⟨rfl, s.runWord_none, fun h => decode_eq_none fun i e => h (low_bits_of_decode e),
    fun h => decode_eq_none fun i e => h (opcode_of_decode e)⟩

theorem exec_fmt_none {s : State} (fin fout : BitVec 4) (tab rm mode : BitVec 2) (rs : Reg) (h : s.slot.pfx = none) :
    exec (.fmt fin fout tab rm rs mode) s =
      .next (s.modSlot fun sl => { sl with pfx := some ⟨fin, fout, tab, rm, mode, (sl.rx rs).setWidth 8⟩ }.retire) := by
  show execFmt fin fout tab rm rs mode s = _
  rw [execFmt, h]
  rfl

theorem exec_fmt_some {s : State} (fin fout : BitVec 4) (tab rm mode : BitVec 2) (rs : Reg) (h : s.slot.pfx ≠ none) :
    exec (.fmt fin fout tab rm rs mode) s = .next (s.trap causeIllegal (wordOf (.fmt fin fout tab rm rs mode))) := by
  show execFmt fin fout tab rm rs mode s = _
  rw [execFmt, if_pos (Option.isSome_iff_ne_none.2 h)]

theorem wordOf_of_encode {i : Instr} {v : BitVec 32} (h : encode i = some v) : wordOf i = v.setWidth 64 := by
  rw [wordOf, h, Option.getD_some]

/-- Settles O14: `fmt` holds its fields or traps, and while it is pending it lets no word outside form space F run. -/
theorem prefixIsHeldForTheNextInstruction : Obligations.PrefixIsHeldForTheNextInstruction := by
  intro s fin fout tab rm mode rs w i
  constructor
  · split
    · rename_i free
      have low : (s.slot.rx rs).setWidth 8 = (s.rx rs).extractLsb' 0 8 := BitVec.setWidth_eq_extractLsb' (by decide)
      have only := s.onlySlot_modSlot fun sl => { sl with pfx := some ⟨fin, fout, tab, rm, mode, (sl.rx rs).setWidth 8⟩ }.retire
      simp only [low] at only
      exact ⟨_, exec_fmt_none fin fout tab rm mode rs free, only⟩
    · rename_i held
      intro v hv
      rw [exec_fmt_some fin fout tab rm mode rs held, wordOf_of_encode hv]
      rfl
  · intro held hw hf outside
    have notF : inFormF w = false := by
      rw [inFormF, Bool.and_eq_false_iff, beq_eq_false_iff_ne, beq_eq_false_iff_ne]
      exact not_and_or.1 outside
    rw [s.runWord_some hw, notF, hf, Option.isSome_iff_ne_none.2 held]
    rfl

end Machine
end Sys2Proof
end

section
/-!
PROOFS. The issue of an instruction: the fetch of its word from TCM, and a slot with nothing behind or under way (R58, R96, R131).
-/
namespace Sys2Proof.Machine

/-! ### What the fetch reads of a core -/

@[simp] theorem AMap.put_put {α : Type} (m : AMap α) (n : Nat) (v w : α) : (m.put n v).put n w = m.put n w := by
  induction m with
  | nil => simp [AMap.put]
  | cons p m ih =>
    obtain ⟨k, x⟩ := p
    unfold AMap.put
    by_cases h : n < k
    · simp [AMap.put, h]
    · by_cases e : k = n
      · simp [AMap.put, e]
      · simp [AMap.put, h, e, ih]

/-- Two changes of a core are one. -/
theorem State.modCore_modCore (s : State) (c : Nat) (f g : CoreSt → CoreSt) : (s.modCore c f).modCore c g = s.modCore c (g ∘ f) := by
  rw [State.modCore, State.core_modCore_self]
  simp [State.modCore]

/-- Two changes of a slot are one. -/
theorem State.modSlotOf_modSlotOf (s : State) (c : Nat) (k : Fin 4) (f g : Slot → Slot) :
    (s.modSlotOf c k f).modSlotOf c k g = s.modSlotOf c k (g ∘ f) := by
  have one (v : Vector Slot 4) : (v.set k (f (v.get k))).set k (g ((v.set k (f (v.get k))).get k)) = v.set k (g (f (v.get k))) := by
    rw [get_set, if_pos rfl, Vector.set_set]
  rw [State.modSlotOf, State.modSlotOf, State.modCore_modCore]
  refine congrArg (s.modCore c) (funext fun co => ?_)
  simp only [Function.comp_apply, one]

theorem State.modSlotOf_congr (s : State) {c : Nat} {k : Fin 4} {f g : Slot → Slot} (h : f (s.slotOf c k) = g (s.slotOf c k)) :
    s.modSlotOf c k f = s.modSlotOf c k g := by
  have e : f ((s.core c).slots.get k) = g ((s.core c).slots.get k) := h
  rw [State.modSlotOf, State.modSlotOf, State.modCore, State.modCore, e]

/-- A change of the current slot that changes nothing makes no difference to the next one. -/
theorem State.modSlot_modSlot_id (s : State) {f : Slot → Slot} (h : f s.slot = s.slot) (g : Slot → Slot) :
    (s.modSlot f).modSlot g = s.modSlot g :=
  (s.modSlotOf_modSlotOf s.cur.core s.cur.slot f g).trans (s.modSlotOf_congr (congrArg g h))

theorem State.core_modSlot_id (s : State) {f : Slot → Slot} (h : f s.slot = s.slot) (c : Nat) : (s.modSlot f).core c = s.core c := by
  have keep : (s.core s.cur.core).slots.set s.cur.slot (f s.slot) = (s.core s.cur.core).slots := by
    rw [h]; exact Vector.set_getElem_self _
  rw [State.modSlot, State.modSlotOf, State.core_modCore]
  split
  · subst c
    rw [show f ((s.core s.cur.core).slots.get s.cur.slot) = f s.slot from rfl, keep]
  · rfl

/-- What an address resolves to for a core depends, of all cores and clusters, on the leaves that it finds alone. -/
theorem resolve_of_leafFor (s : State) (m : AMap CoreSt) (k : AMap ClusterSt) (c : Nat) (a : Acc)
    (leaf : ∀ pn, { s with cores := m, clusters := k }.leafFor c (a == Acc.fetch) pn = s.leafFor c (a == Acc.fetch) pn) (va n : Nat) :
    resolve { s with cores := m, clusters := k } c a va n = resolve s c a va n := by
  have paged (b : Nat) : resolvePaged { s with cores := m, clusters := k } c a b = resolvePaged s c a b := by
    rw [resolvePaged, leaf]; rfl
  have spilled : spilledPaged { s with cores := m, clusters := k } c a = spilledPaged s c a := by
    funext b; rw [spilledPaged, paged]; rfl
  simp only [resolve, paged, spilled]
  rfl

/-- What an address resolves to for a core depends on no other core. -/
theorem resolve_cores (s : State) (m : AMap CoreSt) (c : Nat) (h : { s with cores := m }.core c = s.core c) (a : Acc) (va n : Nat) :
    resolve { s with cores := m } c a va n = resolve s c a va n :=
  resolve_of_leafFor s m s.clusters c a (fun pn => by simp only [State.leafFor, h]; rfl) va n

theorem overlay_of_rest {s t : State} (h : { t with cur := s.cur, cores := s.cores, clusters := s.clusters, sched := s.sched } = s)
    (ag : Agent) (a : Nat) : ∀ (hs : List Hidden) (b : Byte), overlay t ag a hs b = overlay s ag a hs b
  | [], _ => rfl
  | g :: hs, b => by
    have sees : sees t ag g = sees s ag g := by rw [← h]; rfl
    simp only [overlay, overlay_of_rest h ag a hs, sees]

/-- What an agent reads of memory depends on no core or cluster, and on no slot that is to act. -/
theorem State.readByte_of_rest {s t : State}
    (h : { t with cur := s.cur, cores := s.cores, clusters := s.clusters, sched := s.sched } = s) (ag : Agent) : t.readByte ag = s.readByte ag := by
  funext a
  have hidden : t.hidden = s.hidden := by rw [← h]
  have byte : t.byte a = s.byte a := by rw [← h]; rfl
  rw [State.readByte, State.readByte, overlay_of_rest h, hidden, byte]

/-- A refill of a core depends on no other core. -/
theorem refill_cores (s : State) (m : AMap CoreSt) (c : Nat) (h : { s with cores := m }.core c = s.core c) :
    ∀ (n : Nat) (pc : BitVec 48), refill { s with cores := m } c n pc = refill s c n pc
  | 0, _ => rfl
  | n + 1, pc => by
    have bad (ks : List Nat) : { s with cores := m }.badRead (.fetch c) ks = s.badRead (.fetch c) ks := rfl
    have word (ks : List (Option Nat)) : fetchAt { s with cores := m } c ks = fetchAt s c ks := by
      rw [fetchAt, State.readRes, State.readByte_of_rest (s := s) (t := { s with cores := m }) rfl]; rfl
    simp only [refill, resolve_cores s m c h, refill_cores s m c h n, bad, word]

/-! ### The fetch from TCM -/

theorem winOf_tcm {va : Nat} (h : va < 0x10000) : winOf va = .tcm va := if_pos h

/-- Bytes in TCM resolve to its keys. -/
theorem resolve_tcm (s : State) (c : Nat) (a : Acc) {va n : Nat} (hn : n ≠ 0) (h : va + n ≤ 0x10000) :
    resolve s c a va n = .keys ((span ((Place.tcm c).key va) n).map some) := by
  have row : sameRow va (va + n - 1) = true := by rw [sameRow, winOf_tcm (by omega), winOf_tcm (by omega)]
  rw [resolve, if_neg (by simp [row, hn]; omega), winOf_tcm (by omega)]

theorem realKeys_some (ks : List Nat) : realKeys (ks.map some) = ks := by
  rw [realKeys, List.filterMap_map]
  exact List.filterMap_some

theorem foldr_bytes (bs : List Byte) : bs.foldr (fun b n => b.toNat + 256 * n) 0 = natOfBytes bs := by
  induction bs with
  | nil => rfl
  | cons b bs ih => rw [List.foldr_cons, ih, natOfBytes]

/-- The word at some keys, as the fetch path reads them. -/
theorem fetchAt_some (s : State) (c : Nat) (ks : List Nat) :
    fetchAt s c (ks.map some) = BitVec.ofNat 32 (natOfBytes (ks.map (s.readByte (.fetch c)))) := by
  rw [fetchAt, wordOfBytes, foldr_bytes, State.readRes, List.map_map]
  rfl

/-- A fetch from TCM with an empty buffer: the word at the pc, free of error, and the refill. -/
theorem State.fetch_tcm (s : State) (buf : s.slot.fbuf = []) (tcm : s.slot.pc.toNat + 4 ≤ 0x10000)
    (sound : s.badRead (.fetch s.cur.core) (span ((Place.tcm s.cur.core).key s.slot.pc.toNat) 4) = none) :
    s.fetch = .word (s.modSlot fun sl => { sl with fbuf := refill s s.cur.core 8 s.slot.pc })
      (BitVec.ofNat 32 (natOfBytes ((span ((Place.tcm s.cur.core).key s.slot.pc.toNat) 4).map (s.readByte (.fetch s.cur.core))))) := by
  have win : winOf s.slot.pc.toNat = .tcm s.slot.pc.toNat := winOf_tcm (by omega)
  have nopage : pagesOf s.slot.pc.toNat 4 = [] := by rw [pagesOf, win]; rfl
  simp only [State.fetch, buf, List.find?_nil, win, nopage, State.touchPages, List.foldl_nil,
    resolve_tcm s s.cur.core .fetch (by decide : (4 : Nat) ≠ 0) tcm, realKeys_some, sound, fetchAt_some]

/-! ### A calm slot -/

/-- A slot with nothing behind and a budget runs the word that it fetches. -/
theorem State.runNext_word (s t : State) {w : BitVec 32} (first : State → BitVec 32 → State) (left : s.slot.left ≠ 0)
    (behind : s.slot.behind = none) (fetched : (s.modSlot Slot.catchUp).fetch = .word t w) : s.runNext first = first t w := by
  have up : s.slot.catchUp = s.slot := by rw [Slot.catchUp, behind]
  rw [State.runNext, if_neg left]
  simp only [State.slot_modSlot, up, behind, fetched]

theorem State.pay_cur (s : State) (due : List Owed) : (s.pay due).cur = s.cur := by
  have key (s : State) : (due.foldl (fun s o => s.perform o.ids o.view) s).cur = s.cur := by
    induction due generalizing s with
    | nil => rfl
    | cons o l ih => rw [List.foldl_cons, ih]; have e := congrArg State.cur (s.perform_hidden o.ids o.view); exact e
  exact key s

theorem State.perform_cores (s : State) (ids : List Nat) (v : View) : (s.perform ids v).cores = s.cores := by
  have e := congrArg State.cores (s.perform_hidden ids v)
  exact e

theorem State.perform_cur (s : State) (ids : List Nat) (v : View) : (s.perform ids v).cur = s.cur := by
  have e := congrArg State.cur (s.perform_hidden ids v)
  exact e

theorem State.slot_perform (s : State) (ids : List Nat) (v : View) : (s.perform ids v).slot = s.slot := by
  rw [State.slot, State.slotOf, State.core, s.perform_cores, s.perform_cur]; rfl

/-- What some fences owe being performed leaves the current slot but for those fences and its early reads. -/
theorem State.slot_pay (s : State) (due : List Owed) :
    (s.pay due).slot = { s.slot with
      owed := s.slot.owed.filter fun o => !due.contains o
      early := if due.any fun o => o.later.reads then [] else s.slot.early } := by
  have key (l : List Owed) (s : State) : (l.foldl (fun s o => s.perform o.ids o.view) s).slot = s.slot := by
    induction l generalizing s with
    | nil => rfl
    | cons o l ih => rw [List.foldl_cons, ih, s.slot_perform]
  rw [State.pay, State.slot_modSlot, key]

/-- The orders before an instruction leave the current slot but for what it owes, its early reads and its dependencies. -/
theorem State.slot_before (s : State) (i : Instr) : (s.before i).cur = s.cur ∧ ∃ owed early flow,
    (s.before i).slot = { s.slot with owed := owed, early := early, flow := flow } ∧ (s.slot.early = [] → early = []) := by
  unfold State.before
  split
  · exact ⟨rfl, _, _, _, rfl, id⟩
  · dsimp only
    have early (due : List Owed) : s.slot.early = [] → (if due.any (fun o => o.later.reads) then [] else s.slot.early) = [] :=
      fun h => by rw [h, ite_self]
    split
    · refine ⟨(State.perform_cur _ _ _).trans (s.pay_cur _), ?_⟩
      rw [State.slot_modSlot, State.slot_perform, s.slot_pay]
      exact ⟨_, _, _, rfl, early _⟩
    · refine ⟨s.pay_cur _, ?_⟩
      rw [State.slot_modSlot, s.slot_pay]
      exact ⟨_, _, _, rfl, early _⟩

theorem State.before_none (s : State) (flow : s.slot.flow = .none) (owed : s.slot.owed = []) (i : Instr) : s.before i = s :=
  if_pos ⟨flow, owed⟩

theorem State.after_none (s t : State) (hidden : t.hidden = []) (flow : s.slot.flow = .none) (i : Instr) : s.after t i = t :=
  if_pos ⟨hidden, flow⟩

/-- A calm slot whose fences can be paid runs an instruction that meets no register error as `exec` does, with the orders around it. -/
theorem State.runInstr_exec (s q : State) (i : Instr) (ready : slotReady s s.cur.core s.cur.slot = true) (calm : s.calm)
    (payable : (s.dues i).all s.payable = true) (sound : s.regError i = none) (runs : exec i (s.before i) = .next q) :
    s.runInstr i = (s.before i).earlyAfter ((s.before i).after q i) i := by
  obtain ⟨-, owed, early, flow, hslot, hearly⟩ := s.slot_before i
  have noEarly : (s.before i).slot.early = [] := by rw [hslot]; exact hearly calm.early
  rw [s.runInstr_calm i calm.flights, ready, payable, sound]
  show (s.before i).earlyAfter ((s.before i).after ((s.before i).effect i) i) i = _
  rw [State.effect_none _ noEarly, runs]
  rfl

/-- With no `fmt` pending the instruction runs. -/
theorem State.runWord_of_free (s : State) {w : BitVec 32} {i : Instr} (free : s.slot.pfx = none) (h : decode w = some i) :
    s.runWord w = s.runInstr i := by
  rw [s.runWord_some h, free, Option.isSome_none, Bool.false_and, Bool.false_and, if_neg Bool.false_ne_true]

/-- Whether an instruction has issued is read off the slot's count of those retired before it. -/
theorem issued_of_instret {s u t : State} {c : Nat} {k : Fin 4} (h : (u.slotOf c k).instret = (s.slotOf c k).instret)
    (hi : issued s t c k = true) : issued u t c k = true := by
  rwa [issued, h]

/-- A word that issues falls not behind. -/
theorem State.runFirst_issued (s : State) {t : State} {w : BitVec 32} (h : s.runWord w = t)
    (hi : issued s t s.cur.core s.cur.slot = true) : s.runFirst w = t := by
  rw [State.runFirst, h]
  exact if_pos hi

/-- A core whose first ready slot issues takes its time, and moves its round robin on. -/
theorem State.issue_first (s t : State) (c : Nat) {k : Fin 4} {ks : List (Fin 4)} (order : issueOrder s c = k :: ks)
    (ran : State.runSlot { s with cur := ⟨c, k⟩ } = t) (issues : issued s t c k = true) :
    s.issue c = if k = 3 then t.tick (some c) else { t with turn := t.turn.put c ((k.val + 1) % 3) }.tick none := by
  simp only [State.issue, State.issueBy, order, issueFrom, ran, issues, if_true]

theorem slotReady_of_mem_issueOrder {s : State} {c : Nat} {k : Fin 4} (h : k ∈ issueOrder s c) : slotReady s c k = true := by
  rw [issueOrder, List.mem_filter] at h
  exact h.2

/-- Settles O19: the slot is calm, its word comes from TCM, and its instruction runs as `exec` does. -/
theorem stepRunsTheDecodedInstruction : Obligations.StepRunsTheDecodedInstruction := by
  intro s q c k ks rest i u pc key w v r sched order left buf tcm sound pfx behind flights early payable hw noError runs issues
  have hslot : u.slot = s.slotOf c k := rfl
  have hv : v.slot = { u.slot with fbuf := refill u c 8 pc } := u.slot_modSlot _
  have ready : slotReady v c k = true := by
    have h : slotReady s c k = true := slotReady_of_mem_issueOrder (s := { s with sched := rest }) (order ▸ List.mem_cons_self)
    unfold slotReady at h ⊢
    rw [show v.slotOf c k = _ from hv]
    exact h
  have calm : v.calm := ⟨by rw [hv]; exact flights, by rw [hv]; exact early⟩
  have fetched : (u.modSlot Slot.catchUp).fetch = .word v w := by
    have up : u.slot.catchUp = u.slot := by rw [Slot.catchUp, hslot, behind]
    have hup : (u.modSlot Slot.catchUp).slot = u.slot := by rw [State.slot_modSlot, up]
    have same : refill (u.modSlot Slot.catchUp) c = refill u c := by
      funext n pc
      exact refill_cores u (u.modSlot Slot.catchUp).cores c (u.core_modSlot_id up c) n pc
    have word : (u.modSlot Slot.catchUp).readByte (.fetch c) = s.readByte (.fetch c) := State.readByte_of_rest rfl _
    rw [State.fetch_tcm _ (by rw [hup]; exact buf) (by rw [hup]; exact tcm) (by rw [hup]; exact sound), hup, u.modSlot_modSlot_id up]
    show Fetched.word (u.modSlot fun sl => { sl with fbuf := refill (u.modSlot Slot.catchUp) c 8 u.slot.pc })
      (BitVec.ofNat 32 (natOfBytes ((span key 4).map ((u.modSlot Slot.catchUp).readByte (.fetch c))))) = _
    rw [same, word, span, List.map_map]
    rfl
  have word : v.runWord w = r := by
    have free : v.slot.pfx = none := by rw [hv]; exact pfx
    rw [v.runWord_of_free free hw]
    exact v.runInstr_exec q i ready calm payable noError runs
  have ran : u.runSlot = r := by
    have same : (v.slotOf c k).instret = (s.slotOf c k).instret := by
      have e := congrArg Slot.instret hv
      exact e
    rw [State.runSlot, u.whole_none flights, u.runNext_word v State.runFirst left behind fetched,
      v.runFirst_issued word (issued_of_instret same issues)]
  refine ⟨?_, fun flow owed => ?_⟩
  · have run : s.next = { s with sched := rest }.issue c := by rw [State.next, sched]; rfl
    rw [step, run, State.issue_first { s with sched := rest } r c order ran issues]
  · have none : v.before i = v := v.before_none (by rw [hv]; exact flow) (by rw [hv]; exact owed) i
    refine ⟨none, fun hidden early => ?_⟩
    show (v.before i).earlyAfter ((v.before i).after q i) i = q
    rw [none, v.after_none q hidden (by rw [hv]; exact flow), v.earlyAfter_none q i early]

end Sys2Proof.Machine
end

section
/-!
PROOFS. The operands of the vector forms, their lanes, and what stands behind a stall on a port (R84, R85, R87, R102, R103).
-/
namespace Sys2Proof.Machine

/-! ### Lanes -/

theorem joinLanes_lt (w : Nat) : ∀ l : List Nat, joinLanes w l < 2 ^ (w * l.length)
  | [] => by simp [joinLanes]
  | x :: l => by
    have ih := joinLanes_lt w l
    have hx : x % 2 ^ w < 2 ^ w := Nat.mod_lt _ (Nat.two_pow_pos w)
    rw [joinLanes, List.length_cons, Nat.mul_succ, Nat.pow_add, Nat.mul_comm (2 ^ (w * l.length))]
    calc x % 2 ^ w + 2 ^ w * joinLanes w l < 2 ^ w + 2 ^ w * joinLanes w l := by omega
      _ = 2 ^ w * (joinLanes w l + 1) := by ring
      _ ≤ 2 ^ w * 2 ^ (w * l.length) := Nat.mul_le_mul_left _ ih

/-- A lane of the number that lanes form. -/
theorem joinLanes_lane (w : Nat) : ∀ (l : List Nat) (i : Nat) (h : i < l.length), joinLanes w l / 2 ^ (w * i) % 2 ^ w = l[i] % 2 ^ w
  | x :: l, 0, _ => by
    rw [joinLanes, Nat.mul_zero, pow_zero, Nat.div_one, Nat.add_mul_mod_self_left, Nat.mod_mod]
    rfl
  | x :: l, i + 1, h => by
    have rest : joinLanes w (x :: l) / 2 ^ w = joinLanes w l := by
      rw [joinLanes, Nat.add_mul_div_left _ _ (Nat.two_pow_pos w), Nat.div_eq_of_lt (Nat.mod_lt _ (Nat.two_pow_pos w)), Nat.zero_add]
    rw [Nat.mul_succ, Nat.add_comm, Nat.pow_add, ← Nat.div_div_eq_div_mul, rest, joinLanes_lane w l i (Nat.lt_of_succ_lt_succ h)]
    rfl

/-- A lane of a vector whose lanes are given. -/
theorem lane_ofLanes {w k : Nat} (f : Nat → Nat) (hk : k < 256 / w) : lane w k (ofLanes w f) = f k % 2 ^ w := by
  have fits : joinLanes w ((List.range (256 / w)).map f) < 2 ^ 256 := by
    refine lt_of_lt_of_le (joinLanes_lt w _) (Nat.pow_le_pow_right (by decide) ?_)
    rw [List.length_map, List.length_range]
    exact Nat.mul_div_le 256 w
  rw [lane, ofLanes, BitVec.toNat_ofNat, Nat.mod_eq_of_lt fits, joinLanes_lane w _ k (by simpa using hk), List.getElem_map,
    List.getElem_range]

theorem lane_lt (w k : Nat) (v : Vec) : lane w k v < 2 ^ w := Nat.mod_lt _ (Nat.two_pow_pos w)

/-- A lane of results laid over what was there. -/
theorem lane_mergeLanes {w k : Nat} (p : BitVec 32) (old : Vec) (f : Nat → Nat) (hk : k < 256 / w) :
    lane w k (mergeLanes w p old f) = if active w k p then f k % 2 ^ w else lane w k old := by
  rw [mergeLanes, lane_ofLanes _ hk]
  split
  · rfl
  · exact Nat.mod_eq_of_lt (lane_lt w k old)

/-! ### Operands -/

theorem Slot.rv_eq (sl : Slot) (r : Nat) : sl.rv r = if h : r < 28 then sl.v[r] else 0 := by
  rw [Slot.rv, List.getD_eq_getElem?_getD]
  split
  · rw [List.getElem?_eq_getElem (by simpa using ‹r < 28›), Option.getD_some, Vector.getElem_toList]
  · rw [List.getElem?_eq_none (by simpa using ‹¬r < 28›), Option.getD_none]

/-- A source read: the oldest entry of its port, or its contents. -/
theorem takeSrc_eq (sl : Slot) (r : Reg) (w : Nat) : takeSrc sl r w =
    if r = 28 then sl.lq.head?.map fun v => (v, { sl with lq := sl.lq.tail })
    else if r = 31 then sl.aq.head?.map fun v => (ofLanes w fun _ => v.toNat, { sl with aq := sl.aq.tail })
    else some (if h : r.toNat < 28 then sl.v[r.toNat] else 0, sl) := by
  unfold takeSrc
  split
  · cases sl.lq <;> rfl
  · split
    · cases sl.aq <;> rfl
    · rw [sl.rv_eq]

/-- Two sources read, in field order. -/
def takeTwo (sl : Slot) (a b : Reg) (w : Nat) : Option (Vec × Vec × Slot) :=
  (takeSrc sl a w).bind fun p => (takeSrc p.2 b w).map fun q => (p.1, q.1, q.2)

/-- The operands of a form of two sources. -/
theorem State.vready_two (s : State) (i : Instr) (a b d : Reg) (w : Nat) : s.vready i [(a, w), (b, w)] [] (some d) =
    if [a, b, d].any (portIllegal s) then .stop (s.trap causeIllegal (wordOf i))
    else match [a, b, d].find? (vregBad s) with
      | some r => .stop (s.trap causeVreg (r.setWidth 64))
      | none => if isPort d && !portRoom s d then .stop s
        else match takeTwo s.slot a b w with
          | some (x, y, sl) => .go x y sl
          | none => .stop s := by
  unfold State.vready takeTwo
  dsimp only [List.map, List.append, Option.toList, HAppend.hAppend, Append.append]
  cases [a, b, d].find? (vregBad s) with
  | some r => rfl
  | none =>
    cases takeSrc s.slot a w with
    | none => rfl
    | some p => cases h : takeSrc p.2 b w <;> simp only [Option.bind_some, h, Option.map_none, Option.map_some]

theorem portIllegal_eq (s : State) (r : Reg) : portIllegal s r = decide (28 ≤ r.toNat ∧ s.slot.compat = false ∧ declOf s.slot.ports r = 0) := by
  simp only [portIllegal, isPort, Bool.decide_and, Bool.and_assoc, Bool.decide_eq_false]
  rfl

theorem vregBad_eq (s : State) (r : Reg) : vregBad s r = decide (r.toNat < 28 ∧ s.cur.slot ≠ 3 ∧ s.slot.regdem ≤ r.toNat) := by
  have normal : s.cur.slot ≠ 3 ↔ s.cur.slot.val < 3 := by
    rw [← Fin.val_ne_iff]; exact ⟨fun h => by have := s.cur.slot.isLt; omega, fun h => by omega⟩
  simp only [vregBad, isPort, normal, Bool.decide_and, Bool.and_assoc, ← decide_not, not_le]

/-- The operands of a form of two sources, by what the fields of the slot hold. -/
theorem State.vready_two_spec (s : State) (i : Instr) (a b d : Reg) (w : Nat) :
    let undeclared : Reg → Bool := fun r => decide (28 ≤ r.toNat ∧ s.slot.compat = false ∧ declOf s.slot.ports r = 0)
    let beyond : Reg → Bool := fun r => decide (r.toNat < 28 ∧ s.cur.slot ≠ 3 ∧ s.slot.regdem ≤ r.toNat)
    s.vready i [(a, w), (b, w)] [] (some d) =
      if [a, b, d].any undeclared then .stop (s.trap causeIllegal (wordOf i))
      else match [a, b, d].find? beyond with
        | some r => .stop (s.trap causeVreg (r.setWidth 64))
        | none =>
          if 28 ≤ d.toNat ∧ portRoom s d = false then .stop s
          else match takeSrc s.slot a w with
            | none => .stop s
            | some (x, sl) => match takeSrc sl b w with
              | none => .stop s
              | some (y, sl) => .go x y sl := by
  intro undeclared beyond
  have full : ((isPort d && !portRoom s d) = true) = (28 ≤ d.toNat ∧ portRoom s d = false) := by simp [isPort]
  rw [s.vready_two, show portIllegal s = undeclared from funext (portIllegal_eq s), show vregBad s = beyond from funext (vregBad_eq s)]
  simp only [full, takeTwo]
  cases [a, b, d].find? beyond with
  | some r => rfl
  | none =>
    cases takeSrc s.slot a w with
    | none => rfl
    | some p => cases h : takeSrc p.2 b w <;> simp only [Option.bind_some, h, Option.map_none, Option.map_some]

/-! ### A stall on a port -/

theorem takeSrc_eq_none {sl : Slot} {r : Reg} {w : Nat} (h : takeSrc sl r w = none) : (r = 28 ∨ r = 31) ∧ portLen sl r = 0 := by
  rw [takeSrc_eq] at h
  split at h
  · subst r
    exact ⟨.inl rfl, by simpa [portLen] using h⟩
  · split at h
    · subst r
      exact ⟨.inr rfl, by simpa [portLen] using h⟩
    · exact absurd h (by simp)

/-- A source read from a port takes its entry; one read from another leaves it. -/
theorem portLen_of_takeSrc {sl t : Slot} {a : Reg} {w : Nat} {x : Vec} (h : takeSrc sl a w = some (x, t)) {r : Reg}
    (hr : r = 28 ∨ r = 31) : portLen sl r = portLen t r + if r = a then 1 else 0 := by
  rw [takeSrc_eq] at h
  split at h
  · subst a
    obtain ⟨v, hv, e⟩ := Option.map_eq_some_iff.1 h
    obtain ⟨rest, hl⟩ := List.head?_eq_some_iff.1 hv
    obtain ⟨-, rfl⟩ := Prod.mk.inj e
    rcases hr with rfl | rfl <;> simp [portLen, hl]
  · split at h
    · subst a
      obtain ⟨v, hv, e⟩ := Option.map_eq_some_iff.1 h
      obtain ⟨rest, hl⟩ := List.head?_eq_some_iff.1 hv
      obtain ⟨-, rfl⟩ := Prod.mk.inj e
      rcases hr with rfl | rfl <;> simp [portLen, hl]
    · obtain ⟨-, rfl⟩ := Prod.mk.inj (Option.some.inj h)
      have other : r ≠ a := by rcases hr with rfl | rfl <;> exact Ne.symm ‹_›
      rw [if_neg other, Nat.add_zero]

/-- Two sources that cannot both be read want more of a port than it holds. -/
theorem short_of_takeTwo_none {sl : Slot} {a b : Reg} {w : Nat} (h : takeTwo sl a b w = none) :
    ∃ r ∈ [a, b], (r = 28 ∨ r = 31) ∧ portLen sl r < [a, b].count r := by
  rw [takeTwo, Option.bind_eq_none_iff] at h
  cases ha : takeSrc sl a w with
  | none =>
    obtain ⟨port, empty⟩ := takeSrc_eq_none ha
    exact ⟨a, by simp, port, by rw [empty]; simp⟩
  | some p =>
    obtain ⟨port, empty⟩ := takeSrc_eq_none (Option.map_eq_none_iff.1 (h p ha))
    refine ⟨b, by simp, port, ?_⟩
    rw [portLen_of_takeSrc ha port, empty]
    by_cases e : b = a
    · subst b; simp
    · simp [e, List.count_cons_of_ne (Ne.symm e)]

theorem wf_vadd {pg : PReg} {ew : BitVec 2} {d a b : Reg} (h : (Instr.vadd pg ew d a b).wf = true) :
    (a.toNat < 28 ∨ a = 28) ∧ (b.toNat < 28 ∨ b = 28 ∨ b = 31) ∧ (d.toNat < 28 ∨ d = 29) := by
  have e : (ew != 3 && srcA a && srcB b && dstQ d) = true := h
  simp only [srcA, srcB, dstQ, isV, Bool.and_eq_true, Bool.or_eq_true, decide_eq_true_eq, beq_iff_eq, or_assoc] at e
  obtain ⟨⟨⟨-, ha⟩, hb⟩, hd⟩ := e
  exact ⟨ha, hb, hd⟩

theorem mem_popsOf {u : Uses} {r : Reg} : r ∈ popsOf u ↔ r ∈ u.vs ∧ isPort r = true ∧ u.vd ≠ some r := by
  simp [popsOf]

theorem mem_pushOf {u : Uses} {r : Reg} : r ∈ pushOf u ↔ u.vd = some r ∧ isPort r = true := by
  simp [pushOf]

/-- What a well-formed `vadd` pops are its sources that are ports. -/
theorem mem_popsOf_vadd {pg : PReg} {ew : BitVec 2} {d a b r : Reg} (wf : (Instr.vadd pg ew d a b).wf = true) :
    r ∈ popsOf (usesOf (.vadd pg ew d a b)) ↔ r ∈ [a, b] ∧ (r = 28 ∨ r = 31) := by
  obtain ⟨ha, hb, hd⟩ := wf_vadd wf
  rw [mem_popsOf, show (usesOf (.vadd pg ew d a b)).vs = [a, b] ++ merged pg d from rfl, List.mem_append]
  constructor
  · rintro ⟨hr | hr, port, other⟩
    · have port : ¬ r.toNat < 28 := not_lt.2 (of_decide_eq_true port)
      refine ⟨hr, ?_⟩
      rcases List.mem_pair.1 hr with rfl | rfl
      · exact .inl (ha.resolve_left port)
      · exact hb.resolve_left port
    · rw [merged] at hr
      split at hr
      · exact absurd hr List.not_mem_nil
      · exact absurd (congrArg some (List.mem_singleton.1 hr).symm) other
  · rintro ⟨hr, port⟩
    refine ⟨.inl hr, by rcases port with rfl | rfl <;> rfl, fun e => ?_⟩
    obtain rfl : d = r := Option.some.inj e
    rcases port with rfl | rfl <;> simp at hd

/-- A well-formed `vadd` whose destination has no room, or whose sources want more of a port than it holds, stalls the execute stream. -/
theorem stalledPort_vadd (s : State) {pg : PReg} {ew : BitVec 2} {d a b : Reg} (wf : (Instr.vadd pg ew d a b).wf = true)
    (h : (isPort d && !portRoom s d) = true ∨ ∃ r ∈ [a, b], (r = 28 ∨ r = 31) ∧ portLen s.slot r < [a, b].count r) :
    ∃ r, stalledPort s (.vadd pg ew d a b) = some r ∧ stallsExecute (.vadd pg ew d a b) r = true := by
  obtain ⟨-, -, hd⟩ := wf_vadd wf
  have vd : (usesOf (.vadd pg ew d a b)).vd = some d := rfl
  unfold stalledPort
  dsimp only
  cases found : (popsOf (usesOf (.vadd pg ew d a b))).find? fun r =>
      decide (portLen s.slot r < (popsOf (usesOf (.vadd pg ew d a b))).count r) with
  | some r =>
    have popped := List.mem_of_find?_eq_some found
    obtain ⟨-, -, other⟩ := mem_popsOf.1 popped
    obtain ⟨-, port⟩ := (mem_popsOf_vadd wf).1 popped
    have notPushed : [d].contains r = false := by simpa [vd, eq_comm] using other
    refine ⟨r, rfl, ?_⟩
    rw [stallsExecute, vd, Option.toList_some, notPushed]
    rcases port with rfl | rfl <;> rfl
  | none =>
    have enough : ¬ ∃ r ∈ [a, b], (r = 28 ∨ r = 31) ∧ portLen s.slot r < [a, b].count r := by
      rintro ⟨r, hr, port, short⟩
      have popped := (mem_popsOf_vadd (pg := pg) (ew := ew) (d := d) wf).2 ⟨hr, port⟩
      have count : [a, b].count r ≤ (popsOf (usesOf (.vadd pg ew d a b))).count r := by
        obtain ⟨-, isPort, other⟩ := mem_popsOf.1 popped
        rw [popsOf, List.count_filter (by simpa using ⟨isPort, other⟩)]
        exact (List.sublist_append_left [a, b] (merged pg d)).count_le r
      exact List.find?_eq_none.1 found r popped (by simpa using lt_of_lt_of_le short count)
    obtain ⟨port, full⟩ := Bool.and_eq_true_iff.1 (h.resolve_right enough)
    have d29 : d = 29 := hd.resolve_left (not_lt.2 (of_decide_eq_true port))
    subst d29
    refine ⟨29, ?_, rfl⟩
    show [(29 : Reg)].find? (fun r => !portRoom s r) = some 29
    simp only [List.find?_cons, full]

/-- A form of two sources that waits has no room for its result, or wants more of a port than it holds. -/
theorem State.waits_of_vready_stop (s : State) (live : s.slot.live = true) (i : Instr) {a b d : Reg} {w : Nat}
    (h : s.vready i [(a, w), (b, w)] [] (some d) = .stop s) :
    (isPort d && !portRoom s d) = true ∨ ∃ r ∈ [a, b], (r = 28 ∨ r = 31) ∧ portLen s.slot r < [a, b].count r := by
  have notTrap (cause : Nat) (v : Word) : s.trap cause v ≠ s := by
    intro e
    have idle : (s.trap cause v).slotOf s.cur.core s.cur.slot = s.slot.idle :=
      (s.slotOf_trapAt s.cur.core s.cur.slot cause v s.cur.core s.cur.slot).trans (if_pos ⟨rfl, rfl⟩)
    rw [e] at idle
    have dead : s.slot.live = false := congrArg Slot.live idle
    rw [dead] at live
    exact Bool.false_ne_true live
  rw [s.vready_two] at h
  split at h
  · exact absurd (VReady.stop.inj h) (notTrap _ _)
  · split at h
    · exact absurd (VReady.stop.inj h) (notTrap _ _)
    · split at h
      · exact .inl ‹_›
      · split at h
        · exact absurd h (by simp)
        · exact .inr (short_of_takeTwo_none ‹_›)

/-! ### A `vadd` behind a stall -/

section
variable (pg : PReg) (ew : BitVec 2) (d a b : Reg)

theorem exec_vadd (s : State) : exec (.vadd pg ew d a b) s =
    .next (s.lanes2 (.vadd pg ew d a b) (widthOf ew) pg d a b (laneAdd (widthOf ew))) := rfl

/-- A `vadd` that stands behind. -/
theorem State.putBehind_vadd (s : State) (free : s.slot.pfx = none) (bh : Behind) (word : BitVec 32) :
    s.putBehind bh word (.vadd pg ew d a b) = s.modSlot fun sl => { sl with
      pc := sl.pc + 4, behind := some { bh with items := bh.items ++ [.todo s.slot.pc word (namesOf (.vadd pg ew d a b))] } } := by
  rw [State.putBehind, State.modSlot, State.modSlot]
  refine s.modSlotOf_congr ?_
  exact congrArg (fun p => { s.slot with
    pc := s.slot.pc + 4, pfx := p
    behind := some { bh with items := bh.items ++ [Item.todo s.slot.pc word (namesOf (.vadd pg ew d a b))] } }) free.symm

/-- Behind a stall of the execute stream a `vadd` stands behind as well. -/
theorem State.runAhead_vadd (s : State) (free : s.slot.pfx = none) {word : BitVec 32} {bh : Behind}
    (hw : decode word = some (.vadd pg ew d a b)) (stalls : bh.exec = true) (whole : bh.prefixed = false) :
    s.runAhead bh word = s.putBehind bh word (.vadd pg ew d a b) := by
  have holds : bh.holds (.vadd pg ew d a b) = true := by rw [Behind.holds, if_pos stalls]; rfl
  have passes : barrier bh (.vadd pg ew d a b) = false := rfl
  have access : (streamsOf (.vadd pg ew d a b)).access = false := rfl
  rw [State.runAhead, hw]
  simp only [whole, free, Option.isSome_none, Bool.or_self, Bool.false_and, Bool.false_eq_true, if_false, passes, holds, if_true, access,
    Bool.and_false]

end

end Sys2Proof.Machine
end

section
/-!
PROOFS. The two streams of a slot (R83, R84, R87): what falls behind, what runs ahead, and the oldest instruction at its own place.
-/
namespace Sys2Proof.Machine

/-! ### What a calm slot runs -/

theorem State.dues_none (s : State) (owed : s.slot.owed = []) (i : Instr) : s.dues i = [] := by rw [State.dues, owed]; rfl

/-- An instruction of a slot that depends on nothing and owes nothing, with no write under way, comes to what `exec` does. -/
theorem State.runInstr_plain (s q : State) (i : Instr) (ready : slotReady s s.cur.core s.cur.slot = true) (calm : s.calm)
    (flow : s.slot.flow = .none) (owed : s.slot.owed = []) (sound : s.regError i = none) (runs : exec i s = .next q)
    (hidden : q.hidden = []) (early : (q.slotOf s.cur.core s.cur.slot).early = []) : s.runInstr i = q := by
  have before : s.before i = s := s.before_none flow owed i
  rw [s.runInstr_exec q i ready calm (by rw [s.dues_none owed]; rfl) sound (before.symm ▸ runs), before, s.after_none q hidden flow,
    s.earlyAfter_none q i early]

/-- What `after` can do to the state: note reads and dependencies, and set the dependencies of the slot. -/
theorem State.after_cases (s t : State) (i : Instr) {P : State → Prop} (same : P t)
    (noted : ∀ hidden carried, P { t with hidden := hidden, carried := carried })
    (moved : ∀ hidden carried (f : Slot → Flow),
      P ({ t with hidden := hidden, carried := carried }.modSlotOf s.cur.core s.cur.slot fun sl => { sl with flow := f sl })) :
    P (s.after t i) := by
  unfold State.after
  refine iteInduction (motive := P) (fun _ => same) fun _ => ?_
  refine iteInduction (motive := P) (fun _ => noted _ _) fun _ => ?_
  refine iteInduction (motive := P) (fun _ => ?_) fun _ => moved _ _ _
  split
  · exact noted _ _
  · exact noted _ _
  · exact noted _ _
  · exact noted _ _
  · exact moved _ _ _

/-- After an instruction its slot is as the instruction has left it, but for its dependencies. -/
theorem State.slot_after (s t : State) (i : Instr) : (s.after t i).cur = t.cur ∧
    ∃ f, (s.after t i).slotOf s.cur.core s.cur.slot = { t.slotOf s.cur.core s.cur.slot with flow := f } :=
  s.after_cases t i (P := fun u => u.cur = t.cur ∧
      ∃ f, u.slotOf s.cur.core s.cur.slot = { t.slotOf s.cur.core s.cur.slot with flow := f })
    ⟨rfl, _, rfl⟩ (fun _ _ => ⟨rfl, _, rfl⟩) fun _ _ _ => ⟨rfl, _, State.slotOf_modSlotOf_self _ _ _ _⟩

/-- What an instruction of a calm slot leaves in it: what `exec` does, but for the dependencies. -/
theorem State.runInstr_slot (s q : State) (i : Instr) (ready : slotReady s s.cur.core s.cur.slot = true) (calm : s.calm)
    (owed : s.slot.owed = []) (sound : s.regError i = none) (runs : exec i (s.before i) = .next q) (cur : q.cur = s.cur)
    (early : (q.slotOf s.cur.core s.cur.slot).early = []) :
    (s.runInstr i).cur = s.cur ∧
      ∃ f, (s.runInstr i).slotOf s.cur.core s.cur.slot = { q.slotOf s.cur.core s.cur.slot with flow := f } := by
  obtain ⟨bcur, -⟩ := s.slot_before i
  obtain ⟨acur, f, hslot⟩ := (s.before i).slot_after q i
  rw [bcur] at hslot
  have none : (s.before i).earlyAfter ((s.before i).after q i) i = (s.before i).after q i :=
    State.earlyAfter_none _ _ _ (by rw [bcur, hslot]; exact early)
  rw [s.runInstr_exec q i ready calm (by rw [s.dues_none owed]; rfl) sound runs, none]
  exact ⟨acur.trans cur, f, hslot⟩

theorem issued_of_stall {s : State} {c : Nat} {k : Fin 4} (h : slotReady s c k = true) : issued s s c k = false := by
  rw [issued, h, bne_self_eq_false]
  rfl

/-! ### Falling behind -/

/-- The port on which an instruction stalls is the same after a change of the slot that changes nothing. -/
theorem stalledPort_modSlot_id (s : State) {f : Slot → Slot} (h : f s.slot = s.slot) (i : Instr) :
    stalledPort (s.modSlot f) i = stalledPort s i := by
  have slot : (s.modSlot f).slot = s.slot := (s.slot_modSlot f).trans h
  have room (r : Reg) : portRoom (s.modSlot f) r = portRoom s r := by
    rw [portRoom, slot, s.core_modSlot_id h]
    rfl
  simp only [stalledPort, slot, room]

/-- An instruction of one stream that stalls on a port changes nothing, and falls behind. -/
theorem State.runFirst_stall (s : State) {word : BitVec 32} {i : Instr} {r : Reg} (ready : slotReady s s.cur.core s.cur.slot = true)
    (calm : s.calm) (hw : decode word = some i) (names : ∀ t : State, t.namesAt i = namesOf i) (stalls : s.runWord word = s)
    (port : stalledPort s i = some r) :
    s.runFirst word = s.putBehind ⟨stallsExecute i r, [], s.slot.regs, false, s.slot.instret, none⟩ word i := by
  have noEarly : { s.slot with early := [] } = s.slot := congrArg (fun e => { s.slot with early := e }) calm.early.symm
  have here : slotReady s s.cur.core s.cur.slot && s.slot.flights.isEmpty := by rw [ready, calm.flights]; rfl
  rw [State.runFirst, stalls, issued_of_stall ready, hw]
  show s.comesBehind word i = _
  simp only [State.comesBehind, port, s.landAll_none calm.flights, here, if_true, Option.isNone_some, Bool.false_eq_true, if_false]
  rw [State.fallBehind, stalledPort_modSlot_id s noEarly, port]
  simp only [State.putBehind, names, State.slot_modSlot, noEarly]
  exact s.modSlot_modSlot_id noEarly _

/-! ### Running ahead -/

/-- What has run ahead takes its place behind the items that stand behind. -/
theorem Slot.catchUp_ahead {sl : Slot} {b : Behind} {n : Names} (hb : sl.behind = some b) (moved : sl.instret ≠ b.mark)
    (ahead : b.old = false) (hn : b.names = some n) :
    sl.catchUp = { sl with
      behind := some { b with items := b.items ++ [.ran (sl.regs.written n) n.late], mark := sl.instret, names := none } } := by
  rw [Slot.catchUp, hb]
  simp only [if_neg moved, ahead, hn]

/-- The oldest instruction, done, leaves the items that stand behind. -/
theorem Slot.catchUp_old {sl : Slot} {b : Behind} {pc : BitVec 48} {w : BitVec 32} {n : Names} {later : List Item}
    (hb : sl.behind = some b) (moved : sl.instret ≠ b.mark) (old : b.old = true) (hi : b.items = .todo pc w n :: later) :
    sl.catchUp = sl.oldDone b n later := by
  rw [Slot.catchUp, hb]
  simp only [if_neg moved, old, hi]

theorem add_sext12 (x : Word) (imm : BitVec 12) : x + sext12 imm = BitVec.ofInt 64 (x.toInt + imm.toInt) := by
  rw [BitVec.ofInt_add, BitVec.ofInt_toInt]
  rfl

/-- What an `addi` names is its destination, but for x0. -/
theorem namesOf_addi (rd rs : Reg) (imm : BitVec 12) :
    namesOf (.addi rd rs imm) = ⟨if rd = 0 then [] else [rd], [], [], [], false, false, false, [], false⟩ := by
  by_cases h : rd = 0
  · subst h; rfl
  · have keep : [rd].filter (· ≠ 0) = [rd] := List.filter_cons_of_pos (by simpa using h)
    rw [if_neg h, ← keep]
    rfl

/-- Behind a stall of the execute stream an `addi` that needs nothing of what stands behind runs. -/
theorem State.runAhead_addi (s : State) {rd rs : Reg} {imm : BitVec 12} (free : s.slot.pfx = none) {word : BitVec 32} {b : Behind}
    (hw : decode word = some (.addi rd rs imm)) (stalls : b.exec = true) (whole : b.prefixed = false) (needless : rs ∉ b.toCome.xs) :
    s.runAhead b word = s.runBefore b (.addi rd rs imm) false := by
  have holds : b.holds (.addi rd rs imm) = false := by rw [Behind.holds, if_pos stalls]; rfl
  have passes : barrier b (.addi rd rs imm) = false := rfl
  have needs : s.needs b.toCome (.addi rd rs imm) = false := by
    have reads : (usesOf (.addi rd rs imm)).xs.any b.toCome.xs.contains = false := by
      show ([rs].any fun r => b.toCome.xs.contains r) = false
      simpa using needless
    rw [State.needs, reads]
    rfl
  rw [State.runAhead, hw]
  simp only [whole, free, Option.isSome_none, Bool.or_self, Bool.false_and, Bool.false_eq_true, if_false, passes, holds, needs]

/-- An `addi` that runs ahead: its result, and what it wrote among what stands behind. -/
theorem State.runBefore_addi (s : State) (rd rs : Reg) (imm : BitVec 12) {b : Behind}
    (ready : slotReady s s.cur.core s.cur.slot = true) (calm : s.calm) (flow : s.slot.flow = .none) (owed : s.slot.owed = [])
    (hidden : s.hidden = []) (sound : s.regError (.addi rd rs imm) = none) (ahead : b.old = false) :
    let v : Word := BitVec.ofInt 64 ((s.rx rs).toInt + imm.toInt)
    s.runBefore b (.addi rd rs imm) false = s.modSlot fun sl => { sl.after rd v with
      behind := some { b with
        items := b.items ++ [.ran ⟨if rd = 0 then [] else [(rd, v, [])], [], []⟩], mark := sl.instret + 1, names := none } } := by
  intro v
  let f : Slot → Slot := fun sl => { sl with behind := some { b with
    mark := sl.instret, names := some { namesOf (.addi rd rs imm) with late := false } } }
  have slot : (s.modSlot f).slot = f s.slot := s.slot_modSlot f
  have run : (s.modSlot f).runInstr (.addi rd rs imm) = (s.modSlot f).done rd v := by
    refine State.runInstr_plain _ _ _ ?_ ⟨?_, ?_⟩ ?_ ?_ ?_ ?_ hidden ?_
    · show ((s.modSlot f).slot.live && (s.modSlot f).slot.wait == .none) = true
      rw [slot]; exact ready
    · rw [slot]; exact calm.flights
    · rw [slot]; exact calm.early
    · rw [slot]; exact flow
    · rw [slot]; exact owed
    · rw [State.regError, slot]; exact sound
    · show Host.Outcome.next ((s.modSlot f).done rd ((s.modSlot f).rx rs + sext12 imm)) = _
      rw [add_sext12, State.rx, slot]
      rfl
    · rw [((s.modSlot f).onlySlot_done rd v).here, slot]; exact calm.early
  have moved : s.slot.instret + 1 ≠ s.slot.instret := by simp
  have written : ((f s.slot).after rd v).regs.written (namesOf (.addi rd rs imm)) = ⟨if rd = 0 then [] else [(rd, v, [])], [], []⟩ := by
    rw [namesOf_addi, Regs.written]
    by_cases h : rd = 0
    · rw [if_pos h, if_pos h]; rfl
    · have x : ((f s.slot).after rd v).x.get rd.toFin = v := by
        show (if rd = 0 then s.slot.x else s.slot.x.set rd.toNat v).get rd.toFin = v
        rw [if_neg h, get_set]
        exact if_pos rfl
      have fx : ((f s.slot).after rd v).flow.x = [] := congrArg Flow.x flow
      rw [if_neg h, if_neg h]
      show Written.mk [(rd, ((f s.slot).after rd v).x.get rd.toFin, ((f s.slot).after rd v).flow.x.getD rd.toNat [])] [] [] = _
      rw [x, fx]
      rfl
  have last : ((f s.slot).wx rd v).retire.catchUp = { s.slot.after rd v with behind := some { b with
      items := b.items ++ [.ran ⟨if rd = 0 then [] else [(rd, v, [])], [], []⟩], mark := s.slot.instret + 1, names := none } } := by
    rw [Slot.wx_retire, Slot.catchUp_ahead (b := { b with
      mark := s.slot.instret, names := some { namesOf (.addi rd rs imm) with late := false } }) rfl moved ahead rfl, ← written]
    rfl
  show ((s.modSlot f).runInstr (.addi rd rs imm)).modSlotOf s.cur.core s.cur.slot Slot.catchUp = _
  rw [run]
  show ((s.modSlotOf s.cur.core s.cur.slot f).modSlotOf s.cur.core s.cur.slot fun sl => (sl.wx rd v).retire).modSlotOf
    s.cur.core s.cur.slot Slot.catchUp = _
  rw [State.modSlotOf_modSlotOf, State.modSlotOf_modSlotOf]
  exact s.modSlotOf_congr last

/-! ### The oldest instruction at its own place -/

theorem passRan_ran {later : List Item} (h : ∀ e ∈ later, ∃ r l, e = .ran r l) (r : Regs) : (passRan r later).2 = [] := by
  induction later generalizing r with
  | nil => rfl
  | cons e later ih =>
    obtain ⟨w, l, rfl⟩ := h e List.mem_cons_self
    exact ih (fun e he => h e (List.mem_cons_of_mem _ he)) (r.put w)

/-- With nothing left that is not done the slot is whole again, at the place of the other stream. -/
theorem Slot.oldDone_ran {later : List Item} (h : ∀ e ∈ later, ∃ r l, e = .ran r l) (sl : Slot) (b : Behind) (n : Names) :
    ∃ pfx, sl.oldDone b n later = { sl.withRegs { b.regs.put ((sl.regs.written n).less later) with pfx := pfx } with behind := none } := by
  unfold Slot.oldDone
  simp only [passRan_ran h]
  exact ⟨_, rfl⟩

theorem Written.less_cons_ran (w l : Written) (late : Bool) (later : List Item) : w.less (.ran l late :: later) =
    Written.less ⟨w.xs.filter fun e => !(l.xs.map Prod.fst).contains e.1, w.vs.filter fun e => !(l.vs.map Prod.fst).contains e.1,
      w.ps.filter fun e => !(l.ps.map Prod.fst).contains e.1⟩ later := rfl

theorem Written.less_nil {later : List Item} : (Written.mk [] [] []).less later = ⟨[], [], []⟩ := by
  induction later with
  | nil => rfl
  | cons e later ih => cases e <;> exact ih

/-- A vector register written is left as it is where nothing after it wrote it. -/
theorem Written.less_of_not_mem {d : Reg} {v : Vec} {later : List Item} (h : ∀ e l, .ran e l ∈ later → d ∉ e.vs.map Prod.fst) :
    (Written.mk [] [(d, v)] []).less later = ⟨[], [(d, v)], []⟩ := by
  induction later with
  | nil => rfl
  | cons e later ih =>
    have rest := ih fun e l he => h e l (List.mem_cons_of_mem _ he)
    cases e with
    | todo => exact rest
    | ran e l =>
      have keep : [(d, v)].filter (fun x => !(e.vs.map Prod.fst).contains x.1) = [(d, v)] :=
        List.filter_cons_of_pos (by simpa using h e l List.mem_cons_self)
      rw [Written.less_cons_ran, keep]
      exact rest

/-- A vector register written is lost where something after it wrote it too. -/
theorem Written.less_of_mem {d : Reg} {v : Vec} {later : List Item} (h : ∃ e l, .ran e l ∈ later ∧ d ∈ e.vs.map Prod.fst) :
    (Written.mk [] [(d, v)] []).less later = ⟨[], [], []⟩ := by
  induction later with
  | nil =>
    obtain ⟨e, l, he, -⟩ := h
    exact absurd he List.not_mem_nil
  | cons e later ih =>
    obtain ⟨e', l', he, hd⟩ := h
    cases e with
    | todo => exact ih ⟨e', l', (List.mem_cons.1 he).resolve_left (by simp), hd⟩
    | ran e l =>
      rw [Written.less_cons_ran]
      by_cases hit : d ∈ e.vs.map Prod.fst
      · have drop : [(d, v)].filter (fun x => !(e.vs.map Prod.fst).contains x.1) = [] :=
          List.filter_cons_of_neg (by simpa using hit)
        rw [drop]
        exact Written.less_nil
      · have keep : [(d, v)].filter (fun x => !(e.vs.map Prod.fst).contains x.1) = [(d, v)] :=
          List.filter_cons_of_pos (by simpa using hit)
        rw [keep]
        refine ih ⟨e', l', (List.mem_cons.1 he).resolve_left fun same => hit ?_, hd⟩
        obtain ⟨rfl, -⟩ := Item.ran.inj same
        exact hd

/-- The registers after a vector register was written, with what later instructions wrote standing over it. -/
theorem Regs.put_less_vector (r : Regs) {d : Reg} (hd : d.toNat < 28) (v : Vec) (later : List Item) :
    let w := r.put ((Written.mk [] [(d, v)] []).less later)
    w.pc = r.pc ∧ w.x = r.x ∧ ∀ n : Fin 28,
      (n.val = d.toNat → (∀ e l, .ran e l ∈ later → d ∉ e.vs.map Prod.fst) → w.v.get n = v) ∧
      (n.val ≠ d.toNat ∨ (∃ e l, .ran e l ∈ later ∧ d ∈ e.vs.map Prod.fst) → w.v.get n = r.v.get n) := by
  intro w
  by_cases hit : ∃ e l, Item.ran e l ∈ later ∧ d ∈ e.vs.map Prod.fst
  · have hw : w = r := by simp only [w, Written.less_of_mem hit]; rfl
    refine ⟨by rw [hw], by rw [hw], fun n => ⟨fun _ none => ?_, fun _ => by rw [hw]⟩⟩
    obtain ⟨e, l, he, hd⟩ := hit
    exact absurd hd (none e l he)
  · have none : ∀ e l, Item.ran e l ∈ later → d ∉ e.vs.map Prod.fst := fun e l he hd => hit ⟨e, l, he, hd⟩
    have hw : w = { r with v := r.v.set d.toNat v } := by
      simp only [w, Written.less_of_not_mem none, Regs.put, List.foldl_cons, List.foldl_nil, dif_pos hd]
    refine ⟨by rw [hw], by rw [hw], fun n => ⟨fun same _ => ?_, fun other => ?_⟩⟩
    · rw [hw, get_set, if_pos same.symm]
    · rw [hw, get_set, if_neg (other.resolve_right hit).symm]

theorem namesOf_vadd_vs (pg : PReg) (ew : BitVec 2) {d : Reg} (a b : Reg) (hd : d.toNat < 28) :
    (namesOf (.vadd pg ew d a b)).vs = [d] := by
  show [d].filter (fun r => !isPort r) = [d]
  exact List.filter_cons_of_pos (by simpa [isPort] using hd)

/-- A slot with what its orders of accesses hold replaced. -/
def Slot.withOrders (sl : Slot) (owed : List Owed) (early : List Early) (flow : Flow) : Slot :=
  { sl with owed := owed, early := early, flow := flow }

/-- A source read takes at most an entry of a port, whatever the orders of accesses hold. -/
theorem takeSrc_frame {sl t : Slot} {r : Reg} {w : Nat} {x : Vec} (h : takeSrc sl r w = some (x, t)) :
    (∃ lq aq, t = { sl with lq := lq, aq := aq }) ∧
      ∀ o e f, takeSrc (sl.withOrders o e f) r w = some (x, t.withOrders o e f) := by
  rw [takeSrc_eq] at h
  simp only [takeSrc_eq]
  by_cases h28 : r = 28
  · rw [if_pos h28] at h
    obtain ⟨v, hv, e⟩ := Option.map_eq_some_iff.1 h
    obtain ⟨rfl, rfl⟩ := Prod.mk.inj e
    exact ⟨⟨_, _, rfl⟩, fun o e f => by rw [if_pos h28, Slot.withOrders, hv]; rfl⟩
  · by_cases h31 : r = 31
    · rw [if_neg h28, if_pos h31] at h
      obtain ⟨v, hv, e⟩ := Option.map_eq_some_iff.1 h
      obtain ⟨rfl, rfl⟩ := Prod.mk.inj e
      exact ⟨⟨_, _, rfl⟩, fun o e f => by rw [if_neg h28, if_pos h31, Slot.withOrders, hv]; rfl⟩
    · rw [if_neg h28, if_neg h31] at h
      obtain ⟨rfl, rfl⟩ := Prod.mk.inj (Option.some.inj h)
      exact ⟨⟨_, _, rfl⟩, fun o e f => by rw [if_neg h28, if_neg h31]; rfl⟩

theorem takeTwo_eq_some {sl t : Slot} {a b : Reg} {w : Nat} {x y : Vec} :
    takeTwo sl a b w = some (x, y, t) ↔ ∃ u, takeSrc sl a w = some (x, u) ∧ takeSrc u b w = some (y, t) := by
  simp only [takeTwo, Option.bind_eq_some_iff, Option.map_eq_some_iff, Prod.exists, Prod.mk.injEq]
  constructor
  · rintro ⟨_, u, ha, _, _, hb, rfl, rfl, rfl⟩
    exact ⟨u, ha, hb⟩
  · rintro ⟨u, ha, hb⟩
    exact ⟨x, u, ha, y, t, hb, rfl, rfl, rfl⟩

/-- Two sources read take at most entries of ports, whatever the orders of accesses hold. -/
theorem takeTwo_frame {sl t : Slot} {a b : Reg} {w : Nat} {x y : Vec} (h : takeTwo sl a b w = some (x, y, t)) :
    (∃ lq aq, t = { sl with lq := lq, aq := aq }) ∧
      ∀ o e f, takeTwo (sl.withOrders o e f) a b w = some (x, y, t.withOrders o e f) := by
  obtain ⟨u, ha, hb⟩ := takeTwo_eq_some.1 h
  obtain ⟨⟨lq, aq, hu⟩, ha'⟩ := takeSrc_frame ha
  obtain ⟨⟨lq', aq', ht⟩, hb'⟩ := takeSrc_frame hb
  exact ⟨⟨lq', aq', by rw [ht, hu]⟩, fun o e f => takeTwo_eq_some.2 ⟨_, ha' o e f, hb' o e f⟩⟩

/-- A form of two sources with a register as its destination reads its operands where they are of the activation and there. -/
theorem State.vready_go_iff (s : State) (i : Instr) {a b d : Reg} {w : Nat} (hd : d.toNat < 28) {x y : Vec} {sl : Slot} :
    s.vready i [(a, w), (b, w)] [] (some d) = .go x y sl ↔
      [a, b, d].any (portIllegal s) = false ∧ [a, b, d].find? (vregBad s) = none ∧ takeTwo s.slot a b w = some (x, y, sl) := by
  have noPort : isPort d = false := decide_eq_false (not_le.2 hd)
  rw [s.vready_two, noPort]
  cases [a, b, d].any (portIllegal s) with
  | true => simp
  | false => cases [a, b, d].find? (vregBad s) with
    | some r => simp
    | none => cases takeTwo s.slot a b w with
      | none => simp
      | some p => simp [Prod.ext_iff]

/-- The operands of a form do not depend on what the orders of accesses hold. -/
theorem State.vready_withOrders {s t : State} (cur : t.cur = s.cur) {owed : List Owed} {early : List Early} {flow : Flow}
    (slot : t.slot = s.slot.withOrders owed early flow) (i : Instr) {a b d : Reg} {w : Nat} (hd : d.toNat < 28) {x y : Vec} {sl : Slot}
    (h : s.vready i [(a, w), (b, w)] [] (some d) = .go x y sl) :
    t.vready i [(a, w), (b, w)] [] (some d) = .go x y (sl.withOrders owed early flow) := by
  obtain ⟨ports, regs, two⟩ := (s.vready_go_iff i hd).1 h
  have hports : portIllegal t = portIllegal s := funext fun r => by rw [portIllegal, slot]; rfl
  have hregs : vregBad t = vregBad s := funext fun r => by rw [vregBad, slot, cur]; rfl
  refine (t.vready_go_iff i hd).2 ⟨by rw [hports]; exact ports, by rw [hregs]; exact regs, ?_⟩
  rw [slot]
  exact (takeTwo_frame two).2 owed early flow

/-- What a `vadd` with a register as its destination leaves in its slot. -/
theorem State.exec_vadd_register (s : State) (pg : PReg) (ew : BitVec 2) {d a b : Reg} (hd : d.toNat < 28) {x y : Vec} {sl : Slot}
    (h : s.vready (.vadd pg ew d a b) [(a, widthOf ew), (b, widthOf ew)] [] (some d) = .go x y sl) :
    ∃ r q, exec (.vadd pg ew d a b) s = .next q ∧ q.cur = s.cur ∧
      q.slotOf s.cur.core s.cur.slot = { sl.wv d.toNat r with pfx := none }.retire ∧
      ∀ k, k < 256 / widthOf ew → lane (widthOf ew) k r =
        if (sl.rp pg).getLsbD (widthOf ew / 8 * k) then
          (BitVec.ofNat (widthOf ew) (lane (widthOf ew) k x) + BitVec.ofNat (widthOf ew) (lane (widthOf ew) k y)).toNat
        else lane (widthOf ew) k (sl.rv d.toNat) := by
  have notSq : d ≠ 29 := by rintro rfl; simp at hd
  have noPort : isPort d = false := decide_eq_false (not_le.2 hd)
  have put (v : Vec) : putDst sl d v = sl.wv d.toNat v := if_neg notSq
  have old : oldDst sl d = sl.rv d.toNat := by rw [oldDst, noPort]; rfl
  refine ⟨mergeLanes (widthOf ew) (sl.rp pg) (sl.rv d.toNat) fun k => laneAdd (widthOf ew) (lane (widthOf ew) k x) (lane (widthOf ew) k y),
    s.vdone (sl.wv d.toNat (mergeLanes (widthOf ew) (sl.rp pg) (sl.rv d.toNat) fun k => laneAdd (widthOf ew) (lane (widthOf ew) k x)
      (lane (widthOf ew) k y))), ?_, rfl, State.slotOf_modSlotOf_self _ _ _ _, fun k hk => ?_⟩
  · show Host.Outcome.next (s.lanes2 _ _ _ _ _ _ _) = _
    rw [State.lanes2, h]
    simp only [put, old]
  · rw [lane_mergeLanes _ _ _ hk, laneAdd, Nat.mod_mod, BitVec.toNat_add, BitVec.toNat_ofNat, BitVec.toNat_ofNat, ← Nat.add_mod]
    rfl

theorem Slot.rv_wv_same (sl : Slot) {r : Nat} (hr : r < 28) (v : Vec) : (sl.wv r v).rv r = v := by
  rw [Slot.rv_eq, dif_pos hr, Slot.wv, dif_pos hr]
  exact Vector.getElem_set_self hr

theorem Regs.written_vadd (r : Regs) (pg : PReg) (ew : BitVec 2) {d : Reg} (a b : Reg) (hd : d.toNat < 28) :
    r.written (namesOf (.vadd pg ew d a b)) = ⟨[], [(d, r.v.toList.getD d.toNat 0)], []⟩ := by
  show Written.mk [] ((namesOf (.vadd pg ew d a b)).vs.map fun i => (i, r.v.toList.getD i.toNat 0)) [] = _
  rw [namesOf_vadd_vs pg ew a b hd]
  rfl

/-- The slot at the place of the oldest instruction that is not done. -/
def Slot.oldest (b : Behind) (sl : Slot) : Slot :=
  { sl.withRegs b.regs with behind := some { b with regs := sl.regs, old := true, mark := sl.instret } }

/-- A slot that stands in its other stream goes to its oldest instruction. -/
theorem Slot.atOldest_ahead {sl : Slot} {b : Behind} (hb : sl.behind = some b) (ahead : b.old = false) (mark : b.mark = sl.instret) :
    (match sl.atOldest.behind with
      | some b => { sl.atOldest with behind := some { b with mark := sl.instret } }
      | none => sl) = sl.oldest b := by
  have up : sl.catchUp = sl := by rw [Slot.catchUp, hb]; exact if_pos mark.symm
  have at_ : sl.atOldest = { sl.withRegs b.regs with behind := some { b with regs := sl.regs, old := true } } := by
    unfold Slot.atOldest
    simp only [up, hb, ahead, Bool.false_eq_true, if_false, Slot.turnBack, Bool.not_false]
  rw [at_]
  rfl

/-- The oldest instruction, tried at its own place: where it issues, the slot catches up. -/
theorem State.runOldest_issues (s : State) {b : Behind} {pc : BitVec 48} {word : BitVec 32} {n : Names} {later : List Item}
    (hb : s.slot.behind = some b) (ahead : b.old = false) (mark : b.mark = s.slot.instret) (items : b.items = .todo pc word n :: later)
    (issues : issued (s.modSlot (Slot.oldest b))
      (((s.modSlot (Slot.oldest b)).runWord word).modSlotOf s.cur.core s.cur.slot Slot.catchUp) s.cur.core s.cur.slot = true) :
    s.runOldest = ((s.modSlot (Slot.oldest b)).runWord word).modSlotOf s.cur.core s.cur.slot Slot.catchUp := by
  have todo : (s.modSlot (Slot.oldest b)).slot.behind.map Behind.items = some (.todo pc word n :: later) := by
    rw [State.slot_modSlot, ← items]; rfl
  unfold State.runOldest
  extract_lets u
  have start : u = s.modSlot (Slot.oldest b) := s.modSlotOf_congr (Slot.atOldest_ahead hb ahead mark)
  rw [start, todo]
  exact if_pos issues

/-- Once the oldest `vadd` stalls no more, it gives its lanes of the registers at its own place, and the slot is whole again. -/
theorem State.runOldest_vadd (s : State) (pg : PReg) (ew : BitVec 2) {d a b : Reg} (hd : d.toNat < 28) {bh : Behind} {pc : BitVec 48}
    {word : BitVec 32} {later : List Item} {x y : Vec} {sl : Slot} (ready : slotReady s s.cur.core s.cur.slot = true) (calm : s.calm)
    (owed : s.slot.owed = []) (hw : decode word = some (.vadd pg ew d a b)) (hb : s.slot.behind = some bh) (ahead : bh.old = false)
    (mark : bh.mark = s.slot.instret) (free : bh.regs.pfx = none)
    (items : bh.items = .todo pc word (namesOf (.vadd pg ew d a b)) :: later) (done : ∀ e ∈ later, ∃ r l, e = .ran r l)
    (sound : (s.modSlot (Slot.oldest bh)).regError (.vadd pg ew d a b) = none)
    (go : (s.modSlot (Slot.oldest bh)).vready (.vadd pg ew d a b) [(a, widthOf ew), (b, widthOf ew)] [] (some d) = .go x y sl) :
    ∃ r, (∀ k, k < 256 / widthOf ew → lane (widthOf ew) k r =
        if ((s.modSlot (Slot.oldest bh)).slot.rp pg).getLsbD (widthOf ew / 8 * k) then
          (BitVec.ofNat (widthOf ew) (lane (widthOf ew) k x) + BitVec.ofNat (widthOf ew) (lane (widthOf ew) k y)).toNat
        else lane (widthOf ew) k ((s.modSlot (Slot.oldest bh)).slot.rv d.toNat)) ∧
      ∃ (sl' : Slot) (pfx : Option Held), s.runOldest.slot = { sl'.withRegs
        { s.slot.regs.put ((Written.mk [] [(d, r)] []).less later) with pfx := pfx } with behind := none } := by
  obtain ⟨bcur, due, early, flow, bslot, hearly⟩ := (s.modSlot (Slot.oldest bh)).slot_before (.vadd pg ew d a b)
  have slot : (s.modSlot (Slot.oldest bh)).slot = s.slot.oldest bh := s.slot_modSlot _
  have calm' : (s.modSlot (Slot.oldest bh)).calm := ⟨by rw [slot]; exact calm.flights, by rw [slot]; exact calm.early⟩
  have ready' : slotReady (s.modSlot (Slot.oldest bh)) s.cur.core s.cur.slot = true := by
    show ((s.modSlot (Slot.oldest bh)).slot.live && (s.modSlot (Slot.oldest bh)).slot.wait == .none) = true
    rw [slot]; exact ready
  obtain ⟨⟨lq, aq, hsl⟩, -⟩ := takeTwo_frame ((State.vready_go_iff _ _ hd).1 go).2.2
  obtain ⟨r, q, runs, qcur, qslot, lanes⟩ :=
    State.exec_vadd_register _ pg ew hd (State.vready_withOrders bcur bslot (.vadd pg ew d a b) hd go)
  rw [bcur] at qcur qslot
  have noEarly : early = [] := hearly (by rw [slot]; exact calm.early)
  obtain ⟨rcur, f, rslot⟩ := State.runInstr_slot _ q (.vadd pg ew d a b) ready' calm' (by rw [slot]; exact owed) sound runs qcur
    (by rw [qslot]; exact (Slot.wv_early _ _ _).trans noEarly)
  rw [qslot] at rslot
  have word_ : (s.modSlot (Slot.oldest bh)).runWord word = (s.modSlot (Slot.oldest bh)).runInstr (.vadd pg ew d a b) :=
    State.runWord_of_free _ (by rw [slot]; exact free) hw
  -- what the instruction has left at its own place, before the slot catches up
  generalize hX : ({ { (sl.withOrders due early flow).wv d.toNat r with pfx := none }.retire with flow := f } : Slot) = X at rslot
  have behind : X.behind = some { bh with regs := s.slot.regs, old := true, mark := s.slot.instret } := by
    rw [← hX]
    refine (Slot.wv_behind _ _ _).trans ?_
    rw [hsl, slot]
    rfl
  have instret : X.instret = s.slot.instret + 1 := by
    rw [← hX]
    refine congrArg (· + 1) ((Slot.wv_instret _ _ _).trans ?_)
    rw [hsl, slot]
    rfl
  have result : X.regs.v.toList.getD d.toNat 0 = r := by
    rw [← hX]
    exact Slot.rv_wv_same _ hd r
  obtain ⟨pfx, caught⟩ := X.oldDone_ran done { bh with regs := s.slot.regs, old := true, mark := s.slot.instret }
    (namesOf (.vadd pg ew d a b))
  rw [← Slot.catchUp_old behind (by rw [instret]; simp) rfl items, Regs.written_vadd _ pg ew a b hd, result] at caught
  have ended : (((s.modSlot (Slot.oldest bh)).runWord word).modSlotOf s.cur.core s.cur.slot Slot.catchUp).slotOf s.cur.core s.cur.slot =
      X.catchUp := by
    rw [State.slotOf_modSlotOf_self, word_]
    exact congrArg Slot.catchUp rslot
  have issues : issued (s.modSlot (Slot.oldest bh))
      (((s.modSlot (Slot.oldest bh)).runWord word).modSlotOf s.cur.core s.cur.slot Slot.catchUp) s.cur.core s.cur.slot = true := by
    have count : (s.modSlot (Slot.oldest bh)).slot.instret = s.slot.instret := by rw [slot]; rfl
    have more : X.catchUp.instret ≠ (s.modSlot (Slot.oldest bh)).slot.instret := by
      rw [caught, count]
      show X.instret ≠ _
      rw [instret]
      simp
    rw [issued, ended]
    exact Bool.or_eq_true_iff.2 (.inl (bne_iff_ne.2 more))
  refine ⟨r, ?_, X, pfx, ?_⟩
  · rw [hsl] at lanes
    exact lanes
  · rw [s.runOldest_issues hb ahead mark items issues, ← caught, ← ended, word_]
    rw [State.slot, State.modSlotOf_cur, rcur]
    rfl

/-- Settles O34: the checks of the operands one after another, and each stream as the rules about what stands behind have it. -/
theorem vectorOperandsComeFromRegistersAndPorts : Obligations.VectorOperandsComeFromRegistersAndPorts := by
  intro s i a b d w named decl undeclared beyond full read
  refine ⟨?_, ?_⟩
  · have hread (r : Reg) (sl : Slot) : takeSrc sl r w = read r sl := takeSrc_eq sl r w
    have spec := s.vready_two_spec i a b d w
    simp only [hread] at spec
    exact spec
  · intro pg ew rd rs imm word bh ready free flow owed hidden flights early va w here passes
    have calm : s.calm := ⟨flights, early⟩
    refine ⟨fun hw => ⟨fun behind sound stop => ?_, fun behind stalls whole => ?_⟩, ?_, ?_⟩
    · obtain ⟨-, -, -, -, wf⟩ := exists_row_of_decode hw
      have live : s.slot.live = true := (Bool.and_eq_true_iff.1 ready).1
      obtain ⟨r, port, execute⟩ := stalledPort_vadd s wf (s.waits_of_vready_stop live va stop)
      have run : exec va s = .next s := by
        show Host.Outcome.next (s.lanes2 _ _ _ _ _ _ _) = _
        rw [State.lanes2, stop]
      have stalled : s.runWord word = s := by
        rw [s.runWord_of_free free hw]
        exact s.runInstr_plain s va ready calm flow owed sound run hidden early
      show s.runFirst word = _
      rw [s.runFirst_stall ready calm hw (fun _ => rfl) stalled port, s.putBehind_vadd pg ew d a b free, execute]
      rfl
    · show s.runAhead bh word = _
      rw [s.runAhead_vadd pg ew d a b free hw stalls whole, s.putBehind_vadd pg ew d a b free]
    · intro hw behind stalls ahead whole needless sound v
      rw [s.runAhead_addi free hw stalls whole needless, s.runBefore_addi rd rs imm ready calm flow owed hidden sound ahead]
    · intro pc later x y sl u hw hd behind ahead mark free' items done sound go
      obtain ⟨r, lanes, sl', pfx, slot⟩ := s.runOldest_vadd pg ew hd ready calm owed hw behind ahead mark free' items done sound go
      obtain ⟨hpc, hx, hv⟩ := s.slot.regs.put_less_vector hd r later
      refine ⟨r, lanes, ?_, ?_, ?_, fun n => ?_⟩
      · rw [slot]
      · rw [slot]; exact hpc
      · rw [slot]; exact hx
      · rw [slot]; exact hv n

end Sys2Proof.Machine
end

section
/-!
PROOFS. A command of the matrix engine or the copy unit that fails a check (R160, R161, R170, R174).
-/
namespace Sys2Proof.Machine

/-! ### The fault of a job -/

/-- The reports of a fault go onto the network and change nothing else. -/
theorem State.reportFaults_rest (c cls : Nat) (node : Option Task) (cause : Nat) (ts : List (BitVec 32)) (s : State) :
    ∃ net id, ts.foldl (fun s t => s.reportFault c cls node cause t) s = { s with net := net, nextId := id } := by
  induction ts generalizing s with
  | nil => exact ⟨_, _, rfl⟩
  | cons t ts ih =>
    obtain ⟨net, id, e⟩ := ih (s.reportFault c cls node cause t)
    exact ⟨net, id, by rw [List.foldl_cons, e, s.reportFault_eq]⟩

/-- With no word of a node waiting nothing is admitted. -/
theorem State.admitUpTo_none (s : State) (c cls : Nat) (h : (s.classQ c cls).waiting = []) : ∀ n, s.admitUpTo c cls n = s
  | 0 => rfl
  | n + 1 => by rw [State.admitUpTo, h]; rfl

theorem byTurn_cases {cls : Nat} (h : byTurn cls = true) : cls = 1 ∨ cls = 2 := by simpa [byTurn] using h

/-- The head of a class leaves it. -/
def ClassQ.dropped (q : ClassQ) : ClassQ := { q with queue := q.queue.drop 1, hold := none }

theorem State.dropHead_none (s : State) (c cls : Nat) (h : (s.classQ c cls).waiting = []) :
    s.dropHead c cls = s.modClassQ c cls ClassQ.dropped := by
  rw [State.dropHead]
  exact State.admitUpTo_none _ c cls (by rw [State.classQ_modClassQ_self]; exact h) _

/-- A class with an arbiter after a job `j` of it has faulted. -/
def ClassQ.faulted (q : ClassQ) (j : Job) (id : BitVec 16) (cause : Nat) : ClassQ :=
  { q with
    faults := (id, BitVec.ofNat 8 cause) :: q.faults
    jobs := if j.sealed then q.jobs.filter fun k => k.id ≠ id
            else q.jobs.map fun k => if k.id == id then { k with faulted := true, left := 0 } else k
    hold := if (q.queue.head?.map Cmd.job) == some id then none else q.hold }

/-- No job with the faulted id is left that is not marked so. -/
theorem ClassQ.faulted_ended (q : ClassQ) (j : Job) (id : BitVec 16) (cause : Nat) :
    ∀ k ∈ (q.faulted j id cause).jobs, k.id = id → k.faulted = true := by
  intro k hk hid
  have hk : k ∈ if j.sealed then q.jobs.filter fun k => k.id ≠ id
      else q.jobs.map fun k => if k.id == id then { k with faulted := true, left := 0 } else k := hk
  split at hk
  · exact absurd hid (by simpa using (List.mem_filter.1 hk).2)
  · obtain ⟨k', -, rfl⟩ := List.mem_map.1 hk
    by_cases same : k'.id = id
    · rw [if_pos (beq_iff_eq.2 same)]
    · rw [if_neg (by simpa using same)] at hid
      exact absurd hid same

theorem State.aheadOfSweep_ne (s : State) (c : Nat) {cls : Nat} (h : cls ≠ 4) (f : List Cmd → List Cmd) : s.aheadOfSweep c cls f = s :=
  if_neg h

/-- The core of a job that faults: the fault registers and the class. -/
def CoreSt.faulted (co : CoreSt) (cls : Nat) (j : Job) (id : BitVec 16) (cause : Nat) : CoreSt :=
  { co with
    fjob := id, fcause := BitVec.ofNat 8 cause, fclass := BitVec.ofNat 4 cls
    fsticky := co.fsticky ||| BitVec.ofNat 5 (2 ^ (cls - 1))
    jobs := co.jobs.set (clsIx cls) ((co.jobs.get (clsIx cls)).faulted j id cause) }

/-- What the fault of a job of a class with an arbiter leaves: its core, and the reports on the network. -/
theorem State.faultJob_frame (s : State) {c cls : Nat} (id : BitVec 16) (cause : Nat) {j : Job} (turn : byTurn cls = true)
    (waiting : (s.classQ c cls).waiting = []) (found : (s.classQ c cls).jobs.find? (fun j => j.id == id && !j.faulted) = some j) :
    ∃ net n, s.faultJob c cls id cause = { s.modCore c fun co => co.faulted cls j id cause with net := net, nextId := n } := by
  have not4 : cls ≠ 4 := by rcases byTurn_cases turn with rfl | rfl <;> decide
  unfold State.faultJob
  rw [found]
  simp only [State.aheadOfSweep_ne _ _ not4, turn, if_true, State.modClassQ, State.modCore_modCore]
  obtain ⟨net, n, reports⟩ := State.reportFaults_rest c cls j.node cause (j.targets ++ j.carried).dedup
    (s.modCore c fun co => co.faulted cls j id cause)
  have quiet := State.admitUpTo_none { s.modCore c fun co => co.faulted cls j id cause with net := net, nextId := n } c cls (by
    show (((s.modCore c fun co => co.faulted cls j id cause).core c).jobs.get (clsIx cls)).waiting = []
    rw [State.core_modCore_self, CoreSt.faulted, get_set, if_pos rfl]
    exact waiting)
  rw [← reports] at quiet
  exact ⟨net, n, (quiet _).trans reports⟩

/-- The core of a job that has faulted with the command at the head of its class, which has left it. -/
def CoreSt.failed (co : CoreSt) (cls : Nat) (j : Job) (id : BitVec 16) (cause : Nat) : CoreSt :=
  { co.faulted cls j id cause with jobs := co.jobs.set (clsIx cls) ((co.jobs.get (clsIx cls)).faulted j id cause).dropped }

/-- The job of the command at the head of a class with an arbiter faults, and the command leaves. -/
theorem State.failHead_frame (s : State) {c cls : Nat} (m : Cmd) (cause : Nat) {j : Job} (turn : byTurn cls = true)
    (waiting : (s.classQ c cls).waiting = []) (found : (s.classQ c cls).jobs.find? (fun j => j.id == m.job && !j.faulted) = some j) :
    ∃ net n, s.failHead c cls m cause = { s.modCore c fun co => co.failed cls j m.job cause with net := net, nextId := n } := by
  obtain ⟨net, n, fault⟩ := s.faultJob_frame m.job cause turn waiting found
  have waiting' : ((s.faultJob c cls m.job cause).classQ c cls).waiting = [] := by
    rw [fault]
    show (((s.modCore c fun co => co.faulted cls j m.job cause).core c).jobs.get (clsIx cls)).waiting = []
    rw [State.core_modCore_self, CoreSt.faulted, get_set, if_pos rfl]
    exact waiting
  have one (q : ClassQ) (v : Vector ClassQ 5) :
      (v.set (clsIx cls) q).set (clsIx cls) ((v.set (clsIx cls) q).get (clsIx cls)).dropped = v.set (clsIx cls) q.dropped := by
    rw [get_set, if_pos rfl, Vector.set_set]
  have both : (s.modCore c fun co => co.faulted cls j m.job cause).modClassQ c cls ClassQ.dropped =
      s.modCore c fun co => co.failed cls j m.job cause := by
    rw [State.modClassQ, State.modCore_modCore]
    refine congrArg (s.modCore c) (funext fun co => ?_)
    simp only [Function.comp_apply, CoreSt.failed, CoreSt.faulted, one]
  refine ⟨net, n, ?_⟩
  rw [State.failHead, turn, ← both]
  exact (State.dropHead_none _ c cls waiting').trans (by rw [fault]; rfl)

/-- Where a state has the cores, the memory and the writes under way of `s`, the fault of the head's job in it is the one stated. -/
theorem jobFaulted_failHead {s u : State} {c cls : Nat} {m : Cmd} {rest : List Cmd} (cause : Nat) {j : Job} (turn : byTurn cls = true)
    (queue : (s.classQ c cls).queue = m :: rest) (waiting : (s.classQ c cls).waiting = []) (job : j ∈ (s.classQ c cls).jobs)
    (id : j.id = m.job) (sound : j.faulted = false) (cores : u.cores = s.cores) (mem : u.mem = s.mem) (lost : u.lost = s.lost)
    (hidden : u.hidden = s.hidden) :
    JobFaulted s (u.failHead c cls m cause) c cls m rest cause ∧ (u.failHead c cls m cause).hidden = s.hidden := by
  have core (d : Nat) : u.core d = s.core d := by rw [State.core, cores]; rfl
  have classQ : u.classQ c cls = s.classQ c cls := by rw [State.classQ, core]; rfl
  have some_ : ((s.classQ c cls).jobs.find? fun j => j.id == m.job && !j.faulted).isSome := by
    rw [List.find?_isSome]
    exact ⟨j, job, by simp [id, sound]⟩
  obtain ⟨j', found⟩ := Option.isSome_iff_exists.1 some_
  obtain ⟨net, n, e⟩ := u.failHead_frame m cause turn (by rw [classQ]; exact waiting) (by rw [classQ]; exact found)
  have here : (u.failHead c cls m cause).core c = (s.core c).failed cls j' m.job cause := by
    rw [e, ← core c]
    exact u.core_modCore_self c fun co => co.failed cls j' m.job cause
  have there (d : Nat) (hd : d ≠ c) : (u.failHead c cls m cause).core d = s.core d := by
    rw [e, ← core d]
    exact (u.core_modCore c d fun co => co.failed cls j' m.job cause).trans (if_neg hd)
  have q : (u.failHead c cls m cause).classQ c cls = ((s.classQ c cls).faulted j' m.job cause).dropped := by
    rw [State.classQ, here, CoreSt.failed, get_set]
    exact if_pos rfl
  refine ⟨⟨by rw [here]; rfl, by rw [here]; rfl, by rw [here]; rfl, by rw [here]; rfl, ?_, by rw [q]; rfl, ?_, ?_, ?_, ?_, fun d k => ?_⟩, ?_⟩
  · rw [q]
    show (s.classQ c cls).queue.drop 1 = rest
    rw [queue]
    rfl
  · rw [q]
    exact ClassQ.faulted_ended _ j' m.job cause
  · rw [e]; exact mem
  · rw [e]; exact lost
  · rw [e]; exact congrArg (List.map Hidden.id) hidden
  · by_cases hd : d = c
    · subst d; rw [State.slotOf, here]; rfl
    · rw [State.slotOf, there d hd]; rfl
  · rw [e]; exact hidden

/-! ### A command taken -/

theorem ClassQ.lives_iff {q : ClassQ} {id : BitVec 16} : q.lives id = true ↔ ∃ j ∈ q.jobs, j.id = id ∧ j.faulted = false := by
  simp only [ClassQ.lives, unfinished, List.any_eq_true, List.mem_filter, Bool.not_eq_true', beq_iff_eq, and_assoc,
    and_comm (a := _ = false)]

/-- A later command of a faulted job is dropped. -/
theorem State.runCmd_dropped (s : State) {c cls : Nat} {m : Cmd} {rest : List Cmd} (turn : byTurn cls = true)
    (queue : (s.classQ c cls).queue = m :: rest) (dead : (s.classQ c cls).lives m.job = false) (check : Cmd → Option Nat)
    (effect : State → Cmd → State) : s.runCmd c cls check effect = s.dropHead c cls := by
  rw [State.runCmd, queue]
  simp only [turn, dead, Bool.not_false, Bool.and_self, if_true]

/-- A command that fails a check fails its job. -/
theorem State.runCmd_failed (s : State) {c cls : Nat} {m : Cmd} {rest : List Cmd} {cause : Nat}
    (queue : (s.classQ c cls).queue = m :: rest) (live : (s.classQ c cls).lives m.job = true) {check : Cmd → Option Nat}
    (fails : commonCheck s c m.word = some cause ∨ (commonCheck s c m.word = none ∧ check m = some cause)) (effect : State → Cmd → State) :
    s.runCmd c cls check effect = s.failHead c cls m cause := by
  have first : ((commonCheck s c m.word).orElse fun _ => check m) = some cause := by
    rcases fails with h | ⟨h, h'⟩
    · rw [h]; rfl
    · rw [h]; exact h'
  rw [State.runCmd, queue]
  simp only [live, Bool.not_true, Bool.and_false, Bool.false_eq_true, if_false, first]

/-- A command that passes its checks has its effect, which is its job's. -/
theorem State.runCmd_runs (s : State) {c cls : Nat} {m : Cmd} {rest : List Cmd} (queue : (s.classQ c cls).queue = m :: rest)
    (live : (s.classQ c cls).lives m.job = true) {check : Cmd → Option Nat} (common : commonCheck s c m.word = none)
    (own : check m = none) (effect : State → Cmd → State) :
    s.runCmd c cls check effect = (effect s m).ofJob s c cls m.job := by
  have passes : ((commonCheck s c m.word).orElse fun _ => check m) = none := by rw [common]; exact own
  rw [State.runCmd, queue]
  simp only [live, Bool.not_true, Bool.and_false, Bool.false_eq_true, if_false, passes]

/-- What a job has read and written is noted on the writes under way, of which none is added or lost. -/
theorem JobFaulted.ofJob {s t : State} {c cls : Nat} {m : Cmd} {rest : List Cmd} {cause : Nat} (h : JobFaulted s t c cls m rest cause)
    (v : State) (id : BitVec 16) : JobFaulted s (t.ofJob v c cls id) c cls m rest cause where
  job := h.job
  why := h.why
  ofClass := h.ofClass
  sticky := h.sticky
  queue := h.queue
  faults := h.faults
  ended := h.ended
  mem := h.mem
  lost := h.lost
  hidden := by
    rw [← h.hidden, State.ofJob, List.map_map]
    refine List.map_congr_left fun g _ => ?_
    simp only [Function.comp_apply]
    split <;> split <;> rfl
  slots := h.slots

/-! ### The unit that takes it -/

/-- The row of the opcode table that takes a command of the matrix engine (Table 2-13). -/
theorem State.matUnit_takes (s : State) {cl r : Nat} {a : Arb} {m : Cmd} {rest : List Cmd} (pick : matPick s cl = some (r, a)) (hr : r < 8)
    (queue : (s.classQ (cl * 8 + r) 1).queue = m :: rest) {takes : Nat → Bool} (taken : takes (cmdOpcode m.word) = true)
    (check : Cmd → Option Nat) (effect : State → Nat → Cmd → State) :
    s.matUnit cl takes check effect = if (s.classQ (cl * 8 + r) 1).due then s
      else (s.modCluster cl fun q => { q with matArb := a }).runCmd (cl * 8 + r) 1 check fun s m => effect s (cl * 8 + r) m := by
  have op : headOp s (cl * 8 + r) 1 = some (cmdOpcode m.word) := by rw [headOp, queue]; rfl
  simp only [State.matUnit, pick, hr, if_true, op, taken, Bool.true_and]
  cases (s.classQ (cl * 8 + r) 1).due <;> rfl

theorem State.copyUnit_takes (s : State) {cl r : Nat} {a : Arb} {m : Cmd} {rest : List Cmd} (pick : copyPick s cl = some (r, a))
    (queue : (s.classQ (cl * 8 + r) 2).queue = m :: rest) {takes : Nat → Bool} (taken : takes (cmdOpcode m.word) = true) :
    s.copyUnit cl takes = if (s.classQ (cl * 8 + r) 2).due then s
      else (s.modCluster cl fun q => { q with copyArb := a }).runCmd (cl * 8 + r) 2 copyCheck fun s m => s.copyCmd (cl * 8 + r) m := by
  have op : headOp s (cl * 8 + r) 2 = some (cmdOpcode m.word) := by rw [headOp, queue]; rfl
  simp only [State.copyUnit, pick, op, taken, Bool.true_and]
  cases (s.classQ (cl * 8 + r) 2).due <;> rfl

/-! ### The plan of a copy -/

/-- A change of a cluster that keeps its TLB changes nothing that a range of a copy resolves to. -/
theorem copyRes_modCluster (s : State) (cl : Nat) {f : ClusterSt → ClusterSt} (h : ∀ q, (f q).l2tlb = q.l2tlb) (c : Nat) :
    copyRes (s.modCluster cl f) c = copyRes s c := by
  have tlb (d : Nat) : ((s.modCluster cl f).cluster d).l2tlb = (s.cluster d).l2tlb := by
    rw [State.cluster, State.modCluster, AMap.getD_put]
    split
    · subst d; exact h _
    · rfl
  funext a va n
  have res := resolve_of_leafFor (copyView s c) (copyView s c).cores (s.modCluster cl f).clusters c a fun pn => by
    show State.leafFor { copyView s c with clusters := (s.modCluster cl f).clusters } c (a == Acc.fetch) pn = _
    have t : ({ copyView s c with clusters := (s.modCluster cl f).clusters }.cluster (clusterOf c)).l2tlb =
      ((copyView s c).cluster (clusterOf c)).l2tlb := tlb (clusterOf c)
    rw [State.leafFor, State.leafFor, t]
    rfl
  rw [copyRes, copyRes]
  split
  · rfl
  · exact res va.toNat n

theorem State.readByte_modCluster (s : State) (cl : Nat) (f : ClusterSt → ClusterSt) (ag : Agent) :
    (s.modCluster cl f).readByte ag = s.readByte ag := State.readByte_of_rest rfl ag

/-- A change of a cluster that keeps its TLB changes no plan of a copy. -/
theorem copyPlan_modCluster (s : State) (cl : Nat) {f : ClusterSt → ClusterSt} (h : ∀ q, (f q).l2tlb = q.l2tlb) (c : Nat) (w : Vec) :
    copyPlan (s.modCluster cl f) c w = copyPlan s c w := by
  have res := copyRes_modCluster s cl h c
  have out : copyOut (s.modCluster cl f) c = copyOut s c := by funext a va n; rw [copyOut, res]; rfl
  have fault : copyFault (s.modCluster cl f) c = copyFault s c := by funext a va n; rw [copyFault, res]; rfl
  have keys : copyKeys (s.modCluster cl f) c = copyKeys s c := by funext a va n; rw [copyKeys, res]; rfl
  have bytes (ag : Agent) (ks : List (Option Nat)) : (s.modCluster cl f).readRes ag ks = s.readRes ag ks := by
    rw [State.readRes, s.readByte_modCluster]; rfl
  have offs : listOffs (s.modCluster cl f) c = listOffs s c := by funext a; simp only [listOffs, keys, bytes]; rfl
  have data : planData (s.modCluster cl f) c = planData s c := by funext ms; simp only [planData, keys]; rfl
  have elem : elemPlan (s.modCluster cl f) c = elemPlan s c := by funext es mv; simp only [elemPlan, out, fault]
  have elems : planElems (s.modCluster cl f) c = planElems s c := by funext es ms; simp only [planElems, elem, data]
  have moves : planMoves (s.modCluster cl f) c = planMoves s c := by funext ms; simp only [planMoves, out, fault, data]
  simp only [copyPlan, out, fault, keys, offs, elems, moves]
  rfl

/-- The pages of a copy that are looked up change neither a core nor memory. -/
theorem State.touchL2_frame (s : State) (c pn : Nat) : { s.touchL2 c pn with clusters := s.clusters, hot := s.hot } = s := by
  unfold State.touchL2
  split
  · rfl
  · split
    · rfl
    · dsimp only
      split <;> rfl

theorem State.touchL2s_frame (c : Nat) (pns : List Nat) (s : State) :
    { pns.foldl (fun s pn => s.touchL2 c pn) s with clusters := s.clusters, hot := s.hot } = s := by
  induction pns generalizing s with
  | nil => rfl
  | cons pn pns ih =>
    rw [List.foldl_cons]
    have last := s.touchL2_frame c pn
    have rest := ih (s.touchL2 c pn)
    generalize List.foldl _ (s.touchL2 c pn) pns = u at rest ⊢
    generalize s.touchL2 c pn = t at rest last
    rw [← last, ← rest]

/-- A copy whose plan is a fault fails its job, in a state with the cores and the memory of before. -/
theorem State.copyCmd_fault (s : State) (c : Nat) (m : Cmd) {cause : Nat} (h : (copyPlan s c m.word).1 = .fault cause) :
    ∃ u : State, u.cores = s.cores ∧ u.mem = s.mem ∧ u.lost = s.lost ∧ u.hidden = s.hidden ∧ s.copyCmd c m = u.failHead c 2 m cause := by
  have rest := State.touchL2s_frame c (copyPlan s c m.word).2.dedup s
  refine ⟨(copyPlan s c m.word).2.dedup.foldl (fun s pn => s.touchL2 c pn) s, ?_, ?_, ?_, ?_, ?_⟩
  · have e := congrArg State.cores rest; exact e
  · have e := congrArg State.mem rest; exact e
  · have e := congrArg State.lost rest; exact e
  · have e := congrArg State.hidden rest; exact e
  · simp only [State.copyCmd, h]

/-- A copy but `cpyg` with a range that lies in no one plain window: ACCESS (R170). -/
theorem copyPlan_moves_out (s : State) (c : Nat) (w : Vec) (op : cmdOpcode w ≠ 0x21)
    (h : ∃ mv ∈ copyMoves (copyArgs w) [], copyOut s c .load mv.src mv.n = true ∨ copyOut s c .store mv.dst mv.n = true) :
    (copyPlan s c w).1 = .fault 0x07 := by
  have bad : ((copyMoves (copyArgs w) []).any fun mv => copyOut s c .load mv.src mv.n || copyOut s c .store mv.dst mv.n) = true := by
    obtain ⟨mv, hm, out⟩ := h
    exact List.any_eq_true.2 ⟨mv, hm, Bool.or_eq_true_iff.2 out⟩
  have other : (copyArgs w).op ≠ 0x21 := op
  simp only [copyPlan, if_neg other, planMoves, bad, if_true]

/-- A `cpyg` whose destination or list lies so: ACCESS (R170). -/
theorem copyPlan_list_out (s : State) (c : Nat) (w : Vec) (op : cmdOpcode w = 0x21)
    (h : copyOut s c .store (copyArgs w).dst ((copyArgs w).n * (copyArgs w).es) = true ∨
      copyOut s c .load (copyArgs w).ilist (4 * (copyArgs w).n) = true) : (copyPlan s c w).1 = .fault 0x07 := by
  have this : (copyArgs w).op = 0x21 := op
  simp only [copyPlan, if_pos this, Bool.or_eq_true_iff.2 h, if_true]

theorem copyOut_of_keys {s : State} {c : Nat} {a : Acc} {va : Int} {n : Nat} (h : ∃ ks, copyRes s c a va n = .keys ks) :
    copyOut s c a va n = false := by
  obtain ⟨ks, e⟩ := h
  rw [copyOut, e]

theorem copyFault_of_keys {s : State} {c : Nat} {a : Acc} {va : Int} {n : Nat} (h : ∃ ks, copyRes s c a va n = .keys ks) :
    copyFault s c a va n = none := by
  obtain ⟨ks, e⟩ := h
  rw [copyFault, e]

/-- A `cpyg` whose list and destination are permitted and whose list is read comes to its source elements (R174). -/
theorem copyPlan_elems (s : State) (c : Nat) (w : Vec) (op : cmdOpcode w = 0x21)
    (list : ∃ ks, copyRes s c .load (copyArgs w).ilist (4 * (copyArgs w).n) = .keys ks)
    (dest : ∃ ks, copyRes s c .store (copyArgs w).dst ((copyArgs w).n * (copyArgs w).es) = .keys ks)
    (free : firstInterlock s c (copyArgs w).ilist (4 * (copyArgs w).n) = none)
    (sound : s.badRead (classAgent s c 2) (realKeys (copyKeys s c .load (copyArgs w).ilist (4 * (copyArgs w).n))) = none) :
    (copyPlan s c w).1 = (planElems s c (copyArgs w).es (copyMoves (copyArgs w) (listOffs s c (copyArgs w)))).1 := by
  have this : (copyArgs w).op = 0x21 := op
  simp only [copyPlan, if_pos this, copyOut_of_keys list, copyOut_of_keys dest, copyFault_of_keys list, copyFault_of_keys dest, free, sound,
    Bool.or_self, Bool.false_eq_true, if_false, Option.isSome_none]

/-- Where no error that an agent meets stands, none is met among the bytes that it reads. -/
theorem badRead_of_not_meets {s : State} {ag : Agent} {keys : List Nat} (h : ¬MeetsError s ag (· ∈ keys) fun _ _ => False) :
    s.badRead ag keys = none := by
  refine List.find?_eq_none.2 fun b hb bad => h ⟨b, hb, ?_⟩
  obtain ⟨mine, some_⟩ := Bool.and_eq_true_iff.1 bad
  obtain ⟨k, hk, has⟩ := List.any_eq_true.1 some_
  exact ⟨mine, .inl ⟨k, hk, by simpa using has⟩⟩

/-- The first entry of a list at which a function has a value gives it. -/
theorem findSome?_of_first {α β : Type} {f : α → Option β} {b : β} : ∀ {l : List α} {x : Nat} (hx : x < l.length),
    f l[x] = some b → (∀ y (hy : y < x), f (l[y]'(hy.trans hx)) = none) → l.findSome? f = some b
  | a :: l, 0, _, h, _ => by
    have h : f a = some b := h
    rw [List.findSome?_cons, h]
  | a :: l, x + 1, hx, h, before => by
    have first : f a = none := before 0 (Nat.succ_pos x)
    rw [List.findSome?_cons, first]
    exact findSome?_of_first (Nat.lt_of_succ_lt_succ hx) h fun y hy => before (y + 1) (Nat.succ_lt_succ hy)

theorem listOffs_length (s : State) (c : Nat) (a : CopyArgs) : (listOffs s c a).length = a.n := by simp [listOffs]

/-- The source elements of `cpyg`. -/
theorem copyMoves_cpyg {a : CopyArgs} (op : a.op = 0x21) (offs : List Nat) : copyMoves a offs =
    offs.zipIdx.map fun o => ⟨a.src + (o.1 : Int), a.dst + ((o.2 * a.es : Nat) : Int), a.es⟩ := by
  rw [copyMoves, if_neg (by rw [op]; decide), if_neg (by rw [op]; decide), if_pos op]

/-- The first source element of `cpyg` that fails gives its plan (R174). -/
theorem planElems_first (s : State) (c : Nat) (a : CopyArgs) (op : a.op = 0x21) {x : Nat} (hx : x < a.n) {p : Plan} {elem : Nat → Int}
    (helem : ∀ y, elem y = a.src +
      (natOfBytes (s.readRes (classAgent s c 2) (copyKeys s c .load ((a.ilist + 4 * y : Nat) : Int) 4)) : Int))
    (here : ∀ dst, elemPlan s c a.es ⟨elem x, dst, a.es⟩ = some p)
    (before : ∀ y, y < x → ∀ dst, elemPlan s c a.es ⟨elem y, dst, a.es⟩ = none) :
    (planElems s c a.es (copyMoves a (listOffs s c a))).1 = p := by
  have len : (copyMoves a (listOffs s c a)).length = a.n := by rw [copyMoves_cpyg op]; simp [listOffs_length]
  have at_ (y : Nat) (hy : y < (copyMoves a (listOffs s c a)).length) :
      (copyMoves a (listOffs s c a))[y] = ⟨elem y, a.dst + ((y * a.es : Nat) : Int), a.es⟩ := by
    rw [helem]
    simp only [copyMoves_cpyg op, listOffs, List.getElem_map, List.getElem_zipIdx, List.getElem_range, Nat.zero_add]
  have found : (copyMoves a (listOffs s c a)).findSome? (elemPlan s c a.es) = some p :=
    findSome?_of_first (len.symm ▸ hx) (by rw [at_]; exact here _) fun y hy => by rw [at_]; exact before y hy _
  rw [planElems, found]

/-- The row of a command of the matrix engine, with its own checks (Table 2-13). -/
theorem exec_matrix_row (s : State) (cl op : Nat) : ∃ takes effect, takes op = true ∧
    exec (if op = 0x11 then .mldt cl else if op = 0x12 then .mst cl else if op = 0x13 then .mma cl
      else if op = 0x14 then .mzero cl else if op = 0x15 then .maccSt cl else .mld cl) s =
    .next (s.matUnit cl takes (if op = 0x13 then mmaCheck else if op = 0x14 then mzeroCheck else if op = 0x15 then accCheck else memCheck)
      effect) := by
  by_cases h1 : op = 0x11
  · subst h1; exact ⟨(· == 0x11), State.matLoad, rfl, rfl⟩
  by_cases h2 : op = 0x12
  · subst h2; exact ⟨(· == 0x12), State.matStore, rfl, rfl⟩
  by_cases h3 : op = 0x13
  · subst h3; exact ⟨(· == 0x13), State.mma, rfl, rfl⟩
  by_cases h4 : op = 0x14
  · subst h4; exact ⟨(· == 0x14), fun s c m => s.mzero c m, rfl, rfl⟩
  by_cases h5 : op = 0x15
  · subst h5; exact ⟨(· == 0x15), State.maccSt, rfl, rfl⟩
  rw [if_neg h1, if_neg h2, if_neg h3, if_neg h4, if_neg h5, if_neg h3, if_neg h4, if_neg h5]
  exact ⟨fun op => !(op ∈ [0x11, 0x12, 0x13, 0x14, 0x15]), State.matLoad, by simp [h1, h2, h3, h4, h5], rfl⟩

/-- The row of a command of the copy unit (Table 2-13). -/
theorem exec_copy_row (s : State) (cl op : Nat) : ∃ takes : Nat → Bool, takes op = true ∧
    exec (if op = 0x21 then .cpyg cl else if op = 0x22 then .cpys cl else if op = 0x23 then .cpyt cl else .cpy cl) s =
      .next (s.copyUnit cl takes) := by
  by_cases h1 : op = 0x21
  · subst h1; exact ⟨(· == 0x21), rfl, rfl⟩
  by_cases h2 : op = 0x22
  · subst h2; exact ⟨(· == 0x22), rfl, rfl⟩
  by_cases h3 : op = 0x23
  · subst h3; exact ⟨(· == 0x23), rfl, rfl⟩
  rw [if_neg h1, if_neg h2, if_neg h3]
  exact ⟨fun op => !(op ∈ [0x21, 0x22, 0x23]), by simp [h1, h2, h3], rfl⟩

/-- The checks of a command of a class with an arbiter that are its own (Table 9-5). -/
def ownCheck (cls : Nat) (m : Cmd) : Option Nat :=
  if cls = 2 then copyCheck m else if cmdOpcode m.word = 0x13 then mmaCheck m
  else if cmdOpcode m.word = 0x14 then mzeroCheck m else if cmdOpcode m.word = 0x15 then accCheck m else memCheck m

/-- A command of a class with an arbiter, in its turn at its unit. -/
structure EngineTakes (s : State) (cl cls r : Nat) (a : Arb) (m : Cmd) (rest : List Cmd) (i : Instr) : Prop where
  row : (cls = 1 ∧ matPick s cl = some (r, a) ∧ r < 8 ∧
      i = (if cmdOpcode m.word = 0x11 then Instr.mldt cl else if cmdOpcode m.word = 0x12 then .mst cl
        else if cmdOpcode m.word = 0x13 then .mma cl else if cmdOpcode m.word = 0x14 then .mzero cl
        else if cmdOpcode m.word = 0x15 then .maccSt cl else .mld cl)) ∨
    (cls = 2 ∧ copyPick s cl = some (r, a) ∧
      i = (if cmdOpcode m.word = 0x21 then Instr.cpyg cl else if cmdOpcode m.word = 0x22 then .cpys cl
        else if cmdOpcode m.word = 0x23 then .cpyt cl else .cpy cl))
  queue : (s.classQ (cl * 8 + r) cls).queue = m :: rest

/-- The unit waits for a job that is to complete, and otherwise runs the command with its checks, its arbiter moved on. -/
theorem EngineTakes.runs {s : State} {cl cls r : Nat} {a : Arb} {m : Cmd} {rest : List Cmd} {i : Instr}
    (h : EngineTakes s cl cls r a m rest i) :
    byTurn cls = true ∧ ∃ (f : ClusterSt → ClusterSt) (check : Cmd → Option Nat) (effect : State → Cmd → State),
      (∀ q, (f q).l2tlb = q.l2tlb) ∧ check m = ownCheck cls m ∧ (cls = 2 → effect = fun s m => s.copyCmd (cl * 8 + r) m) ∧
      exec i s = .next (if (s.classQ (cl * 8 + r) cls).due then s else (s.modCluster cl f).runCmd (cl * 8 + r) cls check effect) := by
  obtain ⟨⟨rfl, pick, hr, rfl⟩ | ⟨rfl, pick, rfl⟩, queue⟩ := h
  · obtain ⟨takes, effect, taken, row⟩ := exec_matrix_row s cl (cmdOpcode m.word)
    refine ⟨rfl, fun q => { q with matArb := a }, _, _, fun _ => rfl, ?_, fun h => absurd h (by decide),
      row.trans (congrArg _ (s.matUnit_takes pick hr queue taken _ effect))⟩
    rw [ownCheck, if_neg (by decide : ¬(1 : Nat) = 2)]
    simp only [ite_apply]
  · obtain ⟨takes, taken, row⟩ := exec_copy_row s cl (cmdOpcode m.word)
    exact ⟨rfl, fun q => { q with copyArb := a }, _, _, fun _ => rfl, rfl, fun _ => rfl,
      row.trans (congrArg _ (s.copyUnit_takes pick queue taken))⟩

/-- Settles O45: the command is dropped or fails its job, by what the checks and the plan of the copy give. -/
theorem failedCommandsFaultTheirJobs : Obligations.FailedCommandsFaultTheirJobs := by
  intro s cl cls cause r a m rest j i c op q check faults v out permitted list elem row queue waiting
  obtain ⟨turn, f, own, effect, keeps, hown, copies, run⟩ := EngineTakes.runs ⟨row, queue⟩
  refine ⟨fun due => ?_, fun due dead => ?_, fun due job id sound => ?_⟩
  · rw [run, if_pos due]
  · have notLive : q.lives m.job = false := by
      refine Bool.eq_false_iff.2 fun h => ?_
      obtain ⟨k, hk, hid, hs⟩ := ClassQ.lives_iff.1 h
      rw [dead k hk hid] at hs
      exact Bool.noConfusion hs
    have dropped : (s.modCluster cl f).runCmd c cls own effect = (s.modCluster cl f).modClassQ c cls ClassQ.dropped := by
      rw [(s.modCluster cl f).runCmd_dropped turn queue notLive]
      exact State.dropHead_none _ c cls waiting
    refine ⟨_, run, ?_⟩
    rw [if_neg (by rw [due]; decide), dropped]
    refine ⟨?_, rfl, rfl, rfl, rfl, rfl, ((s.modCluster cl f).onlyClassQ_modClassQ c cls ClassQ.dropped).slotOf⟩
    rw [State.classQ_modClassQ_self]
    show { q with queue := q.queue.drop 1, hold := none } = _
    rw [queue]
    rfl
  · have live : q.lives m.job = true := ClassQ.lives_iff.2 ⟨j, job, id, sound⟩
    have run : exec i s = .next ((s.modCluster cl f).runCmd c cls own effect) := by rw [run, if_neg (by rw [due]; decide)]
    refine ⟨fun fails => ?_, fun h2 common own_ => ?_⟩
    · have failed := (s.modCluster cl f).runCmd_failed queue live (check := own) (cause := cause) (by rw [hown]; exact fails) effect
      obtain ⟨jf, hidden⟩ := jobFaulted_failHead (u := s.modCluster cl f) cause turn queue waiting job id sound rfl rfl rfl rfl
      exact ⟨_, run, by rw [failed]; exact jf, by rw [failed]; exact hidden⟩
    · subst h2
      have passed := (s.modCluster cl f).runCmd_runs queue live (check := own) common (by rw [hown]; exact own_) effect
      have fault (cause : Nat) (plan : (copyPlan s c m.word).1 = .fault cause) : faults cause := by
        obtain ⟨u, cores, mem, lost, hidden, cmd⟩ := (s.modCluster cl f).copyCmd_fault c m (by rw [copyPlan_modCluster s cl keeps]; exact plan)
        obtain ⟨jf, -⟩ := jobFaulted_failHead cause turn queue waiting job id sound cores mem lost hidden
        have cmd : effect (s.modCluster cl f) m = u.failHead c 2 m cause := by rw [copies rfl]; exact cmd
        refine ⟨_, run, ?_⟩
        rw [passed, cmd]
        exact jf.ofJob _ _
      refine ⟨fun hop h => fault _ (copyPlan_moves_out s c m.word hop h), fun hop h => fault _ (copyPlan_list_out s c m.word hop h),
        fun hop hlist hdest free sound x hx before => ?_⟩
      have elems := copyPlan_elems s c m.word hop hlist hdest free (badRead_of_not_meets sound)
      have passes (y : Nat) (hy : y < x) (dst : Int) : elemPlan s c v.es ⟨elem y, dst, v.es⟩ = none := by
        obtain ⟨aligned, ok⟩ := before y hy
        rw [elemPlan, if_neg (not_not.2 aligned), copyOut_of_keys ok, copyFault_of_keys ok]
        rfl
      have first (p : Plan) (here : ∀ dst, elemPlan s c v.es ⟨elem x, dst, v.es⟩ = some p) : (copyPlan s c m.word).1 = p :=
        elems.trans (planElems_first s c v hop hx (fun _ => rfl) here passes)
      refine ⟨fun misaligned => fault _ (first _ fun dst => ?_), fun aligned outside => fault _ (first _ fun dst => ?_)⟩
      · rw [elemPlan, if_pos misaligned]
      · rw [elemPlan, if_neg (not_not.2 aligned), if_pos outside]

end Sys2Proof.Machine
end

section
/-!
PROOFS. A launch whose status address lies beyond the host's 64-bit addresses: the key of its status is the key of a byte of TCM, so
that the status of a launch that succeeds stands over a byte of the section loaded there.
-/
namespace Sys2Proof.Machine

/-- An image with one section, of one byte 0xFF at TCM address 0. -/
def oneByteImage : List Byte :=
  List.replicate 32 0 ++ bytesOf 4 40 ++ bytesOf 4 1 ++ [1, 0, 0, 0] ++ bytesOf 4 0 ++ bytesOf 4 1 ++ bytesOf 4 56 ++ [0xFF]

/-- Its section. -/
def oneByteSection : Section := ⟨1, 0, 0, 1, 56⟩

theorem sections_oneByteImage : sections oneByteImage = [oneByteSection] := by rfl

/-- A launch of that image on core 1 alone, whose status is at the host address 10 · 2^64: the key of that is the key of TCM address 0 of
core 1. -/
def farLaunch : Loading := ⟨⟨0, 0x100000000, 57, 0, 10 * 2 ^ 64, false⟩, oneByteImage, [1], [1]⟩

theorem farLaunch_statusKey : Place.host.key farLaunch.req.statusAddr = (Place.tcm 1).key 0 := by rfl

/-- The state in which core 1 is held for that launch, with nothing else going on. -/
def farState : State :=
  { State.reset with cores := [(1, { CoreSt.reset with loadHold := some 0 })], loads := [(0, farLaunch)] }

/-- Any partition: the clause about the loading of a core does not speak of it. -/
def farPartition : PartSt :=
  { fields := [], cap := 0, guarded := false, watchdog := 0, routes := [], endpoints := [], askFaults := false, test := false
    signed := false, pages := .new 0, images := [], out := false }

/-- Refutes O55: where the status address of a launch is 10 · 2^64, the loading of core 1, which is its last, is to leave 0xFF at TCM
address 0 and the status 0 at the very same key. -/
theorem not_launchesAreCheckedThenLoadCoreByCore : ¬ Obligations.LaunchesAreCheckedThenLoadCoreByCore := by
  intro h
  obtain ⟨-, -, load⟩ := h farState farLaunch.req farPartition [] 1 0 farLaunch
  obtain ⟨t, -, -, bytes, -, last⟩ := load rfl rfl (by decide) (by decide) (fun _ => rfl) (fun y hy => absurd hy List.not_mem_nil)
  have loaded : t.byte ((Place.tcm 1).key 0) = 0xFF := by
    have only (y : Section) (hy : y ∈ sections farLaunch.image) : y = oneByteSection :=
      List.mem_singleton.1 (sections_oneByteImage ▸ hy)
    exact bytes oneByteSection (sections_oneByteImage ▸ List.mem_singleton_self _) (.inl rfl) 0 (by decide) (by decide) (.inr (by decide))
      fun y hy _ _ _ => only y hy
  obtain ⟨-, status, -⟩ := last (by decide) (by decide)
  have written : t.byte (Place.host.key farLaunch.req.statusAddr) = 0 := by
    have low : (t.byte (Place.host.key farLaunch.req.statusAddr)).toNat + 256 * natOfBytes ((List.range' 1 3).map fun n =>
        t.byte (Place.host.key (farLaunch.req.statusAddr + n))) = 0 := status
    exact BitVec.eq_of_toNat_eq (by simpa using (Nat.add_eq_zero_iff.1 low).1)
  rw [farLaunch_statusKey, loaded] at written
  exact absurd written (by decide)

end Sys2Proof.Machine
end

section
/-!
PROOFS. The fences (R81, R134, R137): what a fence owes, what of it is held back, and what is visible once it is paid.
-/
namespace Sys2Proof.Machine

/-! ### What one slot holds after several changes of it -/

theorem SlotIs.refl (s : State) : SlotIs s s s.slot := ⟨rfl, fun _ _ _ => rfl, fun _ => rfl⟩

/-- What slots and cores hold is read off the cores. -/
theorem SlotIs.of_cores {s t u : State} {sl : Slot} (h : SlotIs s t sl) (same : u.cores = t.cores) : SlotIs s u sl := by
  have core (c : Nat) : u.core c = t.core c := by rw [State.core, State.core, same]
  have slot (c : Nat) (k : Fin 4) : u.slotOf c k = t.slotOf c k := by rw [State.slotOf, State.slotOf, core]
  exact ⟨(slot _ _).trans h.here, fun c k ne => (slot c k).trans (h.slots c k ne), fun c => by rw [core]; exact h.cores c⟩

theorem SlotIs.modSlotOf {s t : State} {sl : Slot} (h : SlotIs s t sl) (f : Slot → Slot) :
    SlotIs s (t.modSlotOf s.cur.core s.cur.slot f) (f sl) where
  here := by rw [State.slotOf_modSlotOf_self, h.here]
  slots c k ne := by
    rw [State.slotOf_modSlotOf, if_neg fun e => ne.elim (· e.1) (· e.2)]
    exact h.slots c k ne
  cores c := by
    have e := congrArg (fun co : CoreSt => { co with slots := (s.core c).slots }) (t.core_modSlotOf s.cur.core c s.cur.slot f)
    exact e.trans (h.cores c)

theorem SlotIs.modSlot {s t : State} {sl : Slot} (h : SlotIs s t sl) (cur : t.cur = s.cur) (f : Slot → Slot) :
    SlotIs s (t.modSlot f) (f sl) := by
  rw [State.modSlot, cur]
  exact h.modSlotOf f

/-! ### What a fence owes -/

theorem Owed.clear_iff (o : Owed) : o.clear = true ↔ o.ids = [] ∧ o.flights = [] ∧ o.msgs = [] := by
  simp only [Owed.clear, Bool.and_eq_true, List.isEmpty_iff, and_assoc]

theorem State.owe_cur (s : State) (o : Owed) : (s.owe o).cur = s.cur := by
  have e := congrArg State.cur (s.owe_rest o)
  exact e

/-- What a fence leaves in its slot: no read that it holds back has come early, and it owes what it has to wait for. -/
theorem State.slotIs_owe (s : State) (o : Owed) : SlotIs s (s.owe o) { s.slot with
    early := if o.later.reads then [] else s.slot.early
    owed := if o.ids = [] ∧ o.flights = [] ∧ o.msgs = [] then s.slot.owed else s.slot.owed ++ [o] } := by
  let u : State := if o.later.reads && !s.slot.early.isEmpty then s.modSlot fun sl => { sl with early := [] } else s
  have cur : u.cur = s.cur := by unfold u; split <;> rfl
  have early : SlotIs s u { s.slot with early := if o.later.reads then [] else s.slot.early } := by
    by_cases r : o.later.reads = true
    · by_cases e : s.slot.early = []
      · have hu : u = s := by simp [u, e]
        have hs : { s.slot with early := if o.later.reads then [] else s.slot.early } = s.slot := by rw [if_pos r, ← e]
        rw [hu, hs]
        exact .refl s
      · have hu : u = s.modSlot fun sl => { sl with early := [] } := by simp [u, r, e]
        rw [hu, if_pos r]
        exact (SlotIs.refl s).modSlot rfl _
    · have hu : u = s := by simp [u, r]
      rw [hu, if_neg r]
      exact .refl s
  show SlotIs s (if o.clear then u else { u.modSlot fun sl => { sl with owed := sl.owed ++ [o] } with nextId := u.nextId + 1 }) _
  by_cases clear : o.clear = true
  · rw [if_pos clear, if_pos (o.clear_iff.1 clear)]
    exact early
  · rw [if_neg clear, if_neg fun h => clear (o.clear_iff.2 h)]
    exact (early.modSlot cur fun sl => { sl with owed := sl.owed ++ [o] }).of_cores rfl

theorem mem_map_filter {α β : Type} (l : List α) (p : α → Bool) (f : α → β) (b : β) :
    b ∈ (l.filter p).map f ↔ ∃ a ∈ l, f a = b ∧ p a = true := by
  rw [List.mem_map]
  exact ⟨fun ⟨a, ha, e⟩ => ⟨a, (List.mem_filter.1 ha).1, e, (List.mem_filter.1 ha).2⟩,
    fun ⟨a, ha, e, hp⟩ => ⟨a, List.mem_filter.2 ⟨ha, hp⟩, e⟩⟩

theorem State.mem_fenceOwed_ids (s : State) (sc : Scope) (reads writes qr qw : Bool) (n : Nat) :
    n ∈ (s.fenceOwed sc reads writes qr qw).ids ↔
      ∃ h ∈ s.hidden, h.id = n ∧ (writes = true ∧ h.writer = s.agent ∨ reads = true ∧ s.agent ∈ h.readers) := by
  rw [State.fenceOwed, List.mem_append, List.mem_ite_nil_right, List.mem_ite_nil_right, State.ownWrites, State.readWrites,
    mem_map_filter, mem_map_filter]
  simp only [beq_iff_eq, List.contains_iff_mem]
  constructor
  · rintro (⟨w, h, hh, e, own⟩ | ⟨r, h, hh, e, read⟩)
    · exact ⟨h, hh, e, .inl ⟨w, own⟩⟩
    · exact ⟨h, hh, e, .inr ⟨r, read⟩⟩
  · rintro ⟨h, hh, e, ⟨w, own⟩ | ⟨r, read⟩⟩
    · exact .inl ⟨w, h, hh, e, own⟩
    · exact .inr ⟨r, h, hh, e, read⟩

theorem State.mem_fenceOwed_msgs (s : State) (sc : Scope) (reads writes qr qw : Bool) (n : Nat) :
    n ∈ (s.fenceOwed sc reads writes qr qw).msgs ↔
      writes = true ∧ ∃ m ∈ s.net, m.id = n ∧ n ∈ s.slot.sent ∧ msgIn s sc m = true := by
  rw [State.fenceOwed, List.mem_ite_nil_right, mem_map_filter]
  simp only [Bool.and_eq_true, List.contains_iff_mem]
  refine and_congr_right fun _ => exists_congr fun m => and_congr_right fun _ => and_congr_right fun e => ?_
  rw [e]

theorem State.mem_fenceOwed_flights (s : State) (sc : Scope) (reads writes qr qw : Bool) (n : Nat) :
    n ∈ (s.fenceOwed sc reads writes qr qw).flights ↔
      ∃ f ∈ s.slot.flights, f.id = n ∧ (f.reads = true ∧ reads = true ∨ f.writes = true ∧ writes = true) := by
  rw [State.fenceOwed, mem_map_filter]
  simp only [Bool.or_eq_true, Bool.and_eq_true]

/-- The fences of an instruction that `exec` makes a fence of this scope and these sets (R81, R134). -/
theorem State.fence_owes (s : State) {i : Instr} {sc : Scope} {reads writes sr sw : Bool}
    (h : exec i s = .next (s.fence sc reads writes sr sw)) :
    if sc == .sys && s.peerOut then exec i s = .next s
    else ∃ (t : State) (o : Owed), exec i s = .next t ∧ { t with cores := s.cores, nextId := s.nextId } = s ∧
      SlotIs s t { s.slot.next with
        early := if sr then [] else s.slot.early
        owed := if o.ids = [] ∧ o.flights = [] ∧ o.msgs = [] then s.slot.owed else s.slot.owed ++ [o] } ∧
      o.view = .within sc s.agent ∧ o.later = ⟨sr, sw, sw, false⟩ ∧ o.sends = s.slot.sends.length ∧
      (∀ n, n ∈ o.ids ↔ ∃ h ∈ s.hidden, h.id = n ∧ (writes = true ∧ h.writer = s.agent ∨ reads = true ∧ s.agent ∈ h.readers)) ∧
      (∀ n, n ∈ o.msgs ↔ writes = true ∧ ∃ m ∈ s.net, m.id = n ∧ n ∈ s.slot.sent ∧ msgIn s sc m = true) ∧
      ∀ n, n ∈ o.flights ↔ ∃ f ∈ s.slot.flights, f.id = n ∧ (f.reads = true ∧ reads = true ∨ f.writes = true ∧ writes = true) := by
  by_cases peer : (sc == .sys && s.peerOut) = true
  · rw [if_pos peer, h, State.fence, if_pos peer]
  · rw [if_neg peer]
    rw [State.fence, if_neg peer] at h
    let o := s.fenceOwed sc reads writes sr sw
    refine ⟨_, o, h, s.owe_rest o, (s.slotIs_owe o).modSlot (s.owe_cur o) Slot.retire, rfl, rfl, rfl,
      s.mem_fenceOwed_ids sc reads writes sr sw, s.mem_fenceOwed_msgs sc reads writes sr sw, s.mem_fenceOwed_flights sc reads writes sr sw⟩

/-! ### What a fence holds back -/

theorem Owed.holds_load (o : Owed) (sl : Slot) (rd rs : Reg) (imm : BitVec 12) : o.holds sl (.ld rd rs imm) = o.later.reads := by
  show (o.later.reads && true || o.later.writes && false || o.later.net && false || o.later.cmds && false) = _
  simp

theorem Owed.holds_store (o : Owed) (sl : Slot) (rt rs : Reg) (imm : BitVec 12) : o.holds sl (.sd rt rs imm) = o.later.writes := by
  show (o.later.reads && false || o.later.writes && true || o.later.net && false || o.later.cmds && false) = _
  simp

theorem Owed.holds_spawn (o : Owed) (sl : Slot) (rd rs rt : Reg) : o.holds sl (.spawn rd rs rt) = o.later.net := by
  show (o.later.reads && false || o.later.writes && false || o.later.net && true || o.later.cmds && false) = _
  simp

theorem Owed.holds_ecall (o : Owed) (sl : Slot) : o.holds sl .ecall = o.later.net := by
  show (o.later.reads && false || o.later.writes && false || o.later.net && true || o.later.cmds && false) = _
  simp

theorem Owed.holds_exit (o : Owed) (sl : Slot) : o.holds sl .exit = (o.later.net && decide (o.sends < sl.sends.length)) := by
  show (o.later.reads && false || o.later.writes && false || o.later.net && decide (o.sends < sl.sends.length) || o.later.cmds && false) = _
  simp

theorem Owed.holds_add (o : Owed) (sl : Slot) (rd rs rt : Reg) : o.holds sl (.add rd rs rt) = false := by
  show (o.later.reads && false || o.later.writes && false || o.later.net && false || o.later.cmds && false) = _
  simp

/-! ### What is visible once a fence is paid -/

/-- The named writes that are still hidden are visible to a view. -/
def AllSeen (hs : List Hidden) (ids : List Nat) (v : View) : Prop := ∀ h ∈ hs, h.id ∈ ids → v ∈ h.seen

/-- A hidden write that is performed to some view was hidden before, and is seen by no fewer. -/
theorem mem_performIds (v : View) (hs : List Hidden) (ids : List Nat) {g : Hidden} (hg : g ∈ performIds v ids hs) :
    ∃ h ∈ hs, h.id = g.id ∧ ∀ w ∈ h.seen, w ∈ g.seen := by
  induction hs generalizing ids with
  | nil => cases hg
  | cons h hs ih =>
    have older (ids : List Nat) (hg : g ∈ performIds v ids hs) : ∃ k ∈ h :: hs, k.id = g.id ∧ ∀ w ∈ k.seen, w ∈ g.seen := by
      obtain ⟨k, hk, e⟩ := ih ids hg
      exact ⟨k, List.mem_cons_of_mem _ hk, e⟩
    rw [performIds] at hg
    split at hg
    · dsimp only at hg
      split at hg
      · exact older _ hg
      · obtain rfl | hg := List.mem_cons.1 hg
        · exact ⟨h, List.mem_cons_self, rfl, fun w hw => List.mem_cons_of_mem _ hw⟩
        · exact older _ hg
    · obtain rfl | hg := List.mem_cons.1 hg
      · exact ⟨g, List.mem_cons_self, rfl, fun _ hw => hw⟩
      · exact older _ hg

theorem AllSeen.performIds {hs : List Hidden} {ids : List Nat} {v : View} (h : AllSeen hs ids v) (w : View) (ns : List Nat) :
    AllSeen (performIds w ns hs) ids v := by
  intro g hg hid
  obtain ⟨k, hk, e, more⟩ := mem_performIds w hs ns hg
  exact more v (h k hk (e ▸ hid))

/-- The named writes that stay hidden become visible to the view. -/
theorem performIds_allSeen (v : View) (hs : List Hidden) (ids : List Nat) : AllSeen (performIds v ids hs) ids v := by
  induction hs generalizing ids with
  | nil => intro g hg; cases hg
  | cons h hs ih =>
    intro g hg hid
    rw [Sys2Proof.Machine.performIds] at hg
    split at hg
    · dsimp only at hg
      have older (hg : g ∈ Sys2Proof.Machine.performIds v (ids ++ h.deps ++ (hs.filter (overlaps h)).map Hidden.id) hs) : v ∈ g.seen :=
        ih _ g hg (List.mem_append_left _ (List.mem_append_left _ hid))
      split at hg
      · exact older hg
      · obtain rfl | hg := List.mem_cons.1 hg
        · exact List.mem_cons_self
        · exact older hg
    · next skip =>
      obtain rfl | hg := List.mem_cons.1 hg
      · exact absurd (List.contains_iff_mem.2 hid) skip
      · exact ih ids g hg hid

theorem State.perform_allSeen (s : State) (ids : List Nat) (v : View) : AllSeen (s.perform ids v).hidden ids v := by
  unfold State.perform
  split
  · next none =>
    rw [List.isEmpty_iff.1 none]
    intro g _ hid
    cases hid
  · exact performIds_allSeen v _ ids

theorem AllSeen.perform {s : State} {ids : List Nat} {v : View} (h : AllSeen s.hidden ids v) (ns : List Nat) (w : View) :
    AllSeen (s.perform ns w).hidden ids v := by
  unfold State.perform
  split
  · exact h
  · dsimp only
    split
    · exact h.performIds w ns
    · exact (h.performIds .all _).performIds w ns

/-- What is paid for fences is visible to the view of each. -/
theorem State.pay_allSeen (s : State) {due : List Owed} {o : Owed} (ho : o ∈ due) : AllSeen (s.pay due).hidden o.ids o.view := by
  have kept (l : List Owed) (s : State) (h : AllSeen s.hidden o.ids o.view) :
      AllSeen (l.foldl (fun s o => s.perform o.ids o.view) s).hidden o.ids o.view := by
    induction l generalizing s with
    | nil => exact h
    | cons p l ih => exact ih _ (h.perform p.ids p.view)
  have paid (l : List Owed) (s : State) (ho : o ∈ l) : AllSeen (l.foldl (fun s o => s.perform o.ids o.view) s).hidden o.ids o.view := by
    induction l generalizing s with
    | nil => cases ho
    | cons p l ih =>
      obtain rfl | ho := List.mem_cons.1 ho
      · exact kept l _ (s.perform_allSeen o.ids o.view)
      · exact ih _ ho
  exact paid due s ho

/-- What the fences that hold back an instruction owe is visible before it. -/
theorem State.before_allSeen (s : State) (i : Instr) {o : Owed} (ho : o ∈ s.slot.owed) (holds : o.holds s.slot i = true) :
    AllSeen (s.before i).hidden o.ids o.view := by
  have due : o ∈ s.dues i := List.mem_filter.2 ⟨ho, holds⟩
  unfold State.before
  rw [if_neg fun h => List.ne_nil_of_mem ho h.2]
  dsimp only
  split
  · exact (s.pay_allSeen due).perform _ _
  · exact s.pay_allSeen due

/-- A fence that holds back an instruction owes nothing once that one runs. -/
theorem State.not_mem_owed_before (s : State) (i : Instr) {o : Owed} (ho : o ∈ s.slot.owed) (holds : o.holds s.slot i = true) :
    o ∉ (s.before i).slot.owed := by
  have due : o ∈ s.dues i := List.mem_filter.2 ⟨ho, holds⟩
  have owed : (s.before i).slot.owed = s.slot.owed.filter fun o => !(s.dues i).contains o := by
    unfold State.before
    rw [if_neg fun h => List.ne_nil_of_mem ho h.2]
    dsimp only
    split
    · rw [State.slot_modSlot, State.slot_perform, s.slot_pay]
    · rw [State.slot_modSlot, s.slot_pay]
  rw [owed, List.mem_filter]
  simp [due]

/-- A fence that waits for a message keeps back what it holds back. -/
theorem State.runInstr_held (s : State) (i : Instr) {o : Owed} (ho : o ∈ s.slot.owed) (holds : o.holds s.slot i = true)
    {sc : Scope} {a : Agent} (view : o.view = .within sc a) (out : ∃ m ∈ s.net, m.id ∈ o.msgs ∧ msgIn s sc m = true)
    (flights : s.slot.flights = []) :
    s.runInstr i = s := by
  obtain ⟨m, hm, hid, hin⟩ := out
  have due : o ∈ s.dues i := List.mem_filter.2 ⟨ho, holds⟩
  have waits : s.payable o = false := by
    unfold State.payable
    rw [Bool.and_eq_false_iff, Bool.not_eq_false', Bool.not_eq_false', List.any_eq_true, List.any_eq_true]
    exact .inr ⟨m, hm, by simp [view, hid, hin]⟩
  have not : (s.dues i).all s.payable = false := List.all_eq_false.2 ⟨o, due, by simp [waits]⟩
  rw [s.runInstr_calm i flights, not, Bool.and_false, if_neg Bool.false_ne_true]

/-! ### Scopes -/

/-- Which agents are in the scope of one is read off the partitions and the site of a field. -/
theorem inScope_of_parts {s t : State} (h : { t with cur := s.cur, cores := s.cores, clusters := s.clusters, hidden := s.hidden } = s)
    (sc : Scope) (a b : Agent) : inScope t sc a b = inScope s sc a b := by
  rw [← h]
  rfl

/-- A write visible to the scope of an agent is visible to each agent of it. -/
theorem sees_of_within {s : State} {h : Hidden} {sc : Scope} {a ag : Agent} (hs : View.within sc a ∈ h.seen)
    (hi : inScope s sc a ag = true) : sees s ag h = true := by
  rw [sees, Bool.or_eq_true]
  exact .inr (List.any_eq_true.2 ⟨_, hs, hi⟩)

theorem State.pay_rest (s : State) (due : List Owed) : { s.pay due with cores := s.cores, hidden := s.hidden } = s := by
  have key (l : List Owed) (s : State) : { l.foldl (fun s o => s.perform o.ids o.view) s with hidden := s.hidden } = s := by
    induction l generalizing s with
    | nil => rfl
    | cons o l ih =>
      have e := congrArg (fun u : State => { u with hidden := s.hidden }) (ih (s.perform o.ids o.view))
      exact e.trans (s.perform_hidden o.ids o.view)
  have e := congrArg (fun u : State => { u with cores := s.cores }) (key due s)
  exact e

theorem State.before_rest (s : State) (i : Instr) : { s.before i with cores := s.cores, hidden := s.hidden } = s := by
  unfold State.before
  split
  · rfl
  · dsimp only
    split
    · have e := congrArg (fun u : State => { u with cores := s.cores, hidden := s.hidden })
        ((s.pay (s.dues i)).perform_hidden (s.slot.flow.address (usesOf i)) (.within .sys (s.pay (s.dues i)).agent))
      exact e.trans (s.pay_rest _)
    · exact s.pay_rest _

/-! ### The fetch path -/

/-- What an instruction fence leaves (R137). -/
theorem State.ifence_frame (s : State) (sc : Scope) : SlotIs s (s.ifence sc) { s.slot.next with fbuf := [] } ∧
    { s.ifence sc with cores := s.cores, hidden := s.hidden } = s := by
  let ids := (s.hidden.filter fun h => sees s s.agent h && inScope s sc s.agent h.writer).map Hidden.id
  let view := View.one (.fetch s.cur.core)
  have same : SlotIs s (s.perform ids view) s.slot := (SlotIs.refl s).of_cores (s.perform_cores _ _)
  have rest := congrArg (fun u : State => { u with cores := s.cores }) (s.perform_hidden ids view)
  exact ⟨same.modSlot (s.perform_cur ids view) fun sl => Slot.retire { sl with fbuf := [] }, rest⟩

/-- What the slot sees of the writes of its scope is visible to the fetch path after an instruction fence. -/
theorem State.ifence_sees (s : State) (sc : Scope) {h g : Hidden} (hh : h ∈ s.hidden) (own : sees s s.agent h = true)
    (within : inScope s sc s.agent h.writer = true) (hg : g ∈ (s.ifence sc).hidden) (hid : g.id = h.id) :
    sees (s.ifence sc) (.fetch s.cur.core) g = true := by
  have named : g.id ∈ (s.hidden.filter fun h => sees s s.agent h && inScope s sc s.agent h.writer).map Hidden.id :=
    (mem_map_filter _ _ _ _).2 ⟨h, hh, hid.symm, by rw [own, within]; rfl⟩
  have seen : View.one (.fetch s.cur.core) ∈ g.seen := s.perform_allSeen _ (.one (.fetch s.cur.core)) g hg named
  rw [sees, Bool.or_eq_true]
  exact .inr (List.any_eq_true.2 ⟨_, seen, beq_self_eq_true _⟩)

/-- The instruction fences (R10, R137), of an instruction that `exec` makes one of this scope. -/
theorem State.ifence_reaches (s : State) {i : Instr} {sc : Scope} (h : exec i s = .next (s.ifence sc)) :
    ∃ t, exec i s = .next t ∧ SlotIs s t { s.slot.next with fbuf := [] } ∧ { t with cores := s.cores, hidden := s.hidden } = s ∧
      ∀ h ∈ s.hidden, sees s s.agent h = true → inScope s sc s.agent h.writer = true →
        ∀ g ∈ t.hidden, g.id = h.id → sees t (.fetch s.cur.core) g = true :=
  ⟨_, h, (s.ifence_frame sc).1, (s.ifence_frame sc).2, fun _ hh own within _ hg hid => s.ifence_sees sc hh own within hg hid⟩

/-- What holds of a fence of the slot before an instruction that it holds back (R134). -/
theorem State.owed_before (s : State) {o : Owed} (ho : o ∈ s.slot.owed) (i : Instr) (holds : o.holds s.slot i = true) :
    (∀ sc, o.view = .within sc s.agent → ∀ h ∈ (s.before i).hidden, h.id ∈ o.ids → ∀ ag, inScope s sc s.agent ag = true →
      sees (s.before i) ag h = true) ∧
    (∀ sc, o.view = .within sc s.agent → (∃ m ∈ s.net, m.id ∈ o.msgs ∧ msgIn s sc m = true) → s.slot.flights = [] →
      s.runInstr i = s) ∧
    o ∉ (s.before i).slot.owed := by
  refine ⟨fun sc view h hh hid ag hin => ?_, fun sc view out flights => s.runInstr_held i ho holds view out flights,
    s.not_mem_owed_before i ho holds⟩
  have seen := s.before_allSeen i ho holds h hh hid
  rw [view] at seen
  have same : inScope (s.before i) sc s.agent ag = inScope s sc s.agent ag := by
    have e := congrArg (fun u : State => { u with cur := s.cur, clusters := s.clusters }) (s.before_rest i)
    exact inScope_of_parts e sc s.agent ag
  exact sees_of_within seen (same.trans hin)

/-- The fences of a slot, what they owe and what waits for them. -/
theorem State.fences_order (s : State) (fm p q : BitVec 4) (rs rd : Reg) (pr pw qr qw : BitVec 1) (code : BitVec 3) :
    (p = 0 ∨ q = 0 → exec (.fence fm p q rs rd) s = .next s.retire) ∧
    (¬(p = 0 ∨ q = 0) → exec (.fence fm p q rs rd) s = .next (s.fence .part (p.getLsbD 3 || p.getLsbD 1)
      (p.getLsbD 2 || p.getLsbD 0) (q.getLsbD 3 || q.getLsbD 1) (q.getLsbD 2 || q.getLsbD 0))) ∧
    exec (.fenceTso rs rd) s = .next (s.fence .part true true true true) ∧
    exec (.fenceS code pr pw qr qw) s = .next (s.fence (scopeOfCode code) (pr == 1) (pw == 1) (qr == 1) (qw == 1)) := by
  have run : exec (.fence fm p q rs rd) s = execFence fm p q rs rd s := rfl
  refine ⟨fun h => ?_, fun h => ?_, rfl, rfl⟩
  · rw [run, execFence, if_pos h]
  · rw [run, execFence, if_neg h]
    simp only [has, Bool.or_comm]

end Sys2Proof.Machine
end

section
/-!
PROOFS. Loads of TCM that retire and read later (R131), and the fences and instruction fences of a slot (O13).
-/
namespace Sys2Proof.Machine

/-! ### A load of TCM -/

/-- An address of a doubleword of TCM. -/
def InTcm (a : Word) : Prop := a.toNat % 8 = 0 ∧ a.toNat + 8 ≤ 0x10000

/-- The keys of a doubleword of a core's TCM. -/
def tcmKeys (c : Nat) (a : Word) : List Nat := span ((Place.tcm c).key a.toNat) 8

theorem InTcm.resolve {a : Word} (h : InTcm a) (s : State) (c : Nat) (acc : Acc) :
    resolve s c acc a.toNat 8 = .keys ((tcmKeys c a).map some) :=
  resolve_tcm s c acc (by decide) h.2

/-- Two doublewords of one TCM share a byte only where they are the same. -/
theorem tcmKeys_meet {c : Nat} {a b : Word} (ha : InTcm a) (hb : InTcm b) : (∃ k ∈ tcmKeys c a, k ∈ tcmKeys c b) ↔ a = b := by
  constructor
  · rintro ⟨k, hk, hk'⟩
    obtain ⟨i, hi, rfl⟩ := List.mem_map.1 hk
    obtain ⟨j, hj, e⟩ := List.mem_map.1 hk'
    rw [List.mem_range] at hi hj
    simp only [Place.key] at e
    obtain ⟨aligned, -⟩ := ha
    obtain ⟨aligned', -⟩ := hb
    exact BitVec.eq_of_toNat_eq (by omega)
  · rintro rfl
    exact ⟨_, List.mem_map.2 ⟨0, by decide, rfl⟩, List.mem_map.2 ⟨0, by decide, rfl⟩⟩

theorem tcmKeys_nodup (c : Nat) (a : Word) : (tcmKeys c a).Nodup :=
  List.nodup_range.map fun _ _ e => Nat.add_left_cancel e

/-- No row pair of a loft lies in TCM. -/
theorem InTcm.noInterlock {a : Word} (h : InTcm a) (s : State) (c : Nat) : firstInterlock s c a.toNat 8 = none := by
  have rows : (span a.toNat 8).filterMap rowPairOf = [] := by
    rw [List.filterMap_eq_nil_iff]
    intro x hx
    obtain ⟨i, hi, rfl⟩ := List.mem_map.1 hx
    rw [List.mem_range] at hi
    obtain ⟨-, le⟩ := h
    rw [rowPairOf, winOf_tcm (by omega)]
  rw [firstInterlock, rows]
  rfl

/-- An access of a doubleword of TCM passes the checks of an access. -/
theorem State.prepare_tcm (s : State) (acc : Acc) {a : Word} (h : InTcm a) :
    s.prepare acc a 8 = .keys s ((tcmKeys s.cur.core a).map some) := by
  obtain ⟨aligned, le⟩ := h
  have win : winOf a.toNat = .tcm a.toNat := winOf_tcm (by omega)
  have noAlias : inAlias a = false := by rw [inAlias, win]
  have pages : pagesOf a.toNat 8 = [] := by rw [pagesOf, win]; rfl
  rw [State.prepare, noAlias, if_neg Bool.false_ne_true, if_neg (not_not_intro aligned), pages]
  simp only [InTcm.resolve ⟨aligned, le⟩, InTcm.noInterlock ⟨aligned, le⟩]
  rfl

theorem State.readBy_hidden (s : State) (ag : Agent) (i : Nat) : { s.readBy ag i with hidden := s.hidden } = s := by
  unfold State.readBy
  split
  · rfl
  · split
    · rfl
    · split
      · exact s.perform_hidden _ _
      · exact s.perform_hidden _ _

theorem State.noteIds_hidden (s : State) (ag : Agent) (ids : List Nat) : { s.noteIds ag ids with hidden := s.hidden } = s := by
  unfold State.noteIds
  induction ids.dedup generalizing s with
  | nil => rfl
  | cons i l ih =>
    rw [List.foldl_cons]
    have e := congrArg (fun u : State => { u with hidden := s.hidden }) (ih (State.readBy { s with
      hidden := s.hidden.map fun (g : Hidden) => if g.id == i then { g with readers := ag :: g.readers } else g } ag i))
    have f := congrArg (fun u : State => { u with hidden := s.hidden }) (State.readBy_hidden { s with
      hidden := s.hidden.map fun (g : Hidden) => if g.id == i then { g with readers := ag :: g.readers } else g } ag i)
    exact e.trans f

/-- That an agent has read some bytes is noted with the hidden writes, and nowhere else. -/
theorem State.noteRead_hidden (s : State) (ag : Agent) (keys : List Nat) : { s.noteRead ag keys with hidden := s.hidden } = s := by
  have e := congrArg (fun u : State => { u with hidden := s.hidden })
    ((s.noteSpan ag keys (returnedIds s ag keys)).noteIds_hidden ag (returnedIds s ag [keys].flatten))
  exact e.trans (s.noteSpan_hidden ag keys _)

theorem natOfBytes_lt (bs : List Byte) : natOfBytes bs < 256 ^ bs.length := by
  induction bs with
  | nil => exact Nat.one_pos
  | cons b bs ih =>
    have hb : b.toNat < 256 := b.isLt
    rw [natOfBytes, List.length_cons, Nat.pow_succ]
    omega

/-- A doubleword is loaded as it stands. -/
theorem extend_eight (v : Nat) : extend true 8 v = BitVec.ofNat 64 v := by
  rw [extend, if_pos rfl, toSigned]
  split
  · exact BitVec.ofInt_natCast 64 v
  · refine BitVec.eq_of_toInt_eq ?_
    rw [← BitVec.ofInt_natCast, BitVec.toInt_ofInt, BitVec.toInt_ofInt]
    exact Int.sub_bmod_right (v : Int) (2 ^ 64)

/-- The value of a doubleword of the TCM of the current slot, as that slot sees it. -/
def State.tcmWord (s : State) (a : Word) : Word := BitVec.ofNat 64 (natOfBytes ((tcmKeys s.cur.core a).map (s.readByte s.agent)))

/-- A load of a doubleword of TCM, where memory holds no error: its value, and that its slot has read it. -/
theorem State.exec_ld_tcm (s : State) (rd rs : Reg) (imm : BitVec 12) (bad : s.bad = []) (h : InTcm (s.rx rs + sext12 imm)) :
    exec (.ld rd rs imm) s =
      .next ((s.noteRead s.agent (tcmKeys s.cur.core (s.rx rs + sext12 imm))).done rd (s.tcmWord (s.rx rs + sext12 imm))) := by
  have run : exec (.ld rd rs imm) s = .next (s.load rd (s.rx rs + sext12 imm) 8 true) := rfl
  have sound (ks : List Nat) : s.badRead s.agent ks = none := by rw [State.badRead, bad]; rfl
  have read : s.readRes s.agent ((tcmKeys s.cur.core (s.rx rs + sext12 imm)).map some) =
      (tcmKeys s.cur.core (s.rx rs + sext12 imm)).map (s.readByte s.agent) := by
    rw [State.readRes, List.map_map]; rfl
  rw [run, State.load, s.prepare_tcm .load h]
  simp only [realKeys_some, sound, read, extend_eight, State.tcmWord]

/-! ### What a load names -/

theorem namesOf_ld (rd rs : Reg) (imm : BitVec 12) :
    namesOf (.ld rd rs imm) = ⟨if rd = 0 then [] else [rd], [], [], [], true, false, false, [], false⟩ := by
  by_cases h : rd = 0
  · subst h; rfl
  · have keep : [rd].filter (· ≠ 0) = [rd] := List.filter_cons_of_pos (by simpa using h)
    rw [if_neg h, ← keep]
    rfl

theorem State.bytesReached_ld (s : State) (rd rs : Reg) (imm : BitVec 12) (h : InTcm (s.rx rs + sext12 imm)) :
    s.bytesReached (.ld rd rs imm) = tcmKeys s.cur.core (s.rx rs + sext12 imm) := by
  have elems : s.elemsReached (.ld rd rs imm) = [match resolve s s.cur.core .load (s.rx rs + sext12 imm).toNat 8 with
    | .keys ks => realKeys ks
    | .alias_ k o => aliasKeys s.cur.core k (o - o % aliasUnit k)
    | _ => []] := rfl
  rw [h.resolve] at elems
  simp only [realKeys_some] at elems
  rw [State.bytesReached, elems, List.flatten_singleton, (tcmKeys_nodup _ _).dedup]

/-- A load of TCM changes its slot, and who has read what of the hidden writes. -/
theorem State.noteRead_done_frame (s : State) (keys : List Nat) (rd : Reg) (v : Word) :
    SlotIs s ((s.noteRead s.agent keys).done rd v) (s.slot.after rd v) ∧
      { (s.noteRead s.agent keys).done rd v with cores := s.cores, hidden := s.hidden } = s := by
  have note := s.noteRead_hidden s.agent keys
  have cores : (s.noteRead s.agent keys).cores = s.cores := by have e := congrArg State.cores note; exact e
  have cur : (s.noteRead s.agent keys).cur = s.cur := by have e := congrArg State.cur note; exact e
  have rest := congrArg (fun u : State => { u with cores := s.cores }) note
  rw [← Slot.wx_retire]
  exact ⟨((SlotIs.refl s).of_cores cores).modSlot cur fun sl => (sl.wx rd v).retire, rest⟩

theorem word_add_one_ne (x : Word) : x + 1 ≠ x := by bv_omega

/-! ### A load that retires and reads later (R131) -/

/-- The load of a slot that is under way from now on. -/
def State.flightOf (s : State) (rd rs : Reg) (imm : BitVec 12) : Flight where
  id := s.nextId
  instr := .ld rd rs imm
  regs := s.slot.regs
  flow := s.slot.flow
  scope := s.slot.amoscope
  names := { namesOf (.ld rd rs imm) with keys := s.bytesReached (.ld rd rs imm) }
  reads := true
  writes := false
  olds := []
  fences := []

/-- A load of TCM of a slot with nothing under way may retire and read later. -/
theorem State.takeOff_ld (s : State) (rd rs : Reg) (imm : BitVec 12) (bad : s.bad = []) (sound : s.slot.bad = [])
    (live : s.slot.live = true) (flights : s.slot.flights = []) (owed : s.slot.owed = []) (pfx : s.slot.pfx = none)
    (behind : s.slot.behind = none) (h : InTcm (s.rx rs + sext12 imm)) :
    s.takeOff (.ld rd rs imm) = some { s.modSlot fun sl => { sl.retire with
      flights := sl.flights ++ [s.flightOf rd rs imm]
      early := sl.early.map fun e => e.mark (s.flightOf rd rs imm).names false true } with nextId := s.nextId + 1 } := by
  let q := (s.noteRead s.agent (tcmKeys s.cur.core (s.rx rs + sext12 imm))).done rd (s.tcmWord (s.rx rs + sext12 imm))
  have runs : stateOf (exec (.ld rd rs imm) s) s = q := by rw [s.exec_ld_tcm rd rs imm bad h]; rfl
  obtain ⟨frame, rest⟩ := s.noteRead_done_frame (tcmKeys s.cur.core (s.rx rs + sext12 imm)) rd (s.tcmWord (s.rx rs + sext12 imm))
  have cur : q.cur = s.cur := by have e := congrArg State.cur rest; exact e
  have slot : q.slot = s.slot.after rd (s.tcmWord (s.rx rs + sext12 imm)) := by rw [State.slot, cur]; exact frame.here
  have lives : q.slot.live = true := by rw [slot]; exact live
  have retires : ¬q.slot.instret = s.slot.instret := by rw [slot]; exact word_add_one_ne _
  have noError : s.regError (.ld rd rs imm) = none := by rw [State.regError, sound]; simp
  have flies : mayFly (.ld rd rs imm) = true := rfl
  have notPlain : isPlain (.ld rd rs imm) = false := rfl
  have dues : s.dues (.ld rd rs imm) = [] := s.dues_none owed _
  rw [State.takeOff, s.landThese_none flights]
  simp only [flights, List.any_nil, noError, pfx, behind, flies, Option.isSome_none, Bool.or_self, Bool.not_true, Bool.false_eq_true,
    decide_false, if_false, runs, lives, retires, notPlain, Bool.false_and, dues, List.filter_nil, List.map_nil]
  rfl

/-- Another load of TCM is kept back by one under way only for its register or for the same word. -/
theorem Flight.stops_ld (f : Flight) (s : State) (rd rs rd' rs' : Reg) (imm imm' : BitVec 12) {a : Word}
    (names : f.names = { namesOf (.ld rd rs imm) with keys := tcmKeys s.cur.core a }) (ha : InTcm a)
    (h : InTcm (s.rx rs' + sext12 imm')) :
    f.stops s (.ld rd' rs' imm') = true ↔ (rd ≠ 0 ∧ (rs' = rd ∨ rd' = rd)) ∨ s.rx rs' + sext12 imm' = a := by
  have xs (r : Reg) : f.names.xs.contains r = true ↔ rd ≠ 0 ∧ r = rd := by
    rw [names, namesOf_ld]
    by_cases h : rd = 0 <;> simp [h]
  have vs : f.names.vs = [] := by rw [names, namesOf_ld]
  have ps : f.names.ps = [] := by rw [names, namesOf_ld]
  have keys : f.names.keys = tcmKeys s.cur.core a := by rw [names]
  have needs : f.feeds (usesOf (.ld rd' rs' imm')) = true ↔ rd ≠ 0 ∧ rs' = rd := by
    rw [← xs]
    show (([rs'].any fun r => f.names.xs.contains r) || false || false) = true ↔ _
    simp
  let n := namesOf (.ld rd' rs' imm')
  have writes : f.feeds { xs := n.xs, vs := n.vs, ps := n.ps } = true ↔ rd ≠ 0 ∧ rd' = rd := by
    have hn : n.xs = if rd' = 0 then [] else [rd'] := by unfold n; rw [namesOf_ld]
    have hv : n.vs = [] := by unfold n; rw [namesOf_ld]
    have hp : n.ps = [] := by unfold n; rw [namesOf_ld]
    rw [← xs, Flight.feeds, hn, hv, hp]
    by_cases zero : rd' = 0
    · have none : f.names.xs.contains rd' = false := Bool.eq_false_iff.2 fun e => ((xs rd').1 e).1 (((xs rd').1 e).2 ▸ zero)
      rw [if_pos zero, none]
      simp
    · rw [if_neg zero]
      simp
  have port : f.onPort (.ld rd' rs' imm') = false := by rw [Flight.onPort, namesOf_ld]; rfl
  have orders : f.orders s (.ld rd' rs' imm') = true ↔ s.rx rs' + sext12 imm' = a := by
    rw [← tcmKeys_meet h ha (c := s.cur.core), Flight.orders, s.bytesReached_ld rd' rs' imm' h, keys]
    have nonempty : (tcmKeys s.cur.core a).isEmpty = false := rfl
    have free : needsAll (.ld rd' rs' imm') = false := rfl
    have reserve : reserves (.ld rd' rs' imm') = false := rfl
    rw [nonempty, free, reserve]
    simp
  have cmd : (usesOf (.ld rd' rs' imm')).cmd = false := rfl
  simp only [n] at writes
  simp only [Flight.stops, Bool.or_eq_true, needs, writes, port, orders, cmd, Bool.false_and, Bool.false_eq_true, or_false, and_or_left]

end Sys2Proof.Machine
end

section
/-!
PROOFS. The landing of a load that is under way (R131).
-/
namespace Sys2Proof.Machine

/-! ### The orders around an instruction -/

theorem State.slotIs_pay (s : State) (due : List Owed) : SlotIs s (s.pay due) { s.slot with
    owed := s.slot.owed.filter fun o => !due.contains o
    early := if due.any fun o => o.later.reads then [] else s.slot.early } := by
  have key (l : List Owed) (t : State) (h : SlotIs s t s.slot) (cur : t.cur = s.cur) :
      SlotIs s (l.foldl (fun s o => s.perform o.ids o.view) t) s.slot ∧ (l.foldl (fun s o => s.perform o.ids o.view) t).cur = s.cur := by
    induction l generalizing t with
    | nil => exact ⟨h, cur⟩
    | cons o l ih => exact ih _ (h.of_cores (t.perform_cores _ _)) ((t.perform_cur _ _).trans cur)
  obtain ⟨slot, cur⟩ := key due s (.refl s) rfl
  exact slot.modSlot cur fun sl => { sl with
    owed := sl.owed.filter fun o => !due.contains o, early := if due.any fun o => o.later.reads then [] else sl.early }

/-- Nothing is visible to more agents before an instruction of a slot that owes nothing, whose address depends on no write. -/
theorem State.before_free (s : State) (i : Instr) (owed : s.slot.owed = []) (address : s.slot.flow.address (usesOf i) = []) :
    (∃ owed early flow, SlotIs s (s.before i) { s.slot with owed := owed, early := early, flow := flow }) ∧
      { s.before i with cores := s.cores } = s := by
  unfold State.before
  split
  · exact ⟨⟨_, _, _, .refl s⟩, rfl⟩
  · have due : s.dues i = [] := s.dues_none owed i
    have still (v : View) : (s.pay []).perform [] v = s.pay [] := if_pos rfl
    simp only [due, address, still, ite_self]
    exact ⟨⟨_, _, _, (s.slotIs_pay []).modSlot rfl fun sl => { sl with flow := { sl.flow with ops := s.slot.flow.operands (usesOf i) } }⟩, rfl⟩

/-- After an instruction what it has left stands, but for the dependencies of its slot and of its messages and for the readers noted. -/
theorem State.after_frame {r s t : State} {sl : Slot} (h : SlotIs r t sl) (cur : s.cur = r.cur) (i : Instr) :
    (∃ flow, SlotIs r (s.after t i) { sl with flow := flow }) ∧
      { s.after t i with cores := t.cores, hidden := t.hidden, carried := t.carried } = t :=
  s.after_cases t i
    (P := fun u => (∃ flow, SlotIs r u { sl with flow := flow }) ∧
      { u with cores := t.cores, hidden := t.hidden, carried := t.carried } = t)
    ⟨⟨_, h⟩, rfl⟩ (fun _ _ => ⟨⟨_, h.of_cores rfl⟩, rfl⟩)
    fun hidden carried f => ⟨⟨f sl, by
      have noted : SlotIs r { t with hidden := hidden, carried := carried } sl := h.of_cores rfl
      rw [cur]
      exact noted.modSlotOf fun sl => { sl with flow := f sl }⟩, rfl⟩

/-! ### Landing -/

/-- A slot at the place of an instruction that was under way, for that instruction alone. -/
def Slot.flying (f : Flight) (sl : Slot) : Slot :=
  { sl.withRegs f.regs with
    flow := { f.flow with x := f.regs.fx }, amoscope := f.scope, wait := .none, owed := [], early := [] }

theorem slotIx_val (k : Fin 4) : slotIx k.val = k := Fin.ofNat_val_eq_self k

/-- The one instruction under way of a slot, with none before it, lands. -/
theorem execFlightLand_one (s : State) {f : Flight} (flights : s.slot.flights = [f]) (olds : f.olds = []) (fences : f.fences = []) :
    execFlightLand s.cur.core s.cur.slot.val f.id s = .next { (s.pay []).landNow f with cur := s.cur } := by
  have land : s.land 1 f.id = (s.pay []).landNow f := by
    have found : s.slot.flights.find? (fun g => g.id == f.id) = some f := by simp [flights]
    have due : (s.slot.owed.filter fun o => f.fences.contains o.id) = [] := by simp [fences]
    have alone : (s.slot.flights.any fun g => ([] : List Nat).contains g.id) = false := by simp
    simp only [State.land, found, due, olds, alone, List.flatMap_nil, List.append_nil, List.foldl_nil, List.any_nil, Bool.or_self,
      Bool.false_eq_true, if_false]
  have number : (s.slotOf s.cur.core s.cur.slot).flights.length = 1 := by
    rw [show (s.slotOf s.cur.core s.cur.slot).flights = [f] from flights]; rfl
  rw [execFlightLand, slotIx_val, number]
  show Host.Outcome.next { s.land 1 f.id with cur := s.cur } = _
  rw [land]

/-- What the slot of a load holds once it has landed: the value in its register, and all else as it was. -/
theorem Slot.landed_ld (sl v : Slot) {f : Flight} {rd rs : Reg} {imm : BitVec 12} {keys : List Nat} (got wrote : List Nat)
    (flights : sl.flights = [f]) (names : f.names = { namesOf (.ld rd rs imm) with keys := keys }) :
    (sl.landed v f got wrote).x = (if rd = 0 then sl.x else sl.x.set rd.toNat (v.x.get rd.toFin)) ∧
      (sl.landed v f got wrote).v = sl.v ∧ (sl.landed v f got wrote).p = sl.p ∧ (sl.landed v f got wrote).pc = sl.pc ∧
      (sl.landed v f got wrote).instret = sl.instret ∧ (sl.landed v f got wrote).live = v.live ∧
      (sl.landed v f got wrote).wait = sl.wait ∧ (sl.landed v f got wrote).flights = [] := by
  have written : v.regs.written f.names =
      ⟨if rd = 0 then [] else [(rd, v.x.get rd.toFin, v.regs.fx.getD rd.toNat [])], [], []⟩ := by
    rw [names, namesOf_ld, Regs.written]
    by_cases h : rd = 0
    · simp only [if_pos h]; rfl
    · simp only [if_neg h]; rfl
  simp only [Slot.landed, flights, written]
  simp [handOn, Slot.withRegs, Regs.put, Slot.regs]
  split <;> rfl

theorem SlotIs.trans {s t u : State} {a b : Slot} (h : SlotIs s t a) (cur : t.cur = s.cur) (h' : SlotIs t u b) : SlotIs s u b where
  here := by rw [← cur]; exact h'.here
  slots c k ne := (h'.slots c k (by rw [cur]; exact ne)).trans (h.slots c k ne)
  cores c := by
    have e := congrArg (fun co : CoreSt => { co with slots := (s.core c).slots }) (h'.cores c)
    exact e.trans (h.cores c)

theorem SlotIs.slot {s t : State} {sl : Slot} (h : SlotIs s t sl) (cur : t.cur = s.cur) : t.slot = sl := by
  rw [State.slot, cur]
  exact h.here

theorem State.tcmWord_cores {s u : State} (h : { u with cores := s.cores } = s) (a : Word) : u.tcmWord a = s.tcmWord a := by
  have cur : u.cur = s.cur := by have e := congrArg State.cur h; exact e
  have agent : u.agent = s.agent := by rw [State.agent, State.agent, cur]
  have rest := congrArg (fun t : State => { t with cur := s.cur, clusters := s.clusters, sched := s.sched }) h
  have byte : u.readByte = s.readByte := funext fun ag => State.readByte_of_rest (s := s) (t := u) rest ag
  rw [State.tcmWord, State.tcmWord, byte, agent, cur]

/-- An instruction under way lands where it retires at its own place. -/
theorem State.landNow_retires {s u q : State} {f : Flight} (hu : u = (s.modSlot (Slot.flying f)).before f.instr)
    (hq : stateOf (exec f.instr u) u = q) (live : (u.after q f.instr).slot.live = true)
    (retires : (u.after q f.instr).slot.instret ≠ s.slot.instret) :
    s.landNow f = (u.after q f.instr).modSlot fun v => s.slot.landed v f (readBetween s.agent u q)
      ((q.hidden.filter fun h => h.writer == s.agent && decide (s.nextId ≤ h.id)).map Hidden.id) := by
  subst hu hq
  unfold State.landNow
  have alive {b : Bool} (h : b = true) : ¬(!b) = true := by rw [h]; decide
  exact (if_neg (alive live)).trans (if_pos retires)

/-- What a landing leaves of the state: what the orders around it and its load leave. -/
theorem State.rest_trans {s u q t : State} (ht : { t with cores := q.cores, hidden := q.hidden, carried := q.carried } = q)
    (hq : { q with cores := u.cores, hidden := u.hidden } = u) (hu : { u with cores := s.cores } = s) :
    { t with cores := s.cores, hidden := s.hidden, carried := s.carried } = s := by
  have e := congrArg (fun t : State => { t with cores := s.cores, hidden := s.hidden, carried := s.carried }) ht
  have e' := congrArg (fun t : State => { t with cores := s.cores, hidden := s.hidden, carried := s.carried }) hq
  have e'' := congrArg (fun t : State => { t with hidden := s.hidden, carried := s.carried }) hu
  exact e.trans (e'.trans e'')

/-- A load of TCM lands where its address depends on no write: its register takes the value that its slot sees now. -/
theorem State.landNow_ld (s : State) {f : Flight} {rd rs : Reg} {imm : BitVec 12} (bad : s.bad = []) (live : s.slot.live = true)
    (load : f.instr = .ld rd rs imm) (fx : f.regs.fx = []) (h : InTcm ((s.slot.flying f).rx rs + sext12 imm)) :
    ∃ v got wrote, SlotIs s (s.landNow f) (s.slot.landed v f got wrote) ∧ v.live = true ∧
      (rd ≠ 0 → v.x.get rd.toFin = s.tcmWord ((s.slot.flying f).rx rs + sext12 imm)) ∧ (s.landNow f).mem = s.mem ∧
      (s.landNow f).net = s.net ∧ (s.landNow f).cur = s.cur := by
  let a := (s.slot.flying f).rx rs + sext12 imm
  let u₀ := s.modSlot (Slot.flying f)
  have slot₀ : u₀.slot = s.slot.flying f := s.slot_modSlot _
  have address : u₀.slot.flow.address (usesOf f.instr) = [] := by
    rw [slot₀, load]
    show ([rs].flatMap (Flow.ofX { f.flow with x := f.regs.fx }) ++ []).dedup = []
    simp [Flow.ofX, fx, AMap.getD, AMap.get?]
  obtain ⟨⟨owed, early, flow, hu⟩, rest⟩ := u₀.before_free f.instr (by rw [slot₀]; rfl) address
  let u := u₀.before f.instr
  have restS : { u with cores := s.cores } = s := by
    have e := congrArg (fun t : State => { t with cores := s.cores }) rest
    exact e
  have cur : u.cur = s.cur := by have e := congrArg State.cur restS; exact e
  have isU := ((SlotIs.refl s).modSlot rfl (Slot.flying f)).trans rfl hu
  have slotU := isU.slot cur
  have addr : u.rx rs + sext12 imm = a := by rw [State.rx, slotU, slot₀]; rfl
  have runs : stateOf (exec f.instr u) u = (u.noteRead u.agent (tcmKeys u.cur.core a)).done rd (u.tcmWord a) := by
    have badU : u.bad = [] := by have e := congrArg State.bad restS; exact e.trans bad
    rw [load, u.exec_ld_tcm rd rs imm badU (by rw [addr]; exact h), addr]
    rfl
  obtain ⟨isQ, restQ⟩ := u.noteRead_done_frame (tcmKeys u.cur.core a) rd (u.tcmWord a)
  let q := (u.noteRead u.agent (tcmKeys u.cur.core a)).done rd (u.tcmWord a)
  obtain ⟨⟨flow', isT⟩, restT⟩ := State.after_frame (s := u) (isU.trans cur isQ) cur f.instr
  let t := u.after q f.instr
  have same : { t with cores := s.cores, hidden := s.hidden, carried := s.carried } = s := State.rest_trans restT restQ restS
  have curT : t.cur = s.cur := by have e := congrArg State.cur same; exact e
  have slotT := isT.slot curT
  have lives : t.slot.live = true := by rw [slotT, slotU, slot₀]; exact live
  have retires : t.slot.instret ≠ s.slot.instret := by rw [slotT, slotU, slot₀]; exact word_add_one_ne _
  have value (ne : rd ≠ 0) : t.slot.x.get rd.toFin = s.tcmWord a := by
    rw [slotT]
    show (if rd = 0 then u.slot.x else u.slot.x.set rd.toNat (u.tcmWord a)).get rd.toFin = _
    rw [if_neg ne, get_set, State.tcmWord_cores restS]
    exact if_pos rfl
  let got := readBetween s.agent u q
  let wrote := (q.hidden.filter fun h => h.writer == s.agent && decide (s.nextId ≤ h.id)).map Hidden.id
  have lands : s.landNow f = t.modSlot fun v => s.slot.landed v f got wrote := State.landNow_retires rfl runs lives retires
  refine ⟨t.slot, got, wrote, ?_, lives, value, ?_⟩
  · rw [lands]
    have held := isT.modSlot curT fun v => s.slot.landed v f got wrote
    rw [← slotT] at held
    exact held
  · rw [lands]
    refine ⟨?_, ?_, curT⟩
    · have e := congrArg State.mem same; exact e
    · have e := congrArg State.net same; exact e

/-- The load that is under way of a slot lands, at whatever time: its register takes the bytes as the slot sees them then. -/
theorem execFlightLand_ld (s : State) {f : Flight} {rd rs : Reg} {imm : BitVec 12} {keys : List Nat} (bad : s.bad = [])
    (live : s.slot.live = true) (flights : s.slot.flights = [f]) (olds : f.olds = []) (fences : f.fences = [])
    (load : f.instr = .ld rd rs imm) (names : f.names = { namesOf (.ld rd rs imm) with keys := keys }) (fx : f.regs.fx = [])
    (h : InTcm ((s.slot.flying f).rx rs + sext12 imm)) :
    ∃ t sl, execFlightLand s.cur.core s.cur.slot.val f.id s = .next t ∧ SlotIs s t sl ∧
      sl.x = (if rd = 0 then s.slot.x else s.slot.x.set rd.toNat (s.tcmWord ((s.slot.flying f).rx rs + sext12 imm))) ∧
      sl.v = s.slot.v ∧ sl.p = s.slot.p ∧ sl.pc = s.slot.pc ∧ sl.instret = s.slot.instret ∧ sl.live = true ∧ sl.wait = s.slot.wait ∧
      sl.flights = [] ∧ t.mem = s.mem ∧ t.net = s.net ∧ t.cur = s.cur := by
  have paid : SlotIs s (s.pay []) s.slot := by
    have e : SlotIs s (s.pay []) { s.slot with owed := s.slot.owed.filter fun _ => true } := s.slotIs_pay []
    rw [List.filter_true] at e
    exact e
  have slot : (s.pay []).slot = s.slot := paid.slot rfl
  obtain ⟨v, got, wrote, lands, lives, value, mem, net, cur⟩ := (s.pay []).landNow_ld (rd := rd) (rs := rs) (imm := imm) (f := f) bad
    (by rw [slot]; exact live) load fx (by rw [slot]; exact h)
  rw [slot] at lands value
  have word : (s.pay []).tcmWord = s.tcmWord := funext (State.tcmWord_cores rfl)
  rw [word] at value
  obtain ⟨hx, hv, hp, hpc, hret, hlive, hwait, hflights⟩ := s.slot.landed_ld v got wrote flights names
  refine ⟨_, s.slot.landed v f got wrote, execFlightLand_one s flights olds fences, (paid.trans rfl lands).of_cores rfl, ?_, hv, hp, hpc,
    hret, hlive.trans lives, hwait, hflights, mem, net, rfl⟩
  rw [hx]
  by_cases zero : rd = 0
  · rw [if_pos zero, if_pos zero]
  · rw [if_neg zero, if_neg zero, value zero]

/-- What a slot with nothing under way holds once an instruction of it has taken off. -/
theorem State.slotIs_takeOff (s : State) (flights : s.slot.flights = []) (early : s.slot.early = []) (f : Flight) :
    SlotIs s { s.modSlot fun sl => { sl.retire with
        flights := sl.flights ++ [f]
        early := sl.early.map fun e => e.mark f.names false true } with nextId := s.nextId + 1 }
      { s.slot.next with flights := [f] } := by
  have held := (s.onlySlot_modSlot fun sl => { sl.retire with
    flights := sl.flights ++ [f], early := sl.early.map fun e => e.mark f.names false true }).toSlotIs
  have same : { s.slot.retire with
      flights := s.slot.flights ++ [f], early := s.slot.early.map fun e => e.mark f.names false true } =
      { s.slot.next with flights := [f], early := s.slot.early } := by
    rw [flights, early]
    rfl
  exact (same ▸ held).of_cores rfl

/-- Settles O13: a fence owes what the model's `fenceOwed` names, paying it makes it visible, a load of TCM takes off and lands as a
whole, and an instruction fence performs what the slot sees. -/
theorem fencesOrderAndReachTheFetchPath : Obligations.FencesOrderAndReachTheFetchPath := by
  refine ⟨fun s fm p q rs rd imm rt pr pw qr qw code => ?_, fun s f rd rs imm => ?_, fun s imm rs rd code => ?_⟩
  · obtain ⟨empty, fence, tso, atScope⟩ := s.fences_order fm p q rs rd pr pw qr qw code
    refine ⟨?_, s.fence_owes tso, s.fence_owes atScope, fun o ho => ⟨⟨o.holds_load _ _ _ _, o.holds_store _ _ _ _, o.holds_spawn _ _ _ _,
      o.holds_ecall _, o.holds_exit _, o.holds_add _ _ _ _⟩, fun i holds => s.owed_before ho i holds⟩⟩
    by_cases h : p = 0 ∨ q = 0
    · rw [if_pos h]
      exact ⟨_, empty h, s.onlySlot_retire⟩
    · rw [if_neg h]
      exact s.fence_owes (fence h)
  · intro c addr inTcm key load named bad sound live wait
    refine ⟨fun flights early owed pfx behind tcm => ?_, fun x hf rd' rs' imm' tcm tcm' => ?_, fun flights olds fences hf fx tcm => ?_⟩
    · refine ⟨_, s.flightOf rd rs imm, s.takeOff_ld rd rs imm bad sound live flights owed pfx behind tcm, ⟨rfl, ?_⟩, rfl, rfl, rfl, ?_, rfl⟩
      · rw [State.flightOf, s.bytesReached_ld rd rs imm tcm]
        rfl
      · exact s.slotIs_takeOff flights early (s.flightOf rd rs imm)
    · obtain ⟨-, names⟩ := hf
      exact f.stops_ld s rd rs rd' rs' imm imm' names tcm tcm'
    · obtain ⟨hload, names⟩ := hf
      obtain ⟨t, sl, lands, slot, hx, hv, hp, hpc, hret, hlive, hwait, hflights, mem, net, cur⟩ :=
        execFlightLand_ld s bad live flights olds fences hload names fx tcm
      refine ⟨t, lands, ?_, slot.slots, mem, net, cur⟩
      rw [show t.slotOf c s.cur.slot = sl from slot.here]
      refine ⟨?_, hv, hp, hpc, hret, hlive, hwait.trans wait, hflights⟩
      rw [hx, State.tcmWord, tcmKeys, span, List.map_map]
      rfl
  · exact ⟨s.ifence_reaches (i := .ifenceS code) rfl, s.ifence_reaches (i := .fenceI imm rs rd) rfl⟩

end Sys2Proof.Machine
end

section
/-!
PROOFS. The integer register forms (R30, R78, Table 5-7a): each writes the word of an integer to rd and retires.
-/
namespace Sys2Proof.Machine

/-- An instruction that writes a word to rd and retires gives it, and nothing else. -/
theorem gives_of_done {s : State} {i : Instr} {rd : Reg} {v w : Word} (h : exec i s = .next (s.done rd v)) (e : v = w) : Gives i s rd w :=
  ⟨_, h, e ▸ s.onlySlot_done rd v⟩

/-! ### Words of integers -/

theorem sub_eq_ofInt {n : Nat} (x y : BitVec n) : x - y = BitVec.ofInt n (x.toInt - y.toInt) := by
  rw [Int.sub_eq_add_neg, BitVec.ofInt_add, BitVec.ofInt_neg, BitVec.ofInt_toInt, BitVec.ofInt_toInt, BitVec.sub_eq_add_neg]

theorem add_eq_ofInt {n : Nat} (x y : BitVec n) : x + y = BitVec.ofInt n (x.toInt + y.toInt) := by
  rw [BitVec.ofInt_add, BitVec.ofInt_toInt, BitVec.ofInt_toInt]

theorem mul_eq_ofInt {n : Nat} (x y : BitVec n) : x * y = BitVec.ofInt n (x.toInt * y.toInt) := by
  rw [BitVec.ofInt_mul, BitVec.ofInt_toInt, BitVec.ofInt_toInt]

/-- A left shift multiplies by a power of 2. -/
theorem shiftLeft_eq_ofNat {n : Nat} (x : BitVec n) (k : Nat) : x <<< k = BitVec.ofNat n (x.toNat * 2 ^ k) := by
  apply BitVec.eq_of_toNat_eq
  rw [BitVec.toNat_shiftLeft, BitVec.toNat_ofNat, Nat.shiftLeft_eq]

/-- A logical right shift divides a cardinal by a power of 2. -/
theorem ushiftRight_eq_ofNat {n : Nat} (x : BitVec n) (k : Nat) : x >>> k = BitVec.ofNat n (x.toNat / 2 ^ k) := by
  rw [← Nat.shiftRight_eq_div_pow, ← BitVec.toNat_ushiftRight, BitVec.ofNat_toNat, BitVec.setWidth_eq]

/-- An arithmetic right shift divides a signed value by a power of 2, rounding down. -/
theorem sshiftRight_eq_ofInt {n : Nat} (x : BitVec n) (k : Nat) : x.sshiftRight k = BitVec.ofInt n (x.toInt / 2 ^ k) := by
  rw [← BitVec.ofInt_toInt (x := x.sshiftRight k), BitVec.toInt_sshiftRight, Int.shiftRight_eq_div_pow, Nat.cast_pow, Nat.cast_ofNat]

theorem toNat_extractLsb'_zero {n : Nat} (x : BitVec n) (k : Nat) : (x.extractLsb' 0 k).toNat = x.toNat % 2 ^ k := by
  rw [BitVec.extractLsb'_toNat, Nat.shiftRight_zero]

/-- The low bits of the low half of a word are those of the word. -/
theorem shamt5_eq (w : Word) : shamt5 w = (w.setWidth 32).toNat % 32 := by
  rw [shamt5, toNat_extractLsb'_zero, BitVec.toNat_setWidth, Nat.mod_mod_of_dvd _ (by decide)]
  rfl

theorem shamt6_eq (w : Word) : shamt6 w = w.toNat % 64 := toNat_extractLsb'_zero w 6

/-- An upper immediate in place, sign-extended. -/
theorem upper_eq (up : BitVec 20) : upper up = BitVec.ofInt 64 (up.toInt * 4096) := by
  have h : (up ++ 0#12).toInt = up.toInt * 4096 := by
    rw [BitVec.toInt_append]
    simp [mul_comm]
  rw [upper, BitVec.signExtend, h]

theorem pcW_add_upper (sl : Slot) (up : BitVec 20) : sl.pcW + upper up = BitVec.ofInt 64 (sl.pc.toNat + up.toInt * 4096) := by
  rw [upper_eq, BitVec.ofInt_add, BitVec.ofInt_natCast, Slot.pcW, BitVec.ofNat_toNat]

theorem ofBool_decide (p : Prop) [Decidable p] : ofBool (decide p) = if p then 1 else 0 := by
  simp only [ofBool, decide_eq_true_eq]

theorem ofBool_slt (x y : Word) : ofBool (x.slt y) = if x.toInt < y.toInt then 1 else 0 := ofBool_decide _

theorem ofBool_ult (x y : Word) : ofBool (x.ult y) = if x.toNat < y.toNat then 1 else 0 := ofBool_decide _

theorem toInt_sext12 (imm : BitVec 12) : (sext12 imm).toInt = imm.toInt := BitVec.toInt_signExtend_of_le (by decide)

/-- A bit of a sign-extended immediate: the immediate's, or its sign from bit 11 on. -/
theorem getLsbD_sext12 (imm : BitVec 12) (i : Fin 64) : (sext12 imm).getLsbD i = imm.getLsbD (min i 11) := by
  rw [sext12, BitVec.getLsbD_signExtend, decide_eq_true i.isLt, Bool.true_and]
  split
  · rw [Nat.min_eq_left (by omega)]
  · rw [Nat.min_eq_right (by omega)]
    exact imm.msb_eq_getLsbD_last

theorem eq_ofFnLE {n : Nat} {x : BitVec n} {f : Fin n → Bool} (h : ∀ i : Fin n, x.getLsbD i = f i) : x = BitVec.ofFnLE f := by
  refine BitVec.eq_of_getLsbD_eq fun i hi => ?_
  rw [BitVec.getLsbD_ofFnLE, dif_pos hi]
  exact h ⟨i, hi⟩

/-- Settles O1: each form writes one word and retires, and that word is the stated one's, as an integer or bit by bit. -/
theorem registerFormsGiveTheirResults : Obligations.RegisterFormsGiveTheirResults := by
  refine ⟨fun s rd rs imm up sh => ?_, fun s rd rs rt => ?_, fun s rd rs rt imm sh => ?_⟩
  · refine ⟨gives_of_done rfl (upper_eq up), gives_of_done rfl (pcW_add_upper s.slot up), gives_of_done rfl (add_sext12 _ imm),
      gives_of_done rfl ?_, gives_of_done rfl (ofBool_ult _ _), gives_of_done rfl (eq_ofFnLE fun i => ?_),
      gives_of_done rfl (eq_ofFnLE fun i => ?_), gives_of_done rfl (eq_ofFnLE fun i => ?_), gives_of_done rfl (shiftLeft_eq_ofNat _ _),
      gives_of_done rfl (ushiftRight_eq_ofNat _ _), gives_of_done rfl (sshiftRight_eq_ofInt _ _)⟩
    · rw [ofBool_slt, toInt_sext12]
    · rw [BitVec.getLsbD_xor, getLsbD_sext12]
    · rw [BitVec.getLsbD_or, getLsbD_sext12]
    · rw [BitVec.getLsbD_and, getLsbD_sext12]
  · simp only [← shamt6_eq]
    exact ⟨gives_of_done rfl (add_eq_ofInt _ _), gives_of_done rfl (sub_eq_ofInt _ _), gives_of_done rfl (ofBool_slt _ _),
      gives_of_done rfl (ofBool_ult _ _), gives_of_done rfl (eq_ofFnLE fun _ => BitVec.getLsbD_xor),
      gives_of_done rfl (eq_ofFnLE fun _ => BitVec.getLsbD_or), gives_of_done rfl (eq_ofFnLE fun _ => BitVec.getLsbD_and),
      gives_of_done rfl (shiftLeft_eq_ofNat _ _), gives_of_done rfl (ushiftRight_eq_ofNat _ _),
      gives_of_done rfl (sshiftRight_eq_ofInt _ _)⟩
  · intro lo narrow
    have narrows {v : BitVec 32} {n : Int} (h : v = BitVec.ofInt 32 n) : sextW v = narrow n := by rw [h]; rfl
    have narrowsNat {v : BitVec 32} {n : Nat} (h : v = BitVec.ofNat 32 n) : sextW v = narrow n :=
      narrows (h.trans (BitVec.ofInt_natCast 32 n).symm)
    simp only [lo, ← shamt5_eq]
    refine ⟨gives_of_done rfl (narrows ?_), gives_of_done rfl (narrowsNat (shiftLeft_eq_ofNat _ _)),
      gives_of_done rfl (narrowsNat (ushiftRight_eq_ofNat _ _)), gives_of_done rfl (narrows (sshiftRight_eq_ofInt _ _)),
      gives_of_done rfl (narrows (add_eq_ofInt _ _)), gives_of_done rfl (narrows (sub_eq_ofInt _ _)),
      gives_of_done rfl (narrowsNat (shiftLeft_eq_ofNat _ _)), gives_of_done rfl (narrowsNat (ushiftRight_eq_ofNat _ _)),
      gives_of_done rfl (narrows (sshiftRight_eq_ofInt _ _))⟩
    rw [add_eq_ofInt, BitVec.toInt_signExtend_of_le (by decide)]
    rfl

/-! ### Products and quotients -/

/-- The high half of a product of 128 bits. -/
theorem high64_ofInt (p q : Int) : high64 (BitVec.ofInt 128 p) (BitVec.ofInt 128 q) = BitVec.ofInt 64 (p * q / 2 ^ 64) := by
  rw [high64, ← BitVec.ofInt_mul]
  apply BitVec.eq_of_toNat_eq
  rw [BitVec.extractLsb'_toNat, BitVec.toNat_ofInt, BitVec.toNat_ofInt, Nat.shiftRight_eq_div_pow]
  omega

theorem signExtend_128 (x : Word) : x.signExtend 128 = BitVec.ofInt 128 x.toInt := rfl

theorem setWidth_128 (x : Word) : x.setWidth 128 = BitVec.ofInt 128 x.toNat := by
  rw [BitVec.ofInt_natCast, BitVec.ofNat_toNat]

theorem allOnes_eq_ofInt (n : Nat) : BitVec.allOnes n = BitVec.ofInt n (-1) := by
  rw [BitVec.ofInt_neg, ← BitVec.neg_one_eq_allOnes]
  rfl

theorem sdivR_eq {n : Nat} (a b : BitVec n) :
    sdivR a b = if b = 0 then BitVec.ofInt n (-1) else BitVec.ofInt n (a.toInt.tdiv b.toInt) := by
  rw [sdivR, allOnes_eq_ofInt]
  congr 1
  apply BitVec.eq_of_toInt_eq
  rw [BitVec.toInt_sdiv, BitVec.toInt_ofInt]

theorem udivR_eq {n : Nat} (a b : BitVec n) :
    udivR a b = if b = 0 then BitVec.ofInt n (-1) else BitVec.ofNat n (a.toNat / b.toNat) := by
  rw [udivR, allOnes_eq_ofInt, ← BitVec.toNat_udiv, BitVec.ofNat_toNat, BitVec.setWidth_eq]

theorem sremR_eq {n : Nat} (a b : BitVec n) : sremR a b = if b = 0 then a else BitVec.ofInt n (a.toInt.tmod b.toInt) := by
  rw [sremR, ← BitVec.toInt_srem, BitVec.ofInt_toInt]

theorem uremR_eq {n : Nat} (a b : BitVec n) : uremR a b = if b = 0 then a else BitVec.ofNat n (a.toNat % b.toNat) := by
  rw [uremR, ← BitVec.toNat_umod, BitVec.ofNat_toNat, BitVec.setWidth_eq]

theorem sextW_minus_one : sextW (BitVec.ofInt 32 (-1)) = BitVec.ofInt 64 (-1) := by decide

/-- Settles O2: the model's products and its four divisions, of either width, as those of the integers. -/
theorem productsAndDivisionsAreThoseOfTheIntegers : Obligations.ProductsAndDivisionsAreThoseOfTheIntegers := by
  refine ⟨fun s rd rs rt => ⟨gives_of_done rfl (mul_eq_ofInt _ _), gives_of_done rfl ?_, gives_of_done rfl ?_, gives_of_done rfl ?_,
    gives_of_done rfl (congrArg sextW (mul_eq_ofInt _ _))⟩, fun s rd rs rt => ?_⟩
  · rw [signExtend_128, signExtend_128, high64_ofInt]
  · rw [signExtend_128, setWidth_128, high64_ofInt]
  · rw [setWidth_128, setWidth_128, high64_ofInt, ← BitVec.ofInt_natCast]
    push_cast
    rfl
  · intro a b c d w
    refine ⟨gives_of_done rfl (sdivR_eq a b), gives_of_done rfl (udivR_eq a b), gives_of_done rfl (sremR_eq a b),
      gives_of_done rfl (uremR_eq a b), gives_of_done (v := sextW (sdivR c d)) rfl ?_, gives_of_done (v := sextW (udivR c d)) rfl ?_,
      gives_of_done (v := sextW (sremR c d)) rfl ?_, gives_of_done (v := sextW (uremR c d)) rfl ?_⟩
    · rw [sdivR_eq, apply_ite sextW, sextW_minus_one]; rfl
    · rw [udivR_eq, apply_ite sextW, sextW_minus_one]; rfl
    · rw [sremR_eq, apply_ite sextW]; rfl
    · rw [uremR_eq, apply_ite sextW]; rfl

end Sys2Proof.Machine
end

section
/-!
PROOFS. The bytes that the scalar forms leave as they were (R65, R78, R79, R82, R97, R101, R247).
-/
namespace Sys2Proof.Machine

/-! ### What keeps memory -/

/-- Memory stands in `t` as it does in `s`, in its newest values. -/
structure MemKept (s t : State) : Prop where
  mem : t.mem = s.mem
  lost : t.lost = s.lost

theorem MemKept.refl (s : State) : MemKept s s := ⟨rfl, rfl⟩

theorem MemKept.trans {s t u : State} (h : MemKept s t) (k : MemKept t u) : MemKept s u :=
  ⟨k.mem.trans h.mem, k.lost.trans h.lost⟩

theorem MemKept.sameBytes {s t : State} (h : MemKept s t) : SameBytes s t := sameBytes_of_mem h.mem h.lost

theorem Keeps.memKept {s t : State} (h : Keeps s t) : MemKept s t := ⟨h.mem, h.lost⟩

/-- A change of what stands in the cores, of the hidden writes and of the counter of identities keeps memory. -/
theorem MemKept.of_rest {s t : State} (h : { t with cores := s.cores, hidden := s.hidden, nextId := s.nextId } = s) : MemKept s t := by
  have mem := congrArg State.mem h
  have lost := congrArg State.lost h
  exact ⟨mem, lost⟩

theorem MemKept.of_hidden {s t : State} (h : { t with hidden := s.hidden } = s) : MemKept s t := by
  have e := congrArg (fun u : State => { u with cores := s.cores, nextId := s.nextId }) h
  exact .of_rest e

theorem State.memKept_trap (s : State) (cause : Nat) (v : Word) : MemKept s (s.trap cause v) := (s.keeps_trap cause v).memKept

theorem State.memKept_trapUncorr (s : State) (b : BadGranule) (va : Word) : MemKept s (s.trapUncorr b va) := by
  have met : MemKept s (s.meetBad b) := ⟨rfl, rfl⟩
  exact met.trans (State.memKept_trap _ _ _)

theorem State.memKept_jump (s : State) (rd : Reg) (target : Word) : MemKept s (s.jump rd target) := by
  unfold State.jump
  split
  · exact ⟨rfl, rfl⟩
  · exact s.memKept_trap _ _

theorem State.memKept_branch (s : State) (taken : Bool) (off : BitVec 12) : MemKept s (s.branch taken off) := by
  obtain ⟨-, h⟩ | ⟨-, h⟩ := s.branch_cases taken off
  · rw [h]; exact s.memKept_jump _ _
  · rw [h]; exact ⟨rfl, rfl⟩

theorem State.memKept_fence (s : State) (sc : Scope) (reads writes qr qw : Bool) : MemKept s (s.fence sc reads writes qr qw) := by
  have e := congrArg (fun u : State => { u with hidden := s.hidden }) (s.fence_rest sc reads writes qr qw)
  exact .of_rest e

theorem State.memKept_ifence (s : State) (sc : Scope) : MemKept s (s.ifence sc) := by
  have e := congrArg (fun u : State => { u with nextId := s.nextId }) (s.ifence_frame sc).2
  exact .of_rest e

theorem State.memKept_csr (s : State) (rd : Reg) (csr : BitVec 12) (new : Word → Option Word) : MemKept s (s.csr rd csr new) := by
  have written (v : Word) : MemKept s (s.csrWrite csr v) := by
    unfold State.csrWrite
    extract_lets c
    split <;> exact ⟨rfl, rfl⟩
  unfold State.csr
  extract_lets old u
  have kept : MemKept s u := by
    unfold u
    split
    · exact written _
    · exact .refl s
  exact kept.trans ⟨rfl, rfl⟩

/-! ### The checks of an access -/

theorem State.memKept_touchPage (s : State) (c : Nat) (fetch : Bool) (pn : Nat) : MemKept s (s.touchPage c fetch pn) := by
  unfold State.touchPage
  refine iteInduction (motive := MemKept s) (fun _ => .refl s) fun _ => ?_
  split
  · exact .refl s
  · extract_lets u
    have counted : MemKept s u := by unfold u; split <;> exact ⟨rfl, rfl⟩
    split
    · exact counted.trans ⟨rfl, rfl⟩
    · exact counted

theorem State.memKept_touchPages (s : State) (c : Nat) (fetch : Bool) (pns : List Nat) : MemKept s (s.touchPages c fetch pns) := by
  unfold State.touchPages
  induction pns generalizing s with
  | nil => exact .refl s
  | cons pn pns ih => exact (s.memKept_touchPage c fetch pn).trans (ih _)

theorem State.memKept_pageFault (s : State) (a : Acc) (va : Nat) : MemKept s (s.pageFault a va) := by
  have block (t : State) (seen : Bool) : MemKept t (t.blockPage a va seen) := ⟨rfl, rfl⟩
  unfold State.pageFault
  extract_lets c direct w
  split
  · exact block s true
  · split
    · exact (s.keeps_queueOut _ _).memKept.trans (block _ _)
    · exact .refl s

/-- The state in which an access stands after its checks. -/
def Ready.state : Ready → State
  | .keys t _ => t
  | .alias_ t _ _ => t
  | .stop t => t

/-- The checks of an access keep memory, whether it may go on, traps, faults or waits; on the way to an alias unit they change nothing. -/
theorem State.prepare_frame (s : State) (a : Acc) (va : Word) (n : Nat) :
    MemKept s (s.prepare a va n).state ∧ ∀ t k o, s.prepare a va n = .alias_ t k o → t = s := by
  have waits (t : State) (p : Nat) : MemKept t (t.waitRow p) := ⟨rfl, rfl⟩
  unfold State.prepare
  split
  · split
    · split
      · split
        · exact ⟨waits s _, fun _ _ _ h => nomatch h⟩
        · exact ⟨.refl s, fun _ _ _ h => (Ready.alias_.inj h).1.symm⟩
      · exact ⟨s.memKept_trap _ _, fun _ _ _ h => nomatch h⟩
    · exact ⟨s.memKept_trap _ _, fun _ _ _ h => nomatch h⟩
  · split
    · exact ⟨s.memKept_trap _ _, fun _ _ _ h => nomatch h⟩
    · extract_lets u
      have touched : MemKept s u := s.memKept_touchPages _ _ _
      split
      · split
        · exact ⟨touched.trans (waits u _), fun _ _ _ h => nomatch h⟩
        · exact ⟨touched, fun _ _ _ h => nomatch h⟩
      · exact ⟨touched.trans (u.memKept_pageFault _ _), fun _ _ _ h => nomatch h⟩
      · exact ⟨touched.trans (u.memKept_trap _ _), fun _ _ _ h => nomatch h⟩

/-! ### Loads -/

theorem State.memKept_noteSpan (s : State) (ag : Agent) (keys ids : List Nat) : MemKept s (s.noteSpan ag keys ids) :=
  .of_hidden (s.noteSpan_hidden ag keys ids)

theorem State.memKept_noteIds (s : State) (ag : Agent) (ids : List Nat) : MemKept s (s.noteIds ag ids) :=
  .of_hidden (s.noteIds_hidden ag ids)

theorem State.memKept_perform (s : State) (ids : List Nat) (v : View) : MemKept s (s.perform ids v) :=
  .of_hidden (s.perform_hidden ids v)

/-- A read that is noted, with its value written to rd. -/
theorem State.memKept_noteRead_done (s : State) (ag : Agent) (keys : List Nat) (rd : Reg) (v : Word) :
    MemKept s ((s.noteRead ag keys).done rd v) := by
  have noted : MemKept s (s.noteRead ag keys) := .of_hidden (s.noteRead_hidden ag keys)
  exact noted.trans ⟨rfl, rfl⟩

theorem State.memKept_load (s : State) (rd : Reg) (va : Word) (n : Nat) (signed : Bool) : MemKept s (s.load rd va n signed) := by
  obtain ⟨checked, -⟩ := s.prepare_frame .load va n
  unfold State.load
  split
  · rename_i h; rw [h] at checked; exact checked
  · rename_i h; rw [h] at checked
    refine checked.trans ?_
    dsimp only
    split
    · exact State.memKept_trapUncorr _ _ _
    · exact State.memKept_noteRead_done _ _ _ _ _
  · rename_i h; rw [h] at checked
    refine checked.trans ?_
    split
    · exact State.memKept_trapUncorr _ _ _
    · exact State.memKept_noteRead_done _ _ _ _ _

theorem State.memKept_loadReserve (s : State) (aq rl : Bool) (rd : Reg) (va : Word) (n : Nat) :
    MemKept s (s.loadReserve aq rl rd va n) := by
  unfold State.loadReserve
  split
  · exact .refl s
  · extract_lets u
    have performed : MemKept s u := by
      unfold u
      split
      · exact .of_hidden (s.performSlot_hidden _ _ _)
      · exact .refl s
    have checked : MemKept u (u.prepareAmo .load va n).state := by
      unfold State.prepareAmo
      split
      · exact u.memKept_trap _ _
      · exact (u.prepare_frame .load va n).1
    refine performed.trans ?_
    split
    · rename_i h; rw [h] at checked; exact checked
    · rename_i h; rw [h] at checked; exact checked
    · rename_i t ks h; rw [h] at checked
      refine checked.trans ?_
      split
      · exact State.memKept_trapUncorr _ _ _
      · extract_lets v ids r q
        have noted : MemKept t r := ((t.memKept_noteSpan _ _ _).trans (State.memKept_noteIds _ _ _)).trans ⟨rfl, rfl⟩
        have acquired : MemKept r q := by
          unfold q
          split
          · exact r.memKept_perform _ _
          · exact .refl r
        exact (noted.trans acquired).trans ⟨rfl, rfl⟩

/-! ### Stores -/

/-- The bytes that the checks of a store resolve: those of its address, or of its alias unit. -/
def Ready.stored (c : Nat) : Ready → List Nat
  | .keys _ ks => realKeys ks
  | .alias_ _ w o => aliasKeys c w o
  | .stop _ => []

theorem MemKept.sameBytesBut {s t u : State} {ks : List Nat} (h : MemKept s t) (k : SameBytesBut ks t u) : SameBytesBut ks s u :=
  fun a ha => (k a ha).trans (h.sameBytes a)

/-- The write of values for some keys, and what follows it, changes no byte outside them. -/
theorem State.sameBytesBut_writeCells_retire (s : State) (ag : Agent) (ks : List Nat) (bs : List Byte) :
    SameBytesBut ks s (s.writeCells ag (ks.zip bs)).retire := fun a ha => by
  refine s.byte_writeCells_ne ag _ a fun h => ha ?_
  obtain ⟨⟨k, b⟩, hkb, rfl⟩ := List.mem_map.1 h
  exact (List.of_mem_zip hkb).1

/-- A store changes no byte but those that its checks resolve. -/
theorem State.store_frame (s : State) (va : Word) (n : Nat) (v : Word) :
    SameBytesBut ((s.prepare .store va n).stored s.cur.core) s (s.store va n v) := by
  obtain ⟨checked, same⟩ := s.prepare_frame .store va n
  unfold State.store
  split
  · rename_i h; rw [h] at checked
    exact fun a _ => checked.sameBytes a
  · rename_i t k o h
    obtain rfl := same t k o h
    rw [h]
    split
    · exact fun a _ => (t.memKept_trapUncorr _ _).sameBytes a
    · exact t.sameBytesBut_writeCells_retire _ _ _
  · rename_i t ks h; rw [h] at checked ⊢
    refine checked.sameBytesBut ?_
    split
    · exact fun a _ => (State.memKept_trapUncorr _ _ _).sameBytes a
    · exact State.sameBytesBut_writeCells_retire _ _ _ _

/-! ### The forms -/

theorem memKept_execEcall (s : State) : ∃ u, exec .ecall s = .next u ∧ MemKept s u := by
  refine ⟨_, rfl, ?_⟩
  split
  · exact (s.keeps_queueOut _ _).memKept.trans ⟨rfl, rfl⟩
  · exact .refl s

theorem memKept_execFmt (s : State) (fin fout : BitVec 4) (tab rm mode : BitVec 2) (rs : Reg) :
    ∃ u, exec (.fmt fin fout tab rm rs mode) s = .next u ∧ MemKept s u := by
  by_cases h : s.slot.pfx = none
  · exact ⟨_, exec_fmt_none fin fout tab rm mode rs h, rfl, rfl⟩
  · exact ⟨_, exec_fmt_some fin fout tab rm mode rs h, s.memKept_trap _ _⟩

theorem memKept_execFence (s : State) (fm p q : BitVec 4) (rs rd : Reg) : ∃ u, exec (.fence fm p q rs rd) s = .next u ∧ MemKept s u := by
  obtain ⟨empty, orders, -, -⟩ := s.fences_order fm p q rs rd 0 0 0 0 0
  by_cases h : p = 0 ∨ q = 0
  · exact ⟨_, empty h, rfl, rfl⟩
  · exact ⟨_, orders h, s.memKept_fence _ _ _ _ _⟩

/-- Settles O9: a store writes what its checks resolve, and every part of the other forms keeps memory. -/
theorem onlyStoresChangeMemory : Obligations.OnlyStoresChangeMemory := by
  refine ⟨fun s t rt rs imm => ?_, fun s t rd rs rt imm csr far a b f g h tab rm sc => ?_⟩
  · intro va stored
    have store (n : Nat) (v : Word) (i : Instr) (hi : exec i s = .next (s.store va n v)) (ht : exec i s = .next t) :
        SameBytesBut (stored n) s t := by
      obtain rfl := Host.Outcome.next.inj (hi.symm.trans ht)
      exact s.store_frame va n v
    exact ⟨store 1 _ _ rfl, store 2 _ _ rfl, store 4 _ _ rfl, store 8 _ _ rfl⟩
  · have keeps {i : Instr} (hi : ∃ u, exec i s = .next u ∧ MemKept s u) (ht : exec i s = .next t) : SameBytes s t := by
      obtain ⟨u, hu, kept⟩ := hi
      obtain rfl := Host.Outcome.next.inj (hu.symm.trans ht)
      exact kept.sameBytes
    simp only [List.forall_mem_cons, List.not_mem_nil, false_implies, implies_true, and_true]
    have load := s.memKept_load rd (s.rx rs + sext12 imm)
    exact ⟨keeps ⟨_, rfl, load 1 true⟩, keeps ⟨_, rfl, load 2 true⟩, keeps ⟨_, rfl, load 4 true⟩, keeps ⟨_, rfl, load 8 true⟩,
      keeps ⟨_, rfl, load 1 false⟩, keeps ⟨_, rfl, load 2 false⟩, keeps ⟨_, rfl, load 4 false⟩,
      keeps ⟨_, rfl, s.memKept_loadReserve _ _ _ _ _⟩, keeps ⟨_, rfl, s.memKept_loadReserve _ _ _ _ _⟩,
      keeps ⟨_, rfl, s.memKept_jump _ _⟩, keeps ⟨_, rfl, s.memKept_jump _ _⟩, keeps ⟨_, rfl, s.memKept_branch _ _⟩,
      keeps ⟨_, rfl, s.memKept_branch _ _⟩, keeps ⟨_, rfl, s.memKept_branch _ _⟩, keeps ⟨_, rfl, s.memKept_branch _ _⟩,
      keeps ⟨_, rfl, s.memKept_branch _ _⟩, keeps ⟨_, rfl, s.memKept_branch _ _⟩, keeps (memKept_execEcall s),
      keeps ⟨_, rfl, s.memKept_trap _ _⟩, keeps (memKept_execFmt s _ _ _ _ _ _), keeps ⟨_, rfl, s.memKept_csr _ _ _⟩,
      keeps ⟨_, rfl, s.memKept_csr _ _ _⟩, keeps ⟨_, rfl, s.memKept_csr _ _ _⟩, keeps ⟨_, rfl, s.memKept_csr _ _ _⟩,
      keeps ⟨_, rfl, s.memKept_csr _ _ _⟩, keeps ⟨_, rfl, s.memKept_csr _ _ _⟩, keeps (memKept_execFence s _ _ _ _ _),
      keeps ⟨_, rfl, s.memKept_fence _ _ _ _ _⟩, keeps ⟨_, rfl, s.memKept_ifence _⟩, keeps ⟨_, rfl, s.memKept_fence _ _ _ _ _⟩,
      keeps ⟨_, rfl, s.memKept_ifence _⟩⟩

end Sys2Proof.Machine
end

section
/-!
PROOFS. The forms of the vector unit that write lanes or predicates (R102, R105), and floating arithmetic (R113, R114).
-/
namespace Sys2Proof.Machine

/-! ### What a form of the vector unit leaves -/

/-- Operands that are ready have passed a check. -/
theorem go_of_ite {c : Prop} [Decidable c] {t : State} {v : VReady} {x y : Vec} {sl : Slot}
    (h : (if c then .stop t else v) = .go x y sl) : v = .go x y sl := by
  split at h
  · exact nomatch h
  · exact h

/-- Reading its operands takes entries of ports from a slot, and changes nothing else of it. -/
theorem State.vready_go_frame {s : State} {i : Instr} {srcs : List (Reg × Nat)} {regs : List Reg} {dst : Option Reg} {x y : Vec} {sl : Slot}
    (h : s.vready i srcs regs dst = .go x y sl) : ∃ lq aq, sl = { s.slot with lq := lq, aq := aq } := by
  unfold State.vready at h
  have h := go_of_ite h
  split at h
  · exact nomatch h
  · have h := go_of_ite h
    split at h
    case h_1 =>
      obtain ⟨-, -, rfl⟩ := VReady.go.inj h
      exact ⟨_, _, rfl⟩
    case h_2 =>
      split at h
      · obtain ⟨-, -, rfl⟩ := VReady.go.inj h
        exact (takeSrc_frame ‹_›).1
      · exact nomatch h
    case h_3 =>
      split at h
      · split at h
        · rename_i first _ _ _ second
          obtain ⟨-, -, rfl⟩ := VReady.go.inj h
          obtain ⟨⟨lq, aq, rfl⟩, -⟩ := takeSrc_frame first
          obtain ⟨⟨lq', aq', rfl⟩, -⟩ := takeSrc_frame second
          exact ⟨lq', aq', rfl⟩
        · exact nomatch h
      · exact nomatch h

/-- A form that ends with a slot retires it with its prefix consumed, and changes nothing else (R97). -/
theorem leaves_of_vdone {s : State} {i : Instr} {sl : Slot} (h : exec i s = .next (s.vdone sl)) : Leaves i s { sl.next with pfx := none } := by
  have only := s.onlySlot_modSlot fun _ => { sl with pfx := none }.retire
  exact ⟨_, h, only⟩

/-- A form whose active lanes take `f` gives them, and leaves the others as the destination held them (R102). -/
theorem gives_lanes {s : State} {i : Instr} {srcs : List (Reg × Nat)} {x y : Vec} {sl : Slot} {vd : Reg} {w : Nat} {pg : PReg}
    {f g : Nat → Nat} (go : s.vready i srcs [] (some vd) = .go x y sl)
    (h : exec i s = .next (s.vdone (putDst sl vd (mergeLanes w (sl.rp pg) (oldDst sl vd) f))))
    (e : ∀ k, k < 256 / w → f k % 2 ^ w = g k % 2 ^ w) :
    ∃ r : Vec, (∀ k, k < 256 / w → lane w k r =
        if (s.slot.rp pg).getLsbD (w / 8 * k) then g k % 2 ^ w else lane w k (oldDst s.slot vd)) ∧
      Leaves i s { (putDst sl vd r).next with pfx := none } := by
  refine ⟨_, fun k hk => ?_, leaves_of_vdone h⟩
  obtain ⟨lq, aq, rfl⟩ := State.vready_go_frame go
  rw [lane_mergeLanes _ _ _ hk, e k hk]
  rfl

/-- A bit of a predicate formed from lane results (R102). -/
theorem getLsbD_predOf (w : Nat) (p : BitVec 32) (f : Nat → Bool) {j : Nat} (hj : j < 32) :
    (predOf w p f).getLsbD j = (p.getLsbD (w / 8 * (j / (w / 8))) && f (j / (w / 8))) := by
  have bit := joinLanes_lane 1 ((List.range 32).map fun j => if active w (j / (w / 8)) p && f (j / (w / 8)) then 1 else 0) j (by simpa)
  rw [List.getElem_map, List.getElem_range, Nat.one_mul] at bit
  rw [predOf, BitVec.getLsbD_ofNat, decide_eq_true hj, Bool.true_and, Nat.testBit_eq_decide_div_mod_eq]
  show decide (_ % 2 ^ 1 = 1) = (active w (j / (w / 8)) p && f (j / (w / 8)))
  rw [bit]
  cases active w (j / (w / 8)) p && f (j / (w / 8)) <;> rfl

/-- A slot with a predicate written; p0 is not (R11). -/
theorem Slot.wp_next (sl : Slot) (pd : PReg) (v : BitVec 32) : { (sl.wp pd v).next with pfx := none } =
    { sl.next with p := if pd = 0 then sl.p else sl.p.set pd.toNat v, pfx := none } := by
  unfold Slot.wp
  split <;> rfl

/-! ### Floating forms -/

section
variable {s : State} {f : Fmt} {i : Instr} {a b vd : Reg} {pg pd : PReg} {x y : Vec} {sl : Slot}

theorem State.float2_illegal (h : arithFmt s = none) (i : Instr) (pg : PReg) (vd a b : Reg) (op : Rm → Ex → Ex → Ex) :
    s.float2 i pg vd a b op = s.trap causeIllegal (wordOf i) := by simp only [State.float2, h]

theorem State.float2_go (h : arithFmt s = some f) (go : s.vready i [(a, f.fin.width), (b, f.fin.width)] [] (some vd) = .go x y sl)
    (pg : PReg) (op : Rm → Ex → Ex → Ex) :
    s.float2 i pg vd a b op = s.vdone (putDst sl vd (mergeLanes f.fin.width (sl.rp pg) (oldDst sl vd) fun k =>
      f.result (op f.rm (f.opnd (lane f.fin.width k x)) (f.opnd (lane f.fin.width k y))))) := by
  simp only [State.float2, h, go]

theorem State.fcmp_illegal (h : cmpFmt s = none) (i : Instr) (pg pd : PReg) (a b : Reg) (rel : Ex → Ex → Bool) :
    s.fcmp i pg pd a b rel = s.trap causeIllegal (wordOf i) := by simp only [State.fcmp, h]

/-- A comparison sets the bits of its active lanes, and clears those of the others (R114). -/
theorem State.fcmp_sets {rel : Ex → Ex → Bool} (h : cmpFmt s = some f)
    (go : s.vready i [(a, f.fin.width), (b, f.fin.width)] [] none = .go x y sl) (run : exec i s = .next (s.fcmp i pg pd a b rel)) :
    ∃ r : BitVec 32, (∀ j, j < 32 → r.getLsbD j = ((s.slot.rp pg).getLsbD (f.fin.width / 8 * (j / (f.fin.width / 8))) &&
        rel (f.opnd (lane f.fin.width (j / (f.fin.width / 8)) x)) (f.opnd (lane f.fin.width (j / (f.fin.width / 8)) y)))) ∧
      Leaves i s { sl.next with p := if pd = 0 then sl.p else sl.p.set pd.toNat r, pfx := none } := by
  simp only [State.fcmp, h, go] at run
  refine ⟨_, fun j hj => ?_, Slot.wp_next sl pd _ ▸ leaves_of_vdone run⟩
  obtain ⟨lq, aq, rfl⟩ := State.vready_go_frame go
  exact getLsbD_predOf _ _ _ hj

theorem exec_vfma_go (h : arithFmt s = some f) (hd : vd.toNat < 28)
    (go : s.vready (.vfma pg vd a b) [(a, f.fin.width), (b, f.fin.width)] [] (some vd) = .go x y sl) :
    exec (.vfma pg vd a b) s = .next (s.vdone (putDst sl vd (mergeLanes f.fin.width (sl.rp pg) (oldDst sl vd) fun k =>
      f.result (((f.opnd (lane f.fin.width k x)).mul (f.opnd (lane f.fin.width k y))).add f.rm
        (f.opnd (lane f.fin.width k (oldDst sl vd))))))) := by
  have old : oldDst sl vd = sl.rv vd.toNat := if_neg (by simpa [isPort] using hd)
  show execVfma pg vd a b s = _
  simp only [execVfma, h, go, old]

theorem exec_vfrcp_go (h : arithFmt s = some f) (go : s.vready (.vfrcp pg vd a) [(a, f.fin.width)] [] (some vd) = .go x y sl) :
    exec (.vfrcp pg vd a) s = .next (s.vdone (putDst sl vd (mergeLanes f.fin.width (sl.rp pg) (oldDst sl vd) fun k =>
      f.result (f.opnd (lane f.fin.width k x)).recip))) := by
  show execVfrcp pg vd a s = _
  simp only [execVfrcp, h, go]

theorem exec_vfma_illegal (h : arithFmt s = none) : exec (.vfma pg vd a b) s = .next (s.trap causeIllegal (wordOf (.vfma pg vd a b))) := by
  show execVfma pg vd a b s = _
  simp only [execVfma, h]

theorem exec_vfrcp_illegal (h : arithFmt s = none) : exec (.vfrcp pg vd a) s = .next (s.trap causeIllegal (wordOf (.vfrcp pg vd a))) := by
  show execVfrcp pg vd a s = _
  simp only [execVfrcp, h]

end

theorem heldOf_none {s : State} (h : s.slot.pfx = none) : heldOf s = .zero := by rw [heldOf, h]; rfl

/-- Settles O37: every form takes its lanes from its operands under the prefix that it accepts, or traps. -/
theorem floatingLanesRoundExactResultsOnce : Obligations.FloatingLanesRoundExactResultsOnce := by
  intro s pg pd vd a b x y sl opnd rounded illegal gives sets
  refine ⟨fun none => ?_, fun none => ?_, fun none => ?_, fun f accepted => ?_, fun f accepted => ?_⟩
  · refine ⟨fmtOf s .zero .fp32 .fp32, ?_, ?_, rfl, rfl, rfl, rfl⟩
    · rw [arithFmt, heldOf_none none]; rfl
    · rw [cmpFmt, heldOf_none none]; rfl
  · have two (i : Instr) (op : Rm → Ex → Ex → Ex) (run : exec i s = .next (s.float2 i pg vd a b op)) : illegal i :=
      run.trans (congrArg _ (State.float2_illegal none i pg vd a b op))
    simp only [List.forall_mem_cons, List.not_mem_nil, false_implies, implies_true, and_true]
    exact ⟨two _ _ rfl, two _ _ rfl, two _ _ rfl, exec_vfma_illegal none, two _ _ rfl, two _ _ rfl, exec_vfrcp_illegal none⟩
  · have two (i : Instr) (rel : Ex → Ex → Bool) (run : exec i s = .next (s.fcmp i pg pd a b rel)) : illegal i :=
      run.trans (congrArg _ (State.fcmp_illegal none i pg pd a b rel))
    simp only [List.forall_mem_cons, List.not_mem_nil, false_implies, implies_true, and_true]
    exact ⟨two _ _ rfl, two _ _ rfl, two _ _ rfl, two _ _ rfl⟩
  · intro w two p q
    have float (i : Instr) (op : Rm → Ex → Ex → Ex) (run : exec i s = .next (s.float2 i pg vd a b op)) :
        gives i f two fun k => op f.rm (p k) (q k) := fun go =>
      gives_lanes go (run.trans (congrArg _ (State.float2_go accepted go pg op))) fun _ _ => rfl
    refine ⟨float _ (fun rm x y => x.add rm y) rfl, float _ (fun rm x y => x.add rm y.neg) rfl, float _ (fun _ x y => x.mul y) rfl, fun hd go => ?_,
      float _ (fun _ x y => x.minimum y) rfl, float _ (fun _ x y => x.maximum y) rfl,
      fun go => gives_lanes go (exec_vfrcp_go accepted go) fun _ _ => rfl⟩
    refine gives_lanes go (exec_vfma_go accepted hd go) fun k _ => ?_
    obtain ⟨lq, aq, rfl⟩ := State.vready_go_frame go
    rfl
  · exact ⟨fun go => State.fcmp_sets accepted go rfl, fun go => State.fcmp_sets accepted go rfl,
      fun go => State.fcmp_sets accepted go rfl, fun go => State.fcmp_sets accepted go rfl⟩

end Sys2Proof.Machine
end

section
/-!
PROOFS. Conversions, T8 codes and traces by lane (R115 to R117, R123 to R125).
-/
namespace Sys2Proof.Machine

/-! ### Integers of some bits -/

/-- A number below 2^w, read as two's complement of `w` bits. -/
theorem toSigned_eq_toInt {w v : Nat} (hw : w ≠ 0) (hv : v < 2 ^ w) : toSigned w v = (BitVec.ofNat w v).toInt := by
  have half : 2 ^ w = 2 * 2 ^ (w - 1) := by rw [← Nat.pow_succ', Nat.succ_eq_add_one, Nat.sub_add_cancel (Nat.pos_of_ne_zero hw)]
  rw [BitVec.toInt_eq_toNat_cond, BitVec.toNat_ofNat, Nat.mod_eq_of_lt hv, toSigned, ← Nat.cast_ofNat (R := Int) (n := 2), ← Nat.cast_pow]
  exact if_congr (by omega) rfl rfl

theorem ofSigned_eq_toNat (w : Nat) (n : Int) : ofSigned w n = (BitVec.ofInt w n).toNat := by
  rw [BitVec.toNat_ofInt, ofSigned, Nat.cast_pow, Nat.cast_ofNat]

theorem NumFmt.width_ne_zero (f : NumFmt) : f.width ≠ 0 := by cases f <;> decide

theorem NumFmt.isInt_iff (f : NumFmt) : f.isInt = true ↔ f ∈ [NumFmt.i8, .i16, .i32, .c8, .c16, .c32] := by cases f <;> decide

/-- The integer that some bits are in an integer format: signed in the first three, cardinal in the others. -/
theorem intOf_eq {f : NumFmt} (hf : f ∈ [NumFmt.i8, .i16, .i32, .c8, .c16, .c32]) {v : Nat} (hv : v < 2 ^ f.width) :
    intOf f v = if f ∈ [NumFmt.i8, .i16, .i32] then (BitVec.ofNat f.width v).toInt else v := by
  rw [← toSigned_eq_toInt f.width_ne_zero hv]
  have low : v % 2 ^ f.width = v := Nat.mod_eq_of_lt hv
  simp only [List.mem_cons, List.not_mem_nil, or_false] at hf
  rcases hf with rfl | rfl | rfl | rfl | rfl | rfl <;> simp [intOf, low]

theorem Fmt.widens_iff (f : Fmt) : f.widens = true ↔ f.mode = 0 ∧ f.fin ∈ [NumFmt.i8, .i16, .i32, .c8, .c16, .c32] ∧
    f.fout ∈ [NumFmt.i8, .i16, .i32, .c8, .c16, .c32] ∧ f.fin.width < f.fout.width := by
  rw [← NumFmt.isInt_iff, ← NumFmt.isInt_iff, Fmt.widens]
  simp only [Bool.and_eq_true, beq_iff_eq, decide_eq_true_eq, and_assoc]

/-- A lane converted: extended to a wider integer format, and otherwise scaled and rounded. -/
theorem Fmt.convert_eq (f : Fmt) {v : Nat} (hv : v < 2 ^ f.fin.width) : f.convert v =
    if f.mode = 0 ∧ f.fin ∈ [NumFmt.i8, .i16, .i32, .c8, .c16, .c32] ∧ f.fout ∈ [NumFmt.i8, .i16, .i32, .c8, .c16, .c32] ∧
        f.fin.width < f.fout.width then
      (BitVec.ofInt f.fout.width (if f.fin ∈ [NumFmt.i8, .i16, .i32] then (BitVec.ofNat f.fin.width v).toInt else v)).toNat
    else f.result (f.opnd v) := by
  rw [Fmt.convert]
  by_cases h : f.widens = true
  · obtain ⟨mode, int, int', wider⟩ := f.widens_iff.1 h
    rw [if_pos h, if_pos ⟨mode, int, int', wider⟩, ofSigned_eq_toNat, intOf_eq int hv]
  · rw [if_neg h, if_neg fun e => h (f.widens_iff.2 e)]

/-- A parameter of `vtfade`: the amount in its low half, the threshold, clamped, in its high half. -/
theorem traceFade_eq (e : Nat) {v : Nat} (hv : v < 2 ^ 32) : traceFade e v = fadeTl16 e 1 ((BitVec.ofNat 32 v).toNat % 2 ^ 16)
    (max (-16383) (min ((BitVec.ofNat 32 v).extractLsb' 16 16).toInt 16383)) := by
  have low : (BitVec.ofNat 32 v).toNat = v := by rw [BitVec.toNat_ofNat, Nat.mod_eq_of_lt hv]
  have high : (BitVec.ofNat 32 v).extractLsb' 16 16 = BitVec.ofNat 16 (v / 2 ^ 16 % 2 ^ 16) := by
    apply BitVec.eq_of_toNat_eq
    rw [BitVec.extractLsb'_toNat, low, BitVec.toNat_ofNat, Nat.mod_mod, Nat.shiftRight_eq_div_pow]
  have clamped (l : Int) : clampLmin l = max (-16383) (min l 16383) := by rw [clampLmin, clamp]; omega
  rw [traceFade, clamped, toSigned_eq_toInt (by decide) (Nat.mod_lt _ (by decide)), high, low]

/-! ### The forms -/

section
variable {s : State} {f : Fmt} {a b vd : Reg} {pg : PReg} {x y : Vec} {sl : Slot}

theorem exec_vcvt_illegal (h : cvtFmt s = none) : exec (.vcvt pg vd a) s = .next (s.trap causeIllegal (wordOf (.vcvt pg vd a))) := by
  show execVcvt pg vd a s = _
  simp only [execVcvt, h]

theorem exec_vcvt_go (h : cvtFmt s = some f) (go : s.vready (.vcvt pg vd a) [(a, f.fin.width)] [] (some vd) = .go x y sl) :
    exec (.vcvt pg vd a) s = .next (s.vdone (putDst sl vd (mergeLanes f.fout.width (sl.rp pg) (oldDst sl vd) fun k =>
      if k < min (256 / f.fin.width) (256 / f.fout.width) then f.convert (lane f.fin.width k x) else 0))) := by
  show execVcvt pg vd a s = _
  simp only [execVcvt, h, go]

theorem exec_venc8_illegal (h : encFmt s = none) : exec (.venc8 pg vd a) s = .next (s.trap causeIllegal (wordOf (.venc8 pg vd a))) := by
  show execVenc8 pg vd a s = _
  simp only [execVenc8, h]

theorem exec_venc8_go (h : encFmt s = some f) (go : s.vready (.venc8 pg vd a) [(a, f.fin.width)] [] (some vd) = .go x y sl) :
    exec (.venc8 pg vd a) s = .next (s.vdone (putDst sl vd (mergeLanes 8 (sl.rp pg) (oldDst sl vd) fun k =>
      if k < 256 / f.fin.width then f.result (f.opnd (lane f.fin.width k x)) else 0))) := by
  show execVenc8 pg vd a s = _
  simp only [execVenc8, h, go]

theorem exec_vdec8_illegal (h : dec8Fmt s = none) : exec (.vdec8 pg vd a) s = .next (s.trap causeIllegal (wordOf (.vdec8 pg vd a))) := by
  show execVdec8 pg vd a s = _
  simp only [execVdec8, h]

theorem exec_vdec8_go (h : dec8Fmt s = some f) (go : s.vready (.vdec8 pg vd a) [(a, 8)] [] (some vd) = .go x y sl) :
    exec (.vdec8 pg vd a) s = .next (s.vdone (putDst sl vd (mergeLanes f.fout.width (sl.rp pg) (oldDst sl vd) fun k =>
      f.result (f.opnd (lane 8 k x))))) := by
  show execVdec8 pg vd a s = _
  simp only [execVdec8, h, go]

theorem State.trace2_illegal (h : traceFmt s = none) (i : Instr) (pg : PReg) (vd a b : Reg) (f : Nat → Nat → Nat) :
    s.trace2 i pg vd a b f = s.trap causeIllegal (wordOf i) := by simp only [State.trace2, h]

theorem State.trace2_go {i : Instr} (h : traceFmt s = some ()) (go : s.vready i [(a, 16), (b, 32)] [] (some vd) = .go x y sl)
    (pg : PReg) (f : Nat → Nat → Nat) : s.trace2 i pg vd a b f =
      s.vdone (putDst sl vd (mergeLanes 16 (sl.rp pg) (oldDst sl vd) fun k => f (lane 16 k x) (lane 32 (k / 2) y))) := by
  simp only [State.trace2, h, go]

theorem exec_vtdec_illegal (h : traceFmt s = none) : exec (.vtdec pg vd a) s = .next (s.trap causeIllegal (wordOf (.vtdec pg vd a))) := by
  show execVtdec pg vd a s = _
  simp only [execVtdec, h]

theorem exec_vtdec_go (h : traceFmt s = some ()) (go : s.vready (.vtdec pg vd a) [(a, 16)] [] (some vd) = .go x y sl) :
    exec (.vtdec pg vd a) s = .next (s.vdone (putDst sl vd (mergeLanes 32 (sl.rp pg) (oldDst sl vd) fun k =>
      decode32 (lane 16 k x)))) := by
  show execVtdec pg vd a s = _
  simp only [execVtdec, h, go]

theorem exec_vtenc_illegal (h : traceFmt s = none) : exec (.vtenc pg vd a) s = .next (s.trap causeIllegal (wordOf (.vtenc pg vd a))) := by
  show execVtenc pg vd a s = _
  simp only [execVtenc, h]

theorem exec_vtenc_go (h : traceFmt s = some ()) (go : s.vready (.vtenc pg vd a) [(a, 32)] [] (some vd) = .go x y sl) :
    exec (.vtenc pg vd a) s = .next (s.vdone (putDst sl vd (mergeLanes 16 (sl.rp pg) (oldDst sl vd) fun k =>
      if k < 8 then encodeTl16 (lane 32 k x) else 0x4000))) := by
  show execVtenc pg vd a s = _
  simp only [execVtenc, h, go]

end

/-- A trace form accepts the prefix whose fields are all zero, and no other (R123). -/
theorem traceFmt_iff {s : State} {h : Held} (held : s.slot.pfx = some h) : traceFmt s = some () ↔ h = ⟨0, 0, 0, 0, 0, 0⟩ := by
  have same : heldOf s = h := by rw [heldOf, held]; rfl
  obtain ⟨fin, fout, tab, rm, mode, scale⟩ := h
  simp [traceFmt, same, and_assoc]

/-- Settles O38: each form takes its lanes from those of its sources under the prefix that it accepts, or traps. -/
theorem conversionsAndTracesGiveTheirLanes : Obligations.ConversionsAndTracesGiveTheirLanes := by
  intro s pg vd a b x y sl opnd rounded illegal gives
  refine ⟨exec_vcvt_illegal, exec_venc8_illegal, exec_vdec8_illegal, fun none => ?_, fun none => ?_, fun h held => traceFmt_iff held,
    fun f accepted => ?_, fun f accepted go => gives_lanes go (exec_venc8_go accepted go) fun _ _ => rfl,
    fun f accepted go => gives_lanes go (exec_vdec8_go accepted go) fun _ _ => rfl, fun accepted => ?_⟩
  · have two (i : Instr) (f : Nat → Nat → Nat) (run : exec i s = .next (s.trace2 i pg vd a b f)) : illegal i :=
      run.trans (congrArg _ (State.trace2_illegal none i pg vd a b f))
    simp only [List.forall_mem_cons, List.not_mem_nil, false_implies, implies_true, and_true]
    exact ⟨two _ _ rfl, two _ _ rfl, exec_vtdec_illegal none, exec_vtenc_illegal none⟩
  · rw [cvtFmt, encFmt, dec8Fmt, traceFmt, heldOf_none none]
    exact ⟨Option.some_ne_none _, Option.some_ne_none _, Option.some_ne_none _, rfl⟩
  · intro ints wider exact go
    refine gives_lanes go (exec_vcvt_go accepted go) fun k _ => ?_
    rw [f.convert_eq (lane_lt _ _ _)]
    rfl
  · have trace (i : Instr) (op : Nat → Nat → Nat) (run : exec i s = .next (s.trace2 i pg vd a b op)) :
        gives i [(a, 16), (b, 32)] 16 fun k => op (lane 16 k x) (lane 32 (k / 2) y) := fun go =>
      gives_lanes go (run.trans (congrArg _ (State.trace2_go accepted go pg op))) fun _ _ => rfl
    refine ⟨?_, trace _ traceAdd rfl, fun go => gives_lanes go (exec_vtdec_go accepted go) fun _ _ => rfl,
      fun go => gives_lanes go (exec_vtenc_go accepted go) fun _ _ => rfl⟩
    have fade := trace (.vtfade pg vd a b) traceFade rfl
    simp only [traceFade_eq _ (lane_lt 32 _ y)] at fade
    exact fade

end Sys2Proof.Machine
end

section
/-!
PROOFS. The moves, the lane operations, the reductions and the predicate forms (R109, R118 to R122).
-/
namespace Sys2Proof.Machine

/-! ### Lanes -/

theorem widthOf_cases (ew : BitVec 2) : widthOf ew = 8 ∨ widthOf ew = 16 ∨ widthOf ew = 32 := by
  unfold widthOf
  split
  · exact .inl rfl
  · split
    · exact .inr (.inl rfl)
    · exact .inr (.inr rfl)

theorem widthOf_ne_zero (ew : BitVec 2) : widthOf ew ≠ 0 := by rcases widthOf_cases ew with h | h | h <;> rw [h] <;> decide

theorem laneS_eq (ew : BitVec 2) (k : Nat) (v : Vec) : laneS (widthOf ew) k v = (BitVec.ofNat (widthOf ew) (lane (widthOf ew) k v)).toInt :=
  toSigned_eq_toInt (widthOf_ne_zero ew) (lane_lt _ _ _)

/-- A signed number of `w` bits that is the sign-extension pushed into `bq` (R121). -/
theorem pushInt_eq {w v : Nat} (hw : w ≠ 0) (hv : v < 2 ^ w) : pushInt w v = BitVec.ofInt 64 (BitVec.ofNat w v).toInt := by
  rw [pushInt, toSigned_eq_toInt hw hv]

theorem Slot.wx_next (sl : Slot) (rd : Reg) (v : Word) : { (sl.wx rd v).next with pfx := none } = { sl.after rd v with pfx := none } := by
  rw [← Slot.wx_retire]
  rfl

/-- A form with its lanes shuffled gives them (R118). -/
theorem gives_shuffle {s : State} {i : Instr} {srcs : List (Reg × Nat)} {x y : Vec} {sl : Slot} {vd : Reg} {w : Nat} {pg : PReg}
    {f : Vec → Vec → Nat → Nat} {g : Nat → Nat} (run : exec i s = .next (s.shuffle i w pg vd srcs f))
    (go : s.vready i srcs [] (some vd) = .go x y sl) (e : ∀ k, k < 256 / w → f x y k % 2 ^ w = g k % 2 ^ w) :
    ∃ r : Vec, (∀ k, k < 256 / w → lane w k r =
        if (s.slot.rp pg).getLsbD (w / 8 * k) then g k % 2 ^ w else lane w k (oldDst s.slot vd)) ∧
      Leaves i s { (putDst sl vd r).next with pfx := none } :=
  gives_lanes go (run.trans (by simp only [State.shuffle, go])) e

/-! ### Reductions -/

/-- A result over the active lanes goes to every lane of the destination, or into `bq` (R119, R121). -/
theorem gives_reduce {s : State} {i : Instr} {x y : Vec} {sl : Slot} {vd a : Reg} {w wd : Nat} {pg : PReg}
    {f : List (Nat × Nat) → Nat} {push : Nat → Word} {val : Nat} {word : Word} (run : exec i s = .next (s.reduce i w wd pg vd a f push))
    (e : let r := f ((activeLanes w (s.slot.rp pg)).map fun k => (k, lane w k x)); r % 2 ^ wd = val % 2 ^ wd ∧ push r = word)
    (go : s.vready i [(a, w)] [] (some vd) = .go x y sl) :
    if vd = 30 then Leaves i s { sl.next with bq := sl.bq ++ [word], pfx := none }
    else ∃ r : Vec, (∀ j, j < 256 / wd → lane wd j r = val % 2 ^ wd) ∧ Leaves i s { (putDst sl vd r).next with pfx := none } := by
  have active : sl.rp pg = s.slot.rp pg := by
    obtain ⟨lq, aq, rfl⟩ := State.vready_go_frame go
    rfl
  obtain ⟨lanes, pushed⟩ := e
  simp only [State.reduce, go, active, pushed] at run
  split
  · rw [if_pos ‹_›] at run
    exact leaves_of_vdone run
  · rw [if_neg ‹_›] at run
    exact ⟨_, fun j hj => (lane_ofLanes _ hj).trans lanes, leaves_of_vdone run⟩

section
variable (w : Nat) (p : BitVec 32) (x : Vec)

theorem sum_map_filter {α : Type} (l : List α) (p : α → Bool) (f : α → Nat) :
    ((l.filter p).map f).sum = (l.map fun a => if p a then f a else 0).sum := by
  induction l with
  | nil => rfl
  | cons a l ih =>
    rw [List.filter_cons]
    cases h : p a <;> simp [h, ih]

/-- The four votes over the active lanes (R119). -/
theorem vote_eq (k : Reg) :
    let act : Nat → Bool := fun j => p.getLsbD (w / 8 * j)
    let lanes := (List.range (256 / w)).filter act
    vote k.toNat ((activeLanes w p).map fun k => (k, lane w k x)) =
      if k = 0 then (if lanes.any fun j => lane w j x ≠ 0 then 1 else 0)
      else if k = 1 then (if lanes.all fun j => lane w j x ≠ 0 then 1 else 0)
      else if k = 2 then ((List.range (256 / w)).map fun j => if act j ∧ lane w j x ≠ 0 then 2 ^ j else 0).sum
      else if lanes.all fun i => lanes.all fun j => lane w i x == lane w j x then 1 else 0 := by
  intro act lanes
  have same : activeLanes w p = lanes := rfl
  have code (n : Nat) (hn : n < 32) : (k.toNat = n) = (k = BitVec.ofNat 5 n) := by
    rw [← BitVec.toNat_inj, BitVec.toNat_ofNat, Nat.mod_eq_of_lt hn]
  simp only [vote, same, code 0 (by decide), code 1 (by decide), code 2 (by decide), List.any_map, List.all_map, List.map_map]
  refine ite_congr rfl (fun _ => ?_) fun _ => ite_congr rfl (fun _ => ?_) fun _ => ite_congr rfl (fun _ => ?_) fun _ => ?_
  · simp only [Function.comp_def, bne, beq_eq_decide, decide_not]
  · simp only [Function.comp_def, bne, beq_eq_decide, decide_not]
  · rw [sum_map_filter]
    refine congrArg List.sum (List.map_congr_left fun j _ => ?_)
    by_cases ha : act j = true <;> by_cases hz : lane w j x = 0 <;> simp [ha, hz]
  · cases lanes with
    | nil => rfl
    | cons i l =>
      refine if_congr ?_ rfl rfl
      simp only [List.all_map, Function.comp_def, List.all_eq_true, beq_iff_eq]
      exact ⟨fun h => List.forall_mem_cons.2 ⟨List.forall_mem_cons.2 ⟨rfl, fun j hj => (h j hj).symm⟩,
          fun j hj => List.forall_mem_cons.2 ⟨h j hj, fun m hm => (h j hj).trans (h m hm).symm⟩⟩,
        fun h j hj => (h j (List.mem_cons_of_mem _ hj) i List.mem_cons_self)⟩

/-- What the fixed tree of eight lanes enters for a lane: its value, or −0 where it is not active (R46). -/
theorem find_activeLanes {j : Nat} (hj : j < 256 / w) (d : Nat) :
    ((((activeLanes w p).map fun k => (k, lane w k x)).find? fun q => q.1 == j).map Prod.snd).getD d =
      if p.getLsbD (w / 8 * j) then lane w j x else d := by
  rw [List.find?_map, Option.map_map]
  show (((activeLanes w p).find? fun k => k == j).map fun k => lane w k x).getD d = _
  by_cases h : p.getLsbD (w / 8 * j) = true
  · have mem : j ∈ activeLanes w p := List.mem_filter.2 ⟨List.mem_range.2 hj, h⟩
    have found : (activeLanes w p).find? (fun k => k == j) = some j := by
      cases e : (activeLanes w p).find? fun k => k == j with
      | none => exact absurd (beq_self_eq_true j) (List.find?_eq_none.1 e j mem)
      | some k =>
        have hk : (k == j) = true := List.find?_some (p := fun k => k == j) e
        rw [beq_iff_eq.1 hk]
    rw [found, if_pos h]
    rfl
  · have found : (activeLanes w p).find? (fun k => k == j) = none := by
      refine List.find?_eq_none.2 fun k hk e => h ?_
      rw [← beq_iff_eq.1 e]
      exact (List.mem_filter.1 hk).2
    rw [found, if_neg h]
    rfl

theorem faddTree_congr {f g : Nat → Nat} (h : ∀ j, j < 8 → f j = g j) : faddTree f = faddTree g := by
  simp only [faddTree, h 0 (by decide), h 1 (by decide), h 2 (by decide), h 3 (by decide), h 4 (by decide), h 5 (by decide),
    h 6 (by decide), h 7 (by decide)]

variable {w}

/-- A fold of an operation on lanes is the fold of the operation on the integers that they are. -/
theorem foldl_lanes {iop : Nat → Nat → Nat} {zop : Int → Int → Int} (hw : w ≠ 0)
    (h : ∀ m v, m < 2 ^ w → v < 2 ^ w → iop m v < 2 ^ w ∧ toSigned w (iop m v) = zop (toSigned w m) (toSigned w v)) (lanes : List Nat)
    (m : Nat) (hm : m < 2 ^ w) :
    (lanes.map fun k => (k, lane w k x)).foldl (fun m q => iop m q.2) m < 2 ^ w ∧
      toSigned w ((lanes.map fun k => (k, lane w k x)).foldl (fun m q => iop m q.2) m) =
        lanes.foldl (fun m j => zop m (BitVec.ofNat w (lane w j x)).toInt) (toSigned w m) := by
  induction lanes generalizing m with
  | nil => exact ⟨hm, rfl⟩
  | cons j lanes ih =>
    obtain ⟨lt, eq⟩ := h m (lane w j x) hm (lane_lt w j x)
    rw [toSigned_eq_toInt hw (lane_lt w j x)] at eq
    rw [List.map_cons, List.foldl_cons, List.foldl_cons, ← eq]
    exact ih _ lt

theorem laneMin_spec (m v : Nat) (hm : m < 2 ^ w) (hv : v < 2 ^ w) :
    laneMin w m v < 2 ^ w ∧ toSigned w (laneMin w m v) = min (toSigned w m) (toSigned w v) := by
  unfold laneMin
  split
  · exact ⟨hv, (min_eq_right (le_of_lt ‹_›)).symm⟩
  · exact ⟨hm, (min_eq_left (not_lt.1 ‹_›)).symm⟩

theorem laneMax_spec (m v : Nat) (hm : m < 2 ^ w) (hv : v < 2 ^ w) :
    laneMax w m v < 2 ^ w ∧ toSigned w (laneMax w m v) = max (toSigned w m) (toSigned w v) := by
  unfold laneMax
  split
  · exact ⟨hv, (max_eq_right (le_of_lt ‹_›)).symm⟩
  · exact ⟨hm, (max_eq_left (not_lt.1 ‹_›)).symm⟩

/-- The number that a fold of an operation on lanes ends with, and the word pushed for it, are those of the integer (R121). -/
theorem foldl_lanes_result {iop : Nat → Nat → Nat} {zop : Int → Int → Int} (hw : w ≠ 0)
    (h : ∀ m v, m < 2 ^ w → v < 2 ^ w → iop m v < 2 ^ w ∧ toSigned w (iop m v) = zop (toSigned w m) (toSigned w v)) (lanes : List Nat)
    {m : Nat} {z : Int} (start : m < 2 ^ w ∧ toSigned w m = z) :
    let r := (lanes.map fun k => (k, lane w k x)).foldl (fun m q => iop m q.2) m
    let n := lanes.foldl (fun m j => zop m (BitVec.ofNat w (lane w j x)).toInt) z
    r % 2 ^ w = (BitVec.ofInt w n).toNat % 2 ^ w ∧ pushInt w r = BitVec.ofInt 64 n := by
  intro r n
  obtain ⟨lt, eq⟩ := foldl_lanes x hw h lanes m start.1
  rw [start.2] at eq
  have hn : n = toSigned w r := eq.symm
  rw [hn, toSigned_eq_toInt hw lt, BitVec.ofInt_toInt, BitVec.toNat_ofNat, Nat.mod_mod, pushInt_eq hw lt]
  exact ⟨rfl, rfl⟩

/-- The extremes of `w` bits, from which a minimum and a maximum start. -/
theorem toSigned_extremes (hw : w ≠ 0) :
    (2 ^ (w - 1) - 1 < 2 ^ w ∧ toSigned w (2 ^ (w - 1) - 1) = 2 ^ (w - 1) - 1) ∧
      2 ^ (w - 1) < 2 ^ w ∧ toSigned w (2 ^ (w - 1)) = -(2 ^ (w - 1)) := by
  have half : 2 ^ w = 2 * 2 ^ (w - 1) := by rw [← Nat.pow_succ', Nat.succ_eq_add_one, Nat.sub_add_cancel (Nat.pos_of_ne_zero hw)]
  have halfZ : (2 : Int) ^ w = 2 * 2 ^ (w - 1) := by exact_mod_cast half
  have pos : 0 < 2 ^ (w - 1) := Nat.two_pow_pos _
  refine ⟨⟨by omega, ?_⟩, by omega, ?_⟩
  · rw [toSigned, if_pos (by omega)]
    push_cast [Nat.cast_sub (Nat.one_le_two_pow)]
    rfl
  · rw [toSigned, if_neg (lt_irrefl _), halfZ]
    push_cast
    ring

end

/-! ### The forms -/

theorem portIllegal_bq (s : State) : portIllegal s 30 = (!s.slot.compat && s.slot.ports.bq == 0) := rfl

theorem portIllegal_bq_of_legal {s : State} (legal : s.slot.compat = true ∨ s.slot.ports.bq ≠ 0) : portIllegal s 30 = false := by
  rw [portIllegal_bq]
  rcases legal with h | h <;> simp [h]

theorem exec_vmvx_pop {s : State} (ew : BitVec 2) (rd k : Reg) (legal : s.slot.compat = true ∨ s.slot.ports.bq ≠ 0) {v : Word}
    {rest : List Word} (h : s.slot.bq = v :: rest) :
    exec (.vmvx ew rd 30 k) s = .next (s.vdone ({ s.slot with bq := rest }.wx rd v)) := by
  show execVmvx ew rd 30 k s = _
  simp only [execVmvx, portIllegal_bq_of_legal legal, h, if_true, Bool.false_eq_true, if_false]

theorem exec_vmvx_waits {s : State} (ew : BitVec 2) (rd k : Reg) (legal : s.slot.compat = true ∨ s.slot.ports.bq ≠ 0)
    (h : s.slot.bq = []) : exec (.vmvx ew rd 30 k) s = .next s := by
  show execVmvx ew rd 30 k s = _
  simp only [execVmvx, portIllegal_bq_of_legal legal, h, if_true, Bool.false_eq_true, if_false]

theorem exec_vmvx_illegal {s : State} (ew : BitVec 2) (rd k : Reg) (native : s.slot.compat = false) (undeclared : s.slot.ports.bq = 0) :
    exec (.vmvx ew rd 30 k) s = .next (s.trap causeIllegal (wordOf (.vmvx ew rd 30 k))) := by
  have bad : portIllegal s 30 = true := by rw [portIllegal_bq, native, undeclared]; rfl
  show execVmvx ew rd 30 k s = _
  simp only [execVmvx, bad, if_true]

theorem exec_vmvx_lane {s : State} (ew : BitVec 2) (rd k : Reg) {a : Reg} (ha : a ≠ 30) {x y : Vec} {sl : Slot}
    (go : s.vready (.vmvx ew rd a k) [(a, widthOf ew)] [] none = .go x y sl) :
    exec (.vmvx ew rd a k) s = .next (s.vdone (sl.wx rd (BitVec.ofInt 64 (laneS (widthOf ew) k.toNat x)))) := by
  show execVmvx ew rd a k s = _
  simp only [execVmvx, if_neg ha, go]

theorem exec_vmxv_go {s : State} (ew : BitVec 2) (vd rs k : Reg) {x y : Vec} {sl : Slot}
    (go : s.vready (.vmxv ew vd rs k) [] [] (some vd) = .go x y sl) :
    exec (.vmxv ew vd rs k) s = .next (if vd = 31 then s.vdone { sl with aq := sl.aq ++ [s.rx rs] }
      else s.vdone (putDst sl vd (ofLanes (widthOf ew) fun j =>
        if j = k.toNat then (s.rx rs).toNat else lane (widthOf ew) j (oldDst sl vd)))) := by
  show execVmxv ew vd rs k s = _
  simp only [execVmxv, go]

/-- A predicate by its number, p0 all ones (R11). -/
theorem Slot.rp_eq (sl : Slot) (p : PReg) : sl.rp p = if p = 0 then 0xFFFFFFFF else sl.p[p.toNat] := rfl

theorem leaves_pred {s : State} {i : Instr} {pd : PReg} {v w : BitVec 32} (h : exec i s = .next (s.vdone (s.slot.wp pd v))) (e : v = w) :
    Leaves i s { s.slot.next with p := if pd = 0 then s.slot.p else s.slot.p.set pd.toNat w, pfx := none } := by
  subst e
  exact Slot.wp_next s.slot pd v ▸ leaves_of_vdone h

/-- Settles O39: the moves, the shuffles, the reductions of the active lanes and the predicate forms, one after another. -/
theorem lanesMoveAndReduce : Obligations.LanesMoveAndReduce := by
  intro s pg pd ps pt ew rd rs vd a b k x y sl w n act lanes by_ whole signed some_ ballot uniform votes sum low high
  have hw : w ≠ 0 := widthOf_ne_zero ew
  refine ⟨fun go => gives_shuffle rfl go fun _ _ => Nat.mod_mod _ _, fun ha go => ?_, fun v q entry legal => ?_,
    fun native undeclared => exec_vmvx_illegal ew rd k native undeclared, fun empty legal => exec_vmvx_waits ew rd k legal empty,
    fun go => ?_, fun go => gives_shuffle rfl go fun _ _ => rfl, fun go => gives_shuffle rfl go fun _ _ => rfl,
    fun go => gives_shuffle rfl go fun _ _ => rfl, gives_reduce rfl ?_, fun _ => gives_reduce rfl ?_, fun h2 => ?_, fun h3 => ?_,
    fun h3 => ?_, ?_⟩
  · have moved := leaves_of_vdone (exec_vmvx_lane ew rd k ha go)
    rw [Slot.wx_next, laneS_eq] at moved
    exact moved
  · have popped := leaves_of_vdone (exec_vmvx_pop ew rd k legal entry)
    rw [Slot.wx_next] at popped
    exact popped
  · have run := exec_vmxv_go ew vd rs k go
    split
    · rw [if_pos ‹_›] at run
      exact leaves_of_vdone run
    · rw [if_neg ‹_›] at run
      refine ⟨_, fun j hj => (lane_ofLanes _ hj).trans ?_, leaves_of_vdone run⟩
      obtain ⟨lq, aq, rfl⟩ := State.vready_go_frame go
      rw [apply_ite (· % 2 ^ w), Nat.mod_eq_of_lt (lane_lt _ _ _)]
      rfl
  · intro r
    have e : r = votes := vote_eq w (s.slot.rp pg) x k
    rw [e]
    exact ⟨rfl, rfl⟩
  · intro r
    have e : r = sum % 2 ^ w := by
      simp only [r, sum, List.map_map]
      rfl
    have low : BitVec.ofNat w (sum % 2 ^ w) = BitVec.ofNat w sum := BitVec.eq_of_toNat_eq (by simp)
    rw [e, pushInt_eq hw (Nat.mod_lt _ (Nat.two_pow_pos w)), low]
    exact ⟨Nat.mod_mod _ _, rfl⟩
  · subst h2
    intro tree
    refine gives_reduce rfl ?_
    intro r
    have e : r = tree := faddTree_congr fun j hj => find_activeLanes 32 (s.slot.rp pg) x (by omega) _
    rw [e]
    exact ⟨rfl, rfl⟩
  · obtain ⟨most, least⟩ := toSigned_extremes hw
    have runMin : exec (.vredMin pg ew vd a) s = .next (s.reduce (.vredMin pg ew vd a) w w pg vd a
        (fun l => l.foldl (fun a p => laneMin w a p.2) (2 ^ (w - 1) - 1)) (pushInt w)) := congrArg _ (if_neg h3)
    have runMax : exec (.vredMax pg ew vd a) s = .next (s.reduce (.vredMax pg ew vd a) w w pg vd a
        (fun l => l.foldl (fun a p => laneMax w a p.2) (2 ^ (w - 1))) (pushInt w)) := congrArg _ (if_neg h3)
    exact ⟨gives_reduce runMin (foldl_lanes_result x hw laneMin_spec lanes most),
      gives_reduce runMax (foldl_lanes_result x hw laneMax_spec lanes least)⟩
  · subst h3
    intro lo hi
    have runMin : exec (.vredMin pg 3 vd a) s = .next (s.reduce (.vredMin pg 3 vd a) 32 32 pg vd a
        (fun l => rne32 (l.foldl (fun a p => a.minimum (dec32 p.2)) (.inf false))) (BitVec.ofNat 64)) := rfl
    have runMax : exec (.vredMax pg 3 vd a) s = .next (s.reduce (.vredMax pg 3 vd a) 32 32 pg vd a
        (fun l => rne32 (l.foldl (fun a p => a.maximum (dec32 p.2)) (.inf true))) (BitVec.ofNat 64)) := rfl
    refine ⟨gives_reduce runMin ?_, gives_reduce runMax ?_⟩
    · intro r
      have e : r = lo := congrArg rne32 List.foldl_map
      rw [e]
      exact ⟨rfl, rfl⟩
    · intro r
      have e : r = hi := congrArg rne32 List.foldl_map
      rw [e]
      exact ⟨rfl, rfl⟩
  · intro pred sets
    exact ⟨leaves_pred rfl rfl, leaves_pred rfl rfl, leaves_pred rfl rfl, leaves_pred rfl (BitVec.setWidth_eq_extractLsb' (by decide))⟩

end Sys2Proof.Machine
end

section
/-!
PROOFS. The bytes of a write by rows, and of a write of which each key has one value.
-/
namespace Sys2Proof.Machine

/-! ### Cells with one value for each key -/

/-- A byte that a write names, always with the same value, reads as that value. -/
theorem memGet_memWrite_of_unique (base : Nat → Byte) (cs : List (Nat × Byte)) (m : List Host.Cell) {x : Nat} {b : Byte}
    (named : x ∈ cs.map Prod.fst) (only : ∀ c ∈ cs, c.1 = x → c.2 = b) : memGet base (memWrite base m cs) x = b := by
  induction cs generalizing m with
  | nil => exact absurd named List.not_mem_nil
  | cons c cs ih =>
    show memGet base (memWrite base (memSet base m c.1 c.2) cs) x = b
    by_cases later : x ∈ cs.map Prod.fst
    · exact ih _ later fun d hd => only d (List.mem_cons_of_mem _ hd)
    · have here : x = c.1 := (List.mem_cons.1 named).resolve_right later
      rw [memGet_memWrite_ne _ _ _ _ later, memGet_memSet, if_pos here]
      exact only c List.mem_cons_self here.symm

theorem State.byte_setCells_ne (s : State) {cs : List (Nat × Byte)} {x : Nat} (h : x ∉ cs.map Prod.fst) :
    (s.setCells cs).byte x = s.byte x := memGet_memWrite_ne s.base cs s.mem x h

theorem State.byte_setCells_of_unique (s : State) {cs : List (Nat × Byte)} {x : Nat} {b : Byte} (named : x ∈ cs.map Prod.fst)
    (only : ∀ c ∈ cs, c.1 = x → c.2 = b) : (s.setCells cs).byte x = b := memGet_memWrite_of_unique s.base cs s.mem named only

theorem State.byte_writeCells_of_unique (s : State) (ag : Agent) {cs : List (Nat × Byte)} {x : Nat} {b : Byte}
    (named : x ∈ cs.map Prod.fst) (only : ∀ c ∈ cs, c.1 = x → c.2 = b) : (s.writeCells ag cs).byte x = b := by
  unfold State.writeCells
  split
  · rename_i empty
    rw [List.isEmpty_iff.1 empty] at named
    exact absurd named List.not_mem_nil
  · exact memGet_memWrite_of_unique s.base cs s.mem named only

/-- The cells are those of a family of keys, each with its byte. -/
def CellsOf {ι : Type} (cs : List (Nat × Byte)) (has : ι → Prop) (key : ι → Nat) (data : ι → Byte) : Prop :=
  ∀ c, c ∈ cs ↔ ∃ x, has x ∧ c = (key x, data x)

theorem CellsOf.mem_keys {ι : Type} {cs : List (Nat × Byte)} {has : ι → Prop} {key : ι → Nat} {data : ι → Byte}
    (h : CellsOf cs has key data) (k : Nat) : k ∈ cs.map Prod.fst ↔ ∃ x, has x ∧ k = key x := by
  rw [List.mem_map]
  constructor
  · rintro ⟨c, hc, rfl⟩
    obtain ⟨x, hx, rfl⟩ := (h c).1 hc
    exact ⟨x, hx, rfl⟩
  · rintro ⟨x, hx, rfl⟩
    exact ⟨_, (h _).2 ⟨x, hx, rfl⟩, rfl⟩

/-- Where no two of a family share a key, its bytes stand at its keys and nothing else has changed. -/
theorem State.byte_setCells_of_cellsOf {ι : Type} (s : State) {cs : List (Nat × Byte)} {has : ι → Prop} {key : ι → Nat}
    {data : ι → Byte} (h : CellsOf cs has key data) (differ : ∀ x y, has x → has y → key x = key y → x = y) :
    (∀ k, (∀ x, has x → k ≠ key x) → (s.setCells cs).byte k = s.byte k) ∧ ∀ x, has x → (s.setCells cs).byte (key x) = data x := by
  refine ⟨fun k hk => s.byte_setCells_ne fun named => ?_, fun x hx => s.byte_setCells_of_unique ((h.mem_keys _).2 ⟨x, hx, rfl⟩) ?_⟩
  · obtain ⟨x, hx, e⟩ := (h.mem_keys k).1 named
    exact hk x hx e
  · intro c hc e
    obtain ⟨y, hy, rfl⟩ := (h c).1 hc
    rw [differ y x hy hx e]

/-! ### Bytes in order -/

/-- The cells of some keys in order. -/
def gridRow (len : Nat) (key : Nat → Nat) (data : Nat → Byte) : List (Nat × Byte) := (List.range len).map fun n => (key n, data n)

theorem mem_gridRow {len : Nat} {key : Nat → Nat} {data : Nat → Byte} {c : Nat × Byte} :
    c ∈ gridRow len key data ↔ ∃ n, n < len ∧ c = (key n, data n) := by
  simp only [gridRow, List.mem_map, List.mem_range, eq_comm]

theorem mem_keys_gridRow {len : Nat} {key : Nat → Nat} {data : Nat → Byte} {x : Nat} :
    x ∈ (gridRow len key data).map Prod.fst ↔ ∃ n, n < len ∧ x = key n := by
  simp only [gridRow, List.map_map, List.mem_map, List.mem_range, Function.comp_apply, eq_comm]

theorem mem_span {key n k : Nat} : k ∈ span key n ↔ ∃ b, b < n ∧ k = key + b := by
  simp only [span, List.mem_map, List.mem_range, eq_comm]

theorem zipIdx_map_range {α : Type} (f : Nat → α) (n : Nat) : ((List.range n).map f).zipIdx = (List.range n).map fun i => (f i, i) :=
  List.ext_getElem (by simp) (by simp)

theorem zipIdx_span_map {α : Type} (key n : Nat) (f : Nat × Nat → α) :
    (span key n).zipIdx.map f = (List.range n).map fun b => f (key + b, b) := by
  rw [span, zipIdx_map_range, List.map_map]
  rfl

theorem bytesOf_eq (n v : Nat) : bytesOf n v = (List.range n).map fun b => BitVec.ofNat 8 (v / 256 ^ b) := by
  induction n generalizing v with
  | zero => rfl
  | succ n ih =>
    rw [bytesOf, ih, List.range_succ_eq_map, List.map_cons, List.map_map, pow_zero, Nat.div_one]
    refine congrArg _ (List.map_congr_left fun b _ => ?_)
    rw [Function.comp_apply, Nat.succ_eq_add_one, Nat.pow_succ', Nat.div_div_eq_div_mul]

theorem natOfBytes_bytesOf (n v : Nat) : natOfBytes (bytesOf n v) = v % 256 ^ n := by
  induction n generalizing v with
  | zero => rw [Nat.pow_zero, Nat.mod_one]; rfl
  | succ n ih =>
    rw [bytesOf, natOfBytes, ih, BitVec.toNat_ofNat, Nat.pow_succ' (m := 256)]
    exact Nat.mod_mul.symm

/-- The bytes of a number laid over their keys. -/
theorem cellsAt_bytesOf (key n v : Nat) : cellsAt key (bytesOf n v) = gridRow n (key + ·) fun b => BitVec.ofNat 8 (v / 256 ^ b) := by
  have len : (bytesOf n v).length = n := by rw [bytesOf_eq, List.length_map, List.length_range]
  rw [cellsAt, len, span, bytesOf_eq, List.zip_map', gridRow]

/-- Numbers of some bytes each, one after another, are their bytes in order. -/
theorem flatMap_range_eq {α : Type} (size : Nat) (g : Nat → Nat → α) (n : Nat) :
    ((List.range n).flatMap fun i => (List.range size).map (g i)) = (List.range (n * size)).map fun b => g (b / size) (b % size) := by
  induction n with
  | zero => simp
  | succ n ih =>
    rw [List.range_succ, List.flatMap_append, ih, Nat.succ_mul, List.range_add, List.map_append, List.map_map, List.flatMap_singleton]
    refine congrArg _ (List.map_congr_left fun b hb => ?_)
    have hb : b < size := List.mem_range.1 hb
    rw [Function.comp_apply, Nat.mul_comm, Nat.mul_add_div (by omega), Nat.mul_add_mod, Nat.div_eq_of_lt hb, Nat.mod_eq_of_lt hb,
      Nat.add_zero]

/-! ### Rows of bytes -/

/-- Some bytes stand at the keys of a grid, a higher row over a lower one, and nothing else has changed. -/
def GridStored (s : State) (rows len : Nat) (key : Nat → Nat → Nat) (data : Nat → Nat → Byte) (t : State) : Prop :=
  (∀ x, (∀ i n, i < rows → n < len → x ≠ key i n) → t.byte x = s.byte x) ∧
  ∀ i n, i < rows → n < len → (∀ j k, i < j → j < rows → k < len → key j k ≠ key i n) → t.byte (key i n) = data i n

/-- The rows of a grid written one after another. -/
def State.writeGrid (s : State) (ag : Agent) (len : Nat) (key : Nat → Nat → Nat) (data : Nat → Nat → Byte) (rows : Nat) : State :=
  (List.range rows).foldl (fun t i => t.writeCells ag (gridRow len (key i) (data i))) s

section
variable (s : State) (ag : Agent) (len : Nat) (key : Nat → Nat → Nat) (data : Nat → Nat → Byte)

theorem State.writeGrid_succ (rows : Nat) : s.writeGrid ag len key data (rows + 1) =
    (s.writeGrid ag len key data rows).writeCells ag (gridRow len (key rows) (data rows)) := by
  rw [State.writeGrid, List.range_succ, List.foldl_append]
  rfl

/-- The write of a cell changes neither a core nor a message. -/
theorem State.writeCells_cores_net (cs : List (Nat × Byte)) : (s.writeCells ag cs).cores = s.cores ∧ (s.writeCells ag cs).net = s.net := by
  unfold State.writeCells
  split <;> exact ⟨rfl, rfl⟩

theorem State.writeGrid_cores_net (rows : Nat) :
    (s.writeGrid ag len key data rows).cores = s.cores ∧ (s.writeGrid ag len key data rows).net = s.net := by
  induction rows with
  | zero => exact ⟨rfl, rfl⟩
  | succ rows ih =>
    obtain ⟨cores, net⟩ := State.writeCells_cores_net (s.writeGrid ag len key data rows) ag (gridRow len (key rows) (data rows))
    rw [s.writeGrid_succ]
    exact ⟨cores.trans ih.1, net.trans ih.2⟩

/-- Rows whose keys differ within each of them stand as they were written. -/
theorem State.gridStored_writeGrid (differ : ∀ i n k, n < len → k < len → key i n = key i k → n = k) (rows : Nat) :
    GridStored s rows len key data (s.writeGrid ag len key data rows) := by
  induction rows with
  | zero => exact ⟨fun _ _ => rfl, fun i n hi => absurd hi (Nat.not_lt_zero i)⟩
  | succ rows ih =>
    obtain ⟨frame, stored⟩ := ih
    rw [s.writeGrid_succ]
    constructor
    · intro x hx
      rw [State.byte_writeCells_ne]
      · exact frame x fun i n hi => hx i n (Nat.lt_succ_of_lt hi)
      · rw [mem_keys_gridRow]
        rintro ⟨n, hn, e⟩
        exact hx rows n (Nat.lt_succ_self rows) hn e
    · intro i n hi hn last
      obtain hi | rfl := Nat.lt_succ_iff_lt_or_eq.1 hi
      · rw [State.byte_writeCells_ne]
        · exact stored i n hi hn fun j k hj hr => last j k hj (Nat.lt_succ_of_lt hr)
        · rw [mem_keys_gridRow]
          rintro ⟨k, hk, e⟩
          exact last rows k hi (Nat.lt_succ_self rows) hk e.symm
      · refine State.byte_writeCells_of_unique _ ag (mem_keys_gridRow.2 ⟨n, hn, rfl⟩) fun c hc e => ?_
        obtain ⟨k, hk, rfl⟩ := mem_gridRow.1 hc
        rw [differ i k n hk hn e]

end

end Sys2Proof.Machine
end

section
/-!
PROOFS. A command of the matrix engine that is taken: the errors that it meets, and how it leaves its queue.
-/
namespace Sys2Proof.Machine

/-! ### The errors of a command -/

/-- The error that a command meets among the bytes that it reads, or else in a write of its own (R156). -/
def commandError (s : State) (ag : Agent) (reads : List Nat) (writes : List (List Nat)) : Option BadGranule :=
  (s.badRead ag reads).orElse fun _ => s.badParts ag writes

/-- A byte of a bad granule. -/
def BadGranule.has (b : BadGranule) (k : Nat) : Prop := b.key ≤ k ∧ k < b.key + b.size

theorem coversBad_iff (keys : List Nat) (b : BadGranule) : coversBad keys b = true ↔ ∀ k, b.has k → k ∈ keys := by
  simp only [coversBad, List.all_eq_true, mem_span, List.contains_iff_mem, BadGranule.has]
  constructor
  · rintro h k ⟨low, high⟩
    exact h k ⟨k - b.key, by omega, by omega⟩
  · rintro h k ⟨n, hn, rfl⟩
    exact h _ ⟨by omega, by omega⟩

theorem hitsBad_iff (keys : List Nat) (b : BadGranule) :
    (keys.any fun k => decide (b.key ≤ k) && decide (k < b.key + b.size)) = true ↔ ∃ k ∈ keys, b.has k := by
  simp only [List.any_eq_true, Bool.and_eq_true, decide_eq_true_eq, BadGranule.has]

section
variable {s : State} {ag : Agent} {keys : List Nat}

theorem badRead_isSome_iff : (s.badRead ag keys).isSome ↔ ∃ b ∈ s.bad, injMatches ag b.cls = true ∧ ∃ k ∈ keys, b.has k := by
  simp only [State.badRead, List.find?_isSome, Bool.and_eq_true, hitsBad_iff]

theorem badPart_isSome_iff : (s.badPart ag keys).isSome ↔
    ∃ b ∈ s.bad, injMatches ag b.cls = true ∧ (∃ k ∈ keys, b.has k) ∧ ∃ k, b.has k ∧ k ∉ keys := by
  simp only [State.badPart, List.find?_isSome, Bool.and_eq_true, hitsBad_iff, Bool.not_eq_true', ← Bool.not_eq_true, coversBad_iff,
    not_forall, exists_prop, and_assoc]

/-- The error that a command meets stands in the state. -/
theorem commandError_mem {reads : List Nat} {writes : List (List Nat)} {b : BadGranule} (h : commandError s ag reads writes = some b) :
    b ∈ s.bad := by
  obtain read | ⟨-, part⟩ := (Option.orElse_eq_some _ _ _).1 h
  · exact List.mem_of_find?_eq_some read
  · obtain ⟨l, -, hl⟩ := List.exists_of_findSome?_eq_some part
    exact List.mem_of_find?_eq_some hl

end

/-- The writes of a command by the keys of each. -/
structure WritesOf (lists : List (List Nat)) (writes : Nat → Nat → Prop) : Prop where
  each : ∀ l ∈ lists, ∃ i, ∀ k, k ∈ l ↔ writes i k
  all : ∀ i k, writes i k → ∃ l ∈ lists, ∀ k, k ∈ l ↔ writes i k

theorem WritesOf.nil : WritesOf [] fun _ _ => False := ⟨fun _ h => absurd h List.not_mem_nil, fun _ _ h => h.elim⟩

theorem WritesOf.one {keys : List Nat} {has : Nat → Prop} (h : ∀ k, k ∈ keys ↔ has k) : WritesOf [keys] fun _ => has :=
  ⟨fun _ hl => ⟨0, List.mem_singleton.1 hl ▸ h⟩, fun _ _ _ => ⟨keys, List.mem_singleton_self _, h⟩⟩

/-- A command meets an error exactly where one stands among what it reads and writes. -/
theorem commandError_isSome_iff {s : State} {ag : Agent} {keys : List Nat} {lists : List (List Nat)} {reads : Nat → Prop}
    {writes : Nat → Nat → Prop} (hreads : ∀ k, k ∈ keys ↔ reads k) (hwrites : WritesOf lists writes) :
    (commandError s ag keys lists).isSome ↔ MeetsError s ag reads writes := by
  have parts : (s.badParts ag lists).isSome ↔ ∃ l ∈ lists, (s.badPart ag l).isSome := List.findSome?_isSome_iff
  have either : (commandError s ag keys lists).isSome = ((s.badRead ag keys).isSome || (s.badParts ag lists).isSome) := by
    rw [commandError]
    cases s.badRead ag keys <;> rfl
  rw [either, Bool.or_eq_true, badRead_isSome_iff, parts]
  constructor
  · rintro (⟨b, hb, mine, k, hk, has⟩ | ⟨l, hl, part⟩)
    · exact ⟨b, hb, mine, .inl ⟨k, (hreads k).1 hk, has⟩⟩
    · obtain ⟨b, hb, mine, ⟨k, hk, has⟩, n, here, out⟩ := badPart_isSome_iff.1 part
      obtain ⟨i, hi⟩ := hwrites.each l hl
      exact ⟨b, hb, mine, .inr ⟨i, ⟨k, (hi k).1 hk, has⟩, n, here, fun h => out ((hi n).2 h)⟩⟩
  · rintro ⟨b, hb, mine, ⟨k, hk, has⟩ | ⟨i, ⟨k, hk, has⟩, n, here, out⟩⟩
    · exact .inl ⟨b, hb, mine, k, (hreads k).2 hk, has⟩
    · obtain ⟨l, hl, hi⟩ := hwrites.all i k hk
      exact .inr ⟨l, hl, badPart_isSome_iff.2 ⟨b, hb, mine, ⟨k, (hi k).2 hk, has⟩, n, here, fun h => out ((hi n).1 h)⟩⟩

/-! ### A command that the matrix engine takes -/

/-- A core's command that passes the common checks, in its turn at the matrix engine, of a job that is not to end early. -/
structure MatTurn (s : State) (cl r : Nat) (a : Arb) (m : Cmd) (rest : List Cmd) : Prop where
  pick : matPick s cl = some (r, a)
  core : r < 8
  queue : (s.classQ (cl * 8 + r) 1).queue = m :: rest
  waiting : (s.classQ (cl * 8 + r) 1).waiting = []
  sound : ∀ j ∈ (s.classQ (cl * 8 + r) 1).jobs, j.doomed = false ∧ j.due = false
  live : ∃ j ∈ (s.classQ (cl * 8 + r) 1).jobs, j.id = m.job ∧ j.faulted = false
  common : commonCheck s (cl * 8 + r) m.word = none

/-- In `t` the command at the head of class 1 of a core has left its queue, performed. -/
def MatPerformed (s t : State) (c : Nat) (m : Cmd) (rest : List Cmd) : Prop :=
  (t.classQ c 1).queue = rest ∧ t.net = s.net ∧ (∀ d k, t.slotOf d k = s.slotOf d k) ∧
  (t.classQ c 1).jobs = (s.classQ c 1).jobs.map fun j => if j.id = m.job then { j with left := j.left - 1 } else j

/-- What a command comes to: it has its effect where it meets no error, and its job faults with UNCORR where it does (R156, R161). -/
def MatSettles (s : State) (c : Nat) (m : Cmd) (rest : List Cmd) (i : Instr) (reads : Nat → Prop) (writes : Nat → Nat → Prop)
    (effect : State → Prop) : Prop :=
  (¬MeetsError s (classAgent s c 1) reads writes → ∃ t, exec i s = .next t ∧ MatPerformed s t c m rest ∧ effect t) ∧
  (MeetsError s (classAgent s c 1) reads writes → ∃ t, exec i s = .next t ∧ JobFaulted s t c 1 m rest 0x05 ∧
    ∃ b ∈ s.bad, t.ctl.reports = s.ctl.reports ++ [.uncorrectable b.key])

/-- The arbiter of the matrix engine has moved on. -/
def State.matTurned (s : State) (cl : Nat) (a : Arb) : State := s.modCluster cl fun q => { q with matArb := a }

/-- A command comes to its error, or to what it leaves where it meets none. -/
def State.unlessUncorr (v : State) (c : Nat) (m : Cmd) (err : Option BadGranule) (u : State) : State :=
  match err with
  | some b => v.cmdUncorr c 1 m b
  | none => u.performed c 1 m

/-- The command at the head of a class leaves its queue, performed. -/
def ClassQ.popped (q : ClassQ) (id : BitVec 16) : ClassQ :=
  { q with queue := q.queue.drop 1, hold := none }.modJob id fun j => { j with left := j.left - 1 }

/-- The command at the head of a class with no doomed job leaves the queue, performed. -/
theorem State.performed_eq (u : State) {c : Nat} (m : Cmd) (waiting : (u.classQ c 1).waiting = [])
    (sound : ∀ j ∈ (u.classQ c 1).jobs, j.doomed = false) :
    u.performed c 1 m = u.modClassQ c 1 fun q => q.popped m.job := by
  have doomed : ((u.classQ c 1).jobs.any fun j => j.id == m.job && j.doomed) = false := by
    simp only [List.any_eq_false, Bool.and_eq_true, not_and, Bool.not_eq_true]
    exact fun j hj _ => sound j hj
  rw [State.performed, doomed, u.aheadOfSweep_ne c (by decide)]
  exact State.admitUpTo_none _ c 1 (by rw [State.classQ_modClassQ_self]; exact waiting) _

section
variable {s : State} {cl r : Nat} {a : Arb} {m : Cmd} {rest : List Cmd}

/-- The unit runs a command that passes its own checks. -/
theorem MatTurn.runs (h : MatTurn s cl r a m rest) {i : Instr} {takes : Nat → Bool} {check : Cmd → Option Nat}
    {effect : State → Nat → Cmd → State} (row : exec i s = .next (s.matUnit cl takes check effect))
    (taken : takes (cmdOpcode m.word) = true) (own : check m = none) :
    exec i s = .next ((effect (s.matTurned cl a) (cl * 8 + r) m).ofJob (s.matTurned cl a) (cl * 8 + r) 1 m.job) := by
  have due : (s.classQ (cl * 8 + r) 1).due = false := List.any_eq_false.2 fun j hj => by rw [(h.sound j hj).2]; decide
  rw [row, s.matUnit_takes h.pick h.core h.queue taken check effect, due, if_neg Bool.false_ne_true]
  exact congrArg _ ((s.matTurned cl a).runCmd_runs h.queue (ClassQ.lives_iff.2 h.live) h.common own fun s m => effect s (cl * 8 + r) m)

/-- A command that leaves its queue in a state with the cores and messages of before has been performed. -/
theorem MatTurn.performed (h : MatTurn s cl r a m rest) {u : State} (cores : u.cores = s.cores) (net : u.net = s.net) (v : State) :
    MatPerformed s ((u.performed (cl * 8 + r) 1 m).ofJob v (cl * 8 + r) 1 m.job) (cl * 8 + r) m rest ∧
    ((u.performed (cl * 8 + r) 1 m).ofJob v (cl * 8 + r) 1 m.job).byte = u.byte := by
  have core (d : Nat) : u.core d = s.core d := by rw [State.core, cores]; rfl
  have class1 : u.classQ (cl * 8 + r) 1 = s.classQ (cl * 8 + r) 1 := by rw [State.classQ, core]; rfl
  rw [u.performed_eq m (by rw [class1]; exact h.waiting) (by rw [class1]; exact fun j hj => (h.sound j hj).1)]
  have after := u.classQ_modClassQ_self (cl * 8 + r) 1 fun q => q.popped m.job
  rw [class1] at after
  refine ⟨⟨?_, net, fun d k => ?_, ?_⟩, rfl⟩
  · refine (congrArg ClassQ.queue after).trans ?_
    show (s.classQ (cl * 8 + r) 1).queue.drop 1 = rest
    rw [h.queue]
    rfl
  · refine ((u.onlyClassQ_modClassQ (cl * 8 + r) 1 fun q => q.popped m.job).slotOf d k).trans ?_
    rw [State.slotOf, core]
    rfl
  · refine (congrArg ClassQ.jobs after).trans ?_
    simp only [ClassQ.popped, ClassQ.modJob, beq_iff_eq]

/-- The fault of a command that meets an error. -/
theorem MatTurn.faults (h : MatTurn s cl r a m rest) (b : BadGranule) (v : State) :
    JobFaulted s (((s.matTurned cl a).cmdUncorr (cl * 8 + r) 1 m b).ofJob v (cl * 8 + r) 1 m.job) (cl * 8 + r) 1 m rest 0x05 ∧
    (((s.matTurned cl a).cmdUncorr (cl * 8 + r) 1 m b).ofJob v (cl * 8 + r) 1 m.job).ctl.reports =
      s.ctl.reports ++ [.uncorrectable b.key] := by
  obtain ⟨j, hj, id, faulted⟩ := h.live
  have fault := (jobFaulted_failHead (u := (s.matTurned cl a).meetBad b) 0x05 rfl h.queue h.waiting hj id faulted rfl rfl rfl rfl).1
  refine ⟨fault.ofJob v m.job, ?_⟩
  have found : (((s.matTurned cl a).meetBad b).classQ (cl * 8 + r) 1).jobs.find? (fun j => j.id == m.job && !j.faulted) ≠ none :=
    fun none_ => by simpa [id, faulted] using List.find?_eq_none.1 none_ j hj
  obtain ⟨j', found⟩ := Option.ne_none_iff_exists'.1 found
  obtain ⟨net, n, e⟩ := ((s.matTurned cl a).meetBad b).failHead_frame m 0x05 rfl h.waiting found
  show (((s.matTurned cl a).meetBad b).failHead (cl * 8 + r) 1 m 0x05).ctl.reports = _
  rw [e]
  rfl

/-- A command whose effect is known, with what it reads and writes. -/
theorem MatTurn.settles (h : MatTurn s cl r a m rest) {i : Instr} {takes : Nat → Bool} {check : Cmd → Option Nat}
    {effect : State → Nat → Cmd → State} (row : exec i s = .next (s.matUnit cl takes check effect))
    (taken : takes (cmdOpcode m.word) = true) (own : check m = none) {keys : List Nat} {lists : List (List Nat)} {reads : Nat → Prop}
    {writes : Nat → Nat → Prop} (hreads : ∀ k, k ∈ keys ↔ reads k) (hwrites : WritesOf lists writes) {u : State}
    (hu : effect (s.matTurned cl a) (cl * 8 + r) m = (s.matTurned cl a).unlessUncorr (cl * 8 + r) m
      (commandError s (classAgent s (cl * 8 + r) 1) keys lists) u)
    (cores : u.cores = s.cores) (net : u.net = s.net) {post : State → Prop} (stored : ∀ t : State, t.byte = u.byte → post t) :
    MatSettles s (cl * 8 + r) m rest i reads writes post := by
  have run := h.runs row taken own
  have meets := commandError_isSome_iff (s := s) (ag := classAgent s (cl * 8 + r) 1) hreads hwrites
  cases err : commandError s (classAgent s (cl * 8 + r) 1) keys lists with
  | some b =>
    rw [hu, err] at run
    rw [err] at meets
    refine ⟨fun quiet => absurd (meets.1 rfl) quiet, fun _ => ⟨_, run, ?_⟩⟩
    obtain ⟨fault, report⟩ := h.faults b (s.matTurned cl a)
    exact ⟨fault, b, commandError_mem err, report⟩
  | none =>
    rw [hu, err] at run
    rw [err] at meets
    refine ⟨fun _ => ⟨_, run, ?_⟩, fun error => Bool.noConfusion (meets.2 error)⟩
    obtain ⟨done, bytes⟩ := h.performed cores net (s.matTurned cl a)
    exact ⟨done, stored _ bytes⟩

end

end Sys2Proof.Machine
end

section
/-!
PROOFS. The commands of the matrix engine: what each reads and writes, and what it leaves.
-/
namespace Sys2Proof.Machine

/-! ### The keys of tiles, accumulators and the bay -/

theorem mem_pairs {m n : Nat} {p : Nat × Nat} : p ∈ pairs m n ↔ p.1 < m ∧ p.2 < n := by
  obtain ⟨x, y⟩ := p
  simp only [pairs, List.mem_flatMap, List.mem_map, List.mem_range, Prod.mk.injEq]
  exact ⟨fun ⟨_, hx, _, hy, rfl, rfl⟩ => ⟨hx, hy⟩, fun ⟨hx, hy⟩ => ⟨x, hx, y, hy, rfl, rfl⟩⟩

theorem tileKey_inj {c tile i b j k : Nat} (hb : b < 64) (hk : k < 64) (h : tileKey c tile i b = tileKey c tile j k) : i = j ∧ b = k := by
  simp only [tileKey, Place.key, Place.num] at h
  omega

theorem accKey_inj {cl acc i n b j k d : Nat} (hn : n < 64) (hb : b < 4) (hk : k < 64) (hd : d < 4)
    (h : accKey cl acc i n + b = accKey cl acc j k + d) : i = j ∧ n = k ∧ b = d := by
  simp only [accKey, Place.key, Place.num] at h
  omega

theorem bayKey_add {c addr : Nat} (b : Nat) (h : 0x01000000 ≤ addr) : bayKey c addr + b = bayKey c (addr + b) := by
  simp only [bayKey, Place.key]
  omega

theorem bayKey_inj {c x y : Nat} (hx : 0x01000000 ≤ x) (hy : 0x01000000 ≤ y) (h : bayKey c x = bayKey c y) : x = y := by
  simp only [bayKey, Place.key] at h
  omega

theorem TDesc.ok_iff (d : TDesc) :
    d.ok = true ↔ d.esize ≠ 0 ∧ 1 ≤ d.rows ∧ d.rows ≤ 64 ∧ 1 ≤ d.cols ∧ d.cols * d.esize ≤ 64 := by
  simp only [TDesc.ok, Bool.and_eq_true, bne_iff_ne, decide_eq_true_eq, and_assoc]

/-- What a tile of a valid descriptor has. -/
def TileHas (c n : Nat) (d : TDesc) (k : Nat) : Prop := ∃ i b, i < d.rows ∧ b < d.cols * d.esize ∧ k = tileKey c n i b

/-- The elements of a corner of an accumulator. -/
def AccHas (cl n rows cols : Nat) (k : Nat) : Prop := ∃ x y b, x < rows ∧ y < cols ∧ b < 4 ∧ k = accKey cl n x y + b

/-- A row of memory in the bay. -/
def BayHas (c addr dist rows len i k : Nat) : Prop := i < rows ∧ ∃ b, b < len ∧ k = bayKey c (addr + i * dist + b)

theorem mem_tileKeys {c n : Nat} {d : TDesc} (k : Nat) :
    k ∈ ((pairs d.rows (d.cols * d.esize)).map fun p => tileKey c n p.1 p.2) ↔ TileHas c n d k := by
  simp only [List.mem_map, mem_pairs, Prod.exists, and_assoc, TileHas, eq_comm]

theorem mem_accKeys {cl n rows cols : Nat} (k : Nat) :
    k ∈ ((pairs rows cols).flatMap fun p => span (accKey cl n p.1 p.2) 4) ↔ AccHas cl n rows cols k := by
  simp only [List.mem_flatMap, mem_pairs, mem_span, Prod.exists, AccHas]
  exact ⟨fun ⟨x, y, ⟨hx, hy⟩, b, hb, e⟩ => ⟨x, y, b, hx, hy, hb, e⟩, fun ⟨x, y, b, hx, hy, hb, e⟩ => ⟨x, y, ⟨hx, hy⟩, b, hb, e⟩⟩

section
variable {c addr dist rows len : Nat} (low : 0x01000000 ≤ addr)
include low

theorem mem_baySpan (i k : Nat) : k ∈ span (bayKey c (addr + i * dist)) len ↔ ∃ b, b < len ∧ k = bayKey c (addr + i * dist + b) := by
  simp only [mem_span, bayKey_add _ (Nat.le_add_right_of_le low)]

theorem writesOf_bay : WritesOf ((List.range rows).map fun i => span (bayKey c (addr + i * dist)) len) (BayHas c addr dist rows len) where
  each := by
    intro l hl
    obtain ⟨i, hi, rfl⟩ := List.mem_map.1 hl
    exact ⟨i, fun k => (mem_baySpan low i k).trans (and_iff_right (List.mem_range.1 hi)).symm⟩
  all := fun i _ ⟨hi, _⟩ => ⟨_, List.mem_map_of_mem (List.mem_range.2 hi), fun k => (mem_baySpan low i k).trans (and_iff_right hi).symm⟩

theorem mem_bayRows (k : Nat) : k ∈ ((List.range rows).map fun i => span (bayKey c (addr + i * dist)) len).flatten ↔
    ∃ i, BayHas c addr dist rows len i k := by
  simp only [List.mem_flatten, List.mem_map, List.mem_range, exists_exists_and_eq_and, mem_baySpan low, BayHas]

end

/-! ### mld and mldt -/

/-- A list of checks passes where its first does and the rest do. -/
theorem check_eq_none_iff {p : Prop} [Decidable p] {cause : Nat} {later : Option Nat} :
    (if p then some cause else later) = none ↔ ¬p ∧ later = none := by
  by_cases h : p
  · simp [h]
  · simp [h]

/-- What the checks of `mld`, `mldt` and `mst` give. -/
theorem memCheck_none {m : Cmd} (h : memCheck m = none) : (memArgs m).d.ok = true ∧ 0x01000000 ≤ (memArgs m).addr := by
  simp only [memCheck, check_eq_none_iff] at h
  obtain ⟨-, ok, -, -, bay, -⟩ := h
  simp only [Bool.not_eq_true', Bool.not_eq_false, inBay, Bool.and_eq_true, decide_eq_true_eq] at ok bay
  exact ⟨ok, bay.1⟩

/-- The cells that `mld` and `mldt` write. -/
def loadCells (s : State) (c : Nat) (m : Cmd) : List (Nat × Byte) :=
  (memRowKeys c (memArgs m)).zipIdx.flatMap fun row => row.1.zipIdx.map fun k =>
    (memTile c (cmdOpcode m.word == 0x11) (memArgs m) row.2 k.2, s.readByte (classAgent s c 1) k.1)

theorem State.matLoad_eq (v : State) (c : Nat) (m : Cmd) : v.matLoad c m =
    v.unlessUncorr c m (commandError v (classAgent v c 1) (memRowKeys c (memArgs m)).flatten [(loadCells v c m).map Prod.fst])
      ((v.noteRead (classAgent v c 1) (memRowKeys c (memArgs m)).flatten).setCells (loadCells v c m)) := by
  unfold State.matLoad commandError loadCells
  dsimp only
  split
  · rename_i read
    rw [read]
    rfl
  · rename_i read
    rw [read, Option.orElse_none, State.badParts, List.findSome?_singleton]
    split
    · rename_i part
      rw [part]
      rfl
    · rename_i part
      rw [part]
      rfl

/-- Cells by row and byte. -/
theorem cellsOf_grid (rows len : Nat) (key : Nat → Nat → Nat) (data : Nat → Nat → Byte) :
    CellsOf ((List.range rows).flatMap fun i => gridRow len (key i) (data i)) (fun x : Nat × Nat => x.1 < rows ∧ x.2 < len)
      (fun x => key x.1 x.2) fun x => data x.1 x.2 := by
  intro cell
  simp only [List.mem_flatMap, List.mem_range, mem_gridRow, Prod.exists, and_assoc, exists_and_left]

/-- Byte `b` of memory row `i` of `mld` and `mldt`, with the key that it comes to. -/
theorem cellsOf_load (s : State) (c : Nat) (m : Cmd) (low : 0x01000000 ≤ (memArgs m).addr) :
    CellsOf (loadCells s c m) (fun x : Nat × Nat => x.1 < (memArgs m).rows ∧ x.2 < (memArgs m).len)
      (fun x => memTile c (cmdOpcode m.word == 0x11) (memArgs m) x.1 x.2)
      fun x => s.readByte (classAgent s c 1) (bayKey c ((memArgs m).addr + x.1 * (memArgs m).t + x.2)) := by
  have grid : loadCells s c m = (List.range (memArgs m).rows).flatMap fun i => gridRow (memArgs m).len
      (memTile c (cmdOpcode m.word == 0x11) (memArgs m) i)
      fun b => s.readByte (classAgent s c 1) (bayKey c ((memArgs m).addr + i * (memArgs m).t + b)) := by
    simp only [loadCells, memRowKeys, zipIdx_map_range, List.flatMap_map, zipIdx_span_map, bayKey_add _ (Nat.le_add_right_of_le low)]
    rfl
  rw [grid]
  exact cellsOf_grid _ _ _ _

theorem MatSettles.mono {s : State} {c : Nat} {m : Cmd} {rest : List Cmd} {i : Instr} {reads : Nat → Prop} {writes : Nat → Nat → Prop}
    {post post' : State → Prop} (h : MatSettles s c m rest i reads writes post) (imp : ∀ t, post t → post' t) :
    MatSettles s c m rest i reads writes post' := by
  refine ⟨fun quiet => ?_, h.2⟩
  obtain ⟨t, run, done, effect⟩ := h.1 quiet
  exact ⟨t, run, done, imp t effect⟩

/-- What a load leaves: nothing but the tile region has changed, and each byte of memory stands at its key. -/
def Loaded (s : State) (c : Nat) (m : Cmd) (t : State) : Prop :=
  (∀ x, (∀ i b, i < (memArgs m).d.rows → b < (memArgs m).d.cols * (memArgs m).d.esize → x ≠ tileKey c (memArgs m).tile i b) →
    t.byte x = s.byte x) ∧
  ∀ i b, i < (memArgs m).rows → b < (memArgs m).len → t.byte (memTile c (cmdOpcode m.word == 0x11) (memArgs m) i b) =
    s.readByte (classAgent s c 1) (bayKey c ((memArgs m).addr + i * (memArgs m).t + b))

section
variable {s : State} {cl r : Nat} {a : Arb} {m : Cmd} {rest : List Cmd}

/-- `mld` and `mldt`, whose memory comes to the tile region, each byte to a key of its own. -/
theorem MatTurn.load (h : MatTurn s cl r a m rest) {i : Instr} {takes : Nat → Bool}
    (row : exec i s = .next (s.matUnit cl takes memCheck State.matLoad)) (taken : takes (cmdOpcode m.word) = true)
    (check : memCheck m = none)
    (region : ∀ k, (∃ x : Nat × Nat, (x.1 < (memArgs m).rows ∧ x.2 < (memArgs m).len) ∧
      k = memTile (cl * 8 + r) (cmdOpcode m.word == 0x11) (memArgs m) x.1 x.2) ↔ TileHas (cl * 8 + r) (memArgs m).tile (memArgs m).d k)
    (differ : ∀ x y : Nat × Nat, x.1 < (memArgs m).rows ∧ x.2 < (memArgs m).len → y.1 < (memArgs m).rows ∧ y.2 < (memArgs m).len →
      memTile (cl * 8 + r) (cmdOpcode m.word == 0x11) (memArgs m) x.1 x.2 =
        memTile (cl * 8 + r) (cmdOpcode m.word == 0x11) (memArgs m) y.1 y.2 → x = y) :
    MatSettles s (cl * 8 + r) m rest i
      (fun k => ∃ j, BayHas (cl * 8 + r) (memArgs m).addr (memArgs m).t (memArgs m).rows (memArgs m).len j k)
      (fun _ => TileHas (cl * 8 + r) (memArgs m).tile (memArgs m).d) (Loaded s (cl * 8 + r) m) := by
  have low := (memCheck_none check).2
  have cells : CellsOf (loadCells (s.matTurned cl a) (cl * 8 + r) m) _ _ _ := cellsOf_load _ _ _ low
  obtain ⟨frame, stored⟩ := State.byte_setCells_of_cellsOf ((s.matTurned cl a).noteRead (classAgent s (cl * 8 + r) 1)
    (memRowKeys (cl * 8 + r) (memArgs m)).flatten) cells differ
  have read := State.noteRead_hidden (s.matTurned cl a) (classAgent s (cl * 8 + r) 1) (memRowKeys (cl * 8 + r) (memArgs m)).flatten
  refine h.settles row taken check (mem_bayRows low) (WritesOf.one fun k => (cells.mem_keys k).trans (region k))
    (State.matLoad_eq _ _ _) ?_ ?_ ?_
  · have cores := congrArg State.cores read
    exact cores
  · have net := congrArg State.net read
    exact net
  · intro t bytes
    have before : ((s.matTurned cl a).noteRead (classAgent s (cl * 8 + r) 1) (memRowKeys (cl * 8 + r) (memArgs m)).flatten).byte = s.byte := by
      have same := congrArg State.byte read
      exact same
    constructor
    · intro x hx
      rw [bytes]
      refine (frame x fun y hy e => ?_).trans (congrFun before x)
      obtain ⟨i, b, hi, hb, here⟩ := (region x).1 ⟨y, hy, e⟩
      exact hx i b hi hb here
    · intro i b hi hb
      rw [bytes]
      exact (stored (i, b) ⟨hi, hb⟩).trans (congrFun (s.readByte_modCluster cl _ _) _)

end

/-! ### The order of a tile's bytes -/

theorem memArgs_straight {m : Cmd} (op : cmdOpcode m.word ≠ 0x11) :
    (memArgs m).rows = (memArgs m).d.rows ∧ (memArgs m).len = (memArgs m).d.cols * (memArgs m).d.esize := by
  have no : (cmdOpcode m.word == 0x11) = false := by simpa using op
  simp only [memArgs, no, Bool.false_eq_true, if_false, and_self]

theorem memArgs_transposed {m : Cmd} (op : cmdOpcode m.word = 0x11) :
    (memArgs m).rows = (memArgs m).d.cols ∧ (memArgs m).len = (memArgs m).d.rows * (memArgs m).d.esize := by
  have yes : (cmdOpcode m.word == 0x11) = true := by simpa using op
  simp only [memArgs, yes, if_true, and_self]

/-- A byte of one of some elements lies within them. -/
theorem element_lt {n elements size b : Nat} (hn : n < elements) (hb : b < size) : n * size + b < elements * size :=
  calc n * size + b < n * size + size := Nat.add_lt_add_left hb _
    _ = (n + 1) * size := (Nat.succ_mul _ _).symm
    _ ≤ elements * size := Nat.mul_le_mul_right _ hn

section
variable {c : Nat} {a : MemArgs} (ok : a.d.ok = true)
include ok

theorem memTile_straight_inj {i b j k : Nat} (hb : b < a.d.cols * a.d.esize) (hk : k < a.d.cols * a.d.esize)
    (h : memTile c false a i b = memTile c false a j k) : i = j ∧ b = k := by
  obtain ⟨-, -, -, -, size⟩ := (TDesc.ok_iff _).1 ok
  exact tileKey_inj (by omega) (by omega) h

/-- Byte `b` of memory row `i`, an element at a time, lies within row `b / esize` of the tile (R166). -/
theorem transposed_lt {i b : Nat} (hi : i < a.d.cols) : i * a.d.esize + b % a.d.esize < a.d.cols * a.d.esize := by
  obtain ⟨some_, -⟩ := (TDesc.ok_iff _).1 ok
  exact element_lt hi (Nat.mod_lt b (Nat.pos_of_ne_zero some_))

theorem memTile_transposed_inj {i b j k : Nat} (hi : i < a.d.cols) (hj : j < a.d.cols)
    (h : memTile c true a i b = memTile c true a j k) : i = j ∧ b = k := by
  obtain ⟨some_, -, -, -, size⟩ := (TDesc.ok_iff _).1 ok
  have pos := Nat.pos_of_ne_zero some_
  obtain ⟨row, byte⟩ := tileKey_inj ((transposed_lt ok hi).trans_le size) ((transposed_lt ok hj).trans_le size) h
  have element (n x : Nat) : (n * a.d.esize + x % a.d.esize) / a.d.esize = n := by
    rw [Nat.mul_comm, Nat.mul_add_div pos, Nat.div_eq_of_lt (Nat.mod_lt x pos), Nat.add_zero]
  have same : i = j := by rw [← element i b, byte, element]
  subst same
  refine ⟨rfl, ?_⟩
  rw [← Nat.div_add_mod b a.d.esize, ← Nat.div_add_mod k a.d.esize, row, Nat.add_left_cancel byte]

omit ok in
/-- Byte `b` of element `n` of memory row `k` is byte `b` of element `k` of tile row `n` (R166). -/
theorem memTile_transposed (n k : Nat) {b : Nat} (hb : b < a.d.esize) :
    memTile c true a k (n * a.d.esize + b) = tileKey c a.tile n (k * a.d.esize + b) := by
  have pos : 0 < a.d.esize := Nat.zero_lt_of_lt hb
  rw [memTile, if_pos rfl, Nat.mul_comm n, Nat.mul_add_div pos, Nat.div_eq_of_lt hb, Nat.add_zero, Nat.mul_add_mod, Nat.mod_eq_of_lt hb]

/-- The transposed bytes are those of the tile region. -/
theorem memTile_transposed_region (k : Nat) : (∃ x : Nat × Nat, (x.1 < a.d.cols ∧ x.2 < a.d.rows * a.d.esize) ∧
    k = memTile c true a x.1 x.2) ↔ TileHas c a.tile a.d k := by
  have pos := Nat.pos_of_ne_zero ((TDesc.ok_iff _).1 ok).1
  constructor
  · rintro ⟨⟨i, b⟩, ⟨hi, hb⟩, rfl⟩
    exact ⟨b / a.d.esize, i * a.d.esize + b % a.d.esize, Nat.div_lt_of_lt_mul (by rwa [Nat.mul_comm]), transposed_lt ok hi, rfl⟩
  · rintro ⟨n, b, hn, hb, rfl⟩
    refine ⟨(b / a.d.esize, n * a.d.esize + b % a.d.esize), ⟨Nat.div_lt_of_lt_mul (by rwa [Nat.mul_comm]), element_lt hn (Nat.mod_lt b pos)⟩, ?_⟩
    rw [memTile_transposed n _ (Nat.mod_lt b pos), Nat.div_add_mod']

end

section
variable {s : State} {cl r : Nat} {a : Arb} {m : Cmd} {rest : List Cmd}

/-- `mld` (R165). -/
theorem MatTurn.mld (h : MatTurn s cl r a m rest) (op : cmdOpcode m.word = 0x10) (check : memCheck m = none) :
    MatSettles s (cl * 8 + r) m rest (.mld cl)
      (fun k => ∃ i, BayHas (cl * 8 + r) (memArgs m).addr (memArgs m).t (memArgs m).d.rows ((memArgs m).d.cols * (memArgs m).d.esize) i k)
      (fun _ => TileHas (cl * 8 + r) (memArgs m).tile (memArgs m).d) fun t =>
        (∀ x, (∀ i b, i < (memArgs m).d.rows → b < (memArgs m).d.cols * (memArgs m).d.esize →
          x ≠ tileKey (cl * 8 + r) (memArgs m).tile i b) → t.byte x = s.byte x) ∧
        ∀ i b, i < (memArgs m).d.rows → b < (memArgs m).d.cols * (memArgs m).d.esize →
          t.byte (tileKey (cl * 8 + r) (memArgs m).tile i b) =
            s.readByte (classAgent s (cl * 8 + r) 1) (bayKey (cl * 8 + r) ((memArgs m).addr + i * (memArgs m).t + b)) := by
  obtain ⟨rows, len⟩ := memArgs_straight (m := m) (by rw [op]; decide)
  have straight : (cmdOpcode m.word == 0x11) = false := by rw [op]; rfl
  have load := h.load (i := .mld cl) (takes := fun op => !(op ∈ [0x11, 0x12, 0x13, 0x14, 0x15])) rfl (by rw [op]; rfl) check
  rw [straight, rows, len] at load
  refine (load (fun k => ?_) fun x y hx hy e => ?_).mono fun t loaded => ?_
  · simp only [Prod.exists, and_assoc, TileHas]
    rfl
  · obtain ⟨row, byte⟩ := memTile_straight_inj (memCheck_none check).1 hx.2 hy.2 e
    exact Prod.ext row byte
  · rw [Loaded, straight, rows, len] at loaded
    exact loaded

/-- `mldt` (R166). -/
theorem MatTurn.mldt (h : MatTurn s cl r a m rest) (op : cmdOpcode m.word = 0x11) (check : memCheck m = none) :
    MatSettles s (cl * 8 + r) m rest (.mldt cl)
      (fun k => ∃ i, BayHas (cl * 8 + r) (memArgs m).addr (memArgs m).t (memArgs m).d.cols ((memArgs m).d.rows * (memArgs m).d.esize) i k)
      (fun _ => TileHas (cl * 8 + r) (memArgs m).tile (memArgs m).d) fun t =>
        (∀ x, (∀ i b, i < (memArgs m).d.rows → b < (memArgs m).d.cols * (memArgs m).d.esize →
          x ≠ tileKey (cl * 8 + r) (memArgs m).tile i b) → t.byte x = s.byte x) ∧
        ∀ n k b, n < (memArgs m).d.rows → k < (memArgs m).d.cols → b < (memArgs m).d.esize →
          t.byte (tileKey (cl * 8 + r) (memArgs m).tile n (k * (memArgs m).d.esize + b)) = s.readByte (classAgent s (cl * 8 + r) 1)
            (bayKey (cl * 8 + r) ((memArgs m).addr + k * (memArgs m).t + n * (memArgs m).d.esize + b)) := by
  obtain ⟨rows, len⟩ := memArgs_transposed op
  obtain ⟨ok, -⟩ := memCheck_none check
  have transposed : (cmdOpcode m.word == 0x11) = true := by rw [op]; rfl
  have load := h.load (i := .mldt cl) (takes := (· == 0x11)) rfl transposed check
  rw [transposed, rows, len] at load
  refine (load (memTile_transposed_region ok) fun x y hx hy e => ?_).mono fun t loaded => ?_
  · obtain ⟨row, byte⟩ := memTile_transposed_inj ok hx.1 hy.1 e
    exact Prod.ext row byte
  · obtain ⟨frame, stored⟩ := loaded
    refine ⟨frame, fun n k b hn hk hb => ?_⟩
    rw [transposed, rows, len] at stored
    rw [← memTile_transposed n k hb, stored k _ hk (element_lt hn hb), Nat.add_assoc _ (n * _) b]

end

end Sys2Proof.Machine
end

section
/-!
PROOFS. The stores, products and clears of the matrix engine, and the commands together.
-/
namespace Sys2Proof.Machine

/-! ### mst -/

theorem GridStored.of_byte {s t u : State} {rows len : Nat} {key : Nat → Nat → Nat} {data : Nat → Nat → Byte}
    (h : GridStored s rows len key data u) (bytes : t.byte = u.byte) : GridStored s rows len key data t := by
  rw [GridStored, bytes]
  exact h

/-- Rows of the bay stand as they were written. -/
theorem State.gridStored_bay (s : State) (ag : Agent) (c addr dist rows len : Nat) (data : Nat → Nat → Byte) (low : 0x01000000 ≤ addr) :
    GridStored s rows len (fun i b => bayKey c (addr + i * dist + b)) data
      (s.writeGrid ag len (fun i b => bayKey c (addr + i * dist + b)) data rows) := by
  refine s.gridStored_writeGrid ag len _ data (fun i n k _ _ e => ?_) rows
  have same := bayKey_inj (by omega) (by omega) e
  omega

/-- The rows of `mst` written one after another. -/
def State.storeRows (v : State) (c : Nat) (m : Cmd) : State :=
  (memRowKeys c (memArgs m)).zipIdx.foldl (fun t row => t.writeCells (classAgent v c 1)
    (row.1.zipIdx.map fun k => (k.1, v.byte (tileKey c (memArgs m).tile row.2 k.2)))) v

theorem State.matStore_eq (v : State) (c : Nat) (m : Cmd) : v.matStore c m =
    v.unlessUncorr c m (commandError v (classAgent v c 1)
      ((pairs (memArgs m).rows (memArgs m).len).map fun p => tileKey c (memArgs m).tile p.1 p.2) (memRowKeys c (memArgs m)))
      (v.storeRows c m) := by
  unfold State.matStore commandError
  dsimp only
  split
  · rename_i read
    rw [read]
    rfl
  · rename_i read
    rw [read, Option.orElse_none]
    split
    · rename_i part
      rw [part]
      rfl
    · rename_i part
      rw [part]
      rfl

theorem State.storeRows_eq (v : State) (c : Nat) (m : Cmd) (low : 0x01000000 ≤ (memArgs m).addr) : v.storeRows c m =
    v.writeGrid (classAgent v c 1) (memArgs m).len (fun i b => bayKey c ((memArgs m).addr + i * (memArgs m).t + b))
      (fun i b => v.byte (tileKey c (memArgs m).tile i b)) (memArgs m).rows := by
  rw [State.storeRows, memRowKeys, zipIdx_map_range, List.foldl_map]
  simp only [zipIdx_span_map, bayKey_add _ (Nat.le_add_right_of_le low)]
  rfl

section
variable {s : State} {cl r : Nat} {a : Arb} {m : Cmd} {rest : List Cmd}

/-- `mst` (R165). -/
theorem MatTurn.mst (h : MatTurn s cl r a m rest) (op : cmdOpcode m.word = 0x12) (check : memCheck m = none) :
    MatSettles s (cl * 8 + r) m rest (.mst cl) (TileHas (cl * 8 + r) (memArgs m).tile (memArgs m).d)
      (BayHas (cl * 8 + r) (memArgs m).addr (memArgs m).t (memArgs m).d.rows ((memArgs m).d.cols * (memArgs m).d.esize))
      (GridStored s (memArgs m).d.rows ((memArgs m).d.cols * (memArgs m).d.esize)
        (fun i b => bayKey (cl * 8 + r) ((memArgs m).addr + i * (memArgs m).t + b))
        fun i b => s.byte (tileKey (cl * 8 + r) (memArgs m).tile i b)) := by
  obtain ⟨rows, len⟩ := memArgs_straight (m := m) (by rw [op]; decide)
  obtain ⟨-, low⟩ := memCheck_none check
  have grid := (s.matTurned cl a).storeRows_eq (cl * 8 + r) m low
  have effect := (s.matTurned cl a).matStore_eq (cl * 8 + r) m
  rw [memRowKeys, rows, len] at effect
  rw [rows, len] at grid
  rw [grid] at effect
  obtain ⟨cores, net⟩ := (s.matTurned cl a).writeGrid_cores_net (classAgent (s.matTurned cl a) (cl * 8 + r) 1) _ _ _ _
  refine h.settles (takes := (· == 0x12)) rfl (by rw [op]; rfl) check mem_tileKeys (writesOf_bay low) effect cores net fun t bytes => ?_
  exact (State.gridStored_bay (s.matTurned cl a) _ _ _ _ _ _ _ low).of_byte bytes

end

/-! ### mma -/

/-- The grouped sum that `mma` gives an element of the corner (R45, R167). -/
def mmaElem (s : State) (c : Nat) (m : Cmd) (i n : Nat) : Nat :=
  matDot (accElem s (clusterOf c) (fld m.word 48 3) i n)
    (matRow (tileBytes s c (fld m.word 52 2)) (tableImage s c (m.tdesc (fld m.word 52 2)).tab) (m.tdesc (fld m.word 52 2)) i)
    (matRow (tileBytes s c (fld m.word 54 2)) (tableImage s c (m.tdesc (fld m.word 54 2)).tab) (m.tdesc (fld m.word 54 2)) n)

/-- The cells that `mma` writes. -/
def mmaCells (s : State) (c : Nat) (m : Cmd) : List (Nat × Byte) :=
  (pairs (m.tdesc (fld m.word 52 2)).rows (m.tdesc (fld m.word 54 2)).rows).flatMap fun p =>
    cellsAt (accKey (clusterOf c) (fld m.word 48 3) p.1 p.2) (bytesOf 4 (mmaElem s c m p.1 p.2))

/-- The keys that `mma` reads. -/
def mmaReads (c : Nat) (m : Cmd) : List Nat :=
  let tile := fun n => (pairs (m.tdesc n).rows ((m.tdesc n).cols * (m.tdesc n).esize)).map fun p => tileKey c n p.1 p.2
  tile (fld m.word 52 2) ++ tile (fld m.word 54 2) ++ (pairs (m.tdesc (fld m.word 52 2)).rows (m.tdesc (fld m.word 54 2)).rows).flatMap fun p =>
    span (accKey (clusterOf c) (fld m.word 48 3) p.1 p.2) 4

/-- A command none of whose writes can cover a granule in part meets the errors of what it reads alone. -/
theorem commandError_reads (s : State) (ag : Agent) (reads : List Nat) : commandError s ag reads [] = s.badRead ag reads := by
  rw [commandError]
  cases s.badRead ag reads <;> rfl

theorem State.mma_eq (v : State) (c : Nat) (m : Cmd) :
    v.mma c m = v.unlessUncorr c m (commandError v (classAgent v c 1) (mmaReads c m) []) (v.setCells (mmaCells v c m)) := by
  have cells : mmaCells v c m = (pairs (m.tdesc (fld m.word 52 2)).rows (m.tdesc (fld m.word 54 2)).rows).flatMap fun p =>
      cellsAt (accKey (clusterOf c) (fld m.word 48 3) p.1 p.2) (bytesOf 4 (matDot (accElem v (clusterOf c) (fld m.word 48 3) p.1 p.2)
        (((List.range (m.tdesc (fld m.word 52 2)).rows).map (matRow (tileBytes v c (fld m.word 52 2))
          (tableImage v c (m.tdesc (fld m.word 52 2)).tab) (m.tdesc (fld m.word 52 2)))).getD p.1 [])
        (((List.range (m.tdesc (fld m.word 54 2)).rows).map (matRow (tileBytes v c (fld m.word 54 2))
          (tableImage v c (m.tdesc (fld m.word 54 2)).tab) (m.tdesc (fld m.word 54 2)))).getD p.2 []))) := by
    refine List.flatMap_congr fun p hp => ?_
    obtain ⟨hi, hn⟩ := mem_pairs.1 hp
    rw [mmaElem, List.getD_eq_getElem _ _ (by simpa using hi), List.getD_eq_getElem _ _ (by simpa using hn), List.getElem_map,
      List.getElem_map, List.getElem_range, List.getElem_range]
  rw [commandError_reads, cells]
  unfold State.mma
  show (match v.badRead (classAgent v c 1) (mmaReads c m) with | some g => v.cmdUncorr c 1 m g | none => _) = _
  cases v.badRead (classAgent v c 1) (mmaReads c m) <;> rfl

/-- The bytes of an accumulator element give its value. -/
theorem accElem_of_bytes {t : State} {cl acc i n v : Nat}
    (h : ∀ b, b < 4 → t.byte (accKey cl acc i n + b) = BitVec.ofNat 8 (v / 256 ^ b)) : accElem t cl acc i n = v % 2 ^ 32 := by
  have bytes : (span (accKey cl acc i n) 4).map t.byte = bytesOf 4 v := by
    rw [bytesOf_eq, span, List.map_map]
    exact List.map_congr_left fun b hb => h b (List.mem_range.1 hb)
  rw [accElem, bytes, natOfBytes_bytesOf, show (256 : Nat) ^ 4 = 2 ^ 32 from rfl]

/-- The cells of a corner of an accumulator. -/
def AccCells (cs : List (Nat × Byte)) (cl acc rows cols : Nat) (elem : Nat → Nat → Nat) : Prop :=
  CellsOf cs (fun x : Nat × Nat × Nat => x.1 < rows ∧ x.2.1 < cols ∧ x.2.2 < 4) (fun x => accKey cl acc x.1 x.2.1 + x.2.2)
    fun x => BitVec.ofNat 8 (elem x.1 x.2.1 / 256 ^ x.2.2)

/-- What a corner of an accumulator holds once it is written, and nothing else has changed. -/
def AccStored (s : State) (cl acc rows cols : Nat) (elem : Nat → Nat → Nat) (t : State) : Prop :=
  (∀ x, (∀ i n b, i < rows → n < cols → b < 4 → x ≠ accKey cl acc i n + b) → t.byte x = s.byte x) ∧
  ∀ i n, i < rows → n < cols → accElem t cl acc i n = elem i n % 2 ^ 32

theorem AccCells.stored {cs : List (Nat × Byte)} {cl acc rows cols : Nat} {elem : Nat → Nat → Nat}
    (h : AccCells cs cl acc rows cols elem) (small : cols ≤ 64) (s : State) {t : State} (bytes : t.byte = (s.setCells cs).byte) :
    AccStored s cl acc rows cols elem t := by
  obtain ⟨frame, stored⟩ := s.byte_setCells_of_cellsOf h fun x y ⟨_, hn, hb⟩ ⟨_, hk, hd⟩ e => by
    obtain ⟨row, col, byte⟩ := accKey_inj (hn.trans_le small) hb (hk.trans_le small) hd e
    exact Prod.ext row (Prod.ext col byte)
  refine ⟨fun x hx => ?_, fun i n hi hn => accElem_of_bytes fun b hb => ?_⟩
  · rw [bytes]
    exact frame x fun y ⟨hi, hn, hb⟩ => hx _ _ _ hi hn hb
  · rw [bytes]
    exact stored (i, n, b) ⟨hi, hn, hb⟩

theorem accCells_mma (s : State) (c : Nat) (m : Cmd) : AccCells (mmaCells s c m) (clusterOf c) (fld m.word 48 3)
    (m.tdesc (fld m.word 52 2)).rows (m.tdesc (fld m.word 54 2)).rows (mmaElem s c m) := by
  intro cell
  simp only [mmaCells, cellsAt_bytesOf, List.mem_flatMap, mem_pairs, mem_gridRow, Prod.exists, and_assoc, exists_and_left]

theorem mmaCheck_none {m : Cmd} (h : mmaCheck m = none) : (m.tdesc (fld m.word 54 2)).rows ≤ 64 := by
  simp only [mmaCheck, check_eq_none_iff] at h
  obtain ⟨-, ok, -⟩ := h
  have ok : (m.tdesc (fld m.word 54 2)).ok = true := by
    simp only [Bool.or_eq_true, not_or, Bool.not_eq_true', Bool.not_eq_false] at ok
    exact ok.2
  exact ((TDesc.ok_iff _).1 ok).2.2.1

theorem clusterOf_core {cl r : Nat} (h : r < 8) : clusterOf (cl * 8 + r) = cl := by
  rw [clusterOf]
  omega

section
variable {s : State} {cl r : Nat} {a : Arb} {m : Cmd} {rest : List Cmd}

/-- `mma` (R45, R167). -/
theorem MatTurn.mma (h : MatTurn s cl r a m rest) (op : cmdOpcode m.word = 0x13) (check : mmaCheck m = none) :
    MatSettles s (cl * 8 + r) m rest (.mma cl)
      (fun k => TileHas (cl * 8 + r) (fld m.word 52 2) (m.tdesc (fld m.word 52 2)) k ∨
        TileHas (cl * 8 + r) (fld m.word 54 2) (m.tdesc (fld m.word 54 2)) k ∨
        AccHas cl (fld m.word 48 3) (m.tdesc (fld m.word 52 2)).rows (m.tdesc (fld m.word 54 2)).rows k)
      (fun _ _ => False)
      (AccStored s cl (fld m.word 48 3) (m.tdesc (fld m.word 52 2)).rows (m.tdesc (fld m.word 54 2)).rows
        (mmaElem s (cl * 8 + r) m)) := by
  have cells := accCells_mma (s.matTurned cl a) (cl * 8 + r) m
  rw [clusterOf_core h.core] at cells
  refine h.settles (takes := (· == 0x13)) rfl (by rw [op]; rfl) check (fun k => ?_) WritesOf.nil
    ((s.matTurned cl a).mma_eq (cl * 8 + r) m) rfl rfl fun t bytes => cells.stored (mmaCheck_none check) (s.matTurned cl a) bytes
  simp only [mmaReads, List.mem_append, mem_tileKeys, mem_accKeys, clusterOf_core h.core, or_assoc]

/-! ### mzero -/

theorem accCells_mzero (cl acc : Nat) : AccCells ((span (accKey cl acc 0 0) 16384).map fun k => (k, 0)) cl acc 64 64 fun _ _ => 0 := by
  rintro ⟨k, b⟩
  simp only [List.mem_map, mem_span, Prod.mk.injEq, Nat.zero_div, accKey, Place.key, Prod.exists]
  constructor
  · rintro ⟨k', ⟨d, hd, rfl⟩, rfl, rfl⟩
    exact ⟨d / 256, d % 256 / 4, d % 4, ⟨by omega, by omega, by omega⟩, by omega, rfl⟩
  · rintro ⟨i, n, d, ⟨hi, hn, hd⟩, rfl, rfl⟩
    exact ⟨_, ⟨(i * 64 + n) * 4 + d, by omega, by omega⟩, rfl, rfl⟩

/-- The cells that `mzero` writes. -/
def mzeroCells (c : Nat) (m : Cmd) : List (Nat × Byte) := (span (accKey (clusterOf c) (fld m.word 48 3) 0 0) 16384).map fun k => (k, 0)

theorem State.mzero_eq (v : State) (c : Nat) (m : Cmd) :
    v.mzero c m = v.unlessUncorr c m (commandError v (classAgent v c 1) [] []) (v.setCells (mzeroCells c m)) := by
  have quiet : v.badRead (classAgent v c 1) [] = none := List.find?_eq_none.2 fun b _ => by
    rw [List.any_nil, Bool.and_false]
    exact Bool.false_ne_true
  rw [commandError_reads, quiet]
  rfl

/-- `mzero` (R168). -/
theorem MatTurn.mzero (h : MatTurn s cl r a m rest) (op : cmdOpcode m.word = 0x14) (check : mzeroCheck m = none) :
    MatSettles s (cl * 8 + r) m rest (.mzero cl) (fun _ => False) (fun _ _ => False)
      (AccStored s cl (fld m.word 48 3) 64 64 fun _ _ => 0) := by
  have cells : AccCells (mzeroCells (cl * 8 + r) m) _ _ _ _ _ := accCells_mzero (clusterOf (cl * 8 + r)) (fld m.word 48 3)
  rw [clusterOf_core h.core] at cells
  exact h.settles (takes := (· == 0x14)) (effect := fun s c m => s.mzero c m) rfl (by rw [op]; rfl) check
    (fun k => iff_false_intro List.not_mem_nil) WritesOf.nil ((s.matTurned cl a).mzero_eq (cl * 8 + r) m) rfl rfl
    fun t bytes => cells.stored (Nat.le_refl 64) (s.matTurned cl a) bytes

end

/-! ### macc.st -/

/-- An accumulator element in a floating format (R168). -/
def accCode (fmt x : Nat) : Nat :=
  if fmt = 2 then encFloat layFp16 .rne (dec32 x) else if fmt = 3 then encFloat layBf16 .rne (dec32 x) else rne32 (dec32 x)

theorem accCheck_none {m : Cmd} (h : accCheck m = none) :
    (accArgs m).cols ≤ 64 ∧ 1 ≤ (accArgs m).fmt ∧ (accArgs m).fmt ≤ 3 ∧ 0x01000000 ≤ (accArgs m).addr := by
  simp only [accCheck, check_eq_none_iff] at h
  obtain ⟨fields, -, bay, -⟩ := h
  simp only [not_or, Nat.not_lt] at fields
  obtain ⟨-, -, -, -, -, -, cols, low, high⟩ := fields
  simp only [Bool.not_eq_true', Bool.not_eq_false, inBay, Bool.and_eq_true, decide_eq_true_eq] at bay
  exact ⟨cols, low, high, bay.1⟩

theorem esizeOf_acc {fmt : Nat} (low : 1 ≤ fmt) (high : fmt ≤ 3) : esizeOf fmt = if fmt = 1 then 4 else 2 := by
  obtain rfl | rfl | rfl : fmt = 1 ∨ fmt = 2 ∨ fmt = 3 := by omega
  · rfl
  · rfl
  · rfl

theorem accBytes_eq {fmt : Nat} (low : 1 ≤ fmt) (high : fmt ≤ 3) (x : Nat) :
    accBytes fmt x = (List.range (esizeOf fmt)).map fun b => BitVec.ofNat 8 (accCode fmt x / 256 ^ b) := by
  obtain rfl | rfl | rfl : fmt = 1 ∨ fmt = 2 ∨ fmt = 3 := by omega
  · exact bytesOf_eq 4 _
  · exact bytesOf_eq 2 _
  · exact bytesOf_eq 2 _

/-- The rows of an accumulator store written one after another. -/
theorem State.accStore_eq (v : State) (ag : Agent) (cl : Nat) {x : AccArgs} (low : 1 ≤ x.fmt) (high : x.fmt ≤ 3)
    (bay : 0x01000000 ≤ x.addr) : v.accStore ag cl x = v.writeGrid ag (x.cols * esizeOf x.fmt)
      (fun i b => bayKey (cl * 8) (x.addr + i * x.t + b))
      (fun i b => BitVec.ofNat 8 (accCode x.fmt (accElem v cl x.acc i (b / esizeOf x.fmt)) / 256 ^ (b % esizeOf x.fmt))) x.rows := by
  have row (i : Nat) : (span (bayKey (cl * 8) (x.addr + i * x.t)) (x.cols * esizeOf x.fmt)).zip
      ((List.range x.cols).flatMap fun n => accBytes x.fmt (accElem v cl x.acc i n)) =
      gridRow (x.cols * esizeOf x.fmt) (fun b => bayKey (cl * 8) (x.addr + i * x.t + b)) fun b =>
        BitVec.ofNat 8 (accCode x.fmt (accElem v cl x.acc i (b / esizeOf x.fmt)) / 256 ^ (b % esizeOf x.fmt)) := by
    simp only [accBytes_eq low high]
    rw [flatMap_range_eq (esizeOf x.fmt) fun n b => BitVec.ofNat 8 (accCode x.fmt (accElem v cl x.acc i n) / 256 ^ b), span, List.zip_map',
      gridRow]
    simp only [bayKey_add _ (Nat.le_add_right_of_le bay)]
  rw [State.accStore, accRows, zipIdx_map_range, List.foldl_map]
  simp only [row]
  rfl

theorem State.maccSt_eq (v : State) (c : Nat) (m : Cmd) : v.maccSt c m =
    v.unlessUncorr c m (commandError v (classAgent v c 1) (accReads (clusterOf c) (accArgs m)) (accRows (clusterOf c) (accArgs m)))
      (v.accStore (classAgent v c 1) (clusterOf c) (accArgs m)) := by
  have same : accBad v (classAgent v c 1) (clusterOf c) (accArgs m) =
    commandError v (classAgent v c 1) (accReads (clusterOf c) (accArgs m)) (accRows (clusterOf c) (accArgs m)) := rfl
  rw [← same]
  unfold State.maccSt
  dsimp only
  cases accBad v (classAgent v c 1) (clusterOf c) (accArgs m) with
  | some b => rfl
  | none => rfl

/-- The cores of a cluster have the bay of its first. -/
theorem bayKey_core {cl r : Nat} (h : r < 8) : bayKey (cl * 8) = bayKey (cl * 8 + r) := by
  have sg : sgOf (cl * 8) = sgOf (cl * 8 + r) := by simp only [sgOf]; omega
  funext addr
  rw [bayKey, bayKey, sg]

section
variable {s : State} {cl r : Nat} {a : Arb} {m : Cmd} {rest : List Cmd}

/-- `macc.st` (R168). -/
theorem MatTurn.maccSt (h : MatTurn s cl r a m rest) (op : cmdOpcode m.word = 0x15) (check : accCheck m = none) :
    MatSettles s (cl * 8 + r) m rest (.maccSt cl) (AccHas cl (accArgs m).acc (accArgs m).rows (accArgs m).cols)
      (BayHas (cl * 8 + r) (accArgs m).addr (accArgs m).t (accArgs m).rows ((accArgs m).cols * esizeOf (accArgs m).fmt))
      (GridStored s (accArgs m).rows ((accArgs m).cols * esizeOf (accArgs m).fmt)
        (fun i b => bayKey (cl * 8 + r) ((accArgs m).addr + i * (accArgs m).t + b))
        fun i b => BitVec.ofNat 8 (accCode (accArgs m).fmt (accElem s cl (accArgs m).acc i (b / esizeOf (accArgs m).fmt)) /
          256 ^ (b % esizeOf (accArgs m).fmt))) := by
  obtain ⟨-, low, high, bay⟩ := accCheck_none check
  have effect := (s.matTurned cl a).maccSt_eq (cl * 8 + r) m
  rw [State.accStore_eq _ _ _ low high bay, accRows, clusterOf_core h.core, bayKey_core h.core] at effect
  obtain ⟨cores, net⟩ := (s.matTurned cl a).writeGrid_cores_net (classAgent (s.matTurned cl a) (cl * 8 + r) 1) _ _ _ _
  refine h.settles (takes := (· == 0x15)) rfl (by rw [op]; rfl) check (fun k => mem_accKeys k) (writesOf_bay bay) effect cores net
    fun t bytes => ?_
  exact (State.gridStored_bay (s.matTurned cl a) _ _ _ _ _ _ _ bay).of_byte bytes

end

/-! ### The commands of class 1 -/

/-- Settles O46: each command comes to its cells, or to the error that it meets. -/
theorem matrixCommandsHaveTheirEffect : Obligations.MatrixCommandsHaveTheirEffect := by
  intro s cl r a m rest c w op q g es ag full performed runs tile accs bay stores pick core queue waiting sound live common
  have turn : MatTurn s cl r a m rest := ⟨pick, core, queue, waiting, sound, live, common⟩
  refine ⟨fun op check => ?_, fun op check => ?_, fun op check => ?_, fun op => ?_, fun op check => ?_, fun op => ?_⟩
  · exact turn.mld op check
  · exact turn.mldt op check
  · exact turn.mst op check
  · intro acc ta tb da db check
    have mma := turn.mma op check
    have elem : mmaElem s (cl * 8 + r) m = fun i n => matDot (accElem s cl acc i n)
        (matRow (tileBytes s c ta) (tableImage s c da.tab) da i) (matRow (tileBytes s c tb) (tableImage s c db.tab) db n) := by
      funext i n
      rw [mmaElem, clusterOf_core core]
    rw [elem] at mma
    exact mma
  · exact turn.mzero op check
  · intro fmt size cols dist check
    have store := turn.maccSt op check
    obtain ⟨-, low, high, -⟩ := accCheck_none check
    have width : esizeOf fmt = size := esizeOf_acc low high
    have gap : (accArgs m).t = dist := by
      show (if fld m.word 128 16 = 0 then cols * esizeOf fmt else fld m.word 128 16) = dist
      rw [width]
    rw [show (accArgs m).fmt = fmt from rfl, width, gap] at store
    exact store

end Sys2Proof.Machine
end

section
/-!
PROOFS. The state of a core as the mailbox and the handler forms change it: what slots, channels and the rest of it hold after each of
the shared operations.
-/
namespace Sys2Proof.Machine

/-! ### Operations that leave every core -/

@[simp] theorem State.core_post (s : State) (src : Src) (e : Bool) (b : Body) (c : Nat) : (s.post src e b).core c = s.core c := rfl
@[simp] theorem State.slotOf_post (s : State) (src : Src) (e : Bool) (b : Body) (c : Nat) (k : Fin 4) :
    (s.post src e b).slotOf c k = s.slotOf c k := rfl
@[simp] theorem State.core_tell (s : State) (r : Report) (c : Nat) : (s.tell r).core c = s.core c := rfl
@[simp] theorem State.slotOf_tell (s : State) (r : Report) (c : Nat) (k : Fin 4) : (s.tell r).slotOf c k = s.slotOf c k := rfl
@[simp] theorem State.chan_tell (s : State) (r : Report) (c ch : Nat) : (s.tell r).chan c ch = s.chan c ch := rfl
@[simp] theorem State.core_report (s : State) (who : Reporter) (sg d : Nat) (ws : List Word) (c : Nat) :
    (s.report who sg d ws).core c = s.core c := rfl
@[simp] theorem State.slotOf_report (s : State) (who : Reporter) (sg d : Nat) (ws : List Word) (c : Nat) (k : Fin 4) :
    (s.report who sg d ws).slotOf c k = s.slotOf c k := rfl
@[simp] theorem State.chan_report (s : State) (who : Reporter) (sg d : Nat) (ws : List Word) (c ch : Nat) :
    (s.report who sg d ws).chan c ch = s.chan c ch := rfl
@[simp] theorem State.core_dropMsg (s : State) (m c : Nat) : (s.dropMsg m).core c = s.core c := rfl
@[simp] theorem State.slotOf_dropMsg (s : State) (m c : Nat) (k : Fin 4) : (s.dropMsg m).slotOf c k = s.slotOf c k := rfl
@[simp] theorem State.chan_dropMsg (s : State) (m c ch : Nat) : (s.dropMsg m).chan c ch = s.chan c ch := rfl
@[simp] theorem State.core_clearResv (s : State) (c : Nat) (k : Fin 4) (d : Nat) : (s.clearResv c k).core d = s.core d := rfl
@[simp] theorem State.slotOf_clearResv (s : State) (c : Nat) (k : Fin 4) (d : Nat) (j : Fin 4) :
    (s.clearResv c k).slotOf d j = s.slotOf d j := rfl
@[simp] theorem State.chan_clearResv (s : State) (c : Nat) (k : Fin 4) (d ch : Nat) : (s.clearResv c k).chan d ch = s.chan d ch := rfl

/-! ### Slots and channels -/

theorem State.core_of_cores {s t : State} (h : t.cores = s.cores) (c : Nat) : t.core c = s.core c := by rw [State.core, h]; rfl
theorem State.slotOf_of_cores {s t : State} (h : t.cores = s.cores) (c : Nat) (k : Fin 4) : t.slotOf c k = s.slotOf c k := by
  rw [State.slotOf, State.core_of_cores h]; rfl
theorem State.chan_of_cores {s t : State} (h : t.cores = s.cores) (c ch : Nat) : t.chan c ch = s.chan c ch := by
  rw [State.chan, State.core_of_cores h]; rfl

/-- A change of a slot leaves every other slot. -/
theorem State.slotOf_modSlotOf_ne (s : State) {c d : Nat} {k j : Fin 4} (f : Slot → Slot) (h : d ≠ c ∨ j ≠ k) :
    (s.modSlotOf c k f).slotOf d j = s.slotOf d j := by
  rw [State.slotOf_modSlotOf, if_neg fun e => h.elim (· e.1) (· e.2)]

/-- A change of a core beside its slots leaves every slot. -/
theorem State.slotOf_modCore (s : State) (c : Nat) {f : CoreSt → CoreSt} (h : ∀ co, (f co).slots = co.slots) (d : Nat) (j : Fin 4) :
    (s.modCore c f).slotOf d j = s.slotOf d j := by
  rw [State.slotOf, State.core_modCore]
  split
  · subst d; rw [h]; rfl
  · rfl

/-- A change of a core beside its channels leaves every channel. -/
theorem State.chan_modCore (s : State) (c : Nat) {f : CoreSt → CoreSt} (h : ∀ co, (f co).chans = co.chans) (d ch : Nat) :
    (s.modCore c f).chan d ch = s.chan d ch := by
  rw [State.chan, State.core_modCore]
  split
  · subst d; rw [h]; rfl
  · rfl

@[simp] theorem State.slotOf_modChan (s : State) (c ch : Nat) (f : Chan → Chan) (d : Nat) (j : Fin 4) :
    (s.modChan c ch f).slotOf d j = s.slotOf d j := (s.chansAlone_modChan c ch f).slotOf d j

@[simp] theorem State.chan_modSlotOf (s : State) (c : Nat) (k : Fin 4) (f : Slot → Slot) (d ch : Nat) :
    (s.modSlotOf c k f).chan d ch = s.chan d ch := by
  rw [State.modSlotOf, State.chan_modCore]
  exact fun _ => rfl

/-- What a channel of any core holds after a change of one channel. -/
theorem State.chan_modChan_any (s : State) (c ch d o : Nat) (f : Chan → Chan) :
    (s.modChan c ch f).chan d o = if d = c ∧ o = ch then f (s.chan c ch) else s.chan d o := by
  by_cases e : d = c
  · subst d; simp [State.chan_modChan]
  · rw [if_neg fun h => e h.1, State.chan, State.modChan, State.core_modCore, if_neg e]; rfl

@[simp] theorem State.chan_modChan_self (s : State) (c ch : Nat) (f : Chan → Chan) : (s.modChan c ch f).chan c ch = f (s.chan c ch) := by
  rw [State.chan_modChan, if_pos rfl]

theorem State.chan_modChan_ne (s : State) {c ch d o : Nat} (f : Chan → Chan) (h : d ≠ c ∨ o ≠ ch) :
    (s.modChan c ch f).chan d o = s.chan d o := by
  rw [State.chan_modChan_any, if_neg fun e => h.elim (· e.1) (· e.2)]

/-- A change of a channel leaves what its core holds beside its channels. -/
theorem State.core_modChan (s : State) (c ch d : Nat) (f : Chan → Chan) :
    { (s.modChan c ch f).core d with chans := (s.core d).chans } = s.core d := (s.chansAlone_modChan c ch f).cores d

theorem Slot.spent_eq_false {sl : Slot} (h : sl.left ≠ 0) : sl.spent = false := by simpa [Slot.spent] using h

/-! ### Messages that leave a core -/

/-- With a free entry a message is on its way, and nothing but its sender's outbound buffer has changed (R68). -/
theorem State.queueOut_room (s : State) (c : Nat) (b : Body) (h : (s.core c).outb.length < 16) :
    (s.queueOut c b).net = s.net ++ [⟨s.nextId, .core c, true, false, b⟩] ∧
    (∀ d, (s.queueOut c b).core d = if d = c then { s.core c with outb := (s.core c).outb ++ [s.nextId] } else s.core d) ∧
    { s.queueOut c b with cores := s.cores, net := s.net, nextId := s.nextId } = s ∧ (s.queueOut c b).nextId = s.nextId + 1 := by
  rw [s.queueOut_of_room c b h]
  exact ⟨rfl, fun d => by rw [State.core_post, State.core_modCore], rfl, rfl⟩

/-- Settles O5: the message takes a free entry and leaves, or nothing changes. -/
theorem ecallQueuesAServiceMessageAndContinues : Obligations.EcallQueuesAServiceMessageAndContinues := by
  intro s c ws
  have step : exec .ecall s = if (s.core c).outb.length < 16 then
      .next ((s.queueOut c (serviceBody (sgOf c) c ws)).modSlot fun sl => { sl with sent := s.nextId :: sl.sent }.retire)
    else .next s := by
    show execEcall s = _
    simp only [execEcall, State.outRoom, decide_eq_true_eq]
    split <;> rfl
  by_cases room : (s.core c).outb.length < 16
  · obtain ⟨net, cores, rest, -⟩ := s.queueOut_room c (serviceBody (sgOf c) c ws) room
    have slots := s.slotOf_queueOut c (serviceBody (sgOf c) c ws)
    have cur := (s.keeps_queueOut c (serviceBody (sgOf c) c ws)).cur
    rw [step, if_pos room, if_pos room]
    generalize s.queueOut c (serviceBody (sgOf c) c ws) = u at net cores rest slots cur
    refine ⟨_, rfl, net, ?_, fun d j other => ?_, fun d => ?_, rest⟩
    · rw [State.modSlot, cur, State.slotOf_modSlotOf_self, slots]; rfl
    · rw [State.modSlot, cur, State.slotOf_modSlotOf_ne _ _ other, slots]
    · have same : (s.core d).slots = (u.core d).slots := by rw [cores]; split <;> simp [*]
      rw [← cores, same]
      exact u.core_modSlotOf _ _ _ _
  · rw [step, if_neg room, if_neg room]

/-! ### Reset -/

/-- A vector of equal entries holds that entry everywhere. -/
theorem get_replicate {α : Type} {n : Nat} (a : α) (k : Fin n) : (Vector.replicate n a).get k = a := by
  show (Vector.replicate n a)[k.val] = a
  simp

/-- Settles O20: an absent core, cluster or field stands at its reset value, which holds them. -/
theorem resetLeavesTheStatedValues : Obligations.ResetLeavesTheStatedValues := by
  intro c
  have core : State.reset.core c = .reset := rfl
  have cluster : State.reset.cluster c = .reset := rfl
  have field : State.reset.field c = .reset := rfl
  rw [core, cluster, field]
  refine ⟨rfl, fun _ => get_replicate _ _, rfl, rfl, rfl, rfl, rfl, rfl, rfl, rfl, fun _ => get_replicate _ _, fun k => ?_, rfl, rfl, rfl,
    rfl, rfl, rfl, rfl⟩
  have slot : State.reset.slotOf c k = .reset := get_replicate _ _
  rw [slot]
  exact ⟨rfl, rfl⟩

end Sys2Proof.Machine
end

section
/-!
PROOFS. The send forms (R67): the checks of a header, and the send buffer.
-/
namespace Sys2Proof.Machine
/-! ### `send`, `sendr` and `sendv` -/

theorem toNat_extractLsb' {n : Nat} (x : BitVec n) (lo k : Nat) : (x.extractLsb' lo k).toNat = x.toNat / 2 ^ lo % 2 ^ k := by
  rw [BitVec.extractLsb'_toNat, Nat.shiftRight_eq_div_pow]

theorem coreIn_iff (s : State) (p : Option Nat) (c : Nat) : coreIn s p c = true ↔ c / 128 < 960 ∧ p ≠ none ∧ corePart s c = p := by
  show _ ↔ sgOf c < 960 ∧ _
  simp only [coreIn, Bool.and_eq_true, decide_eq_true_eq, beq_iff_eq, Option.isSome_iff_ne_none, and_assoc]

/-- The cause and value with which a send traps, the room for 16 sends included (R67). -/
def sendStop (s : State) (h : Word) (cls : BitVec 2) (route : Option (BitVec 12)) : Option (Nat × Word) :=
  (sendTrap s h cls route).or (if 16 ≤ s.slot.sends.length then some (causeSendovf, 16) else none)

/-- The checks of a send, by the fields of its header (R67, Table 4-1). -/
theorem sendStop_eq (s : State) (h : Word) (cls : BitVec 2) (route : Option (BitVec 12)) :
    let dest := h.toNat / 2 ^ 15 % 2 ^ 17
    let part := corePart s s.cur.core
    sendStop s h cls route =
      if h.toNat % 32 ≠ 0 ∨ cls = 3 ∨ (route = none ∧ cls = 1) then some (0x08, h)
      else if cls ≠ 2 ∧ ¬(dest / 128 < 960 ∧ part ≠ none ∧ corePart s dest = part) then some (0x08, h)
      else if cls = 2 ∧ dest < 2 ^ 16 ∧ (capOf s s.cur.core).getLsbD 10 = false then some (0x08, h)
      else if h.toNat / 2 ^ 9 % 64 = 63 then some (0x09, 63)
      else match route with
        | some r => if routed s s.cur.core r.toNat then (if 16 ≤ s.slot.sends.length then some (0x07, 16) else none)
          else some (0x0B, r.setWidth 64)
        | none => if 16 ≤ s.slot.sends.length then some (0x07, 16) else none := by
  intro dest part
  have low : h.extractLsb' 0 5 ≠ 0 ↔ h.toNat % 32 ≠ 0 := by
    rw [Ne, ← BitVec.toNat_inj, toNat_extractLsb']; simp
  have hdest : hdrDest h = dest := toNat_extractLsb' h 15 17
  have hchan : hdrChan h = h.toNat / 2 ^ 9 % 64 := toNat_extractLsb' h 9 6
  simp only [sendStop, sendTrap, low, hdest, hchan, peerBit, Bool.not_eq_true', Bool.eq_false_iff, ne_eq, coreIn_iff, Nat.reducePow]
  split
  · rfl
  split
  · rfl
  split
  · rfl
  split
  · rfl
  split
  · rename_i r _
    by_cases known : routed s s.cur.core r.toNat = true <;> simp only [known, if_true, Option.or] <;> rfl
  · rfl

/-- A send form traps for its first check that fails, or is buffered and retires (R67). -/
theorem sends_of_send {s : State} {i : Instr} {h : Word} {words : List Word} {cls : BitVec 2} {route : Option (BitVec 12)}
    (form : cls = if route.isSome then 1 else h.extractLsb' 6 2) (step : exec i s = .next (s.send h words route)) :
    match sendStop s h cls route with
    | some t => exec i s = .next (s.trap t.1 t.2)
    | none => Leaves i s { s.slot.next with sends := s.slot.sends ++ [.msg h words cls (route.getD 0)] } := by
  rw [State.send, ← form] at step
  unfold sendStop
  cases checks : sendTrap s h cls route with
  | some t => rw [checks] at step; exact step
  | none =>
    rw [checks] at step
    simp only [State.buffer] at step
    by_cases full : 16 ≤ s.slot.sends.length
    · rw [if_pos full] at step ⊢; exact step
    · rw [if_neg full] at step ⊢; exact ⟨_, step, s.onlySlot_modSlot _⟩

/-- A register below 28 within the demand is no port in error and none beyond it: `sendv` reads it (R57). -/
theorem State.vready_reg (s : State) (i : Instr) {r : Reg} (low : r.toNat < 28) (within : s.cur.slot = 3 ∨ r.toNat < s.slot.regdem) :
    s.vready i [] [r] none = .go 0 0 s.slot := by
  have port : portIllegal s r = false := by rw [portIllegal_eq]; simp; omega
  have bad : vregBad s r = false := by rw [vregBad_eq]; rcases within with h | h <;> simp [h]
  simp [State.vready, port, bad]

/-- Settles O23: each form is the one send of the model, with its payload. -/
theorem sendsAreBufferedOrTrap : Obligations.SendsAreBufferedOrTrap := by
  intro s rh rp vs rr n h dest chan cls part sends
  have spec : ∀ {i words cls route}, cls = (if route.isSome then 1 else h.extractLsb' 6 2) →
      exec i s = .next (s.send h words route) → sends i words cls route := by
    intro i words cls route form step
    have key := sends_of_send form step
    rw [sendStop_eq] at key
    exact key
  refine ⟨spec rfl rfl, ?_, fun low within => ?_⟩
  · have cut : (s.rx rr).extractLsb' 0 12 = (s.rx rr).setWidth 12 := BitVec.setWidth_eq_extractLsb' (by decide) |>.symm
    rw [cut]
    exact spec rfl rfl
  · refine spec rfl ?_
    show execSendv rh vs n s = _
    rw [execSendv, s.vready_reg _ low within]
end Sys2Proof.Machine
end

section
/-!
PROOFS. Channel masks and critical windows (R73, R74), and the search of the selection logic (R60, R64).
-/
namespace Sys2Proof.Machine

/-! ### `chmask`, `chpend`, `crit.on` and `crit.off` -/

/-- A change of a channel of the current core, with a result for rd. -/
theorem State.modChan_done (s : State) (ch : Nat) (f : Chan → Chan) (rd : Reg) (v : Word) :
    let t := (s.modChan s.cur.core ch f).done rd v
    t.slotOf s.cur.core s.cur.slot = s.slot.after rd v ∧
    (∀ d j, d ≠ s.cur.core ∨ j ≠ s.cur.slot → t.slotOf d j = s.slotOf d j) ∧
    (∀ o, t.chan s.cur.core o = if o = ch then f (s.chan s.cur.core ch) else s.chan s.cur.core o) ∧
    (∀ d, { t.core d with slots := (s.core d).slots, chans := (s.core d).chans } = s.core d) ∧ { t with cores := s.cores } = s := by
  intro t
  have h := (s.modChan s.cur.core ch f).onlySlot_done rd v
  refine ⟨?_, fun d j other => ?_, fun o => ?_, fun d => ?_, rfl⟩
  · exact h.here.trans (congrArg (Slot.after · rd v) (s.slotOf_modChan _ ch f _ _))
  · exact (h.slots d j other).trans (s.slotOf_modChan _ _ _ d j)
  · exact (State.chan_modSlotOf _ _ _ _ _ o).trans (s.chan_modChan _ ch o f)
  · have e := congrArg (fun co : CoreSt => { co with slots := (s.core d).slots, chans := (s.core d).chans }) (h.cores d)
    exact e.trans (congrArg (fun co : CoreSt => { co with slots := (s.core d).slots }) (s.core_modChan s.cur.core ch d f))

/-- Settles O28: the mask forms change their channel and write rd, and the critical window is a change of its slot. -/
theorem channelMasksAndCriticalWindows : Obligations.ChannelMasksAndCriticalWindows := by
  intro s rd rs rv v ch c k bit sets
  refine ⟨fun high => ?_, fun low => ?_, fun idle => ?_, fun normal busy => ?_, fun d j wait left idle => ?_, ⟨_, rfl, s.onlySlot_modSlot _⟩⟩
  · exact ⟨congrArg Host.Outcome.next (if_pos high), congrArg Host.Outcome.next (if_pos high)⟩
  · have low := Nat.not_lt.mpr low
    exact ⟨⟨_, congrArg Host.Outcome.next (if_neg low), s.modChan_done ch _ rd _⟩,
      ⟨_, congrArg Host.Outcome.next (if_neg low), s.modChan_done ch _ rd _⟩⟩
  · refine ⟨_, congrArg Host.Outcome.next (if_neg ?_), s.onlySlot_modSlot _⟩
    rw [Bool.and_eq_true, decide_eq_true_eq]
    rintro ⟨low, busy⟩
    rcases idle with three | idle
    · rw [show s.cur.slot = 3 from three] at low; exact absurd low (by decide)
    · rw [show (s.slotOf s.cur.core 3).live = false from idle] at busy; exact absurd busy (by decide)
  · refine ⟨_, congrArg Host.Outcome.next (if_pos ?_), s.onlySlot_modSlot _⟩
    rw [Bool.and_eq_true, decide_eq_true_eq]
    exact ⟨by omega, busy⟩
  · have step : exec (.critOnGrant d j.val) s = .next (s.modSlotOf d j fun sl => { sl with wait := .none, crit := true }.retire) := by
      show execCritOnGrant d j.val s = _
      simp [execCritOnGrant, slotIx_val, wait, idle, Slot.spent_eq_false left]
    exact ⟨_, step, s.slotOf_modSlotOf_self d j _, fun e i other => s.slotOf_modSlotOf_ne _ other, rfl⟩

/-! ### The selection logic -/

/-- The demands of a channel's record, none where it is unbound. -/
def State.demandOf (s : State) (c ch : Nat) (f : HandlerRec → Nat) : Nat := ((s.chan c ch).hrec.map f).getD 0

/-- The first eligible channel of a priority, in the order of the search (R60). -/
def State.firstEligible (s : State) (c : Nat) (hi : Bool) : Option Nat :=
  (searchFrom (if hi then (s.core c).lastHi else (s.core c).lastLo)).find? fun ch => eligible s c ch hi

/-- What a dispatch of R60 has met. -/
structure Selects (s : State) (c : Nat) (p : Pick) (hi : Bool) : Prop where
  first : s.firstEligible c hi = some p.ch
  fits : bayFit (s.core c) (s.demandOf c p.ch HandlerRec.baydem) = some p.bay

/-- The selection logic picks a high-priority head for slot 3, idle with no critical window open, or a normal one for the lowest idle
normal slot whose registers fit (R60). -/
theorem select_cases {s : State} {c : Nat} {p : Pick} (h : select s c = some p) :
    (p.slot = 3 ∧ Selects s c p true ∧ ((s.core c).slots.get 3).live = false ∧
      (s.core c).slots.toList.any (fun sl => sl.live && sl.crit) = false) ∨
    ((idleNormal (s.core c)).head? = some p.slot ∧ Selects s c p false ∧ s.demandOf c p.ch HandlerRec.regdem ≤ poolFree (s.core c)) := by
  unfold select at h
  extract_lets co demand hiCh hiFit at h
  cases hfit : hiFit with
  | some q =>
    rw [hfit] at h
    obtain rfl : q = p := Option.some.inj h
    obtain ⟨ch, found, fit⟩ := Option.bind_eq_some_iff.mp hfit
    obtain ⟨b, bay, rfl⟩ := Option.map_eq_some_iff.mp fit
    have open_ : (!(co.slots.get 3).live && !co.slots.toList.any fun sl => sl.live && sl.crit) = true := by
      by_contra no
      have none : hiCh = none := if_neg no
      rw [none] at found
      cases found
    have found : s.firstEligible c true = some ch := by rw [← found]; exact (if_pos open_).symm
    rw [Bool.and_eq_true, Bool.not_eq_true', Bool.not_eq_true'] at open_
    exact .inl ⟨rfl, ⟨found, bay⟩, open_.1, open_.2⟩
  | none =>
    rw [hfit] at h
    simp only at h
    split at h
    · cases h
    rename_i k more idle
    split at h
    · cases h
    rename_i ch found
    split at h
    · cases h
    rename_i b bay
    split at h
    · cases h
    rename_i regs
    split at h
    · cases h
    obtain rfl := Option.some.inj h
    exact .inr ⟨by rw [idle]; rfl, ⟨found, bay⟩, Nat.le_of_not_lt regs⟩

/-- What is picked is eligible, and nothing eligible comes before it in the search (R60). -/
theorem State.firstEligible_spec {s : State} {c ch : Nat} {hi : Bool} (h : s.firstEligible c hi = some ch) :
    let last := if hi then (s.core c).lastHi else (s.core c).lastLo
    eligible s c ch hi = true ∧
      ∀ i j, i < j → j < 64 → (last + 1 + j) % 64 = ch → eligible s c ((last + 1 + i) % 64) hi = false := by
  intro last
  rw [State.firstEligible, searchFrom, List.find?_map] at h
  obtain ⟨n, found, rfl⟩ := Option.map_eq_some_iff.mp h
  obtain ⟨good, bound, before⟩ := List.find?_range_eq_some.mp found
  refine ⟨good, fun i j lt hj same => ?_⟩
  have : j = n := by rw [List.mem_range] at bound; omega
  subst this
  simpa using before i lt

/-- An eligible channel is bound, enabled and not busy (R60). -/
theorem eligible_startable {s : State} {c ch : Nat} {hi : Bool} (h : eligible s c ch hi = true) :
    (s.chan c ch).hrec ≠ none ∧ (s.chan c ch).en = true ∧ (s.chan c ch).busy = false := by
  simp only [eligible, Chan.startable, Bool.and_eq_true, Bool.not_eq_true', Option.isSome_iff_ne_none] at h
  obtain ⟨⟨⟨⟨⟨bound, en⟩, busy⟩, -⟩, -⟩, -⟩ := h
  exact ⟨bound, en, busy⟩

/-- The first idle normal slot is idle, and every slot below it is at work. -/
theorem idleNormal_head {co : CoreSt} {k : Fin 4} (h : (idleNormal co).head? = some k) :
    k ≠ 3 ∧ (co.slots.get k).live = false ∧ ∀ j : Fin 4, j.val < k.val → (co.slots.get j).live = true := by
  have index : ∀ (i : Nat) (hi : i < 3), (([0, 1, 2] : List (Fin 4))[i]'hi).val = i := by decide
  rw [idleNormal, List.head?_filter, List.find?_eq_some_iff_getElem] at h
  obtain ⟨idle, i, hi, rfl, before⟩ := h
  rw [List.length_cons, List.length_cons, List.length_singleton] at hi
  refine ⟨fun e => ?_, by simpa using idle, fun j lt => ?_⟩
  · have := congrArg Fin.val e
    rw [index i hi] at this
    exact absurd this (Nat.ne_of_lt hi)
  · rw [index i hi] at lt
    have same : ([0, 1, 2] : List (Fin 4))[j.val]'(lt.trans hi) = j := Fin.ext (index j.val _)
    simpa [same] using before j.val lt

/-- A fit in the handler pool ends within its 32 units (R59, R145). -/
theorem bayFit_le {co : CoreSt} {dem u : Nat} (h : bayFit co dem = some u) : u + dem ≤ 32 ∨ dem = 0 := by
  unfold bayFit at h
  split at h
  · exact .inr ‹_›
  · have fits := List.find?_some h
    rw [Bool.and_eq_true, decide_eq_true_eq] at fits
    exact .inl fits.1

theorem any_eq_false_of_get {n : Nat} {α : Type} {v : Vector α n} {p : α → Bool} (h : v.toList.any p = false) (k : Fin n) : p (v.get k) = false := by
  have := List.any_eq_false.mp h (v.get k) (by simp [Vector.get])
  simpa using this

/-- Settles O31: both picks of the selection logic come from its search, with what each of them asks of the slots. -/
theorem selectionTakesTheFirstEligibleChannel : Obligations.SelectionTakesTheFirstEligibleChannel := by
  intro s c p h co hi last
  have demand : ∀ (f : HandlerRec → Nat) r, (s.chan c p.ch).hrec = some r → s.demandOf c p.ch f = f r := fun f r hr => by
    rw [State.demandOf, hr]; rfl
  obtain ⟨slot, ⟨first, fits⟩, idle, noCrit⟩ | ⟨slot, ⟨first, fits⟩, regs⟩ := select_cases h
  · have high : hi = true := by simp [hi, slot]
    have spec := State.firstEligible_spec first
    obtain ⟨bound, en, busy⟩ := eligible_startable spec.1
    refine ⟨by rw [high]; exact spec.1, bound, en, busy, by rw [slot]; exact idle, fun _ k live => ?_, fun low => by simp [high] at low,
      fun r hr => by rw [← demand HandlerRec.baydem r hr]; exact bayFit_le fits, fun r low => by simp [high] at low, ?_⟩
    · have closed : (co.slots.get k).live = true → (co.slots.get k).crit = false := by simpa using any_eq_false_of_get noCrit k
      exact closed live
    · simp only [last, high]; exact spec.2
  · obtain ⟨normal, idle, below⟩ := idleNormal_head slot
    have low : hi = false := by simp [hi, normal]
    have spec := State.firstEligible_spec first
    obtain ⟨bound, en, busy⟩ := eligible_startable spec.1
    refine ⟨by rw [low]; exact spec.1, bound, en, busy, idle, fun high => by simp [low] at high, fun _ => below,
      fun r hr => by rw [← demand HandlerRec.baydem r hr]; exact bayFit_le fits, fun r _ hr => by rw [← demand HandlerRec.regdem r hr]; exact regs, ?_⟩
    simp only [last, low]; exact spec.2

end Sys2Proof.Machine
end

section
/-!
PROOFS. A dispatch (R60, R61): the slot at the entry of its activation, its channel, and the search pointer.
-/
namespace Sys2Proof.Machine

/-- A channel whose activation starts on a slot with its head, or without one: it is busy, and the head is taken, or its pending bit is
clear (R60, R61). -/
def Chan.dispatched (q : Chan) (head : Option QEntry) (k : Nat) : Chan :=
  let q := match head with
    | some e => q.take e.seq k
    | none => { q with pend := false }
  { q with busy := true }

/-- The slot that a dispatch starts, but for what stays with the slot (R61). -/
def State.dispatchSlot (s : State) (c : Nat) (p : Pick) (r : HandlerRec) : Slot :=
  let e := (s.chan c p.ch).untaken
  { entrySlot s.free r.pc ((e.map QEntry.words).getD []) ((e.map QEntry.hdr).getD 0)
      (msgidOf ((e.map QEntry.seq).getD 0) c p.ch (if e.isSome then 0 else 1)) r.budget r.regdem r.ports r.compat with
    chan := some p.ch, first := some p.ch, trigger := e.map QEntry.seq, pending := e.isNone
    task := e.bind QEntry.task, baydem := r.baydem, bay := p.bay
    wait := if isServiceCore c && p.ch == 62 then .service else .none
    baywin := if r.baydem = 0 then 0 else BitVec.ofNat 64 (poolAddr c p.bay) }

/-- The search pointer of the picked priority holds the channel (R60). -/
def CoreSt.pointed (co : CoreSt) (p : Pick) : CoreSt := if p.slot = 3 then { co with lastHi := p.ch } else { co with lastLo := p.ch }

theorem CoreSt.pointed_chans (co : CoreSt) (p : Pick) : (co.pointed p).chans = co.chans := by unfold CoreSt.pointed; split <;> rfl
theorem CoreSt.pointed_slots (co : CoreSt) (p : Pick) : (co.pointed p).slots = co.slots := by unfold CoreSt.pointed; split <;> rfl

/-- A dispatch changes its channel, the pointer and its slot, and no other part of a core (R60, R61). -/
theorem State.start_cores (s : State) (c : Nat) (p : Pick) {r : HandlerRec} (bound : (s.chan c p.ch).hrec = some r) :
    (s.start c p).cores = (((s.modChan c p.ch (·.dispatched (s.chan c p.ch).untaken p.slot.val)).modCore c (·.pointed p)).modSlotOf c p.slot
      fun old => (s.dispatchSlot c p r).entered old s.net).cores := by
  unfold State.start
  rw [bound]
  rfl

theorem Chan.dispatched_busy (q : Chan) (head : Option QEntry) (k : Nat) : (q.dispatched head k).busy = true := rfl

theorem Chan.dispatched_pend (q : Chan) (head : Option QEntry) (k : Nat) :
    (q.dispatched head k).pend = if head = none then false else q.pend := by
  cases head <;> rfl

/-- The oldest message that no chain has taken stands in its queue, held by nobody. -/
theorem Chan.untaken_mem {q : Chan} {e : QEntry} (h : q.untaken = some e) : e ∈ q.queue ∧ e.taken = none :=
  ⟨List.mem_of_find?_eq_some h, by simpa using List.find?_some h⟩

/-- A message that is taken keeps its entry, which names the slot (R55). -/
theorem Chan.take_mem {q : Chan} {e : QEntry} (h : q.untaken = some e) (k : Nat) : { e with taken := some k } ∈ (q.take e.seq k).queue := by
  obtain ⟨mem, free⟩ := Chan.untaken_mem h
  exact List.mem_map.mpr ⟨e, mem, by simp [free]⟩

/-! ### The registers at entry -/

theorem get_entryX (n : Nat) (args : List Word) (x17 : Word) (j : Fin 32) : (entryX n args x17).get j =
    if j.val = 0 then 0 else if j.val = 17 then x17 else if 10 ≤ j.val ∧ j.val ≤ 16 then args.getD (j.val - 10) 0
      else Config.freeWord (n + j.val) :=
  Vector.getElem_ofFn j.isLt

/-- A slot whose x registers are those of an entry reads the payload in x10 to x16 and the header in x17 (R61, R71). -/
theorem Slot.rx_entryX {sl : Slot} {n : Nat} {args : List Word} {x17 : Word} (h : sl.x = entryX n args x17) :
    (∀ i : Fin 7, sl.rx (BitVec.ofNat 5 (10 + i.val)) = args.getD i.val 0) ∧ sl.rx 17 = x17 := by
  refine ⟨fun i => ?_, ?_⟩
  · have hi := i.isLt
    have num : (BitVec.ofNat 5 (10 + i.val)).toNat = 10 + i.val := Nat.mod_eq_of_lt (by omega)
    have nonzero : BitVec.ofNat 5 (10 + i.val) ≠ 0 := fun e => by
      have zero := congrArg BitVec.toNat e
      rw [num] at zero
      simp at zero
    have num : (BitVec.ofNat 5 (10 + i.val)).toFin.val = 10 + i.val := num
    rw [Slot.rx, if_neg nonzero, h, get_entryX, num, if_neg (by omega), if_neg (by omega), if_pos (by omega), Nat.add_sub_cancel_left]
  · rw [Slot.rx, if_neg (by decide), h, get_entryX]; rfl

theorem msgidOf_seq (seq : BitVec 32) (c ch origin : Nat) : (msgidOf seq c ch origin).extractLsb' 32 32 = seq := by
  refine BitVec.eq_of_getLsbD_eq fun i hi => ?_
  simp only [msgidOf, BitVec.getLsbD_extractLsb', BitVec.getLsbD_append, hi, decide_true, Bool.true_and]
  repeat rw [if_neg (by omega)]
  congr 1
  omega

theorem msgidOf_origin (seq : BitVec 32) (c ch origin : Nat) : (msgidOf seq c ch origin).extractLsb' 0 2 = BitVec.ofNat 2 origin := by
  refine BitVec.eq_of_getLsbD_eq fun i hi => ?_
  simp only [msgidOf, BitVec.getLsbD_extractLsb', BitVec.getLsbD_append, hi, decide_true, Bool.true_and]
  rw [if_pos (by omega), Nat.zero_add]

/-! ### The whole dispatch -/

/-- Every slot after a dispatch. -/
theorem State.slotOf_start (s : State) (c : Nat) (p : Pick) {r : HandlerRec} (bound : (s.chan c p.ch).hrec = some r) (d : Nat) (j : Fin 4) :
    (s.start c p).slotOf d j = if d = c ∧ j = p.slot then (s.dispatchSlot c p r).entered (s.slotOf c p.slot) s.net else s.slotOf d j := by
  have same := State.slotOf_modCore (s.modChan c p.ch (·.dispatched (s.chan c p.ch).untaken p.slot.val)) c
    (f := (·.pointed p)) (CoreSt.pointed_slots · p)
  rw [State.slotOf_of_cores (s.start_cores c p bound), State.slotOf_modSlotOf, same, same, State.slotOf_modChan, State.slotOf_modChan]

/-- The channel of a dispatch. -/
theorem State.chan_start (s : State) (c : Nat) (p : Pick) {r : HandlerRec} (bound : (s.chan c p.ch).hrec = some r) :
    (s.start c p).chan c p.ch = (s.chan c p.ch).dispatched (s.chan c p.ch).untaken p.slot.val := by
  rw [State.chan_of_cores (s.start_cores c p bound), State.chan_modSlotOf, State.chan_modCore _ _ (CoreSt.pointed_chans · p), State.chan_modChan_self]

/-- The search pointers after a dispatch (R60). -/
theorem State.start_pointers (s : State) (c : Nat) (p : Pick) {r : HandlerRec} (bound : (s.chan c p.ch).hrec = some r) :
    if p.slot = 3 then ((s.start c p).core c).lastHi = p.ch ∧ ((s.start c p).core c).lastLo = (s.core c).lastLo
    else ((s.start c p).core c).lastLo = p.ch ∧ ((s.start c p).core c).lastHi = (s.core c).lastHi := by
  rw [State.core_of_cores (s.start_cores c p bound)]
  simp only [State.modSlotOf, State.modChan, State.core_modCore_self, CoreSt.pointed]
  split <;> exact ⟨rfl, rfl⟩

/-- Settles O30: the pick's record gives the slot at entry, and its head the payload. -/
theorem dispatchStartsTheSelectedHandler : Obligations.DispatchStartsTheSelectedHandler := by
  intro s c
  have step : exec (.dispatch c) s = .next (match select s c with | some p => s.start c p | none => s) := rfl
  cases pick : select s c with
  | none => rw [pick] at step; exact step
  | some p =>
    rw [pick] at step
    obtain ⟨r, bound⟩ : ∃ r, (s.chan c p.ch).hrec = some r := by
      have eligible : ∃ hi, eligible s c p.ch hi = true := by
        obtain ⟨-, ⟨first, -⟩, -⟩ | ⟨-, ⟨first, -⟩, -⟩ := select_cases pick
        · exact ⟨_, (State.firstEligible_spec first).1⟩
        · exact ⟨_, (State.firstEligible_spec first).1⟩
      obtain ⟨hi, h⟩ := eligible
      exact Option.ne_none_iff_exists'.mp (eligible_startable h).1
    refine ⟨_, r, bound, step, ?_⟩
    have slot := (s.slotOf_start c p bound c p.slot).trans (if_pos ⟨rfl, rfl⟩)
    have chan := s.chan_start c p bound
    simp only [slot, chan]
    obtain ⟨args, hdr⟩ := Slot.rx_entryX (sl := (s.dispatchSlot c p r).entered (s.slotOf c p.slot) s.net) rfl
    refine ⟨rfl, ?_, rfl, rfl, rfl, rfl, rfl, rfl, rfl, rfl, rfl, rfl, rfl, rfl, rfl, rfl, rfl, rfl, rfl, args, hdr, msgidOf_seq _ _ _ _, ?_,
      rfl, rfl, Chan.dispatched_pend _ _ _, fun q head => ?_, s.start_pointers c p bound, fun d j other => ?_⟩
    · show (if isServiceCore c && p.ch == 62 then Wait.service else Wait.none) = _
      simp [isServiceCore]
    · refine (msgidOf_origin _ _ _ _).trans ?_
      show BitVec.ofNat 2 (if (s.chan c p.ch).untaken.isSome = true then 0 else 1) = if (s.chan c p.ch).untaken = none then 1 else 0
      cases (s.chan c p.ch).untaken <;> rfl
    · have head : (s.chan c p.ch).untaken = some q := head
      rw [head]
      exact Chan.take_mem head _
    · rw [s.slotOf_start c p bound, if_neg fun e => other.elim (· e.1) (· e.2)]

end Sys2Proof.Machine
end

section
/-!
PROOFS. `waitm` (R72): the registers that a message goes to, and the order of the waits for one.
-/
namespace Sys2Proof.Machine

/-! ### A message in the registers -/

theorem Slot.wx_eq (sl : Slot) (r : Reg) (v : Word) : ∃ x bad, sl.wx r v = { sl with x := x, bad := bad } := by
  unfold Slot.wx
  split
  · exact ⟨_, _, rfl⟩
  · exact ⟨_, _, rfl⟩

/-- Some words written to the x registers from a number on. -/
def Slot.putWords (sl : Slot) (l : List (Word × Nat)) : Slot := l.foldl (fun sl p => sl.wx (BitVec.ofNat 5 (10 + p.2)) p.1) sl

theorem Slot.putWords_eq (l : List (Word × Nat)) : ∀ sl : Slot, ∃ x bad, sl.putWords l = { sl with x := x, bad := bad } := by
  induction l with
  | nil => exact fun sl => ⟨_, _, rfl⟩
  | cons p l ih =>
    intro sl
    obtain ⟨x, bad, e⟩ := sl.wx_eq (BitVec.ofNat 5 (10 + p.2)) p.1
    obtain ⟨x', bad', e'⟩ := ih { sl with x := x, bad := bad }
    refine ⟨x', bad', ?_⟩
    show Slot.putWords (sl.wx _ _) l = _
    rw [e]
    exact e'

theorem Slot.rx_putWords (q : Reg) : ∀ (ws : List Word) (n : Nat) (sl : Slot), 10 + n + ws.length ≤ 32 →
    (sl.putWords (ws.zipIdx n)).rx q =
      if 10 + n ≤ q.toNat ∧ q.toNat < 10 + n + ws.length then ws.getD (q.toNat - 10 - n) 0 else sl.rx q
  | [], n, sl, _ => (if_neg (by simp)).symm
  | w :: ws, n, sl, h => by
    rw [List.length_cons] at h
    have num : (BitVec.ofNat 5 (10 + n)).toNat = 10 + n := Nat.mod_eq_of_lt (by omega)
    rw [List.zipIdx_cons]
    refine (Slot.rx_putWords q ws (n + 1) (sl.wx (BitVec.ofNat 5 (10 + n)) w) (by omega)).trans ?_
    have at_ : q = BitVec.ofNat 5 (10 + n) ↔ q.toNat = 10 + n := by rw [← BitVec.toNat_inj, num]
    have nonzero : BitVec.ofNat 5 (10 + n) ≠ 0 := fun e => by have := congrArg BitVec.toNat e; rw [num] at this; simp at this
    simp only [Slot.rx_wx, at_, List.length_cons]
    by_cases here : q.toNat = 10 + n
    · rw [if_neg (by omega), if_pos ⟨here, nonzero⟩, if_pos (by omega), here]; simp
    · by_cases later : 10 + (n + 1) ≤ q.toNat ∧ q.toNat < 10 + (n + 1) + ws.length
      · rw [if_pos later, if_pos (by omega), show q.toNat - 10 - n = (q.toNat - 10 - (n + 1)) + 1 by omega, List.getD_cons_succ]
      · rw [if_neg later, if_neg fun e => here e.1, if_neg (by omega)]

theorem Slot.loadMsg_eq (sl : Slot) (ws : List Word) (h : Word) : sl.loadMsg ws h = (sl.putWords ((sevenWords ws).zipIdx)).wx 17 h := rfl

theorem Slot.loadMsg_frame (sl : Slot) (ws : List Word) (h : Word) : ∃ x bad, sl.loadMsg ws h = { sl with x := x, bad := bad } := by
  rw [Slot.loadMsg_eq]
  obtain ⟨x, bad, e⟩ := sl.putWords_eq ((sevenWords ws).zipIdx)
  rw [e]
  exact Slot.wx_eq _ _ _

/-- x10 to x16 hold the payload, zero beyond it, and x17 the header (R72). -/
theorem Slot.rx_loadMsg (sl : Slot) (ws : List Word) (h : Word) (q : Reg) : (sl.loadMsg ws h).rx q =
    if q = 17 then h else if 10 ≤ q.toNat ∧ q.toNat < 17 then ws.getD (q.toNat - 10) 0 else sl.rx q := by
  have seven : (sevenWords ws).length = 7 := by simp [sevenWords]
  rw [Slot.loadMsg_eq, Slot.rx_wx, Slot.rx_putWords q (sevenWords ws) 0 sl (by omega), seven]
  by_cases hdr : q = 17
  · rw [if_pos ⟨hdr, by decide⟩, if_pos hdr]
  · rw [if_neg fun e => hdr e.1, if_neg hdr]
    by_cases pay : 10 ≤ q.toNat ∧ q.toNat < 17
    · have len : q.toNat - 10 < 7 := by omega
      rw [if_pos pay, if_pos (by omega)]
      simp [sevenWords, List.getD_eq_getElem?_getD, len]
    · rw [if_neg pay, if_neg (by omega)]

/-! ### A message taken -/

/-- A message that is taken goes to the registers of its slot, with its header last to rd, and keeps its queue entry (R72). -/
theorem State.takeMsg_spec (s : State) (c : Nat) (k : Fin 4) (rd : Reg) (ch : Nat) {e : QEntry} (h : (s.chan c ch).untaken = some e) :
    let t := s.takeMsg c k rd ch e
    (t.slotOf c k).rx rd = (if rd = 0 then 0 else e.hdr) ∧
    (∀ n : Fin 7, BitVec.ofNat 5 (10 + n.val) ≠ rd → (t.slotOf c k).rx (BitVec.ofNat 5 (10 + n.val)) = e.words.getD n.val 0) ∧
    (17 ≠ rd → (t.slotOf c k).rx 17 = e.hdr) ∧
    (∀ r : Reg, r ≠ rd → r.toNat < 10 ∨ 17 < r.toNat → (t.slotOf c k).rx r = (s.slotOf c k).rx r) ∧
    (t.slotOf c k).pc = (s.slotOf c k).pc + 4 ∧ (t.slotOf c k).wait = .none ∧
    (t.slotOf c k).taken = (ch, e.seq) :: (s.slotOf c k).taken ∧ (t.slotOf c k).msgid = (s.slotOf c k).msgid ∧
    ((t.chan c ch).queue.map QEntry.seq = (s.chan c ch).queue.map QEntry.seq) ∧
    { e with taken := some k.val } ∈ (t.chan c ch).queue ∧ { t with cores := s.cores } = s := by
  intro t
  have slot : t.slotOf c k = { ((((s.slotOf c k).loadMsg e.words e.hdr).wx rd e.hdr).retire) with
      wait := .none, taken := (ch, e.seq) :: (s.slotOf c k).taken } := by
    refine (State.slotOf_modSlotOf_self _ _ _ _).trans ?_
    rw [State.slotOf_modChan]
  have chan : t.chan c ch = (s.chan c ch).take e.seq k.val := (State.chan_modSlotOf _ _ _ _ _ _).trans (State.chan_modChan_self _ _ _ _)
  have rx : ∀ q : Reg, (t.slotOf c k).rx q = if q = rd ∧ rd ≠ 0 then e.hdr else ((s.slotOf c k).loadMsg e.words e.hdr).rx q := fun q => by
    rw [slot]; exact Slot.rx_wx _ _ _ _
  obtain ⟨x, bad, frame⟩ : ∃ x bad, ((s.slotOf c k).loadMsg e.words e.hdr).wx rd e.hdr = { s.slotOf c k with x := x, bad := bad } := by
    obtain ⟨x, bad, h⟩ := (s.slotOf c k).loadMsg_frame e.words e.hdr
    rw [h]
    exact Slot.wx_eq _ _ _
  refine ⟨?_, fun n other => ?_, fun other => ?_, fun r other out => ?_, ?_, by rw [slot], by rw [slot], ?_, ?_, ?_, rfl⟩
  · rw [rx]
    by_cases zero : rd = 0
    · subst zero; rw [if_neg (by simp), if_pos rfl]; rfl
    · rw [if_pos ⟨rfl, zero⟩, if_neg zero]
  · have num : (BitVec.ofNat 5 (10 + n.val)).toNat = 10 + n.val := Nat.mod_eq_of_lt (by omega)
    rw [rx, if_neg fun e => other e.1, Slot.rx_loadMsg, if_neg (fun e => by have := congrArg BitVec.toNat e; rw [num] at this; simp at this; omega),
      if_pos (by omega), num, Nat.add_sub_cancel_left]
  · rw [rx, if_neg fun e => other e.1, Slot.rx_loadMsg, if_pos rfl]
  · rw [rx, if_neg fun e => other e.1, Slot.rx_loadMsg, if_neg (by rintro rfl; simp at out), if_neg (by omega)]
  · rw [slot, frame]; rfl
  · rw [slot, frame]; rfl
  · rw [chan, Chan.take, List.map_map]
    refine List.map_congr_left fun q _ => ?_
    simp only [Function.comp_apply]
    split <;> rfl
  · rw [chan]
    exact Chan.take_mem h k.val

/-! ### The wait that began first -/

/-- The earlier of a waiter found so far and another one. -/
def earlier (b : Option (Nat × Fin 4 × Reg)) (w : Nat × Fin 4 × Reg) : Option (Nat × Fin 4 × Reg) :=
  match b with
  | none => some w
  | some v => if w.1 < v.1 then some w else b

theorem firstWaiter_eq_foldl (l : List (Nat × Fin 4 × Reg)) : firstWaiter l = l.foldl earlier none := rfl

theorem foldl_earlier {x : Nat × Fin 4 × Reg} : ∀ (l : List (Nat × Fin 4 × Reg)) (b : Option (Nat × Fin 4 × Reg)),
    (∀ y ∈ l, x.1 < y.1 ∨ y = x) → b = some x ∨ (x ∈ l ∧ ∀ y, b = some y → x.1 < y.1) → l.foldl earlier b = some x
  | [], _, _, .inl h => h
  | [], _, _, .inr h => absurd h.1 List.not_mem_nil
  | a :: l, b, least, h => by
    refine foldl_earlier l (earlier b a) (fun y hy => least y (List.mem_cons_of_mem _ hy)) ?_
    have ha := least a List.mem_cons_self
    rcases h with rfl | ⟨mem, later⟩
    · refine .inl (if_neg ?_)
      rcases ha with lt | rfl <;> omega
    · by_cases here : a = x
      · subst here
        cases b with
        | none => exact .inl rfl
        | some y => exact .inl (if_pos (later y rfl))
      · have lt := ha.resolve_right here
        refine .inr ⟨(List.mem_cons.mp mem).resolve_left (Ne.symm here), fun y hy => ?_⟩
        cases b with
        | none => cases hy; exact lt
        | some z =>
          simp only [earlier] at hy
          split at hy
          · cases hy; exact lt
          · exact later y hy

/-- The waiter whose wait began before every other one's is the first (R72). -/
theorem firstWaiter_eq {l : List (Nat × Fin 4 × Reg)} {x : Nat × Fin 4 × Reg} (mem : x ∈ l) (least : ∀ y ∈ l, x.1 < y.1 ∨ y = x) :
    firstWaiter l = some x := by
  rw [firstWaiter_eq_foldl]
  exact foldl_earlier l none least (.inr ⟨mem, fun _ h => by cases h⟩)

theorem Chan.untaken_eq (q : Chan) : (q.queue.find? fun e => e.taken == none) = q.untaken := by
  have same : (fun e : QEntry => e.taken == none) = fun e => e.taken.isNone := by funext e; cases e.taken <;> rfl
  rw [same]; rfl

/-- Settles O27: `waitm` and the end of its wait take the oldest message by the one `takeMsg`. -/
theorem waitmTakesTheOldestMessage : Obligations.WaitmTakesTheOldestMessage := by
  intro s rd rs e v ch c oldest takes
  have step : exec (.waitm rd rs) s = .next (if 62 < ch ∨ (s.chan c ch).en then s.trap causeBadchan v
    else match (s.chan c ch).untaken with
      | some e =>
        if waiting s c ch then
          { s.modSlot fun sl => { sl with wait := .waitm rd ch s.nextId } with nextId := s.nextId + 1 }
        else s.takeMsg c s.cur.slot rd ch e
      | none => { s.modSlot fun sl => { sl with wait := .waitm rd ch s.nextId } with nextId := s.nextId + 1 }) := rfl
  have head : oldest = (s.chan c ch).untaken := Chan.untaken_eq _
  have waits := (s.onlySlot_modSlot fun sl => { sl with wait := .waitm rd ch s.nextId }).toSlotIs
  refine ⟨fun bad => ?_, fun low off => ⟨fun some free => ?_, fun busy => ?_⟩, fun b w k d n mem least some => ?_⟩
  · rw [step, if_pos bad]; rfl
  · rw [head] at some
    rw [if_neg (by simp [off]; omega), some] at step
    simp only [free] at step
    exact ⟨_, step, s.takeMsg_spec c s.cur.slot rd ch some⟩
  · refine ⟨{ s.modSlot fun sl => { sl with wait := .waitm rd ch s.nextId } with nextId := s.nextId + 1 }, ?_, waits.of_cores rfl, rfl⟩
    rw [step, if_neg (by simp [off]; omega)]
    rcases busy with none | other
    · rw [← head, none]
    · cases (s.chan c ch).untaken with
      | none => rfl
      | some e => simp only [other, if_true]
  · rw [Chan.untaken_eq] at some
    have step : exec (.waitmTake b n) s = .next (s.takeMsg b k d n e) := by
      show execWaitmTake b n s = _
      rw [execWaitmTake, firstWaiter_eq mem least, some]
    exact ⟨_, step, s.takeMsg_spec b k d n some⟩

end Sys2Proof.Machine
end

section
/-!
PROOFS. The sends of an activation leave its core (R68, R133), and what its end releases (R55, R69): the channel, the entries of its
chain, and the flow-control returns for the room that they leave.
-/
namespace Sys2Proof.Machine

/-! ### The sends -/

/-- `t` is `s` after `n` sends of core `c` have left: messages, their dependencies, slots and outbound buffers are all that has changed. -/
structure SendsLeft (s t : State) (c n : Nat) : Prop where
  rest : { t with cores := s.cores, net := s.net, nextId := s.nextId, carried := s.carried } = s
  cores : ∀ d, ∃ slots outb, t.core d = { s.core d with slots := slots, outb := outb }
  outb : (t.core c).outb.length = (s.core c).outb.length + n
  nextId : t.nextId = s.nextId + n

theorem SendsLeft.trans {s t u : State} {c n m : Nat} (h : SendsLeft s t c n) (g : SendsLeft t u c m) : SendsLeft s u c (n + m) where
  rest := by
    have e := congrArg (fun v : State => { v with cores := s.cores, net := s.net, nextId := s.nextId, carried := s.carried }) g.rest
    exact e.trans h.rest
  cores := fun d => by
    obtain ⟨_, _, e⟩ := h.cores d
    obtain ⟨slots, outb, e'⟩ := g.cores d
    exact ⟨slots, outb, by rw [e', e]⟩
  outb := by rw [g.outb, h.outb, Nat.add_assoc]
  nextId := by rw [g.nextId, h.nextId, Nat.add_assoc]

theorem SendsLeft.chan {s t : State} {c n : Nat} (h : SendsLeft s t c n) (d ch : Nat) : t.chan d ch = s.chan d ch := by
  obtain ⟨_, _, e⟩ := h.cores d
  rw [State.chan, e]; rfl

/-- A change of a slot is no send. -/
theorem State.sendsLeft_modSlotOf (s : State) (c : Nat) (k : Fin 4) (f : Slot → Slot) : SendsLeft s (s.modSlotOf c k f) c 0 where
  rest := rfl
  cores := fun d => by
    simp only [State.modSlotOf, State.core_modCore]
    split
    · subst d; exact ⟨_, _, rfl⟩
    · exact ⟨_, _, rfl⟩
  outb := by simp only [State.modSlotOf, State.core_modCore_self]; rfl
  nextId := rfl

/-- What a send leaves as does not depend on the sends before it. -/
theorem SendsLeft.sendBody {s t : State} {c n : Nat} (h : SendsLeft s t c n) (d k : Nat) (m : Send) :
    sendBody t d k m = sendBody s d k m := by
  have e := congrArg (fun u : State => Machine.sendBody u d k m) h.rest
  refine Eq.trans ?_ e
  cases m <;> rfl

/-- The slot once its oldest buffered send has left, as the message of a number. -/
def Slot.sendGone (id : Nat) (sl : Slot) : Slot :=
  { sl with sent := id :: sl.sent, flow := { sl.flow with sends := sl.flow.sends.drop 1 } }

/-- One send with a free entry leaves (R68, R133). -/
theorem State.sendOne_spec (s : State) (c : Nat) (k : Fin 4) (m : Send) (room : (s.core c).outb.length < 16) :
    let t := s.sendOne c k m
    let deps := (s.slotOf c k).flow.sends.headD []
    SendsLeft s t c 1 ∧ t.net = s.net ++ [⟨s.nextId, .core c, true, false, sendBody s c k.val m⟩] ∧
    (∀ i, t.carried.getD i [] = if i = s.nextId ∧ deps ≠ [] then deps else s.carried.getD i []) ∧
    (∀ d j, t.slotOf d j = if d = c ∧ j = k then (s.slotOf c k).sendGone s.nextId else s.slotOf d j) := by
  obtain ⟨net, cores, rest, next⟩ := s.queueOut_room c (Machine.sendBody s c k.val m) room
  have slots := s.slotOf_queueOut c (Machine.sendBody s c k.val m)
  unfold State.sendOne
  generalize s.queueOut c (Machine.sendBody s c k.val m) = u at net cores rest next slots
  intro t deps
  have carried : u.carried = s.carried := by
    have e := congrArg State.carried rest
    exact e
  have queued : SendsLeft s u c 1 := ⟨congrArg (fun v : State => { v with carried := s.carried }) rest, fun d => by
    rw [cores]
    split
    · subst d; exact ⟨_, _, rfl⟩
    · exact ⟨_, _, rfl⟩, by simp [cores], next⟩
  have left := queued.trans (u.sendsLeft_modSlotOf c k (Slot.sendGone s.nextId))
  have slots : ∀ d j, (u.modSlotOf c k (Slot.sendGone s.nextId)).slotOf d j =
      if d = c ∧ j = k then (s.slotOf c k).sendGone s.nextId else s.slotOf d j := fun d j => by
    rw [State.slotOf_modSlotOf, slots, slots]
  by_cases free : deps = []
  · have step : t = u.modSlotOf c k (Slot.sendGone s.nextId) := if_pos (by rw [List.isEmpty_iff]; exact free)
    rw [step]
    exact ⟨left, net, fun i => by rw [if_neg fun e => e.2 free]; exact congrArg (AMap.getD · i []) carried, slots⟩
  · have step : t = { u.modSlotOf c k (Slot.sendGone s.nextId) with carried := u.carried.put s.nextId deps } :=
      if_neg (by rw [List.isEmpty_iff]; exact free)
    rw [step]
    refine ⟨⟨left.rest, left.cores, left.outb, left.nextId⟩, net, fun i => ?_, slots⟩
    rw [AMap.getD_put, carried]
    simp [free]

/-- The messages that some sends leave as, numbered from `n` on. -/
def leaving (s : State) (c k : Nat) : Nat → List Send → List Msg
  | _, [] => []
  | n, m :: ms => ⟨n, .core c, true, false, sendBody s c k m⟩ :: leaving s c k (n + 1) ms

theorem leaving_bodies (s : State) (c k : Nat) : ∀ (ms : List Send) (n : Nat),
    (leaving s c k n ms).map Msg.body = ms.map (sendBody s c k)
  | [], _ => rfl
  | _ :: ms, n => congrArg _ (leaving_bodies s c k ms (n + 1))

theorem leaving_getElem? (s : State) (c k : Nat) : ∀ (ms : List Send) (n j : Nat) {x : Msg}, (leaving s c k n ms)[j]? = some x →
    j < ms.length ∧ x.id = n + j ∧ x.src = .core c ∧ x.entry = true ∧ x.heldBack = false
  | [], _, _, _, h => by cases h
  | _ :: ms, n, 0, x, h => by cases h; exact ⟨Nat.succ_pos _, rfl, rfl, rfl, rfl⟩
  | _ :: ms, n, j + 1, x, h => by
    obtain ⟨lt, id, rest⟩ := leaving_getElem? s c k ms (n + 1) j h
    exact ⟨Nat.succ_lt_succ lt, by omega, rest⟩

/-- The slot once its sends have left. -/
def Slot.sendsGone (sl : Slot) (ids : List Nat) : Slot :=
  { sl with
    sent := ids.reverse ++ sl.sent, sends := [], owed := sl.owed.map fun o => { o with sends := 0 }
    flow := { sl.flow with sends := sl.flow.sends.drop ids.length } }

/-- The sends leave in order, each with what it depends on (R68, R131, R133). -/
theorem State.releaseSends_spec (c : Nat) (k : Fin 4) : ∀ (ms : List Send) (s : State), (s.core c).outb.length + ms.length ≤ 16 →
    let t := s.releaseSends c k ms
    let new := leaving s c k.val s.nextId ms
    SendsLeft s t c ms.length ∧ t.net = s.net ++ new ∧
    (∀ i, i < s.nextId → t.carried.getD i [] = s.carried.getD i []) ∧
    (∀ j, j < ms.length → (s.slotOf c k).flow.sends.getD j [] ≠ [] →
      t.carried.getD (s.nextId + j) [] = (s.slotOf c k).flow.sends.getD j []) ∧
    (∀ d j, t.slotOf d j = if d = c ∧ j = k then (s.slotOf c k).sendsGone (new.map Msg.id) else s.slotOf d j)
  | [], s, _ => by
    refine ⟨s.sendsLeft_modSlotOf c k _, (List.append_nil _).symm, fun _ _ => rfl, fun j h => absurd h (Nat.not_lt_zero j), fun d j => ?_⟩
    exact State.slotOf_modSlotOf _ _ _ _ _ _
  | m :: ms, s, room => by
    rw [List.length_cons] at room
    obtain ⟨left, net, carried, slots⟩ := s.sendOne_spec c k m (by omega)
    obtain ⟨left', net', before, deps, slots'⟩ := State.releaseSends_spec c k ms (s.sendOne c k m) (by rw [left.outb]; omega)
    have bodies : ∀ (ms : List Send) (n : Nat), leaving (s.sendOne c k m) c k.val n ms = leaving s c k.val n ms := by
      intro ms
      induction ms with
      | nil => exact fun _ => rfl
      | cons a l ih => exact fun n => by rw [leaving, leaving, ih, left.sendBody]
    rw [bodies, left.nextId] at net' slots'
    rw [left.nextId] at before deps
    intro t new
    refine ⟨by have := left.trans left'; rwa [Nat.add_comm] at this, ?_, fun i hi => ?_, fun j hj some => ?_, fun d j => ?_⟩
    · exact net'.trans (by rw [net, List.append_assoc]; rfl)
    · refine (before i (by omega)).trans ((carried i).trans (if_neg fun e => ?_))
      omega
    · have here := (slots c k).trans (if_pos ⟨rfl, rfl⟩)
      cases j with
      | zero =>
        have head : (s.slotOf c k).flow.sends.headD [] = (s.slotOf c k).flow.sends.getD 0 [] := by
          cases (s.slotOf c k).flow.sends <;> rfl
        refine (before s.nextId (by omega)).trans ((carried _).trans ?_)
        rw [head, if_pos ⟨rfl, some⟩]
      | succ j =>
        have tail : ((s.sendOne c k m).slotOf c k).flow.sends.getD j [] = (s.slotOf c k).flow.sends.getD (j + 1) [] := by
          rw [here]; simp [Slot.sendGone, List.getD_eq_getElem?_getD]
        rw [← tail] at some ⊢
        have := deps j (Nat.lt_of_succ_lt_succ hj) some
        rwa [Nat.add_assoc, Nat.add_comm 1 j] at this
    · refine (slots' d j).trans ?_
      rw [(slots c k).trans (if_pos ⟨rfl, rfl⟩), slots]
      split
      · simp [Slot.sendsGone, Slot.sendGone, leaving, new, Nat.add_comm]
      · rfl

/-! ### What is released -/

/-- `t` is `s` after entries of core `c` have been freed: channels have changed, of which none refuses a message more or has less room
promised, and each message posted is the flow-control return of one that was refused and now has room (R54). -/
structure Grants (s t : State) (c : Nat) : Prop where
  alone : ChansAlone s t
  refused : ∀ ch, (t.chan c ch).refused ⊆ (s.chan c ch).refused
  reserved : ∀ ch, (s.chan c ch).reserved ⊆ (t.chan c ch).reserved
  net : ∃ msgs, t.net = s.net ++ msgs ∧ ∀ m ∈ msgs, m.src = .core c ∧ m.entry = false ∧
    ∃ d e ch, m.body = .flow d e true ∧ e ∈ (s.chan c ch).refused ∧ e ∈ (t.chan c ch).reserved

theorem Grants.refl (s : State) (c : Nat) : Grants s s c :=
  ⟨.refl s, fun _ => List.Subset.refl _, fun _ => List.Subset.refl _, [], (List.append_nil _).symm, fun _ h => absurd h List.not_mem_nil⟩

theorem Grants.trans {s t u : State} {c : Nat} (h : Grants s t c) (g : Grants t u c) : Grants s u c where
  alone := h.alone.trans g.alone
  refused := fun ch => List.Subset.trans (g.refused ch) (h.refused ch)
  reserved := fun ch => List.Subset.trans (h.reserved ch) (g.reserved ch)
  net := by
    obtain ⟨ms, net, of⟩ := h.net
    obtain ⟨ns, net', of'⟩ := g.net
    refine ⟨ms ++ ns, by rw [net', net, List.append_assoc], fun m hm => ?_⟩
    rcases List.mem_append.mp hm with hm | hm
    · obtain ⟨src, entry, d, e, ch, body, mem, mem'⟩ := of m hm
      exact ⟨src, entry, d, e, ch, body, mem, g.reserved ch mem'⟩
    · obtain ⟨src, entry, d, e, ch, body, mem, mem'⟩ := of' m hm
      exact ⟨src, entry, d, e, ch, body, h.refused ch mem, mem'⟩

/-- A change of a channel that leaves what it has refused and promised frees entries at most. -/
theorem State.grants_modChan (s : State) (c ch : Nat) {f : Chan → Chan} (refused : ∀ q, (f q).refused = q.refused)
    (reserved : ∀ q, (f q).reserved = q.reserved) : Grants s (s.modChan c ch f) c where
  alone := s.chansAlone_modChan c ch f
  refused := fun d => by rw [State.chan_modChan]; split <;> simp [*]
  reserved := fun d => by rw [State.chan_modChan]; split <;> simp [*]
  net := ⟨[], (List.append_nil _).symm, fun _ h => absurd h List.not_mem_nil⟩

theorem State.grants_grantRoom (c ch : Nat) : ∀ (n : Nat) (s : State), Grants s (s.grantRoom c ch n) c
  | 0, s => .refl s c
  | n + 1, s => by
    unfold State.grantRoom
    extract_lets q
    split
    · rename_i m rest refused
      split
      · extract_lets s₁ src
        refine Grants.trans ?_ (State.grants_grantRoom c ch n _)
        have chan : ∀ d, (s₁.post (.core c) false (.flow src m true)).chan c d =
            if d = ch then { q with refused := rest, reserved := q.reserved ++ [m] } else s.chan c d := fun d => by
          rw [State.chan_post]; exact State.chan_modChan _ _ _ _ _
        refine ⟨(s.chansAlone_modChan c ch _).trans (s₁.chansAlone_post _ _ _), fun d => ?_, fun d => ?_, _, rfl, fun x hx => ?_⟩
        · rw [chan]; split
          · subst d; rw [show (s.chan c ch).refused = m :: rest from refused]; exact List.subset_cons_self _ _
          · exact List.Subset.refl _
        · rw [chan]; split
          · subst d; exact List.subset_append_left _ _
          · exact List.Subset.refl _
        · cases List.mem_singleton.mp hx
          refine ⟨rfl, rfl, src, m, ch, rfl, ?_, ?_⟩
          · rw [show (s.chan c ch).refused = m :: rest from refused]; exact List.mem_cons_self
          · rw [chan, if_pos rfl]; simp
      · exact .refl s c
    · exact .refl s c

theorem State.grants_releaseEntries (s : State) (c k : Nat) : Grants s (s.releaseEntries c k) c := by
  rw [State.releaseEntries_eq]
  generalize (s.core c).chans.keys = keys
  induction keys generalizing s with
  | nil => exact .refl s c
  | cons ch keys ih =>
    refine Grants.trans ?_ (ih (s.releaseIn c k ch))
    unfold State.releaseIn
    split
    · refine Grants.trans ?_ (State.grants_grantRoom c ch _ _)
      exact s.grants_modChan c ch (fun _ => rfl) fun _ => rfl
    · exact .refl s c

/-- Where the chain of a slot holds no entry, nothing is released. -/
theorem State.releaseEntries_none (s : State) (c k : Nat) (h : ∀ ch, ∀ e ∈ (s.chan c ch).queue, e.taken ≠ some k) :
    s.releaseEntries c k = s := by
  rw [State.releaseEntries_eq]
  generalize (s.core c).chans.keys = keys
  induction keys with
  | nil => rfl
  | cons ch keys ih =>
    have none : s.releaseIn c k ch = s := if_neg (by simpa using h ch)
    rw [List.foldl_cons, none]
    exact ih

theorem State.grants_unbusy (s : State) (c : Nat) (own : Option Nat) : Grants s (s.unbusy c own) c := by
  cases own with
  | none => exact .refl s c
  | some ch => rw [State.unbusy]; exact s.grants_modChan c ch (fun _ => rfl) fun _ => rfl

theorem State.chan_unbusy (s : State) (c : Nat) (own : Option Nat) (ch : Nat) :
    (s.unbusy c own).chan c ch = { s.chan c ch with busy := if own = some ch then false else (s.chan c ch).busy } := by
  cases own with
  | none => rfl
  | some o =>
    rw [State.unbusy, State.chan_modChan]
    by_cases e : ch = o
    · subst e; simp
    · simp [e, Ne.symm e]

/-- The end of an activation that no graph started: its channel, its entries, its slot and its reservation are released (R55, R69, R80). -/
theorem State.endAct_spec (s : State) (c : Nat) (k : Fin 4) (task : (s.slotOf c k).task = none) :
    let t := s.endAct c k
    { t with cores := s.cores, net := s.net, nextId := s.nextId, resv := s.resv } = s ∧
    (∀ ch, (s.chan c ch).reserved ⊆ (t.chan c ch).reserved) ∧
    (∃ msgs, t.net = s.net ++ msgs ∧ (∀ m ∈ msgs, m.src = .core c ∧ m.entry = false ∧
      ∃ d e ch, m.body = .flow d e true ∧ e ∈ (s.chan c ch).refused ∧ e ∈ (t.chan c ch).reserved) ∧
      ((∀ ch, ∀ e ∈ (s.chan c ch).queue, e.taken ≠ some k.val) → msgs = [])) ∧
    (∀ d j, t.slotOf d j = if d = c ∧ j = k then (s.slotOf c k).idle else s.slotOf d j) ∧
    (∀ ch, (t.chan c ch).busy = (if (s.slotOf c k).chan = some ch then false else (s.chan c ch).busy) ∧
      ∀ e ∈ (t.chan c ch).queue, e.taken ≠ some k.val) ∧
    t.resv = s.resv.filter (fun r => r.core ≠ c ∨ r.slot ≠ k.val) := by
  have step : s.endAct c k = (((s.unbusy c (s.slotOf c k).chan).releaseEntries c k.val).modSlotOf c k Slot.idle).clearResv c k := by
    simp only [State.endAct, task, Option.isSome_none, Bool.false_eq_true, if_false]
  have freed := (s.grants_unbusy c (s.slotOf c k).chan).trans (State.grants_releaseEntries _ c k.val)
  have chans : ∀ ch, ∃ refused reserved, ((s.unbusy c (s.slotOf c k).chan).releaseEntries c k.val).chan c ch =
      { (s.chan c ch).released k.val with
        busy := if (s.slotOf c k).chan = some ch then false else (s.chan c ch).busy, refused := refused, reserved := reserved } := fun ch => by
    obtain ⟨refused, reserved, h⟩ := (State.releaseEntries_frame (s.unbusy c (s.slotOf c k).chan) c k.val).2 ch
    exact ⟨refused, reserved, by rw [h, State.chan_unbusy]; rfl⟩
  have none : (∀ ch, ∀ e ∈ (s.chan c ch).queue, e.taken ≠ some k.val) →
      (s.unbusy c (s.slotOf c k).chan).releaseEntries c k.val = s.unbusy c (s.slotOf c k).chan := fun h =>
    State.releaseEntries_none _ c k.val fun ch => by rw [State.chan_unbusy]; exact h ch
  have net : (s.unbusy c (s.slotOf c k).chan).net = s.net := by cases (s.slotOf c k).chan <;> rfl
  rw [step]
  generalize (s.unbusy c (s.slotOf c k).chan).releaseEntries c k.val = u at freed chans none
  have chan : ∀ ch, ((u.modSlotOf c k Slot.idle).clearResv c k).chan c ch = u.chan c ch := fun ch => State.chan_modSlotOf _ _ _ _ _ _
  refine ⟨?_, fun ch => by rw [chan]; exact freed.reserved ch, ?_, fun d j => ?_, fun ch => ?_, ?_⟩
  · exact congrArg (fun v : State => { v with resv := s.resv }) freed.alone.rest
  · obtain ⟨msgs, new, of⟩ := freed.net
    refine ⟨msgs, new, fun m hm => ?_, fun h => ?_⟩
    · simpa only [chan] using of m hm
    · rw [none h, net] at new
      exact List.self_eq_append_right.mp new
  · refine (State.slotOf_modSlotOf u c d k j Slot.idle).trans ?_
    rw [freed.alone.slotOf, freed.alone.slotOf]
  · obtain ⟨_, _, h⟩ := chans ch
    rw [chan, h]
    exact ⟨rfl, fun e he => by simpa using (List.mem_filter.mp he).2⟩
  · rw [← freed.alone.resv]
    refine List.filter_congr fun r _ => ?_
    by_cases hc : r.core = c <;> by_cases hk : r.slot = k.val <;> simp [hc, hk]

/-! ### `exit` -/

/-- Settles O24: the sends leave as messages with entries, and the end of the activation releases the rest. -/
theorem exitReleasesItsActivation : Obligations.ExitReleasesItsActivation := by
  intro s task c k
  have step : exec .exit s = .next (s.leave c k none) := by
    show execExit s = _
    simp only [execExit, task, Option.isSome_none, Bool.false_and, Bool.false_eq_true, if_false]
    rfl
  by_cases room : (s.core c).outb.length + s.slot.sends.length ≤ 16
  · obtain ⟨left, net, -, deps, slots⟩ := State.releaseSends_spec c k s.slot.sends s room
    have leave : s.leave c k none = (s.releaseSends c k s.slot.sends).endAct c k := if_pos (decide_eq_true room)
    have here := (slots c k).trans (if_pos ⟨rfl, rfl⟩)
    have end_ := (s.releaseSends c k s.slot.sends).endAct_spec c k (by rw [here]; exact task)
    rw [if_pos room, step, leave]
    generalize s.releaseSends c k s.slot.sends = u at left net deps slots here end_
    obtain ⟨rest, reserved, ⟨msgs, net', of, none⟩, slots', chans, resv⟩ := end_
    have same : { (u.endAct c k) with cores := s.cores, net := s.net, nextId := s.nextId, carried := s.carried, resv := s.resv } = s := by
      have e := congrArg (fun v : State => { v with cores := s.cores, net := s.net, nextId := s.nextId, carried := s.carried, resv := s.resv }) rest
      exact e.trans (congrArg (fun v : State => { v with resv := s.resv }) left.rest)
    have carried : (u.endAct c k).carried = u.carried := (congrArg State.carried rest :)
    have same_resv : u.resv = s.resv := (congrArg State.resv left.rest :)
    refine ⟨_, leaving s c k.val s.nextId s.slot.sends, msgs, rfl, by rw [net', net], leaving_bodies s c k.val _ _, fun j m hm => ?_, fun m hm => ?_, fun h => ?_, ?_, ?_,
      fun d j other => ?_, ?_, fun ch own => ?_, fun ch => (chans ch).2, ?_⟩
    · obtain ⟨lt, id, src, entry, held⟩ := leaving_getElem? s c k.val _ _ _ hm
      refine ⟨id, src, entry, held, fun some => ?_⟩
      rw [carried, id]
      exact deps j lt some
    · simpa only [left.chan] using of m hm
    · exact none fun ch => by rw [left.chan]; exact h ch
    · exact (congrArg State.mem same :)
    · exact (congrArg State.lost same :)
    · rw [slots', if_neg fun e => other.elim (· e.1) (· e.2), slots, if_neg fun e => other.elim (· e.1) (· e.2)]
    · rw [slots', if_pos ⟨rfl, rfl⟩, here]
      simp [Slot.sendsGone, Slot.idle, State.slot, c, k]
    · rw [(chans ch).1, here]; exact if_pos own
    · rw [resv, same_resv]
  · rw [if_neg room]
    exact ⟨_, step.trans (congrArg Host.Outcome.next (if_neg (by rw [State.sendRoom, decide_eq_true_eq]; exact room))), s.onlySlot_modSlot _⟩
end Sys2Proof.Machine
end

section
/-!
PROOFS. `exit.succ` (R70): its traps, its two waits, and the successor that takes over the slot.
-/
namespace Sys2Proof.Machine

/-! ### The successor -/

/-- The slot as the handler of a channel goes on in it, with the free values from `n` on (R70). -/
def Slot.succeeded (ch : Nat) (r : HandlerRec) (n : Nat) (sl : Slot) : Slot :=
  { sl with
    wait := .none, pc := r.pc, left := r.budget, spawnb := r.budget, budget := r.budget, crit := false
    chan := some ch, fbuf := [], sends := [], early := [], pfx := none, begun := none, amoscope := 5, tabsel := 0
    sel := (Config.freeWord (n + 200)).setWidth 6, p := freeP n, instret := sl.instret + 1 }

/-- The channel of a slot is left for another one: it is not busy any more. -/
def State.leaveChan (s : State) (c : Nat) (k : Fin 4) (ch : Nat) : State :=
  if (s.slotOf c k).chan = some ch then s else s.unbusy c (s.slotOf c k).chan

theorem State.leaveChan_alone (s : State) (c : Nat) (k : Fin 4) (ch : Nat) : ChansAlone s (s.leaveChan c k ch) := by
  unfold State.leaveChan
  split
  · exact .refl s
  · exact s.chansAlone_unbusy c _

theorem State.chan_leaveChan (s : State) (c : Nat) (k : Fin 4) (ch o : Nat) : (s.leaveChan c k ch).chan c o =
    { s.chan c o with busy := if (s.slotOf c k).chan = some o ∧ o ≠ ch then false else (s.chan c o).busy } := by
  unfold State.leaveChan
  split
  · rename_i own
    rw [if_neg fun e => e.2 (Option.some.inj (e.1.symm.trans own))]
  · rename_i other
    rw [State.chan_unbusy]
    by_cases own : (s.slotOf c k).chan = some o
    · rw [if_pos own, if_pos ⟨own, fun e => other (own.trans (congrArg some e))⟩]
    · rw [if_neg own, if_neg fun e => own e.1]

theorem State.startSucc_eq (s : State) (c : Nat) (k : Fin 4) {ch : Nat} {r : HandlerRec} (bound : (s.chan c ch).hrec = some r) :
    s.startSucc c k ch = { ((s.leaveChan c k ch).modSlotOf c k (Slot.succeeded ch r (s.leaveChan c k ch).free)).clearResv c k with
      free := (s.leaveChan c k ch).free + 256 } := by
  rw [State.startSucc, bound]
  rfl

/-- The successor has the slot, the old channel is not busy, and the reservation is gone (R70, R80). -/
theorem State.startSucc_spec (s : State) (c : Nat) (k : Fin 4) {ch : Nat} {r : HandlerRec} (bound : (s.chan c ch).hrec = some r) :
    let t := s.startSucc c k ch
    t.mem = s.mem ∧ t.lost = s.lost ∧ t.resv = s.resv.filter (fun r => r.core ≠ c ∨ r.slot ≠ k.val) ∧
    (∀ d j, ∃ n, t.slotOf d j = if d = c ∧ j = k then (s.slotOf c k).succeeded ch r n else s.slotOf d j) ∧
    (∀ o, t.chan c o = { s.chan c o with busy := if (s.slotOf c k).chan = some o ∧ o ≠ ch then false else (s.chan c o).busy }) := by
  have alone := s.leaveChan_alone c k ch
  have chans := s.chan_leaveChan c k ch
  rw [s.startSucc_eq c k bound]
  generalize s.leaveChan c k ch = u at alone chans
  refine ⟨(congrArg State.mem alone.rest :), (congrArg State.lost alone.rest :), ?_, fun d j => ⟨u.free, ?_⟩, fun o => ?_⟩
  · rw [← alone.resv]
    refine List.filter_congr fun r _ => ?_
    by_cases hc : r.core = c <;> by_cases hk : r.slot = k.val <;> simp [hc, hk]
  · refine (State.slotOf_modSlotOf u c d k j _).trans ?_
    rw [alone.slotOf, alone.slotOf]
  · exact (State.chan_modSlotOf u c k _ c o).trans (chans o)

/-- What `exit.succ` comes to once its sends leave, from a state that is as `s` but for the slot's wait and the busy bit of the
successor's channel (R68, R70). -/
theorem runs_of_leave {s u : State} {i : Instr} {c : Nat} {k : Fin 4} {ch : Nat} {r : HandlerRec} {w : Wait}
    (step : exec i s = .next (u.leave c k (some ch))) (rest : { u with cores := s.cores } = s)
    (slot : u.slotOf c k = { s.slotOf c k with wait := w }) (others : ∀ d j, d ≠ c ∨ j ≠ k → u.slotOf d j = s.slotOf d j)
    (chans : ∀ o, u.chan c o = { s.chan c o with busy := if o = ch then true else (s.chan c o).busy })
    (outb : (u.core c).outb = (s.core c).outb) (bound : (s.chan c ch).hrec = some r)
    (fits : (s.core c).outb.length + (s.slotOf c k).sends.length ≤ 16) :
    let sl := s.slotOf c k
    ∃ t, exec i s = .next t ∧
      (t.slotOf c k).pc = r.pc ∧ (t.slotOf c k).left = r.budget ∧ (t.slotOf c k).spawnb = r.budget ∧
      (t.slotOf c k).chan = some ch ∧ (t.slotOf c k).wait = .none ∧ (t.slotOf c k).live = sl.live ∧
      (t.slotOf c k).x = sl.x ∧ (t.slotOf c k).v = sl.v ∧ (t.slotOf c k).msgid = sl.msgid ∧
      (t.slotOf c k).baywin = sl.baywin ∧ (t.slotOf c k).crit = false ∧ (t.slotOf c k).sends = [] ∧
      (t.slotOf c k).regdem = sl.regdem ∧ (t.slotOf c k).baydem = sl.baydem ∧ (t.slotOf c k).amoscope = 5 ∧ (t.slotOf c k).tabsel = 0 ∧
        (t.slotOf c k).instret = sl.instret + 1 ∧
      (t.slotOf c k).first = sl.first ∧ (t.slotOf c k).trigger = sl.trigger ∧ (t.slotOf c k).taken = sl.taken ∧
      (t.chan c ch).busy = true ∧ (∀ o, sl.chan = some o → o ≠ ch → (t.chan c o).busy = false) ∧
      (∀ o, (t.chan c o).queue = (s.chan c o).queue ∧ (t.chan c o).en = (s.chan c o).en) ∧
      t.resv = s.resv.filter (fun r => r.core ≠ c ∨ r.slot ≠ k.val) ∧ t.mem = s.mem ∧ t.lost = s.lost ∧
      (∀ d j, d ≠ c ∨ j ≠ k → t.slotOf d j = s.slotOf d j) := by
  intro sl
  have fits : (u.core c).outb.length + (u.slotOf c k).sends.length ≤ 16 := by rw [outb, slot]; exact fits
  obtain ⟨left, -, -, -, slots⟩ := State.releaseSends_spec c k (u.slotOf c k).sends u fits
  have leave : u.leave c k (some ch) = (u.releaseSends c k (u.slotOf c k).sends).startSucc c k ch := if_pos (decide_eq_true fits)
  rw [leave] at step
  have chan : ∀ o, (u.releaseSends c k (u.slotOf c k).sends).chan c o =
      { s.chan c o with busy := if o = ch then true else (s.chan c o).busy } := fun o => (left.chan c o).trans (chans o)
  have succ := (u.releaseSends c k (u.slotOf c k).sends).startSucc_spec c k (by rw [chan]; exact bound)
  generalize u.releaseSends c k (u.slotOf c k).sends = v at left slots chan succ step
  obtain ⟨mem, lost, resv, slots', chans'⟩ := succ
  obtain ⟨n, here⟩ := slots' c k
  have here := here.trans (if_pos ⟨rfl, rfl⟩)
  have own : (v.slotOf c k).chan = sl.chan := by rw [slots, if_pos ⟨rfl, rfl⟩, slot]; rfl
  rw [slots, if_pos ⟨rfl, rfl⟩, slot] at here
  have same : { v with cores := s.cores, net := s.net, nextId := s.nextId, carried := s.carried } = s := by
    have e := congrArg (fun x : State => { x with cores := s.cores, net := s.net, nextId := s.nextId, carried := s.carried }) left.rest
    exact e.trans (congrArg (fun x : State => { x with net := s.net, nextId := s.nextId, carried := s.carried }) rest)
  refine ⟨_, step, ?_⟩
  have keeps : ∀ o, ((v.startSucc c k ch).chan c o).queue = (s.chan c o).queue ∧ ((v.startSucc c k ch).chan c o).en = (s.chan c o).en :=
    fun o => by rw [chans', chan]; exact ⟨rfl, rfl⟩
  rw [here]
  refine ⟨rfl, rfl, rfl, rfl, rfl, rfl, rfl, rfl, rfl, rfl, rfl, rfl, rfl, rfl, rfl, rfl, rfl, rfl, rfl, rfl, ?_, fun o ho other => ?_,
    keeps, ?_, ?_, ?_, fun d j other => ?_⟩
  · rw [chans', chan]; simp
  · rw [chans', own]; simp [ho, other]
  · rw [resv, (congrArg State.resv same :)]
  · rw [mem]; exact (congrArg State.mem same :)
  · rw [lost]; exact (congrArg State.lost same :)
  · have away : ¬(d = c ∧ j = k) := fun e => other.elim (· e.1) (· e.2)
    obtain ⟨_, there⟩ := slots' d j
    rw [there, if_neg away, slots, if_neg away, others d j other]

/-! ### The two waits -/

/-- While the channel is busy with another activation the slot waits for it (R70). -/
theorem State.trySucc_busy (s : State) (c : Nat) (k : Fin 4) {ch : Nat} (h : ¬((s.chan c ch).busy = false ∨ (s.slotOf c k).chan = some ch)) :
    s.trySucc c k ch = s.modSlotOf c k fun sl => { sl with wait := .succ ch } := by
  rw [not_or, Bool.not_eq_false] at h
  exact if_pos (by simp [h])

/-- Otherwise the channel is marked busy, and the rest of the form follows (R70). -/
theorem State.trySucc_free (s : State) (c : Nat) (k : Fin 4) {ch : Nat} (h : (s.chan c ch).busy = false ∨ (s.slotOf c k).chan = some ch) :
    s.trySucc c k ch = (s.modChan c ch fun q => { q with busy := true }).leave c k (some ch) := by
  refine if_neg ?_
  rcases h with idle | own
  · simp [idle]
  · simp [own]

theorem State.chan_modChan_busy (s : State) (c ch o : Nat) : (s.modChan c ch fun q => { q with busy := true }).chan c o =
    { s.chan c o with busy := if o = ch then true else (s.chan c o).busy } := by
  rw [State.chan_modChan]
  by_cases e : o = ch
  · subst e; simp
  · simp [e]

theorem State.outb_modChan (s : State) (c ch d : Nat) (f : Chan → Chan) : ((s.modChan c ch f).core d).outb = (s.core d).outb :=
  (congrArg CoreSt.outb (s.core_modChan c ch d f) :)

theorem State.outb_modSlotOf (s : State) (c : Nat) (k : Fin 4) (d : Nat) (f : Slot → Slot) :
    ((s.modSlotOf c k f).core d).outb = (s.core d).outb := (congrArg CoreSt.outb (s.core_modSlotOf c d k f) :)

/-- Settles O25: the checks of `exit.succ` come first, and the instruction and the end of either wait go on by the one `leave`. -/
theorem successorsTakeOverTheSlot : Obligations.SuccessorsTakeOverTheSlot := by
  intro s c k rs ch r sl v bound fits free runs
  refine ⟨fun cur num => ?_, fun wait left idle record room => ?_, fun wait busy record room => ?_⟩
  · have slot : s.slot = sl := by rw [State.slot, cur]
    have step : exec (.exitSucc rs) s = .next (match (s.chan c ch).hrec with
        | none => s.trap causeBadchan v
        | some r => if 62 < ch then s.trap causeBadchan v
          else if sl.regdem < r.regdem ∨ sl.baydem < r.baydem then s.trap causeSuccdem v else s.trySucc c k ch) := by
      have e : exec (.exitSucc rs) s = .next (match (s.chan s.cur.core v.toNat).hrec with
        | none => s.trap causeBadchan v
        | some r => if 62 < v.toNat then s.trap causeBadchan v
          else if s.slot.regdem < r.regdem ∨ s.slot.baydem < r.baydem then s.trap causeSuccdem v
            else s.trySucc s.cur.core s.cur.slot v.toNat) := rfl
      rw [slot, cur, num] at e
      exact e
    refine ⟨fun bad => ?_, fun low record => ⟨fun beyond => ?_, fun reg bay => ?_⟩⟩
    · rw [step]
      rcases bad with high | none
      · cases (s.chan c ch).hrec with
        | none => rfl
        | some r => exact congrArg Host.Outcome.next (if_pos high)
      · rw [none]; rfl
    · rw [step, show (s.chan c ch).hrec = some r from record]
      simp only [if_neg (Nat.not_lt.mpr low), if_pos beyond]
      rfl
    · rw [show (s.chan c ch).hrec = some r from record] at step
      simp only [if_neg (Nat.not_lt.mpr low), if_neg (show ¬(sl.regdem < r.regdem ∨ sl.baydem < r.baydem) by omega)] at step
      refine ⟨fun busy => ?_, fun open_ room => ?_, fun open_ full => ?_⟩
      · rw [s.trySucc_busy c k busy] at step
        have only := s.onlySlot_modSlot fun sl => { sl with wait := .succ ch }
        rw [State.modSlot, slot, cur] at only
        exact ⟨_, step, only⟩
      · rw [s.trySucc_free c k open_] at step
        exact runs_of_leave step rfl (w := sl.wait) (State.slotOf_modChan _ _ _ _ _ _) (fun d j _ => State.slotOf_modChan _ _ _ _ _ _)
          (s.chan_modChan_busy c ch) (s.outb_modChan c ch c _) record room
      · rw [s.trySucc_free c k open_] at step
        have wait : (s.modChan c ch fun q => { q with busy := true }).leave c k (some ch) =
            (s.modChan c ch fun q => { q with busy := true }).modSlotOf c k fun sl => { sl with wait := .release (some ch) } := by
          refine if_neg ?_
          rw [State.sendRoom, decide_eq_true_eq, State.outb_modChan, State.slotOf_modChan]
          exact full
        rw [wait] at step
        refine ⟨_, step, ?_, ?_, rfl, rfl⟩
        · rw [State.slotOf_modSlotOf_self, State.slotOf_modChan]
        · rw [State.chan_modSlotOf, State.chan_modChan_self]
  · have step : exec (.successorStart c k.val) s = .next ((s.modSlotOf c k fun sl => { sl with wait := .none }).trySucc c k ch) := by
      have left : (s.slotOf c k).left ≠ 0 := left
      show execSuccessorStart c k.val s = _
      simp only [execSuccessorStart, slotIx_val, show (s.slotOf c k).wait = .succ ch from wait, idle, Slot.spent_eq_false left, Bool.or_false,
        Bool.false_eq_true, if_false]
    rw [State.trySucc_free _ c k (.inl (by rw [State.chan_modSlotOf]; exact idle))] at step
    refine runs_of_leave step rfl (w := .none) ?_ (fun d j other => ?_) (fun o => ?_) ?_ record room
    · rw [State.slotOf_modChan, State.slotOf_modSlotOf_self]
    · rw [State.slotOf_modChan, State.slotOf_modSlotOf_ne _ _ other]
    · rw [State.chan_modChan_busy, State.chan_modSlotOf]
    · rw [State.outb_modChan, State.outb_modSlotOf]
  · have step : exec (.exitSendRelease c k.val) s = .next ((s.modSlotOf c k fun sl => { sl with wait := .none }).leave c k (some ch)) := by
      show execExitSendRelease c k.val s = _
      have fits : s.sendRoom c k = true := decide_eq_true room
      simp only [execExitSendRelease, slotIx_val, show (s.slotOf c k).wait = .release (some ch) from wait, fits, if_true]
    refine runs_of_leave step rfl (w := .none) (State.slotOf_modSlotOf_self _ _ _ _) (fun d j other => State.slotOf_modSlotOf_ne _ _ other)
      (fun o => ?_) (State.outb_modSlotOf _ _ _ _ _) record room
    rw [State.chan_modSlotOf]
    by_cases e : o = ch
    · subst e; simp [← busy]
    · simp [e]

end Sys2Proof.Machine
end

section
/-!
PROOFS. `spawn` (R71): its traps, the child that its request starts, and the answer.
-/
namespace Sys2Proof.Machine

/-- A wait that is answered ends as an instruction that writes rd does, and the result depends on what the operands depended on
(R131). -/
theorem Slot.answered_eq (sl : Slot) (rd : Reg) (v : Word) :
    sl.answered rd v = { sl.after rd v with wait := .none, flow := sl.flow.carried rd } := by
  unfold Slot.answered Slot.wx Slot.after
  split <;> rfl

/-- An answer reaches a slot, but where its budget is spent (R63). -/
theorem Slot.answered_unless (sl : Slot) (rd : Reg) (v : Word) : (if sl.spent then sl else sl.answered rd v) =
    if sl.left = 0 then sl else { sl.after rd v with wait := .none, flow := sl.flow.carried rd } := by
  by_cases none : sl.left = 0
  · rw [if_pos none, if_pos (by simpa [Slot.spent] using none)]
  · rw [if_neg none, Slot.spent_eq_false none, if_neg Bool.false_ne_true, Slot.answered_eq]

/-- An address is not a multiple of 4 where its two low bits are not clear. -/
theorem low_two_ne (x : Word) : x.extractLsb' 0 2 ≠ 0 ↔ x.toNat % 4 ≠ 0 := by
  rw [Ne, ← BitVec.toNat_inj, toNat_extractLsb']; simp

/-- A reward at the head of channel 63 has yet to hold dispatch or to go (R267). -/
theorem rewardDue_iff (co : CoreSt) : rewardDue co = true ↔ co.rewards ≠ [] ∧ co.sweep = none ∧ co.cutHold = false := by
  simp [rewardDue, and_assoc]

/-- The child of a spawn at the entry of its activation, with the arguments and the caller (R71). -/
def State.childSlot (s : State) (tgt d : Nat) (a : BitVec 48) (args : List Word) (reg : Nat) (bu : BitVec 32) : Slot :=
  entrySlot s.free a args (BitVec.ofNat 64 (d * 2 ^ 15)) (msgidOf 0 tgt 0 2) bu reg (s.core tgt).ports (s.core tgt).compat

theorem State.slotOf_startChild (s : State) (tgt : Nat) (j : Fin 4) (d : Nat) (a : BitVec 48) (args : List Word) (reg : Nat) (bu : BitVec 32) :
    (s.startChild tgt j d a args reg bu).slotOf tgt j = (s.childSlot tgt d a args reg bu).entered (s.slotOf tgt j) s.net :=
  s.slotOf_modSlotOf_self tgt j fun old => (s.childSlot tgt d a args reg bu).entered old s.net

/-- Settles O26: the checks of the form, the three outcomes at the target, and the answer. -/
theorem spawnAsksAndIsAnswered : Obligations.SpawnAsksAndIsAnswered := by
  intro s rd rc rpc c core pc named
  have known : coreIn s (corePart s c) core.toNat = true ↔ named := coreIn_iff s (corePart s c) core.toNat
  refine ⟨fun other => ?_, fun here odd => ?_, fun here even => ?_, fun m x d k tgt a args reg bu msg body => ?_,
    fun m x d k ok msg body low wait => ?_⟩
  · exact congrArg Host.Outcome.next (if_pos (by rw [Bool.not_eq_true', Bool.eq_false_iff]; exact fun e => other (known.mp e)))
  · refine congrArg Host.Outcome.next ((if_neg ?_).trans (if_pos ((low_two_ne pc).mpr odd)))
    rw [Bool.not_eq_true', Bool.not_eq_false]
    exact known.mpr here
  · refine ⟨_, congrArg Host.Outcome.next ((if_neg ?_).trans (if_neg fun e => (low_two_ne pc).mp e even)), ?_, rfl, rfl⟩
    · rw [Bool.not_eq_true', Bool.not_eq_false]
      exact known.mpr here
    · exact (SlotIs.refl s).of_cores (u := s.post _ _ _) rfl |>.modSlot rfl _
  · intro co idle rest
    have step : exec (.spawnRequest m) s = .next (if rewardDue co then s else match idle with
        | j :: _ => if !(co.cutHold || co.loadHold.isSome) && decide (reg ≤ poolFree co) then
            ((s.dropMsg m).startChild tgt j d a args reg bu).post (.core tgt) false (.spawnAns d k true)
          else (s.dropMsg m).post (.core tgt) false (.spawnAns d k false)
        | [] => (s.dropMsg m).post (.core tgt) false (.spawnAns d k false)) := by
      show execSpawnRequest m s = _
      simp only [execSpawnRequest, msg, body]
      rfl
    by_cases due : rewardDue co = true
    · rw [if_pos ((rewardDue_iff co).mp due), step, if_pos due]
    rw [if_neg fun e => due ((rewardDue_iff co).mpr e)]
    rw [if_neg due] at step
    by_cases starts : idle ≠ [] ∧ co.cutHold = false ∧ co.loadHold = none ∧ reg ≤ poolFree co
    · rw [if_pos starts]
      obtain ⟨some_, cut, load, fits⟩ := starts
      obtain ⟨j, more, first⟩ := List.exists_cons_of_ne_nil some_
      rw [first] at step ⊢
      rw [cut, load] at step
      simp only [fits, decide_true, Option.isSome_none, Bool.or_false, Bool.not_false, Bool.and_true, if_true] at step
      refine ⟨_, j, rfl, step, ?_⟩
      simp only [State.slotOf_post, State.slotOf_startChild]
      obtain ⟨words, hdr⟩ := Slot.rx_entryX (n := s.free) (args := args) (x17 := BitVec.ofNat 64 (d * 2 ^ 15))
        (sl := ((s.dropMsg m).childSlot tgt d a args reg bu).entered ((s.dropMsg m).slotOf tgt j) (s.dropMsg m).net) rfl
      exact ⟨rfl, rfl, rfl, rfl, rfl, rfl, rfl, words, hdr, msgidOf_origin _ _ _ _, rfl, rfl⟩
    · rw [if_neg starts]
      have stays : exec (.spawnRequest m) s = .next ((s.dropMsg m).post (.core tgt) false (.spawnAns d k false)) := by
        rw [step]
        cases list : idle with
        | nil => rfl
        | cons j more =>
          refine congrArg Host.Outcome.next (if_neg fun e => starts ?_)
          simp only [Bool.and_eq_true, Bool.not_eq_true', Bool.or_eq_false_iff, decide_eq_true_eq, Option.isSome_eq_false_iff,
            Option.isNone_iff_eq_none] at e
          obtain ⟨⟨cut, load⟩, fits⟩ := e
          exact ⟨by rw [list]; exact List.cons_ne_nil _ _, cut, load, fits⟩
      exact ⟨_, stays, rfl, rfl⟩
  · have wait : ((s.dropMsg m).slotOf d (slotIx k)).wait = .spawn rd := wait
    have step : exec (.spawnAnswer m) s = .next ((s.dropMsg m).modSlotOf d (slotIx k) fun sl =>
        if sl.spent then sl else sl.answered rd (ofBool ok)) := by
      show execSpawnAnswer m s = _
      simp only [execSpawnAnswer, msg, body, if_neg (Nat.not_le.mpr low), wait]
    refine ⟨_, step, ?_, rfl, rfl⟩
    rw [State.slotOf_modSlotOf_self, State.slotOf_dropMsg, Slot.answered_unless]
    rfl

end Sys2Proof.Machine
end

section
/-!
PROOFS. Messages that end their way (R54, R68): what their end leaves, and the four outcomes of an arrival.
-/
namespace Sys2Proof.Machine

/-! ### A message that is gone -/

/-- The flow-control return for a message that has taken an outbound entry of its sender (R68). -/
def flowReturn (x : Msg) (there : Src) (id : Nat) : List Msg :=
  match x.src with
  | .core d => if x.entry then [⟨id, there, false, false, .flow d x.id false⟩] else []
  | _ => []

/-- The end of a message takes it off the network and returns its entry, or tells its peer; nothing else changes (R68, R314). -/
theorem State.finishMsg_spec (s : State) (x : Msg) (there : Src) :
    let t := s.finishMsg x there
    t.net = s.net.filter (fun y => y.id ≠ x.id) ++ flowReturn x there s.nextId ∧
    (∀ e, x.src = .peerCore e → t.ctl = { s.ctl with reports := s.ctl.reports ++ [.peerAck e] }) ∧
    ((∀ e, x.src ≠ .peerCore e) → t.ctl = s.ctl) ∧
    { t with net := s.net, nextId := s.nextId, ctl := s.ctl } = s := by
  unfold State.finishMsg flowReturn
  cases src : x.src with
  | core d =>
    cases x.entry with
    | true => exact ⟨rfl, nofun, fun _ => rfl, rfl⟩
    | false => exact ⟨(List.append_nil _).symm, nofun, fun _ => rfl, rfl⟩
  | peerCore e =>
    exact ⟨(List.append_nil _).symm, fun d same => by cases same; rfl, fun other => absurd rfl (other e), rfl⟩
  | _ => exact ⟨(List.append_nil _).symm, nofun, fun _ => rfl, rfl⟩

@[simp] theorem State.cores_finishMsg (s : State) (x : Msg) (there : Src) : (s.finishMsg x there).cores = s.cores := by
  obtain ⟨-, -, -, rest⟩ := s.finishMsg_spec x there
  exact (congrArg State.cores rest :)

@[simp] theorem State.slotOf_finishMsg (s : State) (x : Msg) (there : Src) (d : Nat) (k : Fin 4) :
    (s.finishMsg x there).slotOf d k = s.slotOf d k := State.slotOf_of_cores (s.cores_finishMsg x there) d k

@[simp] theorem State.chan_finishMsg (s : State) (x : Msg) (there : Src) (d o : Nat) :
    (s.finishMsg x there).chan d o = s.chan d o := State.chan_of_cores (s.cores_finishMsg x there) d o

@[simp] theorem State.core_finishMsg (s : State) (x : Msg) (there : Src) (d : Nat) :
    (s.finishMsg x there).core d = s.core d := State.core_of_cores (s.cores_finishMsg x there) d

@[simp] theorem State.mem_finishMsg (s : State) (x : Msg) (there : Src) : (s.finishMsg x there).mem = s.mem := by
  obtain ⟨-, -, -, rest⟩ := s.finishMsg_spec x there
  exact (congrArg State.mem rest :)

@[simp] theorem State.reports_finishMsg (s : State) (x : Msg) (there : Src) : (s.finishMsg x there).reports = s.reports := by
  obtain ⟨-, -, -, rest⟩ := s.finishMsg_spec x there
  exact (congrArg State.reports rest :)

theorem State.queue_finishMsg (s : State) (x : Msg) (there : Src) (n : Nat) : (s.finishMsg x there).queue n = s.queue n := by
  obtain ⟨-, -, -, rest⟩ := s.finishMsg_spec x there
  exact (congrArg (fun u : State => u.queue n) rest :)

theorem State.byte_finishMsg (s : State) (x : Msg) (there : Src) (a : Nat) : (s.finishMsg x there).byte a = s.byte a := by
  obtain ⟨-, -, -, rest⟩ := s.finishMsg_spec x there
  exact (congrArg (fun u : State => u.byte a) rest :)

/-- The message that a number finds has that number. -/
theorem State.msg?_id {s : State} {m : Nat} {x : Msg} (h : s.msg? m = some x) : x.id = m := by
  simpa using List.find?_some h

/-! ### Arrival -/

/-- The outcomes of R54 that end a message at its channel. -/
structure Ends (s t : State) (x : Msg) (c : Nat) : Prop where
  net : t.net = s.net.filter (fun y => y.id ≠ x.id) ++ flowReturn x (.core c) s.nextId
  acked : ∀ e, x.src = .peerCore e → t.ctl = { s.ctl with reports := s.ctl.reports ++ [.peerAck e] }
  mem : t.mem = s.mem
  slots : ∀ d k, t.slotOf d k = s.slotOf d k

/-- A message that ends after a change of its channel, which leaves the rest of the machine as it was. -/
theorem ends_finishMsg {s u : State} (x : Msg) (c : Nat) (rest : { u with cores := s.cores } = s)
    (slots : ∀ d k, u.slotOf d k = s.slotOf d k) : Ends s (u.finishMsg x (.core c)) x c := by
  obtain ⟨net, acked, -, -⟩ := u.finishMsg_spec x (.core c)
  have unet : u.net = s.net := (congrArg State.net rest :)
  have uid : u.nextId = s.nextId := (congrArg State.nextId rest :)
  have uctl : u.ctl = s.ctl := (congrArg State.ctl rest :)
  refine ⟨by rw [net, unet, uid], fun e src => by rw [acked e src, uctl], ?_, fun d k => ?_⟩
  · rw [State.mem_finishMsg]; exact (congrArg State.mem rest :)
  · rw [State.slotOf_finishMsg]; exact slots d k

theorem State.slotOf_enqueue (s : State) (c ch : Nat) (h : Word) (ws : List Word) (task : Option Task) (d : Nat) (k : Fin 4) :
    (s.enqueue c ch h ws task).slotOf d k = s.slotOf d k := by
  rw [State.enqueue, State.slotOf_modCore, State.slotOf_modChan]
  exact fun _ => rfl

/-- A message that enters a queue stands at its tail with the next arrival number (Table 4-5). -/
theorem State.chan_enqueue (s : State) (c ch : Nat) (h : Word) (ws : List Word) (task : Option Task) (d o : Nat) :
    (s.enqueue c ch h ws task).chan d o = if d = c ∧ o = ch then
      { s.chan c ch with queue := (s.chan c ch).queue ++ [⟨(s.core c).seq, h, ws, task, none⟩] } else s.chan d o := by
  rw [State.enqueue, State.chan_modCore, State.chan_modChan_any]
  exact fun _ => rfl

theorem State.seq_enqueue (s : State) (c ch : Nat) (h : Word) (ws : List Word) (task : Option Task) :
    ((s.enqueue c ch h ws task).core c).seq = (s.core c).seq + 1 := by
  rw [State.enqueue, State.core_modCore_self]
  exact congrArg (· + 1) (congrArg CoreSt.seq (s.core_modChan c ch c _) :)

theorem satInc_eq (n : BitVec 32) : satInc n = BitVec.ofNat 32 (min (n.toNat + 1) 0xFFFFFFFF) := by
  have bound := n.isLt
  have ones : (BitVec.allOnes 32).toNat = 0xFFFFFFFF := rfl
  unfold satInc
  refine BitVec.eq_of_toNat_eq ?_
  rw [BitVec.toNat_ofNat]
  split
  · subst n; rfl
  · rename_i other
    have less : n.toNat ≠ 0xFFFFFFFF := fun e => other (BitVec.eq_of_toNat_eq (e.trans ones.symm))
    rw [BitVec.toNat_add, show (1 : BitVec 32).toNat = 1 from rfl]
    omega

/-- A message that enters a queue, after a change of its channel that leaves the rest of the machine as it was. -/
theorem queued_enqueue {s u : State} {x : Msg} {c ch : Nat} {q : Chan} (h : Word) (ws : List Word) (task : Option Task)
    (rest : { u with cores := s.cores } = s) (slots : ∀ d k, u.slotOf d k = s.slotOf d k)
    (others : ∀ d o, d ≠ c ∨ o ≠ ch → u.chan d o = s.chan d o) (here : u.chan c ch = q) (seq : (u.core c).seq = (s.core c).seq) :
    let t := (u.enqueue c ch h ws task).finishMsg x (.core c)
    Ends s t x c ∧ (∀ d o, d ≠ c ∨ o ≠ ch → t.chan d o = s.chan d o) ∧
      t.chan c ch = { q with queue := q.queue ++ [⟨(s.core c).seq, h, ws, task, none⟩] } ∧ (t.core c).seq = (s.core c).seq + 1 := by
  refine ⟨ends_finishMsg x c rest fun d k => (u.slotOf_enqueue c ch h ws task d k).trans (slots d k), fun d o other => ?_, ?_, ?_⟩
  · rw [State.chan_finishMsg, State.chan_enqueue, if_neg fun e => other.elim (· e.1) (· e.2), others d o other]
  · rw [State.chan_finishMsg, State.chan_enqueue, if_pos ⟨rfl, rfl⟩, here, seq]
  · rw [State.core_finishMsg, State.seq_enqueue, seq]

/-- A message without a queue is discarded and reported (R54). -/
theorem discarded_nochan (s : State) (x : Msg) (c : Nat) (h : Word) :
    let t := (s.finishMsg x (.core c)).nochan c h
    Ends s t x c ∧ (∀ d o, t.chan d o = s.chan d o) ∧
      ∃ y, t.reports = s.reports ++ [(.mailbox c, y)] ∧ y.body = serviceBody (sgOf c) c (serviceWords 0x0E c 0 0 0 h) := by
  obtain ⟨net, acked, mem, slots⟩ := ends_finishMsg (s := s) x c rfl fun _ _ => rfl
  exact ⟨⟨net, acked, mem, slots⟩, s.chan_finishMsg x _, _, congrArg (· ++ _) (s.reports_finishMsg x (.core c)), rfl⟩

/-- The outcomes of a message at a bound channel (R54). -/
theorem State.arrive_bound {s : State} {x : Msg} {c ch : Nat} {h : Word} {ws : List Word} {task : Option Task} {r : HandlerRec}
    (bound : (s.chan c ch).hrec = some r) :
    let q := s.chan c ch
    s.arrive x c ch h ws task = if ch = 63 then (s.finishMsg x (.core c)).nochan c h
      else if x.id ∈ q.reserved then
        ((s.modChan c ch fun q => { q with reserved := q.reserved.filter (· ≠ x.id) }).enqueue c ch h ws task).finishMsg x (.core c)
      else if q.queue.length + q.reserved.length < r.qdecl then (s.enqueue c ch h ws task).finishMsg x (.core c)
      else if r.rel then { s.modChan c ch fun q => { q with refused := q.refused ++ [x.id] } with
        net := s.net.map fun y => if y.id = x.id then { y with heldBack := true } else y }
      else (s.modChan c ch fun q => { q with drops := satInc q.drops }).finishMsg x (.core c) := by
  simp only [State.arrive, Chan.room, bound, List.contains_iff_mem, decide_eq_true_eq]

/-- Settles O29: each outcome of R54 by its lemma; a held message alone stays. -/
theorem arrivalsAreQueuedHeldDroppedOrDiscarded : Obligations.ArrivalsAreQueuedHeldDroppedOrDiscarded := by
  intro s m x c ch h ws task
  refine ⟨fun msg reply => ?_, fun msg body may noReply => ?_⟩
  · show execMessageArrival m s = _
    simp only [execMessageArrival, msg, reply, Bool.or_true, if_true]
  intro q gone queued
  obtain rfl := State.msg?_id msg
  have step : exec (.messageArrival x.id) s = .next (s.arrive x c ch h ws task) := by
    show execMessageArrival x.id s = _
    simp [execMessageArrival, msg, may, noReply, body]
  have goneOf : ∀ {t}, Ends s t x c → gone t := fun ends => ⟨ends.net, ends.acked⟩
  refine ⟨_, step, ?_⟩
  split
  · rename_i unbound
    have unbound : (s.chan c ch).hrec = none := unbound
    obtain ⟨ends, chans, reported⟩ := discarded_nochan s x c h
    rw [State.arrive, unbound]
    exact ⟨ends.mem, ends.slots, fun d o _ => chans d o, goneOf ends, chans c ch, reported⟩
  · rename_i r bound
    rw [State.arrive_bound bound]
    split
    · obtain ⟨ends, chans, -⟩ := discarded_nochan s x c h
      exact ⟨ends.mem, ends.slots, fun d o _ => chans d o, goneOf ends, chans c ch⟩
    split
    · obtain ⟨ends, others, here, seq⟩ := queued_enqueue (s := s) (x := x) h ws task
        (u := s.modChan c ch fun q => { q with reserved := q.reserved.filter (· ≠ x.id) }) rfl (s.slotOf_modChan c ch _)
        (fun d o other => s.chan_modChan_ne _ other) (s.chan_modChan_self c ch _) (congrArg CoreSt.seq (s.core_modChan c ch c _) :)
      exact ⟨ends.mem, ends.slots, others, goneOf ends, here, seq⟩
    split
    · obtain ⟨ends, others, here, seq⟩ := queued_enqueue (s := s) (x := x) (c := c) (ch := ch) h ws task rfl (fun _ _ => rfl)
        (fun _ _ _ => rfl) rfl rfl
      exact ⟨ends.mem, ends.slots, others, goneOf ends, here, seq⟩
    split
    · have cores : ∀ net, { s.modChan c ch fun q => { q with refused := q.refused ++ [x.id] } with net := net }.cores =
        (s.modChan c ch fun q => { q with refused := q.refused ++ [x.id] }).cores := fun _ => rfl
      refine ⟨rfl, fun d k => ?_, fun d o other => ?_, ?_, rfl⟩
      · rw [State.slotOf_of_cores (cores _), State.slotOf_modChan]
      · rw [State.chan_of_cores (cores _), State.chan_modChan_ne _ _ other]
      · rw [State.chan_of_cores (cores _), State.chan_modChan_self]
    · have ends := ends_finishMsg (s := s) (u := s.modChan c ch fun q => { q with drops := satInc q.drops }) x c rfl
        (s.slotOf_modChan c ch _)
      refine ⟨ends.mem, ends.slots, fun d o other => ?_, goneOf ends, ?_⟩
      · rw [State.chan_finishMsg, State.chan_modChan_ne _ _ other]
      · rw [State.chan_finishMsg, State.chan_modChan_self, satInc_eq]

end Sys2Proof.Machine
end

section
/-!
PROOFS. What lets waits and queues move on: flow-control returns (R54, R68), reports (R336), spent budgets (R63), fault replies (R93)
and the release of an interlock (R255).
-/
namespace Sys2Proof.Machine

/-- The return of an entry frees it, or gives it to the oldest report that waits for one (R54, R68). -/
theorem State.finishEntry_spec (s : State) (c e : Nat) :
    let t := s.finishEntry c e
    let freed := (s.core c).outb.filter (· ≠ e)
    t.mem = s.mem ∧ match (s.core c).backlog with
      | b :: bs => if freed.length < 16 then (t.core c).outb = freed ++ [b.id] ∧ (t.core c).backlog = bs ∧ t.net = s.net ++ [b]
        else (t.core c).outb = freed ∧ (t.core c).backlog = b :: bs ∧ t.net = s.net
      | [] => (t.core c).outb = freed ∧ (t.core c).backlog = [] ∧ t.net = s.net := by
  intro t freed
  have here : ∀ f, (s.modCore c f).core c = f (s.core c) := s.core_modCore_self c
  cases waiting : (s.core c).backlog with
  | nil =>
    have step : t = s.modCore c fun co => { co with outb := freed } := by
      simp only [t, State.finishEntry, waiting, freed]
    rw [step, here]
    exact ⟨rfl, rfl, waiting, rfl⟩
  | cons b bs =>
    dsimp only
    by_cases room : freed.length < 16
    · have step : t = { s.modCore c fun co => { co with outb := freed ++ [b.id], backlog := bs } with net := s.net ++ [b] } := by
        simp only [t, State.finishEntry, waiting, freed, if_pos room]
      have core := (State.core_of_cores (congrArg State.cores step) c).trans (here fun co => { co with outb := freed ++ [b.id], backlog := bs })
      rw [if_pos room, core, step]
      exact ⟨rfl, rfl, rfl, rfl⟩
    · have step : t = s.modCore c fun co => { co with outb := freed } := by
        simp only [t, State.finishEntry, waiting, freed, if_neg room]
      rw [if_neg room, step, here]
      exact ⟨rfl, rfl, waiting, rfl⟩

/-- A wait other than for outbound space and for a fault reply counts toward the budget (R63). -/
theorem uncounted_eq_false {w : Wait} (release : ∀ n, w ≠ .release n) (page : ∀ a, w ≠ .page a) : uncounted w = false := by
  cases w with
  | release n => exact absurd rfl (release n)
  | page a => exact absurd rfl (page a)
  | _ => rfl

/-- A fault reply reaches the slot that it names (R93). -/
theorem exec_faultReply {s : State} {m : Nat} {x : Msg} {c : Nat} {h : Word} {ws : List Word} {task : Option Task}
    (msg : s.msg? m = some x) (may : arrivable s x = true) (reply : isReply x markSlot = true) (body : x.body = .chan c 62 h ws task) :
    let k := slotIx (h.extractLsb' 32 2).toNat
    exec (.faultReply m) s = .next (match (s.slotOf c k).wait with
      | .page va =>
        let t := (s.finishMsg x (.core c)).modSlotOf c k fun sl => { sl with wait := .none }
        let v := ws.getD 0 0
        if v = 0 || (t.slotOf c k).isAhead then t
        else if v = 2 then t.trapAt c k causeNoexec va else t.trapAt c k causeAccess va
      | _ => s.finishMsg x (.core c)) := by
  intro k
  show execFaultReply m s = _
  simp only [execFaultReply, msg, may, reply, body, Bool.not_true, Bool.or_false, Bool.false_eq_true, if_false]
  rfl

/-- Settles O32: each event is one case of its transition. -/
theorem flowControlReportsBudgetsAndRepliesMoveOn : Obligations.FlowControlReportsBudgetsAndRepliesMoveOn := by
  refine ⟨fun s m x c e retry who p d ch => ⟨fun msg body => ?_, fun oldest dest => ?_⟩, fun s c k => ?_⟩
  · intro rest
    have step : exec (.flowControlReturn m) s = .next (if retry then
        { s.dropMsg m with net := (s.dropMsg m).net.map fun y => if y.id = e then { y with heldBack := false } else y }
        else (s.dropMsg m).finishEntry c e) := by
      show execFlowControlReturn m s = _
      simp only [execFlowControlReturn, msg, body]
    refine ⟨_, step, ?_⟩
    cases retry with
    | true => exact ⟨rfl, rfl, rfl⟩
    | false => exact (s.dropMsg m).finishEntry_spec c e
  · have step : exec (.serviceReportSend who) s = .next (if (s.chan d ch).room then
        { s with reports := s.reports.erase p, net := s.net ++ [p.2] } else s) := by
      show execServiceReportSend who s = _
      simp only [execServiceReportSend, oldest, dest]
    refine ⟨_, step, ?_⟩
    cases (s.chan d ch).room with
    | true => exact ⟨rfl, rfl, rfl⟩
    | false => rfl
  intro sl
  refine ⟨fun live none release page => ?_, fun m x h ws task va msg may reply body slot wait => ?_,
    fun m x h ws task msg may reply body slot wait => ?_, fun p wait closed => ?_⟩
  · have step : exec (.budget c k.val) s = .next ((s.rejoin c k).trapAt c k causeBudget (sl.budget.setWidth 64)) := by
      show execBudget c k.val s = _
      have counted : uncounted (s.slotOf c k).wait = false := uncounted_eq_false release page
      simp only [execBudget, slotIx_val, show (s.slotOf c k).live = true from live, show (s.slotOf c k).left = 0 from none, counted]
      rfl
    refine ⟨fun straight => ?_, fun behind => ?_⟩
    · rw [step, s.rejoin_none c k straight]; rfl
    · obtain ⟨b, stands⟩ := Option.ne_none_iff_exists'.mp behind
      rw [step, State.rejoin, show (s.slotOf c k).behind = some b from stands]; rfl
  · intro t
    have wait : (s.slotOf c k).wait = .page va := wait
    have ahead : (t.slotOf c k).isAhead = sl.isAhead := by
      rw [State.slotOf_modSlotOf_self, State.slotOf_finishMsg]; rfl
    rw [exec_faultReply msg may reply body, slot, wait]
    show Host.Outcome.next (if ws.getD 0 0 = 0 || (t.slotOf c k).isAhead then t
      else if ws.getD 0 0 = 2 then t.trapAt c k causeNoexec va else t.trapAt c k causeAccess va) = _
    simp only [ahead, Bool.or_eq_true, decide_eq_true_eq]
    rfl
  · rw [exec_faultReply msg may reply body, slot]
    split
    · rename_i va page
      exact absurd page (wait va)
    · rfl
  · have step : exec (.interlockRelease c k.val) s = .next (s.modSlotOf c k fun sl => { sl with wait := .none }) := by
      show execInterlockRelease c k.val s = _
      simp only [execInterlockRelease, slotIx_val, show (s.slotOf c k).wait = .interlock p from wait, closed, Bool.false_eq_true, if_false]
    exact ⟨_, step, s.slotOf_modSlotOf_self c k _, fun d j other => s.slotOf_modSlotOf_ne _ other, rfl⟩

end Sys2Proof.Machine
end

section
/-!
PROOFS. Cluster rounds (R149, R150, R152): joining, the result that every participant gets, and the trap of a round that disagrees.
-/
namespace Sys2Proof.Machine

/-! ### Joining -/

theorem State.join_modSlotOf (s : State) (c : Nat) (k : Fin 4) (f : Slot → Slot) (d : Nat) :
    ((s.modSlotOf c k f).core d).join = (s.core d).join := (congrArg CoreSt.join (s.core_modSlotOf c d k f) :)

theorem State.round_modSlotOf (s : State) (c : Nat) (k : Fin 4) (f : Slot → Slot) (d : Nat) :
    ((s.modSlotOf c k f).core d).round = (s.core d).round := (congrArg CoreSt.round (s.core_modSlotOf c d k f) :)

/-- A core whose slot has joined a round. -/
def CoreSt.joined (j : Join) (co : CoreSt) : CoreSt := { co with join := some j }

/-- What joining a round leaves: the core's contribution, and a slot that waits for the result (R149). -/
theorem joins_of_joinRound {s : State} {i : Instr} {f : CForm} {rd : Reg} {v arg : Word} {word : BitVec 32}
    (step : exec i s = .next (s.joinRound i f rd v arg)) (enc : encode i = some word) (known : ¬((f = .bc ∨ f = .xch) ∧ 7 < arg.toNat)) :
    let c := s.cur.core
    ((s.core c).join ≠ none → exec i s = .next s) ∧
    ((s.core c).join = none → ∃ t, exec i s = .next t ∧ t.slotOf c s.cur.slot = { s.slot with wait := .round rd } ∧
      (∃ w, encode i = some w ∧ (t.core c).join = some ⟨s.cur.slot.val, f.num, v, arg, w⟩) ∧
      (∀ d j, d ≠ c ∨ j ≠ s.cur.slot → t.slotOf d j = s.slotOf d j) ∧ { t with cores := s.cores } = s ∧
      ∀ d, { t.core d with slots := (s.core d).slots, join := (s.core d).join } = s.core d) := by
  intro c
  have encoded : (wordOf i).setWidth 32 = word := by
    rw [wordOf, enc]; exact (BitVec.setWidth_setWidth_of_le word (by decide)).trans (BitVec.setWidth_eq word)
  rw [State.joinRound, if_neg known, encoded] at step
  refine ⟨fun busy => ?_, fun free => ?_⟩
  · rw [step]
    exact congrArg Host.Outcome.next (if_pos (Option.isSome_iff_ne_none.mpr busy))
  have free : ¬(s.core s.cur.core).join.isSome := by rw [show (s.core s.cur.core).join = none from free]; exact Bool.false_ne_true
  rw [if_neg free] at step
  let j : Join := ⟨s.cur.slot.val, f.num, v, arg, word⟩
  have slots : ∀ d i, (s.modCore s.cur.core (CoreSt.joined j)).slotOf d i = s.slotOf d i :=
    s.slotOf_modCore _ fun _ => rfl
  have core := fun d => s.core_modCore s.cur.core d (CoreSt.joined j)
  have step : exec i s = .next ((s.modCore s.cur.core (CoreSt.joined j)).modSlotOf s.cur.core s.cur.slot
    fun sl => { sl with wait := .round rd }) := step
  refine ⟨_, step, ?_, ⟨word, enc, ?_⟩, fun d i other => ?_, rfl, fun d => ?_⟩
  · rw [State.slotOf_modSlotOf_self, slots]; rfl
  · rw [State.join_modSlotOf, core, if_pos rfl]; rfl
  · rw [State.slotOf_modSlotOf_ne _ _ other, slots]
  · generalize s.modCore s.cur.core (CoreSt.joined j) = u at core
    refine (congrArg (fun co : CoreSt => { co with slots := (s.core d).slots, join := (s.core d).join })
      (u.core_modSlotOf s.cur.core d s.cur.slot _)).trans ?_
    rw [core]
    split
    · rename_i same; rw [same]; rfl
    · rfl

/-! ### The result of a round -/

theorem foldl_add_toNat (ys : List Word) (a : Word) :
    ys.foldl (· + ·) a = BitVec.ofNat 64 (a.toNat + (ys.map BitVec.toNat).sum) := by
  induction ys generalizing a with
  | nil => simp
  | cons y ys ih =>
    rw [List.foldl_cons, ih]
    refine BitVec.eq_of_toNat_eq ?_
    simp only [BitVec.toNat_ofNat, BitVec.toNat_add, List.map_cons, List.sum_cons]
    omega

theorem toInt_sminW (a b : Word) : (sminW a b).toInt = min a.toInt b.toInt := by
  unfold sminW
  simp only [BitVec.slt_eq_decide, decide_eq_true_eq]
  split <;> omega

theorem toInt_smaxW (a b : Word) : (smaxW a b).toInt = max a.toInt b.toInt := by
  unfold smaxW
  simp only [BitVec.slt_eq_decide, decide_eq_true_eq]
  split <;> omega

/-- A fold of words whose values fold by `op` comes to the fold of their values. -/
theorem toInt_foldl {f : Word → Word → Word} {op : Int → Int → Int} (h : ∀ a b, (f a b).toInt = op a.toInt b.toInt) (ys : List Word) (a : Word) :
    (ys.foldl f a).toInt = (ys.map BitVec.toInt).foldl op a.toInt := by
  induction ys generalizing a with
  | nil => rfl
  | cons y ys ih => rw [List.foldl_cons, ih, h]; rfl

/-- The contributions of the eight cores of a cluster, core by core. -/
def joinsOf (k : Fin 8 → Fin 4) (form : Fin 8 → Nat) (y a : Fin 8 → Word) (w : Fin 8 → BitVec 32) (r : Fin 8) : Join :=
  ⟨(k r).val, form r, y r, a r, w r⟩

section
variable (k : Fin 8 → Fin 4) (form : Fin 8 → Nat) (y a : Fin 8 → Word) (w : Fin 8 → BitVec 32)

theorem roundResult_add (v : Word) :
    roundResult (List.ofFn (joinsOf k form y a w)) 0 v = BitVec.ofNat 64 ((List.ofFn y).map BitVec.toNat).sum := by
  refine (foldl_add_toNat (List.ofFn y) 0).trans ?_
  rw [show (0 : Word).toNat = 0 from rfl, Nat.zero_add]

theorem roundResult_fadd (v : Word) : roundResult (List.ofFn (joinsOf k form y a w)) 1 v =
    BitVec.ofNat 64 (faddChain ((List.ofFn y).map fun v => (v.extractLsb' 0 32).toNat)) := by
  have low : (fun v : Word => (v.extractLsb' 0 32).toNat) = fun v => v.toNat % 2 ^ 32 := funext fun v => by
    rw [toNat_extractLsb', Nat.pow_zero, Nat.div_one]
  rw [low]; rfl

theorem roundResult_min (v : Word) : roundResult (List.ofFn (joinsOf k form y a w)) 2 v =
    BitVec.ofInt 64 (((List.ofFn y).map BitVec.toInt).min?.getD 0) := by
  have least := toInt_foldl toInt_sminW ((List.ofFn y).drop 1) (y 0)
  exact (BitVec.ofInt_toInt ..).symm.trans (congrArg (BitVec.ofInt 64) least)

theorem roundResult_max (v : Word) : roundResult (List.ofFn (joinsOf k form y a w)) 3 v =
    BitVec.ofInt 64 (((List.ofFn y).map BitVec.toInt).max?.getD 0) := by
  have greatest := toInt_foldl toInt_smaxW ((List.ofFn y).drop 1) (y 0)
  exact (BitVec.ofInt_toInt ..).symm.trans (congrArg (BitVec.ofInt 64) greatest)

/-- The participants agree where their forms are one, and for `cbc` the core that they name (R152). -/
theorem agree_iff : agree (List.ofFn (joinsOf k form y a w)) = true ↔ ∀ r, form r = form 0 ∧ (form r = 5 → a r = a 0) := by
  rw [List.ofFn_succ]
  simp only [agree, List.all_eq_true, List.forall_mem_ofFn_iff, joinsOf, Bool.and_eq_true, Bool.or_eq_true, bne_iff_ne, beq_iff_eq]
  refine ⟨fun all r => ?_, fun all r => ?_⟩
  · cases r using Fin.cases with
    | zero => exact ⟨rfl, fun _ => rfl⟩
    | succ r =>
      obtain ⟨same, arg⟩ := all r
      exact ⟨same, fun five => arg.resolve_left fun no => no (same ▸ five)⟩
  · obtain ⟨same, arg⟩ := all r.succ
    exact ⟨same, or_iff_not_imp_left.mpr fun five => arg (same.trans (not_not.mp five))⟩

end

/-! ### The contributions of a cluster -/

theorem mapM_option_some {α β : Type} {f : α → Option β} {g : α → β} {l : List α} (h : ∀ x ∈ l, f x = some (g x)) :
    l.mapM f = some (l.map g) := by
  induction l with
  | nil => rfl
  | cons x l ih =>
    rw [List.mapM_cons, h x List.mem_cons_self, ih fun z hz => h z (List.mem_cons_of_mem _ hz)]; rfl

theorem mapM_option_none {α β : Type} {f : α → Option β} {l : List α} {x : α} (mem : x ∈ l) (h : f x = none) : l.mapM f = none := by
  induction l with
  | nil => cases mem
  | cons z l ih =>
    rw [List.mapM_cons]
    rcases List.mem_cons.mp mem with rfl | mem
    · rw [h]; rfl
    · rw [ih mem]; cases f z <;> rfl

/-- A round has every contribution once all eight cores have joined with budget left (R63, R149). -/
theorem contributions_eq {s : State} {cl : Nat} {J : Fin 8 → Join} (joined : ∀ r, (s.core (cl * 8 + r.val)).join = some (J r))
    (left : ∀ r, (s.slotOf (cl * 8 + r.val) (slotIx (J r).slot)).left ≠ 0) : contributions s cl = some (List.ofFn J) := by
  have each : ∀ r ∈ List.range 8, contribution s (cl * 8 + r) = some (J (Fin.ofNat 8 r)) := fun r hr => by
    have val : (Fin.ofNat 8 r).val = r := Nat.mod_eq_of_lt (List.mem_range.mp hr)
    have join := joined (Fin.ofNat 8 r)
    have left := left (Fin.ofNat 8 r)
    rw [val] at join left
    rw [contribution, join, Option.filter_some, Slot.spent_eq_false left]; rfl
  exact mapM_option_some each

/-- A slot whose budget is spent holds its round up (R63). -/
theorem contributions_none {s : State} {cl : Nat} {J : Join} (r : Fin 8) (joined : (s.core (cl * 8 + r.val)).join = some J)
    (spent : (s.slotOf (cl * 8 + r.val) (slotIx J.slot)).left = 0) : contributions s cl = none := by
  refine mapM_option_none (x := r.val) (List.mem_range.mpr r.isLt) ?_
  rw [contribution, joined, Option.filter_some, Slot.spent, spent]; rfl

/-! ### One participant after another -/

/-- A fold over participants that leaves the others alone does for each what its own step does. -/
theorem foldl_each {σ α : Type} {f : σ → α → σ} {key : α → Nat} {ready done : α → σ → Prop} (hit : ∀ p s, ready p s → done p (f s p))
    (readyStays : ∀ p q s, key p ≠ key q → ready p s → ready p (f s q)) (doneStays : ∀ p q s, key p ≠ key q → done p s → done p (f s q))
    (l : List α) (s : σ) (apart : (l.map key).Nodup) (all : ∀ p ∈ l, ready p s) : ∀ p ∈ l, done p (l.foldl f s) := by
  have stays : ∀ (l : List α) p s, key p ∉ l.map key → done p s → done p (l.foldl f s) := fun l => by
    induction l with
    | nil => exact fun _ _ _ h => h
    | cons q l ih =>
      intro p s new h
      rw [List.map_cons, List.mem_cons, not_or] at new
      exact ih p _ new.2 (doneStays p q s new.1 h)
  induction l generalizing s with
  | nil => exact fun _ h => absurd h List.not_mem_nil
  | cons q l ih =>
    rw [List.map_cons, List.nodup_cons] at apart
    intro p hp
    rcases List.mem_cons.mp hp with rfl | hp
    · exact stays l p _ apart.1 (hit p s (all p List.mem_cons_self))
    · refine ih (f s q) apart.2 (fun x hx => readyStays x q s (fun e => apart.1 ?_) (all x (List.mem_cons_of_mem _ hx))) p hp
      exact e ▸ List.mem_map_of_mem hx

/-- The eight participants of a cluster, each with the number of its core. -/
theorem foldl_participants {cl : Nat} {J : Fin 8 → Join} {f : State → Nat → Join → State} {ready done : Nat → Join → State → Prop}
    (hit : ∀ c j s, ready c j s → done c j (f s c j)) (readyStays : ∀ c j d i s, c ≠ d → ready c j s → ready c j (f s d i))
    (doneStays : ∀ c j d i s, c ≠ d → done c j s → done c j (f s d i)) (s : State) (all : ∀ r : Fin 8, ready (cl * 8 + r.val) (J r) s)
    (r : Fin 8) : done (cl * 8 + r.val) (J r) ((List.ofFn J).zipIdx.foldl (fun s p => f s (cl * 8 + p.2) p.1) s) := by
  have list : (List.ofFn J).zipIdx = List.ofFn fun r : Fin 8 => (J r, r.val) := rfl
  rw [list]
  refine foldl_each (f := fun s (p : Join × Nat) => f s (cl * 8 + p.2) p.1) (key := fun p => cl * 8 + p.2)
    (ready := fun p => ready (cl * 8 + p.2) p.1) (done := fun p => done (cl * 8 + p.2) p.1) (fun p => hit _ _) (fun p q => readyStays _ _ _ _)
    (fun p q => doneStays _ _ _ _) _ s ?_ (fun p hp => ?_) (J r, r.val) (List.mem_ofFn.mpr ⟨r, rfl⟩)
  · rw [List.map_ofFn, List.nodup_ofFn]
    intro i j e
    exact Fin.ext (by simpa using e)
  · obtain ⟨r, rfl⟩ := List.mem_ofFn.mp hp
    exact all r

/-! ### A participant's end -/

/-- What a core holds of its round and of its slots. -/
structure RoundKept (s t : State) (c : Nat) : Prop where
  slots : ∀ j, t.slotOf c j = s.slotOf c j
  join : (t.core c).join = (s.core c).join
  round : (t.core c).round = (s.core c).round

theorem RoundKept.trans {s t u : State} {c : Nat} (h : RoundKept s t c) (g : RoundKept t u c) : RoundKept s u c :=
  ⟨fun j => (g.slots j).trans (h.slots j), g.join.trans h.join, g.round.trans h.round⟩

theorem RoundKept.of_core {s t : State} {c : Nat} (h : t.core c = s.core c) : RoundKept s t c :=
  ⟨fun j => by rw [State.slotOf, h]; rfl, congrArg CoreSt.join h, congrArg CoreSt.round h⟩

/-- A slot that waits for a round gets its result. -/
def Slot.roundEnd (v : Word) (sl : Slot) : Slot :=
  match sl.wait with
  | .round rd => sl.answered rd v
  | _ => sl

/-- A participant's result comes to its slot, and its core's round moves on; nothing but its core changes, and what is visible to whom
(R149, R151). -/
theorem State.roundDone_spec (s : State) (c : Nat) (j : Join) (v : Word) :
    let t := s.roundDone c j v
    t.mem = s.mem ∧ t.net = s.net ∧ (∀ d, d ≠ c → t.core d = s.core d) ∧ (t.core c).join = none ∧
    (t.core c).round = (s.core c).round + 1 ∧ (∀ i, i ≠ slotIx j.slot → t.slotOf c i = s.slotOf c i) ∧
    ∀ rd, (s.slotOf c (slotIx j.slot)).wait = .round rd → t.slotOf c (slotIx j.slot) = (s.slotOf c (slotIx j.slot)).answered rd v := by
  intro t
  obtain ⟨u, seen, step⟩ : ∃ u : State, { u with hidden := s.hidden } = s ∧
      t = (u.modSlotOf c (slotIx j.slot) (Slot.roundEnd v)).nextRound c := by
    by_cases bar : j.form = 4
    · exact ⟨_, s.perform_hidden _ _, by simp only [t, State.roundDone, if_pos bar]; rfl⟩
    · exact ⟨s, rfl, by simp only [t, State.roundDone, if_neg bar]; rfl⟩
  have ucores : u.cores = s.cores := (congrArg State.cores seen :)
  have core := State.core_of_cores ucores
  have slot := State.slotOf_of_cores ucores
  have mem : u.mem = s.mem := (congrArg State.mem seen :)
  have net : u.net = s.net := (congrArg State.net seen :)
  clear_value t
  subst t
  have slots : ∀ d i, ((u.modSlotOf c (slotIx j.slot) (Slot.roundEnd v)).nextRound c).slotOf d i =
      (u.modSlotOf c (slotIx j.slot) (Slot.roundEnd v)).slotOf d i := State.slotOf_modCore _ _ fun _ => rfl
  refine ⟨mem, net, fun d other => ?_, ?_, ?_, fun i other => ?_, fun rd wait => ?_⟩
  · rw [State.nextRound, State.core_modCore, if_neg other, State.modSlotOf, State.core_modCore, if_neg other, core]
  · rw [State.nextRound, State.core_modCore_self]
  · rw [State.nextRound, State.core_modCore_self]
    show ((u.modSlotOf c (slotIx j.slot) (Slot.roundEnd v)).core c).round + 1 = _
    rw [State.round_modSlotOf, core]
  · rw [slots, State.slotOf_modSlotOf_ne _ _ (.inr other), slot]
  · rw [slots, State.slotOf_modSlotOf_self, slot, Slot.roundEnd, wait]

end Sys2Proof.Machine
end

section
/-!
PROOFS. The trap of a cluster round that disagrees (R152), and what a completion comes to.
-/
namespace Sys2Proof.Machine

/-! ### A trap leaves the other cores, and every message that waits for no answer -/

theorem State.net_takeBack (s : State) (c : Nat) (sl : Slot) : (s.takeBack c sl).net = s.net := by
  unfold State.takeBack
  have taken : ∀ (l : List (Nat × BitVec 32)) (u : State),
      (l.foldl (fun (s : State) (t : Nat × BitVec 32) => s.modChan c t.1 fun q => q.toHead t.2) u).net = u.net := fun l => by
    induction l with
    | nil => exact fun _ => rfl
    | cons x l ih => exact fun u => ih _
  split
  · split
    · exact taken _ _
    · split
      · exact taken _ _
      · exact taken _ _
  · rfl

theorem State.net_unbusy (s : State) (c : Nat) (own : Option Nat) : (s.unbusy c own).net = s.net := by cases own <;> rfl

/-- A message to a channel under way stays under way as a trap lets go of its chain: no slot waits for its answer. -/
theorem State.sent_letGo (s : State) (c : Nat) (k : Fin 4) {m : Msg} {d ch : Nat} {h : Word} {ws : List Word} {task : Option Task}
    (mem : m ∈ s.net) (body : m.body = .chan d ch h ws task) : m ∈ (s.letGo c k).net := by
  have same : { m with body := m.body.disown c k.val } = m := by rw [body]; cases m; cases body; rfl
  refine List.mem_map.mpr ⟨m, ?_, same⟩
  obtain ⟨more, net, -⟩ := (((s.takeBack c (s.slotOf c k)).unbusy c (s.slotOf c k).chan).grants_releaseEntries c k.val).net
  rw [net, State.net_unbusy, State.net_takeBack]
  exact List.mem_append_left _ mem

theorem State.sent_trapAt (s : State) (c : Nat) (k : Fin 4) (cause : Nat) (value : Word) {m : Msg} {d ch : Nat} {h : Word} {ws : List Word}
    {task : Option Task} (mem : m ∈ s.net) (body : m.body = .chan d ch h ws task) : m ∈ (s.trapAt c k cause value).net := by
  obtain ⟨-, -, -, kept⟩ := s.trapAt_cases c k cause value
  refine kept m ?_
  have mem := s.sent_letGo c k mem body
  unfold State.ended
  split
  · exact List.mem_append_left _ mem
  · exact mem

/-- What a core holds beside its channels, its slots, its outbound buffer and the round it has joined. -/
theorem State.round_ended (s : State) (c : Nat) (k : Fin 4) (cause d : Nat) :
    ((s.ended c k cause).core d).round = (s.core d).round ∧
    ((s.ended c k cause).core d).join = (if d = c then (s.core c).join.filter fun j => j.slot ≠ k.val else (s.core d).join) ∧
    ((s.ended c k cause).core d).backlog = (s.core d).backlog := by
  have alone := s.letGo_alone c k
  have ended : ((s.ended c k cause).core d) = (((((s.letGo c k).modSlotOf c k Slot.idle).clearResv c k).withdraw c k).core d) := by
    unfold State.ended
    split <;> rfl
  rw [ended, State.withdraw, State.core_modCore]
  generalize s.letGo c k = u at alone
  have round : ∀ e, (((u.modSlotOf c k Slot.idle).clearResv c k).core e).round = (s.core e).round := fun e =>
    (u.round_modSlotOf c k _ e).trans (congrArg CoreSt.round (alone.cores e) :)
  have join : ∀ e, (((u.modSlotOf c k Slot.idle).clearResv c k).core e).join = (s.core e).join := fun e =>
    (u.join_modSlotOf c k _ e).trans (congrArg CoreSt.join (alone.cores e) :)
  have backlog : ∀ e, (((u.modSlotOf c k Slot.idle).clearResv c k).core e).backlog = (s.core e).backlog := fun e =>
    ((congrArg CoreSt.backlog (u.core_modSlotOf c e k Slot.idle) :)).trans (congrArg CoreSt.backlog (alone.cores e) :)
  split
  · rename_i same
    subst same
    exact ⟨round d, by rw [← join d], backlog d⟩
  · exact ⟨round d, join d, backlog d⟩

/-- A message of a core leaves the round of the core, and every other core. -/
theorem State.round_queueOut (s : State) (c : Nat) (b : Body) (d : Nat) :
    ((s.queueOut c b).core d).round = (s.core d).round ∧ (d ≠ c → (s.queueOut c b).core d = s.core d) := by
  obtain ⟨outb, backlog, cores⟩ : ∃ outb backlog, (s.queueOut c b).cores =
      (s.modCore c fun co => { co with outb := outb, backlog := backlog }).cores := by
    unfold State.queueOut
    split
    · exact ⟨(s.core c).outb ++ [s.nextId], (s.core c).backlog, rfl⟩
    · exact ⟨(s.core c).outb, (s.core c).backlog ++ [⟨s.nextId, .core c, true, false, b⟩], rfl⟩
  rw [State.core_of_cores cores, State.core_modCore]
  split
  · rename_i same; subst same; exact ⟨rfl, fun other => absurd rfl other⟩
  · exact ⟨rfl, fun _ => rfl⟩

theorem State.round_trapAt (s : State) (c : Nat) (k : Fin 4) (cause : Nat) (value : Word) (d : Nat) :
    ((s.trapAt c k cause value).core d).round = (s.core d).round ∧
    (d ≠ c → ((s.trapAt c k cause value).core d).join = (s.core d).join ∧
      ((s.trapAt c k cause value).core d).backlog = (s.core d).backlog) := by
  obtain ⟨round, join, backlog⟩ := s.round_ended c k cause d
  rw [State.trapAt_eq]
  generalize s.ended c k cause = u at round join backlog
  split
  · exact ⟨round, fun other => ⟨join.trans (if_neg other), backlog⟩⟩
  · obtain ⟨same, away⟩ := u.round_queueOut c (serviceBody (sgOf c) c (serviceWords cause c k.val (s.slotOf c k).msgid (s.slotOf c k).pcW value)) d
    refine ⟨same.trans round, fun other => ?_⟩
    rw [away other]
    exact ⟨join.trans (if_neg other), backlog⟩

/-! ### The two ends of a round -/

/-- A core's activation has been answered `v`, and its round has moved on, since `s`. -/
structure Answered (s : State) (v : Word) (c : Nat) (j : Join) (t : State) : Prop where
  here : ∀ rd, (s.slotOf c (slotIx j.slot)).wait = .round rd → t.slotOf c (slotIx j.slot) = (s.slotOf c (slotIx j.slot)).answered rd v
  slots : ∀ i, i ≠ slotIx j.slot → t.slotOf c i = s.slotOf c i
  join : (t.core c).join = none
  round : (t.core c).round = (s.core c).round + 1

/-- A core's activation has ended by a trap with CLUMIS, and its round has moved on, since `s`. -/
structure Mismatched (s : State) (c : Nat) (j : Join) (t : State) : Prop where
  here : t.slotOf c (slotIx j.slot) = (s.slotOf c (slotIx j.slot)).idle
  join : (t.core c).join = none
  round : (t.core c).round = (s.core c).round + 1
  told : ¬(c % 128 = 0 ∧ (s.slotOf c (slotIx j.slot)).chan = some 62) → ∃ m ∈ t.net ++ (t.core c).backlog, m.src = .core c ∧
    m.body = serviceBody (sgOf c) c (serviceWords causeClumis c (slotIx j.slot).val (s.slotOf c (slotIx j.slot)).msgid
      (s.slotOf c (slotIx j.slot)).pcW (j.word.setWidth 64))

/-- A participant of a round that disagrees traps, and its core's round moves on. -/
def State.mismatch (s : State) (c : Nat) (j : Join) : State :=
  (s.trapAt c (slotIx j.slot) causeClumis (j.word.setWidth 64)).nextRound c

theorem State.slotOf_nextRound (s : State) (c d : Nat) (i : Fin 4) : (s.nextRound c).slotOf d i = s.slotOf d i := by
  rw [State.nextRound, State.slotOf_modCore]
  exact fun _ => rfl

theorem State.core_nextRound (s : State) (c d : Nat) :
    (s.nextRound c).core d = if d = c then { s.core c with round := (s.core c).round + 1, join := none } else s.core d := s.core_modCore c d _

/-- A participant that traps leaves the slots and the round of every other core. -/
theorem State.mismatch_other (s : State) {c d : Nat} (j : Join) (other : d ≠ c) : RoundKept s (s.mismatch c j) d := by
  obtain ⟨round, rest⟩ := s.round_trapAt c (slotIx j.slot) causeClumis (j.word.setWidth 64) d
  refine ⟨fun i => ?_, ?_, ?_⟩
  · rw [State.mismatch, State.slotOf_nextRound, State.slotOf_trapAt, if_neg fun e => other e.1]
  · rw [State.mismatch, State.core_nextRound, if_neg other]; exact (rest other).1
  · rw [State.mismatch, State.core_nextRound, if_neg other]; exact round

theorem State.mismatch_here (s : State) (c : Nat) (j : Join) : Mismatched s c j (s.mismatch c j) where
  here := by rw [State.mismatch, State.slotOf_nextRound, State.slotOf_trapAt, if_pos ⟨rfl, rfl⟩]
  join := by rw [State.mismatch, State.core_nextRound, if_pos rfl]
  round := by
    rw [State.mismatch, State.core_nextRound, if_pos rfl]
    exact congrArg (· + 1) (s.round_trapAt c (slotIx j.slot) causeClumis (j.word.setWidth 64) c).1
  told image := by
    obtain ⟨m, mem, src, body⟩ := s.trapAt_reports c (slotIx j.slot) causeClumis (j.word.setWidth 64) image
    refine ⟨m, ?_, src, body⟩
    rw [State.mismatch, State.core_nextRound, if_pos rfl]
    exact mem

/-- What a participant's trap has left stays as another one traps. -/
theorem Mismatched.stays {s t : State} {c : Nat} {j : Join} (h : Mismatched s c j t) {d : Nat} (i : Join) (other : c ≠ d) :
    Mismatched s c j (t.mismatch d i) := by
  obtain ⟨slots, join, round⟩ := t.mismatch_other i other
  refine ⟨(slots _).trans h.here, join.trans h.join, round.trans h.round, fun image => ?_⟩
  obtain ⟨m, mem, src, body⟩ := h.told image
  refine ⟨m, ?_, src, body⟩
  rcases List.mem_append.mp mem with mem | mem
  · exact List.mem_append_left _ (t.sent_trapAt d _ _ _ mem body)
  · refine List.mem_append_right _ ?_
    rw [State.mismatch, State.core_nextRound, if_neg other,
      ((t.round_trapAt d (slotIx i.slot) causeClumis (i.word.setWidth 64) c).2 other).2]
    exact mem

/-- What is ready for a participant's end: its slots and its round are as they were. -/
def Unmoved (s : State) (c : Nat) (t : State) : Prop := (∀ i, t.slotOf c i = s.slotOf c i) ∧ (t.core c).round = (s.core c).round

theorem Unmoved.kept {s t u : State} {c : Nat} (h : Unmoved s c t) (k : RoundKept t u c) : Unmoved s c u :=
  ⟨fun i => (k.slots i).trans (h.1 i), k.round.trans h.2⟩

/-- A round that disagrees ends every participant by a trap (R152). -/
theorem round_mismatched {s : State} {cl : Nat} (J : Fin 8 → Join) (r : Fin 8) :
    Mismatched s (cl * 8 + r.val) (J r) ((List.ofFn J).zipIdx.foldl (fun s p => s.mismatch (cl * 8 + p.2) p.1) s) := by
  refine foldl_participants (f := State.mismatch) (ready := fun c _ => Unmoved s c) (done := Mismatched s) (fun c j t h => ?_)
    (fun c j d i t other h => h.kept (t.mismatch_other i other)) (fun c j d i t other h => h.stays i other) s
    (fun _ => ⟨fun _ => rfl, rfl⟩) r
  obtain ⟨here, join, round, told⟩ := t.mismatch_here c j
  obtain ⟨slots, same⟩ := h
  rw [slots] at here told
  exact ⟨here, join, by rw [round, same], told⟩

/-- A round that agrees answers every participant (R149). -/
theorem round_answered {s : State} {cl : Nat} (J : Fin 8 → Join) (v : Join → Word) (r : Fin 8) :
    Answered s (v (J r)) (cl * 8 + r.val) (J r) ((List.ofFn J).zipIdx.foldl (fun s p => s.roundDone (cl * 8 + p.2) p.1 (v p.1)) s) := by
  refine foldl_participants (f := fun s c j => s.roundDone c j (v j)) (ready := fun c _ => Unmoved s c)
    (done := fun c j => Answered s (v j) c j) (fun c j t h => ?_) (fun c j d i t other h => ?_) (fun c j d i t other h => ?_) s
    (fun _ => ⟨fun _ => rfl, rfl⟩) r
  · obtain ⟨-, -, -, join, round, others, here⟩ := t.roundDone_spec c j (v j)
    obtain ⟨slots, same⟩ := h
    rw [slots] at here
    exact ⟨here, fun i ne => (others i ne).trans (slots i), join, by rw [round, same]⟩
  · obtain ⟨-, -, cores, -⟩ := t.roundDone_spec d i (v i)
    exact h.kept (.of_core (cores c other))
  · obtain ⟨-, -, cores, -⟩ := t.roundDone_spec d i (v i)
    have kept := RoundKept.of_core (cores c other)
    exact ⟨fun rd wait => (kept.slots _).trans (h.here rd wait), fun i ne => (kept.slots i).trans (h.slots i ne), kept.join.trans h.join,
      kept.round.trans h.round⟩

/-- Answers leave the bytes of memory and the network. -/
theorem round_answered_rest (s : State) (cl : Nat) (v : Join → Word) (l : List (Join × Nat)) :
    let t := l.foldl (fun s p => s.roundDone (cl * 8 + p.2) p.1 (v p.1)) s
    t.mem = s.mem ∧ t.net = s.net := by
  induction l generalizing s with
  | nil => exact ⟨rfl, rfl⟩
  | cons p l ih =>
    obtain ⟨mem, net, -⟩ := s.roundDone_spec (cl * 8 + p.2) p.1 (v p.1)
    obtain ⟨mem', net'⟩ := ih (s.roundDone (cl * 8 + p.2) p.1 (v p.1))
    exact ⟨mem'.trans mem, net'.trans net⟩

/-- Settles O41: every form joins by the one `joinRound`, and a round of eight ends in each participant alike. -/
theorem clusterRoundsJoinAndComplete : Obligations.ClusterRoundsJoinAndComplete := by
  intro s rd rs rc cl k form y a w rds c joins ints result
  have join : ∀ (i : Instr) (f : CForm) (rd : Reg) (v arg : Word) {word : BitVec 32}, exec i s = .next (s.joinRound i f rd v arg) →
      encode i = some word → ¬((f = .bc ∨ f = .xch) ∧ 7 < arg.toNat) → joins i f.num rd v arg := fun _ _ _ _ _ _ => joins_of_joinRound
  refine ⟨join (.credAdd rd rs) .add rd (s.rx rs) 0 rfl rfl (by decide), join (.credFadd rd rs) .fadd rd (s.rx rs) 0 rfl rfl (by decide),
    join (.credMin rd rs) .min rd (s.rx rs) 0 rfl rfl (by decide), join (.credMax rd rs) .max rd (s.rx rs) 0 rfl rfl (by decide),
    join .cbar .bar 0 0 0 rfl rfl (by decide),
    fun high => ⟨congrArg Host.Outcome.next (if_pos ⟨.inl rfl, high⟩), congrArg Host.Outcome.next (if_pos ⟨.inr rfl, high⟩)⟩,
    fun low => ⟨join (.cbc rd rs rc) .bc rd (s.rx rs) (s.rx rc) rfl rfl fun h => Nat.not_lt.mpr low h.2,
      join (.cxch rd rs rc) .xch rd (s.rx rs) (s.rx rc) rfl rfl fun h => Nat.not_lt.mpr low h.2⟩,
    fun all => ?_⟩
  have slot : ∀ r, slotIx (joinsOf k form y a w r).slot = k r := fun r => slotIx_val (k r)
  have step : exec (.clusterRoundComplete cl) s = .next (match contributions s cl with
      | none => s
      | some js => if agree js then js.zipIdx.foldl (fun s p => s.roundDone (cl * 8 + p.2) p.1 (roundResult js p.1.form p.1.arg)) s
        else js.zipIdx.foldl (fun s p => s.mismatch (cl * 8 + p.2) p.1) s) := rfl
  refine ⟨fun ⟨r, spent⟩ => ?_, fun left same => ?_, fun left differs => ?_⟩
  · rw [step, contributions_none r (all r).1 (by rw [slotIx_val]; exact spent)]
  · rw [contributions_eq (J := joinsOf k form y a w) (fun r => (all r).1) fun r => by rw [slot]; exact left r] at step
    simp only [(agree_iff k form y a w).mpr same, if_true] at step
    obtain ⟨mem, net⟩ := round_answered_rest s cl (fun j => roundResult (List.ofFn (joinsOf k form y a w)) j.form j.arg)
      (List.ofFn (joinsOf k form y a w)).zipIdx
    refine ⟨_, step, mem, net, fun r => ?_⟩
    have value : roundResult (List.ofFn (joinsOf k form y a w)) (joinsOf k form y a w r).form (joinsOf k form y a w r).arg =
        result (form 0) r := by
      show roundResult (List.ofFn (joinsOf k form y a w)) (form r) (a r) = _
      rw [(same r).1]
      match form 0 with
      | 0 => exact roundResult_add k form y a w _
      | 1 => exact roundResult_fadd k form y a w _
      | 2 => exact roundResult_min k form y a w _
      | 3 => exact roundResult_max k form y a w _
      | 4 => rfl
      | n + 5 => rfl
    obtain ⟨here, slots, join, round⟩ := round_answered (s := s) (cl := cl) (joinsOf k form y a w)
      (fun j => roundResult (List.ofFn (joinsOf k form y a w)) j.form j.arg) r
    rw [slot] at here slots
    refine ⟨(here (rds r) (all r).2).trans ?_, slots, join, round⟩
    rw [Slot.answered_eq, value]
  · have no : agree (List.ofFn (joinsOf k form y a w)) = false := by
      rw [Bool.eq_false_iff, Ne, agree_iff]
      obtain ⟨r, form | ⟨five, arg⟩⟩ := differs
      · exact fun same => form (same r).1
      · exact fun same => arg ((same r).2 five)
    rw [contributions_eq (J := joinsOf k form y a w) (fun r => (all r).1) fun r => by rw [slot]; exact left r] at step
    simp only [no, Bool.false_eq_true, if_false] at step
    refine ⟨_, step, fun r => ?_⟩
    obtain ⟨here, join, round, told⟩ := round_mismatched (s := s) (cl := cl) (joinsOf k form y a w) r
    rw [slot] at here told
    exact ⟨here, join, round, told⟩

end Sys2Proof.Machine
end

section
/-!
PROOFS. The graph forms of a core (R235 to R239), their requests, and the answers that end a wait.
-/
namespace Sys2Proof.Machine

/-! ### What a form leaves -/

/-- A request leaves at once, and the slot changes (R71, R236 to R238). -/
theorem asks_of_post {s : State} {i : Instr} {b : Body} {f : Slot → Slot}
    (step : exec i s = .next ((s.post (.core s.cur.core) false b).modSlot f)) : ∃ t, exec i s = .next t ∧ SlotIs s t (f s.slot) ∧
      t.net = s.net ++ [⟨s.nextId, .core s.cur.core, false, false, b⟩] ∧ { t with cores := s.cores, net := s.net, nextId := s.nextId } = s :=
  ⟨_, step, ((SlotIs.refl s).of_cores (u := s.post (.core s.cur.core) false b) rfl).modSlot rfl f, rfl, rfl⟩

/-- An answer ends the wait of its slot, but where the budget is spent (R63). -/
theorem State.answer_spec {s : State} {d j : Nat} {v : Word} {waits : Wait → Option Reg} {rd : Reg} (low : j < 4)
    (wait : waits (s.slotOf d (slotIx j)).wait = some rd) :
    let t := s.answer d j v waits
    t.slotOf d (slotIx j) = (if (s.slotOf d (slotIx j)).left = 0 then s.slotOf d (slotIx j)
      else { (s.slotOf d (slotIx j)).after rd v with wait := .none, flow := (s.slotOf d (slotIx j)).flow.carried rd }) ∧
    (∀ e i, e ≠ d ∨ i ≠ slotIx j → t.slotOf e i = s.slotOf e i) ∧ { t with cores := s.cores } = s := by
  intro t
  have step : t = s.modSlotOf d (slotIx j) fun sl => if sl.spent then sl else sl.answered rd v := by
    simp only [t, State.answer, if_neg (Nat.not_le.mpr low), wait]
  clear_value t
  subst t
  exact ⟨by rw [State.slotOf_modSlotOf_self, Slot.answered_unless], fun e i other => s.slotOf_modSlotOf_ne _ other, rfl⟩

/-! ### What `gtrig` performs -/

/-- A hidden write that is performed to some view is one of those that were hidden, of the same writer. -/
theorem writer_performIds (v : View) (hs : List Hidden) (ids : List Nat) {g : Hidden} (hg : g ∈ performIds v ids hs) :
    ∃ h ∈ hs, h.id = g.id ∧ h.writer = g.writer := by
  induction hs generalizing ids with
  | nil => cases hg
  | cons h hs ih =>
    have older (ids : List Nat) (hg : g ∈ performIds v ids hs) : ∃ k ∈ h :: hs, k.id = g.id ∧ k.writer = g.writer := by
      obtain ⟨k, hk, same⟩ := ih ids hg
      exact ⟨k, List.mem_cons_of_mem _ hk, same⟩
    rw [performIds] at hg
    split at hg
    · dsimp only at hg
      split at hg
      · exact older _ hg
      · obtain rfl | hg := List.mem_cons.1 hg
        · exact ⟨h, List.mem_cons_self, rfl, rfl⟩
        · exact older _ hg
    · obtain rfl | hg := List.mem_cons.1 hg
      · exact ⟨g, List.mem_cons_self, rfl, rfl⟩
      · exact older _ hg

theorem State.writer_perform (s : State) (ids : List Nat) (v : View) {g : Hidden} (hg : g ∈ (s.perform ids v).hidden) :
    ∃ h ∈ s.hidden, h.id = g.id ∧ h.writer = g.writer := by
  unfold State.perform at hg
  split at hg
  · exact ⟨g, hg, rfl, rfl⟩
  dsimp only at hg
  split at hg
  · exact writer_performIds _ _ _ hg
  · obtain ⟨k, hk, id, writer⟩ := writer_performIds _ _ _ hg
    obtain ⟨h, hh, id', writer'⟩ := writer_performIds _ _ _ hk
    exact ⟨h, hh, id'.trans id, writer'.trans writer⟩

/-- Once an agent's stores are performed to a view, each that is still hidden has it. -/
theorem State.ownWrites_seen (s : State) (a : Agent) (v : View) {h : Hidden} (mem : h ∈ (s.perform (s.ownWrites a) v).hidden)
    (own : h.writer = a) : v ∈ h.seen := by
  obtain ⟨g, hg, id, writer⟩ := s.writer_perform _ v mem
  refine s.perform_allSeen (s.ownWrites a) v h mem ?_
  rw [← id]
  exact List.mem_map_of_mem (List.mem_filter.mpr ⟨hg, by rw [writer, own]; exact beq_self_eq_true a⟩)

/-- Scopes are read off what the cores, the network and the hidden writes do not touch. -/
theorem inScope_of_rest {s t : State} (h : { t with cores := s.cores, hidden := s.hidden, net := s.net, nextId := s.nextId } = s)
    (sc : Scope) (a b : Agent) : inScope t sc a b = inScope s sc a b := by
  rw [← h]
  rfl

/-! ### The status word -/

/-- The fields of a status word (Table 14-7). -/
theorem status_fields (pending trig : BitVec 16) (cpend : BitVec 8) (used limit : BitVec 4) (retired surplus commit trigd : Bool)
    (typ state : BitVec 4) :
    let w : Word := pending ++ trig ++ cpend ++ used ++ limit ++ BitVec.ofBool retired ++ BitVec.ofBool surplus ++ BitVec.ofBool commit ++
      BitVec.ofBool trigd ++ typ ++ 0#4 ++ state
    w.extractLsb' 48 16 = pending ∧ w.extractLsb' 32 16 = trig ∧ w.extractLsb' 24 8 = cpend ∧ w.extractLsb' 20 4 = used ∧
    w.extractLsb' 16 4 = limit ∧ w.getLsbD 15 = retired ∧ w.getLsbD 14 = surplus ∧ w.getLsbD 13 = commit ∧ w.getLsbD 12 = trigd ∧
    w.extractLsb' 8 4 = typ ∧ w.extractLsb' 4 4 = 0 ∧ w.extractLsb' 0 4 = state := by
  have high : ∀ {a b : Nat} (x : BitVec a) (y : BitVec b) {lo k : Nat}, b ≤ lo → (x ++ y).extractLsb' lo k = x.extractLsb' (lo - b) k :=
    fun x y _ _ h => BitVec.extractLsb'_append_eq_of_le h
  have low : ∀ {a b : Nat} (x : BitVec a) (y : BitVec b) {lo k : Nat}, lo + k ≤ b → (x ++ y).extractLsb' lo k = y.extractLsb' lo k :=
    fun x y _ _ h => BitVec.extractLsb'_append_eq_of_add_le h
  have bit : ∀ b : Bool, (BitVec.ofBool b == 1#1) = b := by decide
  simp only [BitVec.getLsbD_eq_extractLsb']
  simp [high, low, bit]

/-- Settles O50: each form is its check and one request, and each answer the one `answer`. -/
theorem graphFormsAskTheReeve : Obligations.GraphFormsAskTheReeve := by
  intro s rd rn rc c k v id n ok asks answers
  have gtok : exec (.gtok rn rc) s = .next (if !ok then s.trap causeGnode v else if n = 0 then s.retire else s.buffer (.token id n)) := rfl
  have gcancel : exec (.gcancel rn) s = .next (if !ok then s.trap causeGnode v
      else (s.post (.core c) false (.gcancelReq id.toNat)).modSlot fun sl => { sl with sent := s.nextId :: sl.sent }.retire) := rfl
  have gstat : exec (.gstat rd rn) s = .next (if !ok then s.trap causeGnode v
      else (s.post (.core c) false (.gstatReq c k.val id.toNat)).modSlot fun sl => { sl with wait := .gstat rd }) := rfl
  have glaunch : exec (.glaunch rd rn) s = .next ((s.post (.core c) false (.glaunchReq c k.val v)).modSlot
      fun sl => { sl with wait := .glaunch rd, sent := s.nextId :: sl.sent }) := rfl
  refine ⟨fun bad => ?_, fun good => ?_, asks_of_post glaunch, fun outside => ?_, fun tk task first => ?_, fun m x d j w msg body low wait => ?_,
    fun m x d j w msg body low wait => ?_, fun m x d j a msg body => ?_⟩
  · rw [gtok, gcancel, gstat, bad]
    exact ⟨rfl, rfl, rfl⟩
  · rw [good] at gtok gcancel gstat
    refine ⟨fun none => ?_, fun some_ room => ?_, fun some_ full => ?_, asks_of_post gcancel, asks_of_post gstat⟩
    · exact ⟨_, gtok.trans (congrArg Host.Outcome.next (if_pos none)), s.onlySlot_retire⟩
    · refine ⟨_, gtok.trans (congrArg Host.Outcome.next ((if_neg some_).trans (if_neg (Nat.not_le.mpr room)))), ?_⟩
      exact s.onlySlot_modSlot _
    · exact gtok.trans (congrArg Host.Outcome.next ((if_neg some_).trans (if_pos full)))
  · have step : exec .gtrig s = .next s.retire := by
      show execGtrig s = _
      unfold execGtrig
      cases task : s.slot.task with
      | none => rfl
      | some tk =>
        rcases outside with none | done
        · rw [none] at task; cases task
        · simp only [done, if_true]
    exact ⟨_, step, s.onlySlot_retire⟩
  · have step : exec .gtrig s = .next (if s.sendsOut .fld then s
        else ((s.perform (s.ownWrites s.agent) (.within .fld s.agent)).post (.core (s.perform (s.ownWrites s.agent) (.within .fld s.agent)).cur.core)
          false (.trigger tk true false)).modSlot fun sl =>
          { sl with trigd := true, sent := (s.perform (s.ownWrites s.agent) (.within .fld s.agent)).nextId :: sl.sent }.retire) := by
      show execGtrig s = _
      simp only [execGtrig, task, first, Bool.false_eq_true, if_false]
    refine ⟨fun out => ?_, fun arrived => ?_⟩
    · rw [step, if_pos out]
    · rw [arrived, if_neg Bool.false_ne_true] at step
      have rest := s.perform_hidden (s.ownWrites s.agent) (.within .fld s.agent)
      have cores := s.perform_cores (s.ownWrites s.agent) (.within .fld s.agent)
      have cur := s.perform_cur (s.ownWrites s.agent) (.within .fld s.agent)
      have seen := fun h => s.ownWrites_seen s.agent (.within .fld s.agent) (h := h)
      generalize s.perform (s.ownWrites s.agent) (.within .fld s.agent) = u at step rest cores cur seen
      have unet : u.net = s.net := (congrArg State.net rest :)
      have uid : u.nextId = s.nextId := (congrArg State.nextId rest :)
      rw [cur, uid] at step
      refine ⟨_, step, ?_, ?_, (congrArg State.mem rest :), fun h mem own ag within => ?_⟩
      · exact ((SlotIs.refl s).of_cores (u := u.post (.core s.cur.core) false (.trigger tk true false)) cores).modSlot cur _
      · show u.net ++ [⟨u.nextId, .core s.cur.core, false, false, .trigger tk true false⟩] = _
        rw [unet, uid]
      · refine sees_of_within (seen h mem own) ((inScope_of_rest ?_ .fld s.agent ag).trans within)
        exact (congrArg (fun x : State => { x with cores := s.cores, net := s.net, nextId := s.nextId }) rest :)
  · have step : exec (.glaunchAnswer m) s = .next ((s.dropMsg m).answer d j w fun w => match w with
        | .glaunch rd => some rd
        | _ => none) := by
      show execGlaunchAnswer m s = _
      simp only [execGlaunchAnswer, msg, body] <;> rfl
    obtain ⟨here, others, rest⟩ := (s.dropMsg m).answer_spec (v := w) (waits := fun w => match w with
      | .glaunch rd => some rd
      | _ => none) low (by rw [State.slotOf_dropMsg, wait])
    exact ⟨_, step, here, others, (congrArg State.net rest :), (congrArg (fun x : State => { x with net := s.net }) rest :)⟩
  · have step : exec (.gstatAnswer m) s = .next ((s.dropMsg m).answer d j w fun w => match w with
        | .gstat rd => some rd
        | _ => none) := by
      show execGstatAnswer m s = _
      simp only [execGstatAnswer, msg, body] <;> rfl
    obtain ⟨here, others, rest⟩ := (s.dropMsg m).answer_spec (v := w) (waits := fun w => match w with
      | .gstat rd => some rd
      | _ => none) low (by rw [State.slotOf_dropMsg, wait])
    exact ⟨_, step, here, others, (congrArg State.net rest :), (congrArg (fun x : State => { x with net := s.net }) rest :)⟩
  · have step : exec (.gstatRequest m) s = .next ((s.dropMsg m).post (.reeve (nodeField a)) false (.gstatAns d j (gstatWord s a))) := by
      show execGstatRequest m s = _
      simp only [execGstatRequest, msg, body]
    refine ⟨_, gstatWord s a, step, rfl, rfl, ?_⟩
    unfold gstatWord liveNode
    cases s.node (nodeField a) (nodeSlot a) with
    | none => rfl
    | some u =>
      obtain ⟨pending, trig, cpend, used, limit, retired, surplus, commit, trigd, typ, zero, state⟩ := status_fields (BitVec.ofNat 16 u.pending)
        (BitVec.ofNat 16 u.trig) (BitVec.ofNat 8 (min ((graphNodes s (nodeField a) u.graph).filter fun p => p.2.state == .cancelPending).length 255))
        (BitVec.ofNat 4 u.used) (BitVec.ofNat 4 u.limit) u.retired u.surplus u.commit u.trigd (BitVec.ofNat 4 u.typ) (BitVec.ofNat 4 u.state.code)
      refine ⟨pending, trig, ?_, used, limit, retired, surplus, commit, trigd, typ, zero, ?_⟩
      · rw [show ((s.field (nodeField a)).nodes.filter fun p => p.2.graph == u.graph && p.2.state == .cancelPending) =
          (graphNodes s (nodeField a) u.graph).filter fun p => p.2.state == .cancelPending by
            rw [graphNodes, List.filter_filter]; exact List.filter_congr fun _ _ => Bool.and_comm _ _]
        exact cpend
      · refine state.trans ?_
        cases u.state <;> rfl

end Sys2Proof.Machine
end

section
/-!
PROOFS. Headers as the fabric delivers them (R51), and numbers in host memory (R312).
-/
namespace Sys2Proof.Machine

/-! ### Bits of a concatenation -/

theorem extract_append_high {a b : Nat} (x : BitVec a) (y : BitVec b) {lo n : Nat} (h : b ≤ lo) :
    (x ++ y).extractLsb' lo n = x.extractLsb' (lo - b) n := BitVec.extractLsb'_append_eq_of_le h

theorem extract_append_low {a b : Nat} (x : BitVec a) (y : BitVec b) {lo n : Nat} (h : lo + n ≤ b) :
    (x ++ y).extractLsb' lo n = y.extractLsb' lo n := BitVec.extractLsb'_append_eq_of_add_le h

/-- The fields of a delivered header (R51). -/
theorem delivered_fields (hdr : Word) (sender : Nat) (cls : BitVec 2) (n : Nat) :
    let h := delivered hdr sender cls n
    h.extractLsb' 32 32 = hdr.extractLsb' 32 32 ∧ h.extractLsb' 15 17 = BitVec.ofNat 17 sender ∧
    h.extractLsb' 8 7 = hdr.extractLsb' 8 7 ∧ h.extractLsb' 6 2 = cls := by
  simp only [delivered]
  generalize hdr.extractLsb' 32 32 = label
  generalize hdr.extractLsb' 8 7 = dest
  have high := @extract_append_high
  have low := @extract_append_low
  simp [high, low]

/-- The priority is the low bit of the field that a delivery keeps. -/
theorem hdrPrio_eq (h : Word) : hdrPrio h = (h.extractLsb' 8 7).getLsbD 0 := by
  simp [hdrPrio]

/-- The priority, the operation word and the class of a message from a post (R311). -/
theorem postHdr_fields (b : QBinding) (ch : Nat) (w : Word) (n : Nat) :
    let h := postHdr b ch w n
    h.extractLsb' 32 32 = w.extractLsb' 32 32 ∧ h.extractLsb' 15 17 = BitVec.ofNat 17 (0x10000 + b.localIdx) ∧
    hdrPrio h = w.getLsbD 8 ∧ h.extractLsb' 6 2 = 2 := by
  obtain ⟨label, sender, dest, cls⟩ := delivered_fields
    (w.extractLsb' 32 32 ++ BitVec.ofNat 17 0 ++ BitVec.ofNat 6 ch ++ w.extractLsb' 8 1 ++ 0#8) (queueHandle b) 2 n
  refine ⟨label.trans ?_, sender, ?_, cls⟩
  · generalize w.extractLsb' 32 32 = l
    have high := @extract_append_high
    simp [high]
  · rw [hdrPrio_eq, postHdr, dest]
    have high := @extract_append_high
    have low := @extract_append_low
    simp only [BitVec.getLsbD_eq_extractLsb']
    generalize w.extractLsb' 32 32 = l
    simp [high, low]

/-! ### Numbers in memory -/

/-- A number in host memory, as its bytes stand one after another. -/
theorem hostNat_eq (s : State) (a : Nat) :
    hostNat s a 8 = natOfBytes ((List.range 8).map fun j => s.byte (Place.host.key (a + j))) := by
  simp only [hostNat, span, hostKey, Place.key, List.map_map]
  refine congrArg natOfBytes (List.map_congr_left fun j _ => ?_)
  rw [Function.comp_apply, Nat.add_assoc]

theorem cellsOf_cellsAt (key : Nat) (bs : List Byte) : CellsOf (cellsAt key bs) (· < bs.length) (key + ·) fun j => bs.getD j 0 := by
  have row : cellsAt key bs = gridRow bs.length (key + ·) fun j => bs.getD j 0 := by
    have same : (List.range bs.length).map (fun j => bs.getD j 0) = bs := List.ext_getElem (by simp) fun i hi hi' => by
      rw [List.getElem_map, List.getElem_range, List.getD_eq_getElem bs 0 hi']
    rw [cellsAt, span, gridRow]
    conv_lhs => rw [← same]
    rw [List.length_map, List.length_range, List.zip_map']
  intro c
  rw [row, mem_gridRow]

/-- Bytes that are written one after another stand there, and nothing else has changed. -/
theorem State.byte_setCells_cellsAt (s : State) (key : Nat) (bs : List Byte) :
    (∀ x, (∀ j, j < bs.length → x ≠ key + j) → (s.setCells (cellsAt key bs)).byte x = s.byte x) ∧
    ∀ j, j < bs.length → (s.setCells (cellsAt key bs)).byte (key + j) = bs.getD j 0 :=
  s.byte_setCells_of_cellsOf (cellsOf_cellsAt key bs) fun _ _ _ _ e => Nat.add_left_cancel e

/-- A number of the bytes that have been written. -/
theorem State.hostNat_setCells_within (s : State) {base o : Nat} {bs : List Byte} (h : o + 8 ≤ bs.length) :
    hostNat (s.setCells (cellsAt (hostKey base) bs)) (base + o) 8 = natOfBytes ((bs.drop o).take 8) := by
  rw [hostNat_eq]
  refine congrArg natOfBytes (List.ext_getElem (by simp; omega) fun j hj hj' => ?_)
  have small : j < 8 := by simpa using hj
  have key : Place.host.key (base + o + j) = hostKey base + (o + j) := by simp only [hostKey, Place.key]; omega
  rw [List.getElem_map, List.getElem_range, key, (s.byte_setCells_cellsAt _ _).2 _ (by omega), List.getD_eq_getElem _ _ (by omega)]
  simp

/-- A number elsewhere stays. -/
theorem State.hostNat_setCells_apart (s : State) {base a : Nat} {bs : List Byte} (h : a + 8 ≤ base ∨ base + bs.length ≤ a) :
    hostNat (s.setCells (cellsAt (hostKey base) bs)) a 8 = hostNat s a 8 := by
  rw [hostNat_eq, hostNat_eq]
  refine congrArg natOfBytes (List.map_congr_left fun j hj => ?_)
  have small := List.mem_range.mp hj
  refine (s.byte_setCells_cellsAt _ _).1 _ fun i hi e => ?_
  simp only [hostKey, Place.key] at e
  omega

theorem length_bytesOf (n v : Nat) : (bytesOf n v).length = n := by rw [bytesOf_eq, List.length_map, List.length_range]

/-- The eight bytes of one of several words that are laid one after another. -/
theorem take_drop_words (ws : List Word) (i : Nat) (h : i < ws.length) :
    ((ws.flatMap fun w => bytesOf 8 w.toNat).drop (8 * i)).take 8 = bytesOf 8 (ws.getD i 0).toNat := by
  induction ws generalizing i with
  | nil => exact absurd h (Nat.not_lt_zero i)
  | cons w ws ih =>
    rw [List.flatMap_cons]
    cases i with
    | zero => simp [length_bytesOf]
    | succ i =>
      have len : 8 * (i + 1) = (bytesOf 8 w.toNat).length + 8 * i := by rw [length_bytesOf]; omega
      rw [len, List.drop_length_add_append, List.getD_cons_succ]
      exact ih i (Nat.lt_of_succ_lt_succ h)

/-- A header with its low bits replaced by a count below 8. -/
theorem toNat_withCount (h : Word) {n : Nat} (hn : n ≤ 7) : ((h &&& ~~~(7 : Word)) ||| BitVec.ofNat 64 n).toNat = h.toNat / 8 * 8 + n := by
  have split : (h &&& ~~~(7 : Word)) ||| BitVec.ofNat 64 n = h.extractLsb' 3 61 ++ BitVec.ofNat 3 n := by
    refine BitVec.eq_of_getLsbD_eq fun i hi => ?_
    have seven : (7 : Word).getLsbD i = decide (i < 3) := by
      show Nat.testBit (2 ^ 3 - 1) i = _
      exact Nat.testBit_two_pow_sub_one 3 i
    simp only [BitVec.getLsbD_or, BitVec.getLsbD_and, BitVec.getLsbD_not, BitVec.getLsbD_append, BitVec.getLsbD_extractLsb',
      BitVec.getLsbD_ofNat, seven, hi, decide_true, Bool.true_and]
    by_cases low : i < 3
    · simp [low]
    · have none : n.testBit i = false := Nat.testBit_lt_two_pow (Nat.lt_of_lt_of_le (by omega : n < 2 ^ 3) (Nat.pow_le_pow_right (by decide) (by omega)))
      rw [none]
      simp [low, show i - 3 < 61 by omega, show 3 + (i - 3) = i by omega]
  rw [split, BitVec.toNat_append, toNat_extractLsb', BitVec.toNat_ofNat, Nat.mod_eq_of_lt (show n < 2 ^ 3 by omega),
    ← Nat.shiftLeft_add_eq_or_of_lt (show n < 2 ^ 3 by omega), Nat.shiftLeft_eq]
  have bound := h.isLt
  omega

/-- The slot of a reply ring holds the header with its count, and then the payload (R312). -/
theorem replySlot_words (h : Word) (ws : List Word) : (replySlot h ws).length = 64 ∧ ∀ i, i < 8 →
    natOfBytes (((replySlot h ws).drop (8 * i)).take 8) =
      ((((h &&& ~~~(7 : Word)) ||| BitVec.ofNat 64 ws.length) :: sevenWords ws).getD i 0).toNat := by
  have len : (((h &&& ~~~(7 : Word)) ||| BitVec.ofNat 64 ws.length) :: sevenWords ws).length = 8 := by simp [sevenWords]
  refine ⟨?_, fun i hi => ?_⟩
  · simp [replySlot, List.length_flatMap, length_bytesOf, sevenWords, Function.comp_def]
  · rw [replySlot, take_drop_words _ i (by rw [len]; exact hi), natOfBytes_bytesOf]
    exact Nat.mod_eq_of_lt (BitVec.isLt _)

theorem sevenWords_getD (ws : List Word) {j : Nat} (h : j < 7) : (sevenWords ws).getD j 0 = ws.getD j 0 := by
  rw [sevenWords, List.getD_eq_getElem _ _ (by simpa using h), List.getElem_map, List.getElem_range]

end Sys2Proof.Machine
end

section
/-!
PROOFS. Work queues (R311, R312): binding, posts, their delivery to the target, and replies.
-/
namespace Sys2Proof.Machine

theorem State.queue_modQueue (s : State) (n j : Nat) (f : QueueSt → QueueSt) :
    (s.modQueue n f).queue j = if j = n then f (s.queue n) else s.queue j := s.queues.getD_put n j _ _

/-- A change of a queue is one of that queue alone. -/
theorem State.queued_modQueue (s : State) (n : Nat) (f : QueueSt → QueueSt) :
    (s.modQueue n f).queue n = f (s.queue n) ∧ ∀ j, j ≠ n → (s.modQueue n f).queue j = s.queue j :=
  ⟨(s.queue_modQueue n n f).trans (if_pos rfl), fun j other => (s.queue_modQueue n j f).trans (if_neg other)⟩

/-- An entry of a table that is found is in it. -/
theorem AMap.mem_of_get? {α : Type} {m : AMap α} {n : Nat} {v : α} (h : m.get? n = some v) : (n, v) ∈ m := by
  induction m with
  | nil => cases h
  | cons p m ih =>
    obtain ⟨k, w⟩ := p
    rw [AMap.get?] at h
    split at h
    · rename_i same
      cases h; subst same
      exact List.mem_cons_self
    · exact List.mem_cons_of_mem _ (ih h)

/-- A core that holds rewards is one of those that the machine lists. -/
theorem State.core_listed {s : State} {c : Nat} (h : (s.core c).rewards ≠ []) : (c, s.core c) ∈ s.cores := by
  unfold State.core at h ⊢
  cases listed : s.cores.get? c with
  | none => exact absurd (by rw [AMap.getD, listed]; rfl) h
  | some co => rw [AMap.getD, listed]; exact AMap.mem_of_get? listed

/-- A full channel 63 of its partition keeps a reward back (R266). -/
theorem targetTakes_reward_full {s : State} {part c : Nat} (here : corePart s c = some part) (full : 4 ≤ (s.core c).rewards.length) :
    targetTakes s part .reward = false := by
  have listed : (c, s.core c) ∈ s.cores := s.core_listed fun none => by rw [none] at full; exact absurd full (by decide)
  show (!s.cores.any fun p => corePart s p.1 == some part && decide (4 ≤ p.2.rewards.length)) = false
  rw [Bool.not_eq_false', List.any_eq_true]
  exact ⟨_, listed, by simp [here, full]⟩

/-- The delivery of a post (R311). -/
theorem exec_queuePostDelivery {s : State} {n : Nat} {b : QBinding} (bound : (s.queue n).bind = some b) :
    (targetTakes s b.part b.target = false → exec (.queuePostDelivery n) s = .next s) ∧
    ∀ p rest, (s.queue n).posts = p :: rest → partRuns s b.part = true → targetTakes s b.part b.target = true →
      exec (.queuePostDelivery n) s = .next (s.sendPost n b p) := by
  have step : exec (.queuePostDelivery n) s = execQueuePostDelivery n s := rfl
  rw [step, execQueuePostDelivery, bound]
  refine ⟨fun refuses => ?_, fun p rest posts runs takes => ?_⟩
  · cases (s.queue n).posts with
    | nil => rfl
    | cons p rest => simp only [refuses, Bool.false_and, Bool.false_eq_true, if_false]
  · rw [posts]
    simp only [takes, runs, Bool.and_true, if_true]

/-- What is left of a queue when its oldest post has gone, and nothing else but cores has changed (R311). -/
structure PostGone (s t : State) (n : Nat) (rest : List (List Byte)) : Prop where
  queues : t.queue n = { s.queue n with posts := rest } ∧ ∀ j, j ≠ n → t.queue j = s.queue j
  mem : t.mem = s.mem
  slots : ∀ d k, t.slotOf d k = s.slotOf d k
  net : t.net = s.net
  nextId : t.nextId = s.nextId

theorem State.postGone_modQueue {s : State} {n : Nat} {p : List Byte} {rest : List (List Byte)} (posts : (s.queue n).posts = p :: rest) :
    PostGone s (s.modQueue n fun q => { q with posts := q.posts.drop 1 }) n rest := by
  obtain ⟨here, others⟩ := s.queued_modQueue n fun q => { q with posts := q.posts.drop 1 }
  exact ⟨⟨by rw [here, posts]; rfl, others⟩, rfl, fun _ _ => rfl, rfl, rfl⟩

theorem PostGone.modChan {s t : State} {n : Nat} {rest : List (List Byte)} (h : PostGone s t n rest) (c ch : Nat) (f : Chan → Chan) :
    PostGone s (t.modChan c ch f) n rest :=
  ⟨h.queues, h.mem, fun d k => (t.slotOf_modChan c ch f d k).trans (h.slots d k), h.net, h.nextId⟩

theorem PostGone.modChanIf {s t : State} {n : Nat} {rest : List (List Byte)} (h : PostGone s t n rest) (rel : Bool) (c ch : Nat) (f : Chan → Chan) :
    PostGone s (if rel then t.modChan c ch f else t) n rest := by
  cases rel
  · exact h
  · exact h.modChan c ch f

/-- A post leaves as a message, or as none. -/
theorem PostGone.leaves {s t u : State} {n : Nat} {rest : List (List Byte)} (h : PostGone s t n rest) (body : Option Body)
    (step : u = (body.map fun x => t.post (.queue n) false x).getD t) :
    (u.queue n = { s.queue n with posts := rest } ∧ ∀ j, j ≠ n → u.queue j = s.queue j) ∧ u.mem = s.mem ∧
      (∀ d k, u.slotOf d k = s.slotOf d k) ∧ u.net = s.net ++ body.toList.map fun x => ⟨s.nextId, .queue n, false, false, x⟩ := by
  subst step
  cases body with
  | none => exact ⟨h.queues, h.mem, h.slots, h.net.trans (List.append_nil _).symm⟩
  | some x =>
    refine ⟨h.queues, h.mem, h.slots, ?_⟩
    show t.net ++ [⟨t.nextId, .queue n, false, false, x⟩] = _
    rw [h.net, h.nextId]; rfl

/-- A post for a channel leaves as one message, with room kept for it where the channel is reliable (R54, R311). -/
theorem State.sendPost_chan {s : State} {n : Nat} {b : QBinding} {p : List Byte} {rest : List (List Byte)} {c ch : Nat}
    (posts : (s.queue n).posts = p :: rest) (target : b.target = .chan c ch) :
    let len := ((postWord p 0).extractLsb' 0 3).toNat
    ∃ u, PostGone s u n rest ∧ s.sendPost n b p = u.post (.queue n) false (.chan c ch (postHdr b ch (postWord p 0) len)
      ((List.range len).map fun i => postWord p (i + 1)) none) := by
  have gone := State.postGone_modQueue posts
  unfold State.sendPost
  rw [target]
  dsimp only
  generalize (s.modQueue n fun q => { q with posts := q.posts.drop 1 }) = v at gone
  exact ⟨_, gone.modChanIf _ c ch _, rfl⟩

/-- The three low bits of a word. -/
theorem low_three (w : Word) : (w.extractLsb' 0 3).toNat = (w &&& 7).toNat := by
  rw [toNat_extractLsb', BitVec.toNat_and, show (7 : Word).toNat = 2 ^ 3 - 1 from rfl, Nat.and_two_pow_sub_one_eq_mod]
  simp

/-- The bytes of a reply, and then the count of its ring, are written (R312). -/
def State.replyWritten (s : State) (slot count : Nat) (h : Word) (ws : List Word) : State :=
  let u := s.setCells (cellsAt (hostKey slot) (replySlot h ws))
  u.setCells (cellsAt (hostKey count) (bytesOf 8 (hostNat u count 8 + 1)))

theorem State.net_replyWritten (s : State) (slot count : Nat) (h : Word) (ws : List Word) : (s.replyWritten slot count h ws).net = s.net := by
  rw [State.replyWritten, State.setCells_net, State.setCells_net]

theorem State.nextId_replyWritten (s : State) (slot count : Nat) (h : Word) (ws : List Word) :
    (s.replyWritten slot count h ws).nextId = s.nextId := by
  rw [State.replyWritten, State.setCells_nextId, State.setCells_nextId]

theorem State.queue_replyWritten (s : State) (slot count : Nat) (h : Word) (ws : List Word) (n : Nat) :
    (s.replyWritten slot count h ws).queue n = s.queue n := by
  rw [State.queue, State.replyWritten, State.setCells_queues, State.setCells_queues]; rfl

/-- The slot of the reply ring and the count, after a reply (R312). -/
theorem State.bytes_replyWritten (s : State) (h : Word) (ws : List Word) {slot count : Nat} (few : ws.length ≤ 7)
    (apart : slot + 64 ≤ count ∨ count + 8 ≤ slot) :
    let t := s.replyWritten slot count h ws
    hostNat t slot 8 = h.toNat / 8 * 8 + ws.length ∧ (∀ j, j < 7 → hostNat t (slot + 8 + 8 * j) 8 = (ws.getD j 0).toNat) ∧
    hostNat t count 8 = (hostNat s count 8 + 1) % 2 ^ 64 ∧
    ∀ y, (∀ j, j < 64 → y ≠ Place.host.key (slot + j)) → (∀ j, j < 8 → y ≠ Place.host.key (count + j)) → t.byte y = s.byte y := by
  obtain ⟨len, words⟩ := replySlot_words h ws
  simp only [State.replyWritten]
  have slotNat := fun i hi => s.hostNat_setCells_within (base := slot) (o := 8 * i) (bs := replySlot h ws) hi
  have countNat : hostNat (s.setCells (cellsAt (hostKey slot) (replySlot h ws))) count 8 = hostNat s count 8 :=
    s.hostNat_setCells_apart (by rw [len]; omega)
  have away := (s.byte_setCells_cellsAt (hostKey slot) (replySlot h ws)).1
  generalize s.setCells (cellsAt (hostKey slot) (replySlot h ws)) = u at slotNat countNat away ⊢
  have word : ∀ i, i < 8 → hostNat (u.setCells (cellsAt (hostKey count) (bytesOf 8 (hostNat u count 8 + 1)))) (slot + 8 * i) 8 =
      ((((h &&& ~~~(7 : Word)) ||| BitVec.ofNat 64 ws.length) :: sevenWords ws).getD i 0).toNat := fun i hi => by
    rw [u.hostNat_setCells_apart (by rw [length_bytesOf]; omega), slotNat i (by rw [len]; omega), words i hi]
  refine ⟨?_, fun j hj => ?_, ?_, fun y slotApart countApart => ?_⟩
  · exact (word 0 (by decide)).trans (toNat_withCount h few)
  · rw [show slot + 8 + 8 * j = slot + 8 * (j + 1) by omega, word (j + 1) (by omega), List.getD_cons_succ, sevenWords_getD ws hj]
  · refine (u.hostNat_setCells_within (base := count) (o := 0) (by rw [length_bytesOf])).trans ?_
    rw [List.drop_zero, List.take_of_length_le (by rw [length_bytesOf]), natOfBytes_bytesOf, countNat]
    norm_num
  · have key : ∀ a j, Place.host.key (a + j) = hostKey a + j := fun a j => by simp only [hostKey, Place.key]; omega
    refine ((u.byte_setCells_cellsAt _ _).1 y fun j hj => ?_).trans (away y fun j hj => ?_)
    · rw [← key]; exact countApart j (by rw [length_bytesOf] at hj; exact hj)
    · rw [← key]; exact slotApart j (by rw [len] at hj; exact hj)

/-- Settles O56: a binding, a post and a reply are changes of their queue, and a delivery is one message at most. -/
theorem workQueuesCarryPostsAndReplies : Obligations.WorkQueuesCarryPostsAndReplies := by
  intro s n addr b bytes rest q w queued
  refine ⟨?_, fun low fresh bound here => ?_, fun low bad here => ?_, fun bound => ⟨fun c ch r target rec rel full => ?_,
    fun c target part full => ?_⟩, fun bound posts runs takes => ?_, fun m x part i h ws msg body found few => ?_⟩
  · have step : exec (.queueBind n b) s = .next (s.tryBind n b) := rfl
    rw [step, State.tryBind]
    cases bindOk s n b with
    | true => exact ⟨_, rfl, s.queued_modQueue n fun _ => { QueueSt.reset with bind := some b }, rfl, rfl⟩
    | false => rfl
  · intro good
    have step : exec (.hostPost addr bytes) s = .next (if good then s.modQueue n fun q =>
        { q with posts := q.posts ++ [bytes], acc := q.acc + 1, since := (s.field (targetField s b)).time.toNat }
        else s.modQueue n QueueSt.discard) := by
      show execHostPost addr bytes s = _
      have fresh : (s.queue n).wasReset = false := fresh
      have bound : (s.queue n).bind = some b := bound
      simp only [execHostPost, here, if_neg (show ¬queueCount ≤ n from Nat.not_le.mpr low), fresh, bound, Bool.false_eq_true, if_false]
      rfl
    refine ⟨fun ok => ?_, fun bad => ?_⟩
    · rw [if_pos ok] at step
      exact ⟨_, step, rfl, s.queued_modQueue n _⟩
    · rw [if_neg bad] at step
      exact ⟨_, step, rfl, s.queued_modQueue n _⟩
  · have step : exec (.hostPost addr bytes) s = .next (s.modQueue n QueueSt.discard) := by
      show execHostPost addr bytes s = _
      simp only [execHostPost, here, if_neg (show ¬queueCount ≤ n from Nat.not_le.mpr low)]
      rcases bad with reset | unbound
      · simp only [show (s.queue n).wasReset = true from reset, if_true]
      · simp only [show (s.queue n).bind = none from unbound, ite_self]
    exact ⟨_, step, rfl, s.queued_modQueue n _⟩
  · refine (exec_queuePostDelivery bound).1 ?_
    rw [target]
    simp only [targetTakes, rec, rel, full, Bool.not_true, Bool.or_false]
  · refine (exec_queuePostDelivery bound).1 ?_
    rw [target]
    exact targetTakes_reward_full part full
  · intro leaves
    have step := (exec_queuePostDelivery bound).2 bytes rest posts runs takes
    have gone := State.postGone_modQueue posts
    refine ⟨fun c ch target => ?_, fun id target => ?_, fun target => ?_⟩
    · obtain ⟨label, sender, prio, cls⟩ := postHdr_fields b ch (postWord bytes 0) ((postWord bytes 0).extractLsb' 0 3).toNat
      obtain ⟨u, gone, sent⟩ := State.sendPost_chan posts target
      refine ⟨_, ⟨_, step, gone.leaves (some _) (sent.trans ?_)⟩, label, sender, prio, cls⟩
      rw [low_three]; rfl
    · rw [State.sendPost, target] at step
      have none : ((postWord bytes 0).extractLsb' 0 16).toNat = 0 ↔ (w 0).extractLsb' 0 16 = 0 := by
        rw [← BitVec.toNat_inj]; rfl
      refine ⟨_, step, gone.leaves _ ?_⟩
      by_cases empty : (w 0).extractLsb' 0 16 = 0
      · rw [if_pos empty]; exact if_pos (none.mpr empty)
      · rw [if_neg empty]; exact if_neg fun e => empty (none.mp e)
    · rw [State.sendPost, target] at step
      refine ⟨_, step, gone.leaves (some _) ?_⟩
      rw [← BitVec.setWidth_eq_extractLsb' (by decide)]
      rfl
  · intro slot num apart
    have step : exec (.replyRingWrite m) s = .next (((s.replyWritten slot b.countAddr h ws).modQueue n fun q =>
        { q with ringPos := (s.queue n).ringPos + 1 }).finishMsg x (.queue n)) := by
      show execReplyRingWrite m s = _
      simp only [execReplyRingWrite, msg, body, found]
      rfl
    obtain ⟨header, payload, count, others⟩ := s.bytes_replyWritten h ws few apart
    have net := s.net_replyWritten slot b.countAddr h ws
    have nextId := s.nextId_replyWritten slot b.countAddr h ws
    have queue := s.queue_replyWritten slot b.countAddr h ws
    generalize s.replyWritten slot b.countAddr h ws = v at step header payload count others net nextId queue
    obtain ⟨here, away⟩ := v.queued_modQueue n fun q => { q with ringPos := (s.queue n).ringPos + 1 }
    have number : ∀ a, num ((v.modQueue n fun q => { q with ringPos := (s.queue n).ringPos + 1 }).finishMsg x (.queue n)) a = hostNat v a 8 :=
      fun a => by
        rw [hostNat_eq]
        exact congrArg natOfBytes (List.map_congr_left fun j _ => State.byte_finishMsg _ _ _ _)
    refine ⟨_, step, ⟨?_, fun j other => ?_⟩, ?_, ?_, fun j hj => ?_, ?_, fun y slotApart countApart => ?_⟩
    · rw [State.queue_finishMsg, here, queue]
    · rw [State.queue_finishMsg, away j other, queue]
    · obtain ⟨gone, -⟩ := (v.modQueue n fun q => { q with ringPos := (s.queue n).ringPos + 1 }).finishMsg_spec x (.queue n)
      obtain rfl := State.msg?_id msg
      rw [gone, State.modQueue_net, State.modQueue_nextId, net, nextId]
      rfl
    · rw [number]; exact header
    · rw [number]; exact payload j hj
    · rw [number, count, hostNat_eq]
    · rw [State.byte_finishMsg]; exact others y slotApart countApart

end Sys2Proof.Machine
end

section
/-!
PROOFS. The host's windows (R309, R310): which bytes an access names, and what a write and a read leave.
-/
namespace Sys2Proof.Machine

/-! ### The bytes that an access names -/

theorem mapM_option_mem {α β : Type} {f : α → Option β} {l : List α} {ys : List β} (h : l.mapM f = some ys) :
    ys.length = l.length ∧ ∀ y ∈ ys, ∃ x ∈ l, f x = some y := by
  induction l generalizing ys with
  | nil => cases h; exact ⟨rfl, fun _ h => absurd h List.not_mem_nil⟩
  | cons x l ih =>
    rw [List.mapM_cons] at h
    obtain ⟨y, hy, h⟩ := Option.bind_eq_some_iff.mp h
    obtain ⟨zs, hzs, h⟩ := Option.bind_eq_some_iff.mp h
    obtain rfl := Option.some.inj h
    obtain ⟨len, mem⟩ := ih hzs
    refine ⟨by rw [List.length_cons, List.length_cons, len], fun z hz => ?_⟩
    rcases List.mem_cons.mp hz with rfl | hz
    · exact ⟨x, List.mem_cons_self, hy⟩
    · obtain ⟨w, hw, e⟩ := mem z hz
      exact ⟨w, List.mem_cons_of_mem _ hw, e⟩

theorem length_hostKeys {s : State} {part va n : Nat} {write : Bool} {ks : List (Option Nat)} (h : hostKeys s part write va n = some ks) :
    ks.length = n := by
  rw [(mapM_option_mem h).1, span, List.length_map, List.length_range]

/-- A write that is permitted names a key for each of its bytes: no byte of a discarded page is written (R309). -/
theorem hostKeys_write {s : State} {part va n : Nat} {ks : List (Option Nat)} (h : hostKeys s part true va n = some ks) :
    ks = (realKeys ks).map some := by
  have all : ∀ k ∈ ks, k ≠ none := by
    rintro _ hk rfl
    obtain ⟨a, -, e⟩ := (mapM_option_mem h).2 none hk
    simp only [if_true] at e
    split at e
    · obtain ⟨l, -, e⟩ := Option.bind_eq_some_iff.mp e
      split at e
      · cases e
      · split at e <;> cases e
    · cases e
  clear h
  induction ks with
  | nil => rfl
  | cons k ks ih =>
    obtain ⟨a, rfl⟩ := Option.ne_none_iff_exists'.mp (all k List.mem_cons_self)
    exact congrArg (some a :: ·) (ih fun x hx => all x (List.mem_cons_of_mem _ hx))

/-! ### A write -/

theorem State.byte_perform (s : State) (ids : List Nat) (v : View) (a : Nat) : (s.perform ids v).byte a = s.byte a :=
  sameBytes_of_mem (s.perform_mem ids v) (s.perform_lost ids v) a

/-- A write of the mailbox engine is one of memory: its bytes stand at their keys, and no other byte has changed (R310). -/
theorem State.byte_hostWrite (s : State) (part : Nat) {ks : List (Option Nat)} {bs : List Byte} (len : (realKeys ks).length = bs.length)
    (apart : (realKeys ks).Nodup) :
    (∀ j k : Nat, (realKeys ks)[j]? = some k → bs[j]? = some ((s.hostWrite part ks bs).byte k)) ∧
    ∀ k, k ∉ realKeys ks → (s.hostWrite part ks bs).byte k = s.byte k := by
  have keys : ((realKeys ks).zip bs).map Prod.fst = realKeys ks := List.map_fst_zip (Nat.le_of_eq len)
  refine ⟨fun j k here => ?_, fun k other => ?_⟩
  · obtain ⟨hj, rfl⟩ := List.getElem?_eq_some_iff.mp here
    have mem : ((realKeys ks)[j], bs[j]) ∈ (realKeys ks).zip bs := List.mem_iff_getElem.mpr ⟨j, by simp; omega, by simp⟩
    rw [State.hostWrite, State.byte_perform, s.byte_writeCells_mem _ _ _ _ (by rw [keys]; exact apart) mem]
    exact List.getElem?_eq_getElem _
  · rw [State.hostWrite, State.byte_perform, s.byte_writeCells_ne _ _ _ (by rw [keys]; exact other)]

/-- A write leaves all but memory, what is hidden of it, and the reservations and errors at its keys. -/
theorem State.hostWrite_rest (s : State) (part : Nat) (ks : List (Option Nat)) (bs : List Byte) :
    { s.hostWrite part ks bs with mem := s.mem, hidden := s.hidden, nextId := s.nextId, resv := s.resv, bad := s.bad } = s := by
  have write : ∀ cs, { s.writeCells (.host part) cs with mem := s.mem, hidden := s.hidden, nextId := s.nextId, resv := s.resv, bad := s.bad } = s :=
    fun cs => by unfold State.writeCells; split <;> rfl
  rw [State.hostWrite]
  have seen := (s.writeCells (.host part) ((realKeys ks).zip bs)).perform_hidden ((s.writeCells (.host part) ((realKeys ks).zip bs)).ownWrites (.host part))
    (.within .part (.host part))
  exact (congrArg (fun u : State => { u with mem := s.mem, hidden := s.hidden, nextId := s.nextId, resv := s.resv, bad := s.bad }) seen).trans (write _)

/-! ### A read -/

/-- The bytes of a read are those that the mailbox engine sees, zero for a discarded page. -/
theorem State.readRes_eq (s : State) (ag : Agent) (ks : List (Option Nat)) :
    s.readRes ag ks = ks.map fun k => (k.map (s.readByte ag)).getD 0 :=
  List.map_congr_left fun k _ => by cases k <;> rfl

theorem State.badRead_none {s : State} (h : s.bad = []) (ag : Agent) (keys : List Nat) : s.badRead ag keys = none := by
  rw [State.badRead, h]; rfl

theorem State.badPart_none {s : State} (h : s.bad = []) (ag : Agent) (keys : List Nat) : s.badPart ag keys = none := by
  rw [State.badPart, h]; rfl

end Sys2Proof.Machine
end

section
/-!
PROOFS. The copy service (R313), peer messages (R314) and static routes (R297, R298).
-/
namespace Sys2Proof.Machine

/-! ### Copies -/

theorem nodeIdOk_of_parts {s t : State} (h : t.parts = s.parts) (part : Option Nat) (id : Nat) : nodeIdOk t part id = nodeIdOk s part id := by
  unfold nodeIdOk fieldPart
  rw [h]

/-- What moving a copy's bytes leaves of the machine but for memory, its hidden writes, and what the controller is told. -/
structure CopyKept (s t : State) : Prop where
  cores : t.cores = s.cores
  parts : t.parts = s.parts
  copies : t.copies = s.copies
  net : t.net = s.net

theorem CopyKept.refl (s : State) : CopyKept s s := ⟨rfl, rfl, rfl, rfl⟩

theorem CopyKept.trans {s t u : State} (h : CopyKept s t) (g : CopyKept t u) : CopyKept s u :=
  ⟨g.cores.trans h.cores, g.parts.trans h.parts, g.copies.trans h.copies, g.net.trans h.net⟩

theorem State.copyKept_noteRead (s : State) (ag : Agent) (keys : List Nat) : CopyKept s (s.noteRead ag keys) := by
  have rest := s.noteRead_hidden ag keys
  exact ⟨(congrArg State.cores rest :), (congrArg State.parts rest :), (congrArg State.copies rest :), (congrArg State.net rest :)⟩

theorem State.copyKept_hostWrite (s : State) (part : Nat) (ks : List (Option Nat)) (bs : List Byte) : CopyKept s (s.hostWrite part ks bs) := by
  have rest := s.hostWrite_rest part ks bs
  exact ⟨(congrArg State.cores rest :), (congrArg State.parts rest :), (congrArg State.copies rest :), (congrArg State.net rest :)⟩

theorem State.copyKept_setCells (s : State) (cs : List (Nat × Byte)) : CopyKept s (s.setCells cs) := ⟨rfl, rfl, rfl, rfl⟩

/-- A copy that has begun, without its entry in the list of copies. -/
def State.copyTaken (s : State) (k : Nat) : State := { s with copies := s.copies.del k }

theorem State.readByte_copyTaken (s : State) (k : Nat) (ag : Agent) : (s.copyTaken k).readByte ag = s.readByte ag := by
  have laid : ∀ a hs b, overlay (s.copyTaken k) ag a hs b = overlay s ag a hs b := fun a hs => by
    induction hs with
    | nil => exact fun _ => rfl
    | cons g hs ih => exact fun b => by simp only [overlay, ih]; rfl
  funext a
  exact laid a s.hidden (s.byte a)

/-- The token and the completion message of a copy (R313). -/
def copyBodies (s : State) (o : CopyOp) (status : Nat) : List Body :=
  (if (o.w 4).setWidth 32 ≠ noTarget ∧ nodeIdOk s (some o.part) ((o.w 4).setWidth 32).toNat then
    [.token ((o.w 4).setWidth 32).toNat 1 none none (some o.core)] else []) ++
  if (o.w 5).getLsbD 63 then [] else [copyDoneBody o status]

/-- What a completed copy leaves: its entry gone, its messages under way, and all else as moving its bytes has left it (R313). -/
structure CopyDone (s u t : State) (k : Nat) (o : CopyOp) (status : Nat) : Prop where
  copies : t.copies = s.copies.del k
  slots : ∀ d j, t.slotOf d j = s.slotOf d j
  mem : t.mem = u.mem
  byte : ∀ a, t.byte a = u.byte a
  net : ∃ new, t.net = s.net ++ new ∧ (∀ y ∈ new, y.src = .copyService o.part) ∧ new.map Msg.body = copyBodies s o status

/-- Messages that leave one after another. -/
def State.postAll (s : State) (src : Src) (bodies : List Body) : State := bodies.foldl (fun s b => s.post src false b) s

theorem State.postAll_spec (src : Src) (bodies : List Body) (s : State) :
    let t := s.postAll src bodies
    { t with net := s.net, nextId := s.nextId } = s ∧ ∃ new, t.net = s.net ++ new ∧ (∀ y ∈ new, y.src = src) ∧ new.map Msg.body = bodies := by
  induction bodies generalizing s with
  | nil => exact ⟨rfl, [], (List.append_nil _).symm, fun _ h => absurd h List.not_mem_nil, rfl⟩
  | cons b bodies ih =>
    obtain ⟨rest, new, net, srcs, same⟩ := ih (s.post src false b)
    refine ⟨(congrArg (fun u : State => { u with net := s.net, nextId := s.nextId }) rest :), ⟨s.nextId, src, false, false, b⟩ :: new,
      net.trans (List.append_cons s.net _ new).symm, fun y hy => ?_, congrArg (b :: ·) same⟩
    rcases List.mem_cons.mp hy with rfl | hy
    · rfl
    · exact srcs y hy

/-- A copy completes once its bytes have been moved (R313). -/
theorem copyDone_of_move {s u : State} {k : Nat} {o : CopyOp} {status : Nat} (here : s.copies.get? k = some o)
    (moved : (s.copyTaken k).copyMove o = (u, status)) (kept : CopyKept (s.copyTaken k) u) :
    ∃ t, exec (.copyServiceComplete k) s = .next t ∧ CopyDone s u t k o status := by
  have step : exec (.copyServiceComplete k) s = .next (u.postAll (.copyService o.part) (copyBodies s o status)) := by
    show execCopyServiceComplete k s = _
    have moved : State.copyMove { s with copies := s.copies.del k } o = (u, status) := moved
    have ids : nodeIdOk u (some o.part) ((o.w 4).setWidth 32).toNat = nodeIdOk s (some o.part) ((o.w 4).setWidth 32).toNat :=
      nodeIdOk_of_parts kept.parts _ _
    simp only [execCopyServiceComplete, here, moved, ids, copyBodies]
    by_cases token : (o.w 4).setWidth 32 ≠ noTarget ∧ nodeIdOk s (some o.part) ((o.w 4).setWidth 32).toNat
    · rw [if_pos token, if_pos token]
      split <;> rfl
    · rw [if_neg token, if_neg token]
      split <;> rfl
  obtain ⟨rest, new, net, srcs, bodies⟩ := u.postAll_spec (.copyService o.part) (copyBodies s o status)
  generalize u.postAll (.copyService o.part) (copyBodies s o status) = t at step rest net
  refine ⟨t, step, (congrArg State.copies rest :).trans kept.copies, fun d j => ?_, (congrArg State.mem rest :),
    fun a => (congrArg (fun x : State => x.byte a) rest :), new, by rw [net, kept.net]; rfl, srcs, bodies⟩
  have cores : t.cores = s.cores := (congrArg State.cores rest :).trans kept.cores
  exact State.slotOf_of_cores cores d j

section
variable {s : State} {k : Nat} {o : CopyOp} (sound : s.bad = [])
include sound

/-- A copy of device bytes that are there gives them on. -/
theorem copyOutOf_there {ks : List (Option Nat)} (keys : hostKeys s o.part false o.dev o.len = some ks) (put : State → List Byte → State) :
    s.copyOutOf o put = (put (s.noteRead (.host o.part) (realKeys ks)) (s.readRes (.host o.part) ks), 1) := by
  simp only [State.copyOutOf, keys, s.badRead_none sound]

/-- A copy of host bytes into pages that are there writes them. -/
theorem copyInto_there {ks : List (Option Nat)} (keys : hostKeys s o.part true o.dev o.len = some ks) :
    s.copyInto o = (s.hostWrite o.part ks ((span (hostKey o.far) o.len).map s.byte), 1) := by
  simp only [State.copyInto, keys, s.badPart_none sound]

/-- A copy into a peer's partition changes no byte and ends with a status from 1 to 3 (R313). -/
theorem copyPeer_spec (peer : ((s.parts.get? o.part).bind fun p => p.endpoints.get? ((o.w 3).extractLsb' 0 16).toNat) ≠ none) :
    ∃ u st, s.copyPeer o = (u, st) ∧ 1 ≤ st ∧ st ≤ 3 ∧ u.mem = s.mem ∧ CopyKept s u := by
  obtain ⟨e, end_⟩ := Option.ne_none_iff_exists'.mp peer
  obtain ⟨p, part, ep⟩ := Option.bind_eq_some_iff.mp end_
  obtain ⟨v, kept, mem, none, put, putKept, putMem, st, low, high, step⟩ : ∃ v, CopyKept s v ∧ v.mem = s.mem ∧ v.bad = [] ∧
      ∃ put : State → List Byte → State, (∀ u bs, CopyKept u (put u bs)) ∧ (∀ u bs, (put u bs).mem = u.mem) ∧
      ∃ st, 1 ≤ st ∧ st ≤ 3 ∧
        s.copyPeer o = ((v.copyOutOf o put).1, if (v.copyOutOf o put).2 = 1 then st else (v.copyOutOf o put).2) := by
    refine ⟨{ s with free := s.free + 1 }, ⟨rfl, rfl, rfl, rfl⟩, rfl, sound, fun u bs =>
      if (Config.freeWord s.free).toNat % 3 + 1 = 1 then u.tell (.peerCopy e.port e.part o.far bs) else u, fun u bs => ?_, fun u bs => ?_,
      (Config.freeWord s.free).toNat % 3 + 1, by omega, by omega, ?_⟩
    · dsimp only; split <;> exact ⟨rfl, rfl, rfl, rfl⟩
    · dsimp only; split <;> rfl
    · simp only [State.copyPeer, part, ep]
  cases keys : hostKeys v o.part false o.dev o.len with
  | none =>
    have out : v.copyOutOf o put = (v, 3) := by simp only [State.copyOutOf, keys]
    rw [out] at step
    exact ⟨v, 3, step, by decide, by decide, mem, kept⟩
  | some ks =>
    rw [copyOutOf_there none keys put] at step
    have read : (v.noteRead (.host o.part) (realKeys ks)).mem = v.mem := (congrArg State.mem (v.noteRead_hidden _ _) :)
    exact ⟨_, st, step, low, high, (putMem _ _).trans (read.trans mem),
      (kept.trans (v.copyKept_noteRead _ _)).trans (putKept _ _)⟩

end

end Sys2Proof.Machine
end

section
/-!
PROOFS. Static routes (R297, R298), peer messages (R314) and what the host is told (R309, R311).
-/
namespace Sys2Proof.Machine

/-! ### The legs of a route -/

/-- Nothing with a property stands after the first element without it, where each that has it follows only such ones. -/
theorem dropWhile_any_eq_false {α : Type} (p : α → Bool) (l : List α) : (l.dropWhile p).any p = false ↔
    ∀ i j : Nat, i < j → (l[j]?).any p = true → (l[i]?).any p = true := by
  induction l with
  | nil => simp
  | cons x l ih =>
    cases first : p x with
    | true =>
      rw [List.dropWhile_cons_of_pos first, ih]
      refine ⟨fun h i j lt hj => ?_, fun h i j lt hj => ?_⟩
      · obtain ⟨j, rfl⟩ : ∃ n, j = n + 1 := ⟨j - 1, by omega⟩
        cases i with
        | zero => simpa using first
        | succ i => simpa using h i j (by omega) (by simpa using hj)
      · simpa using h (i + 1) (j + 1) (by omega) (by simpa using hj)
    | false =>
      rw [List.dropWhile_cons_of_neg (by rw [first]; exact Bool.false_ne_true), List.any_eq_false]
      refine ⟨fun h i j lt hj => ?_, fun h y hy py => ?_⟩
      · obtain ⟨y, hy, py⟩ := (Option.any_eq_true _ _).mp hj
        exact absurd py (h y (List.mem_of_getElem? hy))
      · rcases List.mem_cons.mp hy with rfl | hy
        · rw [first] at py; exact Bool.false_ne_true py
        · obtain ⟨j, hj⟩ := List.getElem?_of_mem hy
          have front := h 0 (j + 1) (Nat.succ_pos j) (by rw [List.getElem?_cons_succ, hj]; exact py)
          rw [List.getElem?_cons_zero] at front
          rw [show (some x).any p = p x from rfl, first] at front
          exact Bool.false_ne_true front

/-- The code of west (Table 20-2). -/
theorem dirOfCode_west (c : BitVec 2) : (dirOfCode c == .west) = decide (c.toNat = 2) := by
  revert c; decide

/-- The legs of an entry by the numbers of its fields: the code of the direction and the length (Table 20-2). -/
def routeLegs (e : Word) : List (Nat × Nat) := (List.range (e.extractLsb' 56 3).toNat).map fun i =>
  ((e.extractLsb' (7 * i + 5) 2).toNat, (e.extractLsb' (7 * i) 5).toNat)

theorem legsOf_isEmpty (e : Word) : (legsOf e).isEmpty = true ↔ routeLegs e = [] := by
  rw [List.isEmpty_iff, legsOf, routeLegs, List.map_eq_nil_iff, List.map_eq_nil_iff]

theorem legsOf_west (e : Word) (i : Nat) : ((legsOf e)[i]?).any (fun l => l.1 == .west) = true ↔
    ((routeLegs e)[i]?).map Prod.fst = some 2 := by
  rw [legsOf, routeLegs, List.getElem?_map, List.getElem?_map]
  cases (List.range (e.extractLsb' 56 3).toNat)[i]? with
  | none => simp
  | some n => simp [dirOfCode_west]

/-- What an entry must keep to (R297). -/
theorem routeEntryOk_iff (e : Word) : routeEntryOk e = true ↔ e.extractLsb' 59 5 = 0 ∧ (∀ l ∈ routeLegs e, l.2 ≠ 0) ∧
    ∀ i j : Nat, i < j → ((routeLegs e)[j]?).map Prod.fst = some 2 → ((routeLegs e)[i]?).map Prod.fst = some 2 := by
  have long : (legsOf e).all (fun l => l.2 != 0) = true ↔ ∀ l ∈ routeLegs e, l.2 ≠ 0 := by
    simp [legsOf, routeLegs]
  have west := dropWhile_any_eq_false (fun l : Dir × Nat => l.1 == .west) (legsOf e)
  simp only [legsOf_west] at west
  unfold routeEntryOk
  rw [Bool.and_eq_true, Bool.and_eq_true, long, Bool.not_eq_true', west, beq_iff_eq, and_assoc]

/-! ### Peer messages -/

theorem netBefore_mem {net : List Msg} {id : Nat} {y : Msg} (h : y ∈ netBefore net id) : y ∈ net ∧ y.id ≠ id := by
  induction net with
  | nil => cases h
  | cons x net ih =>
    rw [netBefore] at h
    split at h
    · cases h
    · rename_i other
      rcases List.mem_cons.mp h with rfl | h
      · exact ⟨List.mem_cons_self, other⟩
      · exact ⟨List.mem_cons_of_mem _ (ih h).1, (ih h).2⟩

/-- A message waits for no earlier one where its sender has no other under way. -/
theorem peerWaits_none {s : State} {m : Nat} {x : Msg} (msg : s.msg? m = some x) (alone : ∀ y ∈ s.net, y.id = m ∨ y.src ≠ x.src)
    (part n : Nat) (h : Word) : peerWaits s x part n h = false := by
  obtain rfl := State.msg?_id msg
  refine List.any_eq_false.mpr fun y hy both => ?_
  obtain ⟨mem, other⟩ := netBefore_mem hy
  rw [Bool.and_eq_true, beq_iff_eq] at both
  exact (alone y mem).elim other (· both.1)

/-! ### The status of a queue -/

/-- A partition's context that is switched out; none is where there is no partition. -/
theorem partOut_getD (p : Option PartSt) : (p.map PartSt.out).getD false = match p with
    | some p => p.out
    | none => false := by
  cases p <;> rfl

/-- The status word of a queue as a number (Table 20-8). -/
theorem queueStatusWord_eq (s : State) (n : Nat) :
    let q := s.queue n
    let out := ((q.bind.bind fun b => s.parts.get? b.part).map PartSt.out).getD false
    let state := if q.bind = none then 0 else if q.wasReset then 3 else if out then 2 else 1
    queueStatusWord s n = BitVec.ofNat 64 (q.acc.toNat * 2 ^ 48 + q.bad.toNat * 2 ^ 32 + (16 - q.posts.length) * 2 ^ 24 + state) := by
  intro q out state
  have word : queueStatusWord s n = q.acc ++ q.bad ++ BitVec.ofNat 8 (16 - q.posts.length) ++ 0#20 ++ BitVec.ofNat 4 state := by
    have gone : out = (match q.bind with
        | some b => match s.parts.get? b.part with
          | some p => p.out
          | none => false
        | none => false) := by
      simp only [out]
      cases q.bind with
      | none => rfl
      | some b => exact partOut_getD (s.parts.get? b.part)
    have unbound : (q.bind = none) = (q.bind.isNone = true) := propext Option.isNone_iff_eq_none.symm
    simp only [state, gone, unbound]
    rfl
  have low : state < 16 := by simp only [state]; split_ifs <;> decide
  rw [word]
  refine BitVec.eq_of_toNat_eq ?_
  have acc := q.acc.isLt
  have bad := q.bad.isLt
  simp only [BitVec.toNat_append, BitVec.toNat_ofNat]
  rw [Nat.mod_eq_of_lt (show 16 - q.posts.length < 2 ^ 8 by omega), Nat.mod_eq_of_lt (show state < 2 ^ 4 by omega),
    ← Nat.shiftLeft_add_eq_or_of_lt bad, ← Nat.shiftLeft_add_eq_or_of_lt (show 16 - q.posts.length < 2 ^ 8 by omega),
    ← Nat.shiftLeft_add_eq_or_of_lt (show 0 % 2 ^ 20 < 2 ^ 20 by decide), ← Nat.shiftLeft_add_eq_or_of_lt (show state < 2 ^ 4 by omega)]
  simp only [Nat.shiftLeft_eq]
  omega

end Sys2Proof.Machine
end

section
/-!
PROOFS. What a data window, the copy service, a peer and a static route come to.
-/
namespace Sys2Proof.Machine

/-! ### The data window and the copy request -/

/-- A report to the host or the owner, after a change of what is hidden at most. -/
theorem told_of_tell {s u : State} {i : Instr} {r : Report} (step : exec i s = .next (u.tell r)) (cores : u.cores = s.cores)
    (mem : u.mem = s.mem) (ctl : u.ctl = s.ctl) : ∃ t, exec i s = .next t ∧ t.mem = s.mem ∧
      t.ctl = { s.ctl with reports := s.ctl.reports ++ [r] } ∧ ∀ d k, t.slotOf d k = s.slotOf d k :=
  ⟨_, step, mem, by rw [← ctl]; rfl, fun d k => (u.slotOf_tell r d k).trans (State.slotOf_of_cores cores d k)⟩

/-- The host reads the bytes of a permitted range as its path sees them (R309). -/
theorem exec_hostDataRead {s : State} (sound : s.bad = []) {part va size : Nat} {ks : List (Option Nat)}
    (keys : hostKeys s part false va size = some ks) : exec (.hostDataRead part va size) s = .next
      ((s.noteRead (.host part) (realKeys ks)).tell (.hostRead part va (ks.map fun k => (k.map (s.readByte (.host part))).getD 0) true)) := by
  show execHostDataRead part va size s = _
  simp only [execHostDataRead, keys, s.badRead_none sound, s.readRes_eq]

/-- A message that ends takes a number for its return where it has one. -/
theorem State.nextId_finishMsg (s : State) (x : Msg) (there : Src) :
    (s.finishMsg x there).nextId = s.nextId + (flowReturn x there s.nextId).length := by
  unfold State.finishMsg flowReturn
  cases x.src with
  | core d => cases x.entry <;> rfl
  | _ => rfl

/-- A copy request begins its copy (R313). -/
theorem copyServiceRequest_spec {s : State} {m : Nat} {x : Msg} {part c : Nat} {h : Word} {ws : List Word} (msg : s.msg? m = some x)
    (body : x.body = .copyReq part c h ws) : ∃ t, exec (.copyServiceRequest m) s = .next t ∧
      t.net = s.net.filter (fun y => y.id ≠ m) ++ flowReturn x (.copyService part) s.nextId ∧
      t.copies = s.copies.put (s.nextId + (flowReturn x (.copyService part) s.nextId).length) ⟨part, c, ws⟩ ∧ t.mem = s.mem ∧
      ∀ d k, t.slotOf d k = s.slotOf d k := by
  have step : exec (.copyServiceRequest m) s = .next { s.finishMsg x (.copyService part) with
      copies := (s.finishMsg x (.copyService part)).copies.put (s.finishMsg x (.copyService part)).nextId ⟨part, c, ws⟩
      nextId := (s.finishMsg x (.copyService part)).nextId + 1 } := by
    show execCopyServiceRequest m s = _
    simp only [execCopyServiceRequest, msg, body]
  obtain ⟨net, -, -, rest⟩ := s.finishMsg_spec x (.copyService part)
  have copies : (s.finishMsg x (.copyService part)).copies = s.copies := (congrArg State.copies rest :)
  rw [copies, s.nextId_finishMsg x (.copyService part)] at step
  exact ⟨_, step, by rw [← State.msg?_id msg]; exact net, rfl, s.mem_finishMsg x _, s.slotOf_finishMsg x _⟩

/-! ### A copy -/

/-- What a completed copy leaves, as O57 states it. -/
theorem CopyDone.sends {s u t : State} {k status : Nat} {o : CopyOp} (h : CopyDone s u t k o status) :
    t.copies = s.copies.del k ∧ (∀ d k, t.slotOf d k = s.slotOf d k) ∧ ∃ new hd, t.net = s.net ++ new ∧
      (∀ y ∈ new, y.src = .copyService o.part) ∧ new.map Msg.body =
        (if (o.words.getD 4 0).extractLsb' 0 32 ≠ (0xFFFFFFFF : BitVec 32) ∧
            nodeIdOk s (some o.part) ((o.words.getD 4 0).extractLsb' 0 32).toNat = true then
          [.token ((o.words.getD 4 0).extractLsb' 0 32).toNat 1 none none (some o.core)] else []) ++
        (if (o.words.getD 5 0).getLsbD 63 then []
          else [.chan o.core ((o.words.getD 5 0).extractLsb' 0 6).toNat hd [BitVec.ofNat 64 status] none]) := by
  obtain ⟨new, net, srcs, bodies⟩ := h.net
  refine ⟨h.copies, h.slots, new, delivered (BitVec.ofNat 64 (((o.w 5).extractLsb' 0 6).toNat * 512)) 0x1FFFF 2 1, net, srcs, bodies.trans ?_⟩
  rw [copyBodies, BitVec.setWidth_eq_extractLsb' (by decide)]
  rfl

/-- The forms of a copy (R313). -/
theorem State.copyMove_form (s : State) {o : CopyOp} :
    (o.words.getD 0 0 = 0 → s.copyMove o = s.copyOutOf o fun s bs => s.setCells (cellsAt (hostKey o.far) bs)) ∧
    (o.words.getD 0 0 = 1 → s.copyMove o = s.copyInto o) ∧ (o.words.getD 0 0 = 2 → s.copyMove o = s.copyPeer o) ∧
    (2 < (o.words.getD 0 0).toNat → s.copyMove o = (s, 2)) := by
  unfold State.copyMove CopyOp.w
  refine ⟨fun form => by rw [form]; rfl, fun form => by rw [form]; rfl, fun form => by rw [form]; rfl, fun high => ?_⟩
  generalize (o.words.getD 0 0).toNat = n at high
  obtain ⟨n, rfl⟩ : ∃ j, n = j + 3 := ⟨n - 3, by omega⟩
  rfl

section
variable {s : State} {k : Nat} {o : CopyOp} (here : s.copies.get? k = some o)
include here

/-- A copy of device bytes to the host moves them (R313). -/
theorem copy_toHost (sound : s.bad = []) (form : o.words.getD 0 0 = 0) {ks : List (Option Nat)}
    (keys : hostKeys s o.part false o.dev o.len = some ks) : ∃ t u, exec (.copyServiceComplete k) s = .next t ∧ CopyDone s u t k o 1 ∧
      (∀ j : Nat, j < o.len → (ks[j]?).map (fun a => (a.map (s.readByte (.host o.part))).getD 0) = some (t.byte (Place.host.key (o.far + j)))) ∧
      ∀ y, (∀ j, j < o.len → y ≠ Place.host.key (o.far + j)) → t.byte y = s.byte y := by
  have keys : hostKeys (s.copyTaken k) o.part false o.dev o.len = some ks := keys
  have moved : (s.copyTaken k).copyMove o = (((s.copyTaken k).noteRead (.host o.part) (realKeys ks)).setCells
      (cellsAt (hostKey o.far) (ks.map fun a => (a.map (s.readByte (.host o.part))).getD 0)), 1) := by
    rw [(s.copyTaken k).copyMove_form.1 form, ← s.readByte_copyTaken k, ← State.readRes_eq]
    exact copyOutOf_there (s := s.copyTaken k) sound keys _
  have kept := (s.copyTaken k).copyKept_noteRead (.host o.part) (realKeys ks)
  have rest := (s.copyTaken k).noteRead_hidden (.host o.part) (realKeys ks)
  have byte : ∀ a, ((s.copyTaken k).noteRead (.host o.part) (realKeys ks)).byte a = s.byte a := fun a =>
    (congrArg (fun x : State => x.byte a) rest :)
  generalize (s.copyTaken k).noteRead (.host o.part) (realKeys ks) = v at moved kept byte
  obtain ⟨t, step, done⟩ := copyDone_of_move here moved (kept.trans (v.copyKept_setCells _))
  obtain ⟨apart, within⟩ := v.byte_setCells_cellsAt (hostKey o.far) (ks.map fun a => (a.map (s.readByte (.host o.part))).getD 0)
  have len : ks.length = o.len := length_hostKeys keys
  have key : ∀ j, Place.host.key (o.far + j) = hostKey o.far + j := fun j => by simp only [hostKey, Place.key]; omega
  rw [List.length_map, len] at apart within
  refine ⟨t, _, step, done, fun j hj => ?_, fun y hy => ?_⟩
  · rw [key, done.byte, within j hj, List.getD_eq_getElem _ _ (by rw [List.length_map, len]; exact hj), ← List.getElem?_map,
      List.getElem?_eq_getElem]
  · rw [done.byte, apart y fun j hj => by rw [← key]; exact hy j hj, byte]

/-- A copy of host bytes to the device moves them (R313). -/
theorem copy_toDevice (sound : s.bad = []) (form : o.words.getD 0 0 = 1) {ks : List (Option Nat)}
    (keys : hostKeys s o.part true o.dev o.len = some ks) (apart : (realKeys ks).Nodup) :
    ∃ t u, exec (.copyServiceComplete k) s = .next t ∧ CopyDone s u t k o 1 ∧
      (∀ j a : Nat, (realKeys ks)[j]? = some a → t.byte a = s.byte (Place.host.key (o.far + j))) ∧
      ∀ y, y ∉ realKeys ks → t.byte y = s.byte y := by
  have keys : hostKeys (s.copyTaken k) o.part true o.dev o.len = some ks := keys
  have moved : (s.copyTaken k).copyMove o = ((s.copyTaken k).hostWrite o.part ks ((span (hostKey o.far) o.len).map s.byte), 1) := by
    rw [(s.copyTaken k).copyMove_form.2.1 form]
    exact copyInto_there (s := s.copyTaken k) sound keys
  obtain ⟨t, step, done⟩ := copyDone_of_move here moved ((s.copyTaken k).copyKept_hostWrite _ _ _)
  have len : (realKeys ks).length = o.len := by
    have total := length_hostKeys keys
    rw [hostKeys_write keys, List.length_map] at total
    exact total
  obtain ⟨within, others⟩ := (s.copyTaken k).byte_hostWrite o.part (ks := ks) (bs := (span (hostKey o.far) o.len).map s.byte)
    (by rw [List.length_map, span, List.length_map, List.length_range]; exact len) apart
  have key : ∀ j, Place.host.key (o.far + j) = hostKey o.far + j := fun j => by simp only [hostKey, Place.key]; omega
  refine ⟨t, _, step, done, fun j a ha => ?_, fun y hy => ?_⟩
  · have stored := within j a ha
    have hj : j < o.len := by rw [← len]; exact (List.getElem?_eq_some_iff.mp ha).1
    rw [List.getElem?_map, span, List.getElem?_map, List.getElem?_range hj] at stored
    rw [done.byte, key]
    exact (Option.some.inj stored).symm
  · rw [done.byte, others y hy]; rfl

/-- A copy that names a page which is refused ends with status 3 (R313). -/
theorem copy_refused (form : o.words.getD 0 0 ≤ 1) (keys : hostKeys s o.part (o.words.getD 0 0 == 1) o.dev o.len = none) :
    ∃ t u, exec (.copyServiceComplete k) s = .next t ∧ CopyDone s u t k o 3 ∧ u.mem = s.mem := by
  have moved : (s.copyTaken k).copyMove o = (s.copyTaken k, 3) := by
    have cases_ : o.words.getD 0 0 = 0 ∨ o.words.getD 0 0 = 1 := by
      generalize o.words.getD 0 0 = w at form
      have small : w.toNat ≤ 1 := form
      rcases Nat.le_one_iff_eq_zero_or_eq_one.mp small with e | e
      · exact .inl (BitVec.eq_of_toNat_eq e)
      · exact .inr (BitVec.eq_of_toNat_eq e)
    obtain ⟨out, into, -⟩ := (s.copyTaken k).copyMove_form (o := o)
    rcases cases_ with e | e
    · rw [e] at keys
      have keys : hostKeys (s.copyTaken k) o.part false o.dev o.len = none := keys
      rw [out e, State.copyOutOf, keys]
    · rw [e] at keys
      have keys : hostKeys (s.copyTaken k) o.part true o.dev o.len = none := keys
      rw [into e, State.copyInto, keys]
  obtain ⟨t, step, done⟩ := copyDone_of_move here moved (.refl _)
  exact ⟨t, _, step, done, rfl⟩

/-- A copy that names no form, or a peer that is not there, ends with status 2 (R313). -/
theorem copy_failed (form : 2 < (o.words.getD 0 0).toNat ∨ (o.words.getD 0 0 = 2 ∧
      ((s.parts.get? o.part).bind fun p => p.endpoints.get? ((o.words.getD 3 0).extractLsb' 0 16).toNat) = none)) :
    ∃ t u, exec (.copyServiceComplete k) s = .next t ∧ CopyDone s u t k o 2 ∧ u.mem = s.mem := by
  have moved : (s.copyTaken k).copyMove o = (s.copyTaken k, 2) := by
    rcases form with high | ⟨two, absent⟩
    · exact (s.copyTaken k).copyMove_form.2.2.2 high
    · rw [(s.copyTaken k).copyMove_form.2.2.1 two]
      have absent : ((s.copyTaken k).parts.get? o.part).bind (fun p => p.endpoints.get? ((o.w 3).extractLsb' 0 16).toNat) = none := absent
      unfold State.copyPeer
      cases part : (s.copyTaken k).parts.get? o.part with
      | none => rfl
      | some p =>
        rw [part] at absent
        simp only [show p.endpoints.get? ((o.w 3).extractLsb' 0 16).toNat = none from absent]
  obtain ⟨t, step, done⟩ := copyDone_of_move here moved (.refl _)
  exact ⟨t, _, step, done, rfl⟩

/-- A copy to a peer that is there changes no byte and ends with a status from 1 to 3 (R313). -/
theorem copy_toPeer (sound : s.bad = []) (form : o.words.getD 0 0 = 2)
    (peer : ((s.parts.get? o.part).bind fun p => p.endpoints.get? ((o.words.getD 3 0).extractLsb' 0 16).toNat) ≠ none) :
    ∃ t u st, exec (.copyServiceComplete k) s = .next t ∧ CopyDone s u t k o st ∧ u.mem = s.mem ∧ 1 ≤ st ∧ st ≤ 3 := by
  obtain ⟨u, st, step, low, high, mem, kept⟩ := copyPeer_spec (s := s.copyTaken k) sound (o := o) peer
  have moved : (s.copyTaken k).copyMove o = (u, st) := by
    rw [(s.copyTaken k).copyMove_form.2.2.1 form]
    exact step
  obtain ⟨t, step, done⟩ := copyDone_of_move here moved kept
  exact ⟨t, u, st, step, done, mem, low, high⟩

end

end Sys2Proof.Machine
end

section
/-!
PROOFS. Static routes as they end (R298), and the whole of O57.
-/
namespace Sys2Proof.Machine

/-- The programming of an entry of a partition that is there (R297). -/
theorem programRoute_spec {s : State} {part n : Nat} {entry : Word} {p : PartSt} (here : s.parts.get? part = some p) :
    (n < 4096 ∧ routeEntryOk entry = true → s.programRoute part n entry = { s with
      parts := s.parts.put part { p with routes := if routeLegs entry = [] then p.routes.del n else p.routes.put n entry } }.tell
        (.route part n true)) ∧
    (¬(n < 4096 ∧ routeEntryOk entry = true) → s.programRoute part n entry = s.tell (.route part n false)) := by
  have ok : ((s.parts.get? part).isSome && decide (n < 4096) && routeEntryOk entry) = true ↔ n < 4096 ∧ routeEntryOk entry = true := by
    simp [here]
  refine ⟨fun good => ?_, fun bad => if_neg fun e => bad (ok.mp e)⟩
  rw [State.programRoute, if_pos (ok.mpr good), State.modPart, here]
  simp only [legsOf_isEmpty]

/-- The failure of a static route of a core's message ends it, and is reported (R298). -/
theorem routeErr_spec {s : State} {m d : Nat} {x : Msg} (msg : s.msg? m = some x) (src : x.src = .core d) (pos : Nat) (h : Word)
    (route : BitVec 12) :
    let t := s.routeErr x pos h route
    t.net = s.net.filter (fun y => y.id ≠ m) ++ flowReturn x (.report (.router pos)) s.nextId ∧
      (∃ y, t.reports = s.reports ++ [(.router pos, y)] ∧ y.body = serviceBody (d / 128) d (serviceWords 0x25 d 0 h 0 (route.setWidth 64))) ∧
      t.mem = s.mem ∧ ∀ d k, t.slotOf d k = s.slotOf d k := by
  obtain rfl := State.msg?_id msg
  have sender : senderOf x h = d := by rw [senderOf, src]
  obtain ⟨net, -⟩ := s.finishMsg_spec x (.report (.router pos))
  simp only [State.routeErr, sender]
  exact ⟨net, ⟨_, congrArg (· ++ _) (s.reports_finishMsg x _), rfl⟩, s.mem_finishMsg x _, s.slotOf_finishMsg x _⟩

/-- A message of a core on a static route comes to the end of its legs, or fails (R298). -/
theorem exec_staticRoute {s : State} {m c ch d : Nat} {x : Msg} {h : Word} {ws : List Word} {route : BitVec 12} (msg : s.msg? m = some x)
    (body : x.body = .static c ch h ws route) (src : x.src = .core d) :
    let legs := legsOf (routeEntry s (corePart s d) route.toNat)
    let pos := posOf s (d / 128)
    let go := { s with net := s.net.map fun y => if y.id = m then { y with body := .chan c ch h ws none } else y }
    (legsEnd pos legs = none → exec (.staticRoute m) s = .next (s.routeErr x pos h route)) ∧
    ∀ e, legsEnd pos legs = some e →
      (sgAt s e ≠ some (c / 128) ∨ fieldPart s (fieldOfPos e) ≠ corePart s d → exec (.staticRoute m) s = .next (s.routeErr x pos h route)) ∧
      (sgAt s e = some (c / 128) → fieldPart s (fieldOfPos e) = corePart s d →
        (followLegs s (legHops legs) (Head.start pos) = .arrives → exec (.staticRoute m) s = .next go) ∧
        ∀ g, followLegs s (legHops legs) (Head.start pos) = .leaves g →
          exec (.staticRoute m) s = .next (if (routeCost (routeOk s g.pos e) g e).isSome then go else s.routeErr x g.pos h route)) := by
  intro legs pos go
  have sender : senderOf x h = d := by rw [senderOf, src]
  have step : exec (.staticRoute m) s = .next (match legsEnd pos legs with
      | none => s.routeErr x pos h route
      | some e =>
        if sgAt s e != some (c / 128) || fieldPart s (fieldOfPos e) != corePart s d then s.routeErr x pos h route
        else match followLegs s (legHops legs) (Head.start pos) with
          | .arrives => go
          | .leaves g => if (routeCost (routeOk s g.pos e) g e).isSome then go else s.routeErr x g.pos h route) := by
    show execStaticRoute m s = _
    simp only [execStaticRoute, msg, body, sender] <;> rfl
  clear_value legs pos go
  refine ⟨fun off => by rw [step, off], fun e ends => ⟨fun astray => ?_, fun sg field => ⟨fun arrives => ?_, fun g leaves => ?_⟩⟩⟩
  · rw [step, ends]
    exact congrArg Host.Outcome.next (if_pos (by simpa using astray))
  · rw [step, ends]
    simp only [sg, field, arrives, bne_self_eq_false, Bool.or_false, Bool.false_eq_true, if_false]
  · rw [step, ends]
    simp only [sg, field, leaves, bne_self_eq_false, Bool.or_false, Bool.false_eq_true, if_false]

/-- The message of a peer's core as it comes in (R314). -/
theorem peerMessage_spec {s : State} {part c : Nat} {e : Endpoint} {h : Word} {ws : List Word} (runs : partRuns s part = true)
    (here : coreIn s (some part) c = true) (few : ws.length ≤ 7) : ∃ t hd,
      execPeerMessage part e c h ws s = .next t ∧ t.net = s.net ++ [⟨s.nextId, .peerCore e, false, false, .chan c (hdrChan h) hd ws none⟩] ∧
      hd.extractLsb' 15 17 = BitVec.ofNat 17 (handleOf s part e) ∧ hd.extractLsb' 32 32 = h.extractLsb' 32 32 ∧
      hd.extractLsb' 8 7 = h.extractLsb' 8 7 ∧ { t with net := s.net, nextId := s.nextId } = s := by
  obtain ⟨label, sender, dest, -⟩ := delivered_fields h (handleOf s part e) 2 ws.length
  have step : execPeerMessage part e c h ws s = .next (s.post (.peerCore e) false
      (.chan c (hdrChan h) (delivered h (handleOf s part e) 2 ws.length) ws none)) := by
    simp only [execPeerMessage, runs, here, few, decide_true, Bool.and_true, if_true]
  exact ⟨_, _, step, rfl, sender, label, dest, rfl⟩

/-- Settles O57: the windows, the copies, the peers and the routes, each by its lemma. -/
theorem hostCopiesAndStaticRoutesMoveData : Obligations.HostCopiesAndStaticRoutesMoveData := by
  intro s part va size bytes ks m x sound told flow
  have returns : s.msg? m = some x → ∀ there, flow there = flowReturn x there s.nextId := fun msg there => by
    obtain rfl := State.msg?_id msg
    rfl
  refine ⟨fun none => ?_, fun keys apart => ?_, fun none => ?_, fun keys => told_of_tell (exec_hostDataRead sound keys) ?_ ?_ ?_,
    fun c h ws msg body => ?_, fun k o here same => ?_, fun n h ws c k p e msg body there endpoint alone local_ => ?_,
    fun n h ws c k msg body alone local_ => ?_, fun n low => ?_, fun e c h ws runs here few => peerMessage_spec runs here few,
    fun e c h ws away => ?_, fun n entry p here => ?_, fun c ch h ws route d msg body src => ?_⟩
  · show execHostDataWrite part va bytes s = _
    simp only [execHostDataWrite, none]
  · have step : exec (.hostDataWrite part va bytes) s = .next (s.hostWrite part ks bytes) := by
      show execHostDataWrite part va bytes s = _
      simp only [execHostDataWrite, keys, s.badPart_none sound]
    have len : (realKeys ks).length = bytes.length := by
      have total := length_hostKeys keys
      rw [hostKeys_write keys, List.length_map] at total
      exact total
    obtain ⟨stored, others⟩ := s.byte_hostWrite part len apart
    exact ⟨_, step, stored, others, State.slotOf_of_cores (s.copyKept_hostWrite part ks bytes).cores⟩
  · have step : exec (.hostDataRead part va size) s = .next (s.tell (.hostRead part va (List.replicate size 0xFF) false)) := by
      show execHostDataRead part va size s = _
      simp only [execHostDataRead, none]
      rfl
    exact told_of_tell step rfl rfl rfl
  · exact (congrArg State.cores (s.noteRead_hidden (.host part) (realKeys ks)) :)
  · exact (congrArg State.mem (s.noteRead_hidden (.host part) (realKeys ks)) :)
  · exact (congrArg State.ctl (s.noteRead_hidden (.host part) (realKeys ks)) :)
  · rw [returns msg]
    exact copyServiceRequest_spec msg body
  · obtain rfl := same
    intro dev far len tgt w5 tok sends
    have sent : ∀ {u t st}, CopyDone s u t k o st → sends t st := fun done => done.sends
    refine ⟨fun form keys => ?_, fun form keys apart => ?_, fun form none => ?_, ?_⟩
    · obtain ⟨t, u, step, done, moved, others⟩ := copy_toHost here sound form keys
      exact ⟨t, step, sent done, moved, others⟩
    · obtain ⟨t, u, step, done, moved, others⟩ := copy_toDevice here sound form keys apart
      exact ⟨t, step, sent done, moved, others⟩
    · obtain ⟨t, u, step, done, mem⟩ := copy_refused here form none
      exact ⟨t, step, sent done, done.mem.trans mem⟩
    · intro peer
      refine ⟨fun form => ?_, fun form there => ?_⟩
      · obtain ⟨t, u, step, done, mem⟩ := copy_failed here form
        exact ⟨t, step, sent done, done.mem.trans mem⟩
      · obtain ⟨t, u, st, step, done, mem, low, high⟩ := copy_toPeer here sound form there
        exact ⟨t, st, step, sent done, done.mem.trans mem, low, high⟩
  · have step : exec (.peerAck m) s = .next ((s.finishMsg x (.peer n)).tell (.peerOut e.port e.part e.core h ws)) := by
      show execPeerAck m s = _
      simp only [execPeerAck, msg, body, peerWaits_none msg alone, Bool.false_eq_true, if_false, there, endpoint]
    obtain ⟨net, -, ctl, -⟩ := s.finishMsg_spec x (.peer n)
    refine ⟨told_of_tell step (s.cores_finishMsg x _) (s.mem_finishMsg x _) (ctl local_), _, step, ?_⟩
    rw [returns msg, ← State.msg?_id msg]
    exact net
  · intro d
    have step : execPeerRefusal m s = .next ((s.finishMsg x (.peer n)).noep (.hostEngine part) h n) := by
      simp only [execPeerRefusal, msg, body, peerWaits_none msg alone, Bool.false_eq_true, if_false]
    obtain ⟨net, -, ctl, -⟩ := s.finishMsg_spec x (.peer n)
    refine ⟨_, _, step, ?_, congrArg (· ++ _) (s.reports_finishMsg x _), rfl, ctl local_, s.mem_finishMsg x _, s.slotOf_finishMsg x _⟩
    rw [returns msg, ← State.msg?_id msg]
    exact net
  · intro q out state
    have step : execQueueStatus n s = .next (s.tell (.queueStatus n (queueStatusWord s n))) := congrArg Host.Outcome.next (if_pos low)
    rw [step, queueStatusWord_eq]
    rfl
  · have no : ¬(partRuns s part && coreIn s (some part) c && decide (ws.length ≤ 7)) = true := by simp [away]
    exact congrArg Host.Outcome.next (if_neg no)
  · intro legs ok
    have step : exec (.staticRouteProgram part n entry) s = .next (s.programRoute part n entry) := rfl
    have good : ok ↔ n < 4096 ∧ routeEntryOk entry = true := by rw [routeEntryOk_iff]; rfl
    obtain ⟨programmed, refused⟩ := programRoute_spec (n := n) (entry := entry) here
    refine ⟨fun bad => ?_, fun fine => ?_⟩
    · rw [refused fun e => bad (good.mpr e)] at step
      exact told_of_tell step rfl rfl rfl
    · rw [programmed (good.mp fine)] at step
      exact ⟨told_of_tell step rfl rfl rfl, _, step, AMap.get?_put_self _ _ _⟩
  · intro legs pos goes fails
    obtain ⟨off, ends⟩ := exec_staticRoute msg body src
    have fails_at : ∀ at_, exec (.staticRoute m) s = .next (s.routeErr x at_ h route) → fails at_ := fun at_ step => by
      obtain ⟨net, ⟨y, reports, words⟩, mem, slots⟩ := routeErr_spec msg src at_ h route
      exact ⟨_, y, step, by rw [returns msg]; exact net, reports, words, mem, slots⟩
    have goes_on : exec (.staticRoute m) s = .next
        { s with net := s.net.map fun y => if y.id = m then { y with body := .chan c ch h ws none } else y } → goes :=
      fun step => ⟨_, step, rfl, rfl⟩
    refine ⟨fun none => fails_at pos (off none), fun e here => ?_⟩
    obtain ⟨astray, right⟩ := ends e here
    refine ⟨fun other => fails_at pos (astray other), fun sg field => ?_⟩
    obtain ⟨arrives, leaves⟩ := right sg field
    refine ⟨fun path => goes_on (arrives path), fun g path => ?_⟩
    have step := leaves g path
    split
    · rename_i round
      exact goes_on (step.trans (congrArg Host.Outcome.next (if_pos round)))
    · rename_i no
      exact fails_at g.pos (step.trans (congrArg Host.Outcome.next (if_neg no)))

end Sys2Proof.Machine
end

section
/-!
PROOFS. Scalar loads and stores of TCM, and the accesses that trap on their address (R78 to R80, R88, R101, R139).
-/
namespace Sys2Proof.Machine

/-! ### An aligned access of TCM -/

/-- `n` bytes at an aligned address that lie whole in TCM. -/
structure TcmSpan (va : Word) (n : Nat) : Prop where
  nonzero : n ≠ 0
  aligned : va.toNat % n = 0
  fits : va.toNat + n ≤ 0x10000

/-- The keys of `n` bytes at an address of a core's TCM. -/
def tcmSpan (c : Nat) (va : Word) (n : Nat) : List Nat := span ((Place.tcm c).key va.toNat) n

theorem TcmSpan.win {va : Word} {n : Nat} (h : TcmSpan va n) : winOf va.toNat = .tcm va.toNat := by
  obtain ⟨nonzero, -, fits⟩ := h
  exact winOf_tcm (by omega)

theorem TcmSpan.noAlias {va : Word} {n : Nat} (h : TcmSpan va n) : inAlias va = false := by
  rw [inAlias, h.win]

theorem TcmSpan.noInterlock {va : Word} {n : Nat} (h : TcmSpan va n) (s : State) (c : Nat) : firstInterlock s c va.toNat n = none := by
  have rows : (span va.toNat n).filterMap rowPairOf = [] := by
    rw [List.filterMap_eq_nil_iff]
    intro x hx
    obtain ⟨i, hi, rfl⟩ := mem_span.1 hx
    have fits := h.fits
    rw [rowPairOf, winOf_tcm (by omega)]
  rw [firstInterlock, rows]
  rfl

/-- An aligned access of TCM passes the checks of a scalar access, and changes nothing by them. -/
theorem TcmSpan.prepare {va : Word} {n : Nat} (h : TcmSpan va n) (s : State) (acc : Acc) :
    s.prepare acc va n = .keys s ((tcmSpan s.cur.core va n).map some) := by
  have pages : pagesOf va.toNat n = [] := by rw [pagesOf, h.win]; rfl
  rw [State.prepare, h.noAlias, if_neg Bool.false_ne_true, if_neg (not_not_intro h.aligned), pages]
  simp only [State.touchPages, List.foldl_nil, resolve_tcm s _ _ h.nonzero h.fits, h.noInterlock]
  rfl

theorem State.readRes_some (s : State) (ag : Agent) (ks : List Nat) : s.readRes ag (ks.map some) = ks.map (s.readByte ag) := by
  rw [State.readRes, List.map_map]
  rfl

/-! ### Loads -/

theorem natOfBytes_map_lt (n : Nat) (f : Nat → Byte) (ks : List Nat) (len : ks.length = n) : natOfBytes (ks.map f) < 2 ^ (8 * n) := by
  have lt := natOfBytes_lt (ks.map f)
  rwa [List.length_map, len, show (256 : Nat) = 2 ^ 8 by rfl, ← Nat.pow_mul] at lt

/-- The value of a signed load is that of its bits in two's complement, sign-extended. -/
theorem extend_signed {n v : Nat} (hn : n ≠ 0) (hv : v < 2 ^ (8 * n)) : extend true n v = (BitVec.ofNat (8 * n) v).signExtend 64 := by
  rw [extend, if_pos rfl, toSigned_eq_toInt (by omega) hv]
  rfl

/-- A load of sound bytes of TCM gives what its slot sees there, and changes its slot and who has read what (R129). -/
theorem TcmSpan.load {va : Word} {n : Nat} (h : TcmSpan va n) (s : State) (rd : Reg) (signed : Bool)
    (sound : s.badRead s.agent (tcmSpan s.cur.core va n) = none) :
    s.load rd va n signed = (s.noteRead s.agent (tcmSpan s.cur.core va n)).done rd
      (extend signed n (natOfBytes ((tcmSpan s.cur.core va n).map (s.readByte s.agent)))) := by
  rw [State.load, h.prepare]
  simp only [realKeys_some, sound, State.readRes_some]

/-- Settles O6: each form is a load of its width, whose value is that of its bytes. -/
theorem loadsOfTcmGiveTheirBytes : Obligations.LoadsOfTcmGiveTheirBytes := by
  intro s rd rs imm va key bits loads
  have addr : s.rx rs + sext12 imm = va := sext12_add _ _
  have gives {i : Instr} {n : Nat} {signed : Bool} {v : Word} (hn : n ≠ 0)
      (run : exec i s = .next (s.load rd (s.rx rs + sext12 imm) n signed)) (value : extend signed n (bits n) = v) : loads i n v := by
    intro aligned fits sound
    obtain ⟨here, rest⟩ := s.noteRead_done_frame (tcmSpan s.cur.core va n) rd v
    refine ⟨_, run.trans ?_, here, rest⟩
    have read : natOfBytes ((tcmSpan s.cur.core va n).map (s.readByte s.agent)) = bits n := by
      rw [tcmSpan, span, List.map_map]
      rfl
    rw [addr, TcmSpan.load ⟨hn, aligned, fits⟩ s rd signed sound, read, value]
  have signed {n : Nat} (hn : n ≠ 0) : extend true n (bits n) = BitVec.ofInt 64 (BitVec.ofNat (8 * n) (bits n)).toInt :=
    extend_signed hn (natOfBytes_map_lt n (fun i => s.readByte s.agent (key + i)) (List.range n) List.length_range)
  exact ⟨gives (by decide) rfl (signed (by decide)), gives (by decide) rfl (signed (by decide)),
    gives (by decide) rfl (signed (by decide)), gives (by decide) rfl (extend_eight _), gives (signed := false) (by decide) rfl rfl,
    gives (signed := false) (by decide) rfl rfl, gives (signed := false) (by decide) rfl rfl⟩

/-! ### Stores -/

/-- A write changes memory, what is hidden of it, and the reservations and errors at its keys. -/
theorem State.writeCells_rest (s : State) (ag : Agent) (cs : List (Nat × Byte)) :
    { s.writeCells ag cs with mem := s.mem, hidden := s.hidden, nextId := s.nextId, resv := s.resv, bad := s.bad } = s := by
  unfold State.writeCells
  split <;> rfl

/-- Which writes an agent sees is read off the partitions and the holes of the mesh. -/
theorem sees_of_rest {s t : State}
    (h : { t with cores := s.cores, mem := s.mem, hidden := s.hidden, nextId := s.nextId, resv := s.resv, bad := s.bad } = s)
    (ag : Agent) (g : Hidden) : sees t ag g = sees s ag g := by
  rw [← h]
  rfl

theorem overlay_congr {s t : State} {ag : Agent} (same : ∀ g, sees t ag g = sees s ag g) (a : Nat) (hs : List Hidden) (b : Byte) :
    overlay t ag a hs b = overlay s ag a hs b := by
  induction hs generalizing b with
  | nil => rfl
  | cons h hs ih => simp only [overlay, ih, same]

theorem State.sees_writeCells (s : State) (ag : Agent) (cs : List (Nat × Byte)) (reader : Agent) (g : Hidden) :
    sees (s.writeCells ag cs) reader g = sees s reader g :=
  sees_of_rest (congrArg (fun u : State => { u with cores := s.cores }) (s.writeCells_rest ag cs)) reader g

/-- No agent reads a byte otherwise than before where a write does not name it. -/
theorem State.readByte_writeCells_ne (s : State) (ag : Agent) {cs : List (Nat × Byte)} {a : Nat} (h : a ∉ cs.map Prod.fst)
    (reader : Agent) : (s.writeCells ag cs).readByte reader a = s.readByte reader a := by
  rw [State.readByte, overlay_congr (s.sees_writeCells ag cs reader), s.byte_writeCells_ne ag cs a h, State.readByte]
  unfold State.writeCells
  split
  · rfl
  · have unnamed : ((cs.map Prod.fst).map fun k => (k, s.byte k)).find? (fun c => c.1 == a) = none := by
      rw [List.find?_eq_none]
      intro c hc
      obtain ⟨k, hk, rfl⟩ := List.mem_map.1 hc
      exact fun e => h (beq_iff_eq.1 e ▸ hk)
    simp only [overlay, unnamed]

/-- The agent that writes reads the newest value of what it has written (R128). -/
theorem State.readByte_writeCells_own (s : State) (ag : Agent) {cs : List (Nat × Byte)} {a : Nat} (h : a ∈ cs.map Prod.fst) :
    (s.writeCells ag cs).readByte ag a = (s.writeCells ag cs).byte a := by
  rw [State.readByte, overlay_congr (s.sees_writeCells ag cs ag)]
  unfold State.writeCells
  split
  · rename_i empty
    rw [List.isEmpty_iff.1 empty] at h
    cases h
  · have named : (((cs.map Prod.fst).map fun k => (k, s.byte k)).find? fun c => c.1 == a).isSome = true := by
      rw [List.find?_isSome]
      exact ⟨_, List.mem_map.2 ⟨a, h, rfl⟩, beq_self_eq_true a⟩
    obtain ⟨c, hc⟩ := Option.isSome_iff_exists.1 named
    simp only [overlay, hc, sees, beq_self_eq_true, Bool.true_or, if_true]

/-- The bytes of a store of TCM, over their keys. -/
def tcmCells (c : Nat) (va : Word) (n v : Nat) : List (Nat × Byte) :=
  gridRow n ((Place.tcm c).key va.toNat + ·) fun j => BitVec.ofNat 8 (v / 256 ^ j)

theorem zip_tcmSpan (c : Nat) (va : Word) (n v : Nat) : (tcmSpan c va n).zip (bytesOf n v) = tcmCells c va n v := by
  rw [tcmCells, ← cellsAt_bytesOf, cellsAt, length_bytesOf]
  rfl

theorem mem_keys_tcmCells {c : Nat} {va : Word} {n v a : Nat} :
    a ∈ (tcmCells c va n v).map Prod.fst ↔ (Place.tcm c).key va.toNat ≤ a ∧ a < (Place.tcm c).key va.toNat + n := by
  rw [tcmCells, mem_keys_gridRow]
  exact ⟨fun ⟨j, hj, e⟩ => by omega, fun ⟨lo, hi⟩ => ⟨a - (Place.tcm c).key va.toNat, by omega, by omega⟩⟩

/-- A write of cells of TCM puts each of its bytes at its key. -/
theorem State.byte_writeCells_tcmCells (s : State) (ag : Agent) (c : Nat) (va : Word) {n j : Nat} (v : Nat) (hj : j < n) :
    (s.writeCells ag (tcmCells c va n v)).byte ((Place.tcm c).key va.toNat + j) = BitVec.ofNat 8 (v / 256 ^ j) := by
  refine s.byte_writeCells_of_unique ag (mem_keys_tcmCells.2 (by omega)) fun d hd e => ?_
  obtain ⟨i, -, rfl⟩ := mem_gridRow.1 hd
  rw [Nat.add_left_cancel e]

/-- An aligned access of at most 8 bytes of TCM lies in one granule. -/
theorem TcmSpan.granule {va : Word} {n : Nat} (h : TcmSpan va n) (width : n ∈ [1, 2, 4, 8]) (c : Nat) {j : Nat} (hj : j < n) :
    granuleOf ((Place.tcm c).key va.toNat + j) = (Place.tcm c).key va.toNat / 8 := by
  obtain ⟨-, aligned, -⟩ := h
  simp only [List.mem_cons, List.not_mem_nil, or_false] at width
  simp only [granuleOf, Place.key]
  rcases width with rfl | rfl | rfl | rfl <;> omega

/-- A write of TCM ends the reservations of its granule, and no other (R80). -/
theorem TcmSpan.keepResv {va : Word} {n : Nat} (h : TcmSpan va n) (width : n ∈ [1, 2, 4, 8]) (c v : Nat) (r : Reservation) :
    keepResv ((tcmCells c va n v).map Prod.fst) r = decide (r.granule ≠ (Place.tcm c).key va.toNat / 8) := by
  have any : ((tcmCells c va n v).map Prod.fst).any (fun k => granuleOf k == r.granule) = true ↔
      r.granule = (Place.tcm c).key va.toNat / 8 := by
    rw [List.any_eq_true]
    constructor
    · rintro ⟨k, hk, e⟩
      obtain ⟨j, hj, rfl⟩ := mem_keys_gridRow.1 hk
      exact (beq_iff_eq.1 e).symm.trans (h.granule width c hj)
    · intro e
      have first := h.granule width c (Nat.pos_of_ne_zero h.nonzero)
      exact ⟨_, mem_keys_gridRow.2 ⟨0, Nat.pos_of_ne_zero h.nonzero, rfl⟩, beq_iff_eq.2 (first.trans e.symm)⟩
  rw [Machine.keepResv, decide_not, Bool.eq_iff_iff, Bool.not_eq_true', Bool.not_eq_true', ← Bool.not_eq_true, any, decide_eq_false_iff_not]

theorem State.resv_writeCells_tcmCells (s : State) (ag : Agent) {va : Word} {n : Nat} (h : TcmSpan va n) (width : n ∈ [1, 2, 4, 8])
    (c v : Nat) :
    (s.writeCells ag (tcmCells c va n v)).resv = s.resv.filter fun r => r.granule ≠ (Place.tcm c).key va.toNat / 8 := by
  have some : (tcmCells c va n v).isEmpty = false := by
    rw [tcmCells, gridRow, List.isEmpty_eq_false_iff, ne_eq, List.map_eq_nil_iff, List.range_eq_nil]
    exact h.nonzero
  rw [State.writeCells, if_neg (by rw [some]; decide)]
  exact List.filter_congr fun r _ => h.keepResv width c v r

/-- A store of TCM that needs no bytes in error writes its bytes and retires. -/
theorem TcmSpan.store {va : Word} {n : Nat} (h : TcmSpan va n) (s : State) (v : Word)
    (sound : s.badPart s.agent (tcmSpan s.cur.core va n) = none) :
    s.store va n v = (s.writeCells s.agent (tcmCells s.cur.core va n v.toNat)).retire := by
  rw [State.store, h.prepare]
  simp only [realKeys_some, sound, zip_tcmSpan]

/-- Settles O7: each form is a store of its width, a write of its slot and nothing else. -/
theorem storesToTcmWriteTheirBytes : Obligations.StoresToTcmWriteTheirBytes := by
  intro s rt rs imm va key stores
  have addr : s.rx rs + sext12 imm = va := sext12_add _ _
  have writes {i : Instr} {n : Nat} (width : n ∈ [1, 2, 4, 8]) (run : exec i s = .next (s.store (s.rx rs + sext12 imm) n (s.rx rt))) :
      stores i n := by
    intro aligned fits sound
    have tcm : TcmSpan va n := ⟨by rintro rfl; revert width; decide, aligned, fits⟩
    let u := s.writeCells s.agent (tcmCells s.cur.core va n (s.rx rt).toNat)
    have rest : { u with mem := s.mem, hidden := s.hidden, nextId := s.nextId, resv := s.resv, bad := s.bad } = s := s.writeCells_rest _ _
    have cores : u.cores = s.cores := (congrArg State.cores rest :)
    have cur : u.cur = s.cur := (congrArg State.cur rest :)
    refine ⟨u.retire, ?_, ((SlotIs.refl s).of_cores cores).modSlot cur Slot.retire, fun j hj => ?_, fun a ha => ?_, ?_, ?_⟩
    · rw [run, addr, tcm.store s _ sound]
    · have byte : u.byte (key + j) = _ := s.byte_writeCells_tcmCells s.agent s.cur.core va (s.rx rt).toNat hj
      have own : u.readByte s.agent (key + j) = u.byte (key + j) := s.readByte_writeCells_own s.agent (mem_keys_tcmCells.2 (by omega))
      have read : u.retire.readByte s.agent = u.readByte s.agent := State.readByte_of_rest rfl s.agent
      exact ⟨byte, by rw [read, own, byte]⟩
    · have other : a ∉ (tcmCells s.cur.core va n (s.rx rt).toNat).map Prod.fst := fun h => by
        have := mem_keys_tcmCells.1 h
        omega
      refine ⟨s.byte_writeCells_ne s.agent _ a other, fun ag => ?_⟩
      have read : u.retire.readByte ag = u.readByte ag := State.readByte_of_rest rfl ag
      rw [read, s.readByte_writeCells_ne s.agent other]
    · exact s.resv_writeCells_tcmCells s.agent tcm width s.cur.core _
    · exact congrArg (fun t : State => { t with cores := s.cores }) rest
  exact ⟨writes (by decide) rfl, writes (by decide) rfl, writes (by decide) rfl, writes (by decide) rfl⟩

end Sys2Proof.Machine
end

section
/-!
PROOFS. Accesses that trap on their address, and the atomics of TCM: `lr`, `sc` and the AMOs (R79, R80, R88, R139, R140).
-/
namespace Sys2Proof.Machine

/-! ### The address of an access -/

/-- An address above every window lies in none (R88). -/
theorem winOf_beyond {va : Nat} (h : 2 ^ 48 ≤ va) : winOf va = .none := by
  rw [winOf, if_neg (by omega), if_neg (by omega), if_neg (by omega), if_neg (by omega), if_neg (by omega)]
  exact if_neg (by omega)

theorem State.prepare_misaligned (s : State) (acc : Acc) {va : Word} {n : Nat} (odd : va.toNat % n ≠ 0) (plain : inAlias va = false) :
    s.prepare acc va n = .stop (s.trap causeMisalign va) := by
  rw [State.prepare, plain, if_neg Bool.false_ne_true, if_pos odd]

theorem inAlias_beyond {va : Word} (beyond : 2 ^ 48 ≤ va.toNat) : inAlias va = false := by
  rw [inAlias, winOf_beyond beyond]

theorem State.prepare_beyond (s : State) (acc : Acc) {va : Word} {n : Nat} (hn : n ≠ 0) (aligned : va.toNat % n = 0)
    (beyond : 2 ^ 48 ≤ va.toNat) : s.prepare acc va n = .stop (s.trap causeAccess va) := by
  have pages : pagesOf va.toNat n = [] := by rw [pagesOf, winOf_beyond beyond]; rfl
  have access : resolve s s.cur.core acc va.toNat n = .access := if_pos (.inl (by omega))
  rw [State.prepare, inAlias_beyond beyond, if_neg Bool.false_ne_true, if_neg (not_not_intro aligned), pages]
  simp only [State.touchPages, List.foldl_nil, access]

/-- An instruction comes to what the checks of its access at an address outside the windows of other cores stop with. -/
def StopsWith (s : State) (i : Instr) (va : Word) (n : Nat) : Prop :=
  ∃ acc, ∀ t, inAlias va = false → s.prepare acc va n = .stop t → exec i s = .next t

theorem StopsWith.traps {s : State} {i : Instr} {va : Word} {n : Nat} (h : StopsWith s i va n) (hn : n ≠ 0) :
    (va.toNat % n ≠ 0 → inAlias va = false → exec i s = .next (s.trap 0x03 va)) ∧
      (va.toNat % n = 0 → 2 ^ 48 ≤ va.toNat → exec i s = .next (s.trap 0x04 va)) := by
  obtain ⟨acc, stops⟩ := h
  exact ⟨fun odd plain => stops _ plain (s.prepare_misaligned acc odd plain),
    fun aligned beyond => stops _ (inAlias_beyond beyond) (s.prepare_beyond acc hn aligned beyond)⟩

theorem State.prepareAmo_plain (s : State) (acc : Acc) {va : Word} (n : Nat) (plain : inAlias va = false) :
    s.prepareAmo acc va n = s.prepare acc va n := by
  rw [State.prepareAmo, plain, if_neg Bool.false_ne_true]

theorem stopsWith_load {s : State} {i : Instr} {rd : Reg} {va : Word} {n : Nat} {signed : Bool}
    (run : exec i s = .next (s.load rd va n signed)) : StopsWith s i va n :=
  ⟨.load, fun _ _ h => by rw [run, State.load, h]⟩

theorem stopsWith_store {s : State} {i : Instr} {va v : Word} {n : Nat} (run : exec i s = .next (s.store va n v)) : StopsWith s i va n :=
  ⟨.store, fun _ _ h => by rw [run, State.store, h]⟩

theorem stopsWith_loadReserve {s : State} {i : Instr} {aq : Bool} {rd : Reg} {va : Word} {n : Nat}
    (run : exec i s = .next (s.loadReserve aq false rd va n)) : StopsWith s i va n :=
  ⟨.load, fun _ plain h => by
    rw [run, State.loadReserve, Bool.false_and, if_neg Bool.false_ne_true]
    simp only [Bool.false_eq_true, if_false, s.prepareAmo_plain .load n plain, h]⟩

theorem stopsWith_storeConditional {s : State} {i : Instr} {aq : Bool} {rd : Reg} {va v : Word} {n : Nat}
    (run : exec i s = .next (s.storeConditional aq false rd va n v)) : StopsWith s i va n :=
  ⟨.store, fun _ plain h => by
    rw [run, State.storeConditional, Bool.false_and, if_neg Bool.false_ne_true]
    simp only [Bool.false_eq_true, if_false, s.prepareAmo_plain .store n plain, h]⟩

theorem stopsWith_amo {s : State} {i : Instr} {sc : Scope} {op : AmoOp} {aq : Bool} {rd : Reg} {va v : Word} {n : Nat}
    (run : exec i s = .next (s.amo sc op aq false rd va n v)) : StopsWith s i va n :=
  ⟨.amo, fun _ plain h => by
    rw [run, State.amo, Bool.false_and, if_neg Bool.false_ne_true]
    simp only [Bool.false_eq_true, if_false, s.prepareAmo_plain .amo n plain, h]⟩

/-- Settles O8: each form begins with the checks of a scalar access, which stop it. -/
theorem misalignedAndUnmappedAccessesTrap : Obligations.MisalignedAndUnmappedAccessesTrap := by
  intro s rd rt rs imm aq sc traps ea
  have checked {va : Word} {n : Nat} {i : Instr} (hn : n ≠ 0) (h : StopsWith s i va n) : traps va n i := h.traps hn
  have load {n : Nat} {i : Instr} {signed : Bool} (hn : n ≠ 0) (run : exec i s = .next (s.load rd ea n signed)) : traps ea n i :=
    checked hn (stopsWith_load run)
  have store {n : Nat} {i : Instr} (hn : n ≠ 0) (run : exec i s = .next (s.store ea n (s.rx rt))) : traps ea n i :=
    checked hn (stopsWith_store run)
  have amo {n : Nat} {i : Instr} {scope : Scope} {op : AmoOp} {aq : Bool} (hn : n ≠ 0)
      (run : exec i s = .next (s.amo scope op aq false rd (s.rx rs) n (s.rx rt))) : traps (s.rx rs) n i := checked hn (stopsWith_amo run)
  simp only [List.forall_mem_cons, List.not_mem_nil, false_implies, implies_true, and_true]
  have one : 1 ≠ 0 := by decide
  have two : 2 ≠ 0 := by decide
  have four : 4 ≠ 0 := by decide
  have eight : 8 ≠ 0 := by decide
  refine ⟨⟨load one (signed := true) rfl, load one (signed := false) rfl, store one rfl⟩,
    ⟨load two (signed := true) rfl, load two (signed := false) rfl, store two rfl⟩,
    ⟨load four (signed := true) rfl, load four (signed := false) rfl, store four rfl⟩,
    ⟨load eight (signed := true) rfl, store eight rfl⟩,
    ⟨checked four (stopsWith_loadReserve rfl), checked four (stopsWith_storeConditional rfl), ?_⟩,
    ⟨checked eight (stopsWith_loadReserve rfl), checked eight (stopsWith_storeConditional rfl), ?_⟩⟩
  · exact ⟨amo four rfl, amo four rfl, amo four rfl, amo four rfl, amo four rfl, amo four rfl, amo four rfl, amo four rfl, amo four rfl,
      amo four rfl, amo four rfl, amo four rfl, amo four rfl, amo four rfl, amo four rfl, amo four rfl, amo four rfl, amo four rfl,
      amo four rfl⟩
  · exact ⟨amo eight rfl, amo eight rfl, amo eight rfl, amo eight rfl, amo eight rfl, amo eight rfl, amo eight rfl, amo eight rfl,
      amo eight rfl, amo eight rfl, amo eight rfl, amo eight rfl, amo eight rfl, amo eight rfl, amo eight rfl, amo eight rfl, amo eight rfl,
      amo eight rfl⟩

/-! ### What the orders and the notes of an atomic leave -/

/-- `t` is `s` but for what is hidden of memory. -/
structure HiddenAlone (s t : State) : Prop where
  rest : { t with hidden := s.hidden } = s

theorem HiddenAlone.refl (s : State) : HiddenAlone s s := ⟨rfl⟩

theorem HiddenAlone.trans {s t u : State} (h : HiddenAlone s t) (k : HiddenAlone t u) : HiddenAlone s u :=
  ⟨(congrArg (fun x : State => { x with hidden := s.hidden }) k.rest).trans h.rest⟩

theorem HiddenAlone.cur {s t : State} (h : HiddenAlone s t) : t.cur = s.cur := (congrArg State.cur h.rest :)

theorem HiddenAlone.cores {s t : State} (h : HiddenAlone s t) : t.cores = s.cores := (congrArg State.cores h.rest :)

theorem HiddenAlone.bad {s t : State} (h : HiddenAlone s t) : t.bad = s.bad := (congrArg State.bad h.rest :)

theorem HiddenAlone.resv {s t : State} (h : HiddenAlone s t) : t.resv = s.resv := (congrArg State.resv h.rest :)

theorem HiddenAlone.agent {s t : State} (h : HiddenAlone s t) : t.agent = s.agent := by rw [State.agent, State.agent, h.cur]

theorem HiddenAlone.byte {s t : State} (h : HiddenAlone s t) (a : Nat) : t.byte a = s.byte a := (MemKept.of_hidden h.rest).sameBytes a

theorem HiddenAlone.badRead {s t : State} (h : HiddenAlone s t) (ag : Agent) (ks : List Nat) : t.badRead ag ks = s.badRead ag ks := by
  rw [State.badRead, State.badRead, h.bad]

theorem HiddenAlone.badPart {s t : State} (h : HiddenAlone s t) (ag : Agent) (ks : List Nat) : t.badPart ag ks = s.badPart ag ks := by
  rw [State.badPart, State.badPart, h.bad]

/-- What an atomic with rl finds: what stands before it is performed at partition scope (R131). -/
def State.released (s : State) (rl : Bool) : State := if rl then s.performSlot true true s.partView else s

theorem State.released_eq (s : State) (rl : Bool) : (if rl = true then s.performSlot true true s.partView else s) = s.released rl := rfl

theorem State.released_hidden (s : State) (rl : Bool) : HiddenAlone s (s.released rl) := by
  cases rl
  · exact .refl s
  · exact ⟨s.performSlot_hidden true true s.partView⟩

/-- The read of an atomic, noted with the hidden writes that it returns. -/
def State.noted (s : State) (ag : Agent) (keys ids : List Nat) : State := (s.noteSpan ag keys ids).noteIds ag ids

theorem State.noted_hidden (s : State) (ag : Agent) (keys ids : List Nat) : HiddenAlone s (s.noted ag keys ids) :=
  HiddenAlone.trans ⟨s.noteSpan_hidden ag keys ids⟩ ⟨(s.noteSpan ag keys ids).noteIds_hidden ag ids⟩

theorem State.noted_eq (s : State) (ag : Agent) (keys ids : List Nat) : (s.noteSpan ag keys ids).noteIds ag ids = s.noted ag keys ids := rfl

/-- What follows an atomic with aq: its accesses are performed at partition scope (R131). -/
def State.acquired (s : State) (aq : Bool) (ids : List Nat) : State := if aq then s.perform ids s.partView else s

theorem State.acquired_eq (s : State) (aq : Bool) (ids : List Nat) :
    (if aq = true then s.perform ids s.partView else s) = s.acquired aq ids := rfl

theorem State.acquired_hidden (s : State) (aq : Bool) (ids : List Nat) : HiddenAlone s (s.acquired aq ids) := by
  cases aq
  · exact .refl s
  · exact ⟨s.perform_hidden ids s.partView⟩

theorem HiddenAlone.clearResv {s t : State} (h : HiddenAlone s t) (c : Nat) (k : Fin 4) : HiddenAlone (s.clearResv c k) (t.clearResv c k) :=
  ⟨(congrArg (fun u : State => u.clearResv c k) h.rest :)⟩

/-! ### The write of an atomic -/

/-- The low bytes of `v` stand at the address in TCM, no other byte has changed, and nothing else but what is hidden of memory, the
reservations, the errors and the counter of identities. -/
structure WroteTcm (c : Nat) (va : Word) (n v : Nat) (s t : State) : Prop where
  bytes : ∀ j, j < n → t.byte ((Place.tcm c).key va.toNat + j) = BitVec.ofNat 8 (v / 256 ^ j)
  others : ∀ a, a < (Place.tcm c).key va.toNat ∨ (Place.tcm c).key va.toNat + n ≤ a → t.byte a = s.byte a
  rest : { t with mem := s.mem, hidden := s.hidden, nextId := s.nextId, resv := s.resv, bad := s.bad } = s

theorem WroteTcm.cores {c : Nat} {va : Word} {n v : Nat} {s t : State} (h : WroteTcm c va n v s t) : t.cores = s.cores :=
  (congrArg State.cores h.rest :)

theorem WroteTcm.cur {c : Nat} {va : Word} {n v : Nat} {s t : State} (h : WroteTcm c va n v s t) : t.cur = s.cur :=
  (congrArg State.cur h.rest :)

theorem State.wroteTcm (s : State) (ag : Agent) (c : Nat) (va : Word) (n v : Nat) :
    WroteTcm c va n v s (s.writeCells ag (tcmCells c va n v)) where
  bytes _ hj := s.byte_writeCells_tcmCells ag c va v hj
  others a ha := s.byte_writeCells_ne ag _ a fun h => by
    have := mem_keys_tcmCells.1 h
    omega
  rest := s.writeCells_rest ag _

theorem WroteTcm.after_hidden {c : Nat} {va : Word} {n v : Nat} {s t u : State} (k : HiddenAlone s t) (h : WroteTcm c va n v t u) :
    WroteTcm c va n v s u where
  bytes := h.bytes
  others a ha := (h.others a ha).trans (k.byte a)
  rest := (congrArg (fun x : State => { x with mem := s.mem, hidden := s.hidden, nextId := s.nextId, resv := s.resv, bad := s.bad })
    h.rest :).trans (congrArg (fun x : State => { x with mem := s.mem, nextId := s.nextId, resv := s.resv, bad := s.bad }) k.rest :)

theorem WroteTcm.hidden {c : Nat} {va : Word} {n v : Nat} {s t u : State} (h : WroteTcm c va n v s t) (k : HiddenAlone t u) :
    WroteTcm c va n v s u where
  bytes j hj := (k.byte _).trans (h.bytes j hj)
  others a ha := (k.byte a).trans (h.others a ha)
  rest := (congrArg (fun x : State => { x with mem := s.mem, hidden := s.hidden, nextId := s.nextId, resv := s.resv, bad := s.bad })
    k.rest :).trans h.rest

theorem State.writeAtomic_hidden (s : State) (ag : Agent) (sc : Scope) (cs : List (Nat × Byte)) :
    HiddenAlone (s.writeCells ag cs) (s.writeAtomic ag sc cs) := ⟨rfl⟩

/-- The write of an atomic on TCM. -/
theorem State.wroteTcm_atomic (s : State) (ag : Agent) (sc : Scope) (c : Nat) (va : Word) (n v : Nat) :
    WroteTcm c va n v s (s.writeAtomic ag sc (tcmCells c va n v)) := (s.wroteTcm ag c va n v).hidden (s.writeAtomic_hidden ag sc _)

/-- An instruction that retires with its result where memory, less what is hidden of it, and the cores stand as they did. -/
theorem SlotIs.done {s t : State} (cores : t.cores = s.cores) (cur : t.cur = s.cur) {rd : Reg} {v : Word} :
    SlotIs s (t.done rd v) (s.slot.after rd v) := by
  rw [← Slot.wx_retire]
  exact ((SlotIs.refl s).of_cores cores).modSlot cur fun sl => (sl.wx rd v).retire

/-- An instruction that has written TCM, with its result in rd. -/
theorem WroteTcm.done {c : Nat} {va : Word} {n v : Nat} {s t : State} (h : WroteTcm c va n v s t) (rd : Reg) (x : Word) :
    SlotIs s (t.done rd x) (s.slot.after rd x) ∧
      { t.done rd x with cores := s.cores, mem := s.mem, hidden := s.hidden, nextId := s.nextId, resv := s.resv, bad := s.bad } = s :=
  ⟨.done h.cores h.cur, (congrArg (fun u : State => { u with cores := s.cores }) h.rest :)⟩

/-! ### AMOs -/

theorem TcmSpan.prepareAmo {va : Word} {n : Nat} (h : TcmSpan va n) (s : State) (acc : Acc) :
    s.prepareAmo acc va n = .keys s ((tcmSpan s.cur.core va n).map some) := by
  rw [s.prepareAmo_plain acc n h.noAlias, h.prepare]

/-- An atomic with rl waits for no message of its slot. -/
theorem not_waits {s : State} {rl : Bool} (sent : rl = true → s.sendsOut .part = false) : ¬(rl && s.sendsOut .part) = true := by
  cases rl
  · exact Bool.false_ne_true
  · rw [sent rfl]
    decide

theorem TcmSpan.prepareAmo_released {va : Word} {n : Nat} (h : TcmSpan va n) (s : State) (rl : Bool) (acc : Acc) :
    (s.released rl).prepareAmo acc va n = .keys (s.released rl) ((tcmSpan s.cur.core va n).map some) := by
  rw [h.prepareAmo, (s.released_hidden rl).cur]

/-- The number that an atomic of an agent at a scope reads at an address of TCM. -/
def State.tcmAtom (s : State) (ag : Agent) (sc : Scope) (c : Nat) (va : Word) (n : Nat) : Nat :=
  natOfBytes ((tcmSpan c va n).map (s.atomByte ag sc))

theorem State.tcmAtom_eq (s : State) (ag : Agent) (sc : Scope) (c : Nat) (va : Word) (n : Nat) :
    natOfBytes ((tcmSpan c va n).map (s.atomByte ag sc)) = s.tcmAtom ag sc c va n := rfl

theorem State.tcmAtom_lt (s : State) (ag : Agent) (sc : Scope) (c : Nat) (va : Word) (n : Nat) : s.tcmAtom ag sc c va n < 2 ^ (8 * n) :=
  natOfBytes_map_lt n _ _ (by rw [tcmSpan, span, List.length_map, List.length_range])

/-- An AMO on sound bytes of TCM gives rd the old value and writes the new one. -/
theorem TcmSpan.amo {va : Word} {n : Nat} (h : TcmSpan va n) (s : State) (sc : Scope) (op : AmoOp) (aq rl : Bool) (rd : Reg) (v : Word)
    (sent : rl = true → s.sendsOut .part = false) (sound : s.badRead s.agent (tcmSpan s.cur.core va n) = none) :
    ∃ t, s.amo sc op aq rl rd va n v = t.done rd (extend true n ((s.released rl).tcmAtom s.agent sc s.cur.core va n)) ∧
      WroteTcm s.cur.core va n (op.apply (8 * n) ((s.released rl).tcmAtom s.agent sc s.cur.core va n) (v.toNat % 2 ^ (8 * n))) s t := by
  have first := s.released_hidden rl
  have sound := (first.badRead _ _).trans sound
  simp only [State.amo, if_neg (not_waits sent), s.released_eq rl, h.prepareAmo_released, realKeys_some, first.agent, sound, zip_tcmSpan,
    State.noted_eq, State.acquired_eq, State.tcmAtom_eq]
  refine ⟨_, rfl, ?_⟩
  exact .after_hidden (first.trans (State.noted_hidden _ _ _ _)) ((State.wroteTcm_atomic _ _ _ _ _ _ _).hidden (State.acquired_hidden _ _ _))

/-- An operation on numbers of `w` bits is that of an AMO. -/
def IsAmo (w : Nat) (op : AmoOp) (f : BitVec w → BitVec w → BitVec w) : Prop := ∀ o z, (f o z).toNat = op.apply w o.toNat z.toNat % 2 ^ w

theorem isAmo_of_eq {w : Nat} {op : AmoOp} {f : BitVec w → BitVec w → BitVec w} (h : ∀ o z, op.apply w o.toNat z.toNat = (f o z).toNat) :
    IsAmo w op f := fun o z => by rw [h, Nat.mod_eq_of_lt (f o z).isLt]

theorem toSigned_toNat {w : Nat} (hw : w ≠ 0) (x : BitVec w) : toSigned w x.toNat = x.toInt := by
  rw [toSigned_eq_toInt hw x.isLt, BitVec.ofNat_toNat, BitVec.setWidth_eq]

/-- The operations of Table 5-7a on numbers of `w` bits. -/
theorem amoOps {w : Nat} (hw : w ≠ 0) :
    IsAmo w .swap (fun _ z => z) ∧ IsAmo w .add (fun o z => BitVec.ofNat _ (o.toNat + z.toNat)) ∧ IsAmo w .xor (fun o z => o ^^^ z) ∧
    IsAmo w .and (fun o z => o &&& z) ∧ IsAmo w .or (fun o z => o ||| z) ∧
    IsAmo w .min (fun o z => if o.toInt < z.toInt then o else z) ∧ IsAmo w .max (fun o z => if o.toInt < z.toInt then z else o) ∧
    IsAmo w .minu (fun o z => if o.toNat < z.toNat then o else z) ∧ IsAmo w .maxu (fun o z => if o.toNat < z.toNat then z else o) := by
  refine ⟨isAmo_of_eq fun _ _ => rfl, isAmo_of_eq fun o z => (BitVec.toNat_ofNat _ _).symm, isAmo_of_eq fun o z => (BitVec.toNat_xor o z).symm,
    isAmo_of_eq fun o z => (BitVec.toNat_and o z).symm, isAmo_of_eq fun o z => (BitVec.toNat_or o z).symm, isAmo_of_eq fun o z => ?_,
    isAmo_of_eq fun o z => ?_, isAmo_of_eq fun o z => ?_, isAmo_of_eq fun o z => ?_⟩
  · rw [AmoOp.apply, toSigned_toNat hw, toSigned_toNat hw, apply_ite BitVec.toNat]
  · rw [AmoOp.apply, toSigned_toNat hw, toSigned_toNat hw, apply_ite BitVec.toNat]
  · rw [AmoOp.apply, apply_ite BitVec.toNat]
    show min o.toNat z.toNat = _
    split <;> omega
  · rw [AmoOp.apply, apply_ite BitVec.toNat]
    show max o.toNat z.toNat = _
    split <;> omega

/-- A byte of a number of `n` bytes does not depend on what stands above them. -/
theorem ofNat_div_mod (v : Nat) {n j : Nat} (hj : j < n) : BitVec.ofNat 8 (v % 2 ^ (8 * n) / 256 ^ j) = BitVec.ofNat 8 (v / 256 ^ j) := by
  refine BitVec.eq_of_toNat_eq ?_
  obtain ⟨k, rfl⟩ := Nat.exists_eq_add_of_lt hj
  have split : 2 ^ (8 * (j + k + 1)) = 256 ^ j * (256 * 256 ^ k) := by
    rw [show (256 : Nat) = 2 ^ 8 by rfl, ← Nat.pow_mul, ← Nat.pow_mul, ← Nat.pow_add, ← Nat.pow_add]
    congr 1
    omega
  rw [BitVec.toNat_ofNat, BitVec.toNat_ofNat, split, Nat.mod_mul_right_div_self]
  exact Nat.mod_mod_of_dvd _ (Nat.dvd_mul_right 256 _)

/-- Settles O10: each form is an AMO of its operation, which on TCM reads, writes its bytes and gives rd the old value. -/
theorem atomicsUpdateTcmIndivisibly : Obligations.AtomicsUpdateTcmIndivisibly := by
  intro s aq rl sc rd rt rs va key first own old amo both sent
  have firstEq : s.released (isSet rl) = first := by simp only [State.released, isSet, beq_iff_eq]; rfl
  have oldEq (n : Nat) (u : State) (sp : Scope) : BitVec.ofNat (8 * n) (u.tcmAtom s.agent sp s.cur.core va n) = old n u sp := by
    rw [State.tcmAtom, tcmSpan, span, List.map_map]
    rfl
  have runs {n : Nat} (hn : n ≠ 0) (aligned : va.toNat % n = 0) (fits : va.toNat + n ≤ 0x10000)
      (sound : s.badRead s.agent (tcmSpan s.cur.core va n) = none) {op : AmoOp} {f : BitVec (8 * n) → BitVec (8 * n) → BitVec (8 * n)}
      (hf : IsAmo (8 * n) op f) {sp : Scope} {aq rl : Bool} (sent : rl = true → s.sendsOut .part = false) {i : Instr}
      (run : exec i s = .next (s.amo sp op aq rl rd va n (s.rx rt))) : amo n f (s.released rl) sp i := by
    obtain ⟨t, ht, wrote⟩ := TcmSpan.amo ⟨hn, aligned, fits⟩ s sp op aq rl rd (s.rx rt) sent sound
    obtain ⟨here, rest⟩ := wrote.done rd (extend true n ((s.released rl).tcmAtom s.agent sp s.cur.core va n))
    have value := (extend_signed hn ((s.released rl).tcmAtom_lt s.agent sp s.cur.core va n)).trans (congrArg (BitVec.signExtend 64) (oldEq n _ sp))
    have num : (old n (s.released rl) sp).toNat = (s.released rl).tcmAtom s.agent sp s.cur.core va n := by
      rw [← oldEq, BitVec.toNat_ofNat, Nat.mod_eq_of_lt (State.tcmAtom_lt _ _ _ _ _ _)]
    refine ⟨_, run.trans (congrArg _ ht), value ▸ here, fun j hj => ?_, wrote.others, rest⟩
    rw [hf, num, ofNat_div_mod _ hj, BitVec.toNat_setWidth]
    exact wrote.bytes j hj
  have pair {n : Nat} (hn : n ≠ 0) (aligned : va.toNat % n = 0) (fits : va.toNat + n ≤ 0x10000)
      (sound : s.badRead s.agent (tcmSpan s.cur.core va n) = none) {op : AmoOp} {f : BitVec (8 * n) → BitVec (8 * n) → BitVec (8 * n)}
      (hf : IsAmo (8 * n) op f) {i j : Instr} (runI : exec i s = .next (s.amo .part op (isSet aq) (isSet rl) rd va n (s.rx rt)))
      (runJ : exec j s = .next (s.amo own op false false rd va n (s.rx rt))) : both n f i j :=
    ⟨firstEq ▸ runs hn aligned fits sound hf (fun e => sent (beq_iff_eq.1 e)) runI,
      runs hn aligned fits sound hf (rl := false) (fun e => nomatch e) runJ⟩
  refine ⟨fun aligned fits sound => ?_, fun aligned fits sound => ?_⟩
  · obtain ⟨swap, add, xor, and, or, min, max, minu, maxu⟩ := amoOps (w := 8 * 4) (by decide)
    have four {op : AmoOp} {f : BitVec (8 * 4) → BitVec (8 * 4) → BitVec (8 * 4)} (hf : IsAmo (8 * 4) op f) {i j : Instr} :=
      pair (i := i) (j := j) (by decide) aligned fits sound hf
    exact ⟨four swap rfl rfl, four add rfl rfl, four xor rfl rfl, four and rfl rfl, four or rfl rfl, four min rfl rfl, four max rfl rfl,
      four minu rfl rfl, four maxu rfl rfl, runs (op := .fadd) (rl := false) (by decide) aligned fits sound
        (fun o z => BitVec.toNat_ofNat _ _) (fun e => nomatch e) rfl⟩
  · obtain ⟨swap, add, xor, and, or, min, max, minu, maxu⟩ := amoOps (w := 8 * 8) (by decide)
    have eight {op : AmoOp} {f : BitVec (8 * 8) → BitVec (8 * 8) → BitVec (8 * 8)} (hf : IsAmo (8 * 8) op f) {i j : Instr} :=
      pair (i := i) (j := j) (by decide) aligned fits sound hf
    exact ⟨eight swap rfl rfl, eight add rfl rfl, eight xor rfl rfl, eight and rfl rfl, eight or rfl rfl, eight min rfl rfl,
      eight max rfl rfl, eight minu rfl rfl, eight maxu rfl rfl⟩

/-! ### `lr` and `sc` -/

theorem TcmSpan.granuleAt {va : Word} {n : Nat} (h : TcmSpan va n) (s : State) (c : Nat) :
    s.granuleAt va ((tcmSpan c va n).map some) = (Place.tcm c).key va.toNat / 8 := by
  obtain ⟨m, rfl⟩ := Nat.exists_eq_succ_of_ne_zero h.nonzero
  have head : ((tcmSpan c va (m + 1)).map some).head? = some (some ((Place.tcm c).key va.toNat)) := by
    rw [tcmSpan, span, List.range_succ_eq_map, List.map_cons, List.map_cons, List.head?_cons, Nat.add_zero]
  rw [State.granuleAt, head]
  rfl

/-- `lr` of sound bytes of TCM gives rd what an atomic of partition scope reads and leaves its slot the one reservation of the granule. -/
theorem TcmSpan.loadReserve {va : Word} {n : Nat} (h : TcmSpan va n) (s : State) (aq rl : Bool) (rd : Reg)
    (sent : rl = true → s.sendsOut .part = false) (sound : s.badRead s.agent (tcmSpan s.cur.core va n) = none) :
    ∃ t, HiddenAlone (s.clearResv s.cur.core s.cur.slot) t ∧
      s.loadReserve aq rl rd va n =
        State.done { t with resv := ⟨s.cur.core, s.cur.slot.val, (Place.tcm s.cur.core).key va.toNat / 8⟩ :: t.resv } rd
          (extend true n ((s.released rl).tcmAtom s.agent .part s.cur.core va n)) := by
  have first := s.released_hidden rl
  have sound := (first.badRead _ _).trans sound
  have noted := first.trans ((s.released rl).noted_hidden s.agent (tcmSpan s.cur.core va n)
    (atomIds (s.released rl) s.agent .part (tcmSpan s.cur.core va n)))
  have after := (noted.clearResv s.cur.core s.cur.slot).trans (State.acquired_hidden _ aq
    (atomIds (s.released rl) s.agent .part (tcmSpan s.cur.core va n)))
  refine ⟨_, after, ?_⟩
  simp only [State.loadReserve, if_neg (not_waits sent), s.released_eq rl, h.prepareAmo_released, realKeys_some, first.agent, sound,
    State.noted_eq, State.acquired_eq, first.cur, h.granuleAt, after.cur, State.clearResv_cur, List.map_map] <;> rfl

/-- `sc` under the reservation of its granule writes its bytes and gives 0. -/
theorem TcmSpan.storeConditional_held {va : Word} {n : Nat} (h : TcmSpan va n) (width : n ∈ [1, 2, 4, 8]) (s : State) (aq rl : Bool)
    (rd : Reg) (v : Word) (sent : rl = true → s.sendsOut .part = false)
    (sound : s.badPart s.agent (tcmSpan s.cur.core va n) = none)
    (held : s.resv.any (fun r => r.core == s.cur.core && r.slot == s.cur.slot.val &&
      r.granule == (Place.tcm s.cur.core).key va.toNat / 8) = true) :
    ∃ t, s.storeConditional aq rl rd va n v = t.done rd 0 ∧ WroteTcm s.cur.core va n v.toNat s t ∧
      t.resv = (s.resv.filter fun r => r.granule ≠ (Place.tcm s.cur.core).key va.toNat / 8).filter
        fun r => !(r.core == s.cur.core && r.slot == s.cur.slot.val) := by
  have first := s.released_hidden rl
  have sound := (first.badPart _ _).trans sound
  have write := State.wroteTcm_atomic (s.released rl) s.agent .part s.cur.core va n v.toNat
  have cleared : WroteTcm s.cur.core va n v.toNat (s.released rl)
      (((s.released rl).writeAtomic s.agent .part (tcmCells s.cur.core va n v.toNat)).clearResv s.cur.core s.cur.slot) :=
    ⟨write.bytes, write.others, write.rest⟩
  have acquired := State.acquired_hidden (((s.released rl).writeAtomic s.agent .part
    (tcmCells s.cur.core va n v.toNat)).clearResv s.cur.core s.cur.slot) aq [(s.released rl).nextId]
  have resv := (s.released rl).resv_writeCells_tcmCells s.agent h width s.cur.core v.toNat
  refine ⟨_, ?_, .after_hidden first (cleared.hidden acquired), ?_⟩
  · simp only [State.storeConditional, if_neg (not_waits sent), s.released_eq rl, h.prepareAmo_released, realKeys_some, first.agent,
      first.cur, first.resv, h.granuleAt, held, if_true, sound, zip_tcmSpan, State.acquired_eq]
  · rw [acquired.resv, ← first.resv, ← resv]
    rfl

/-- `sc` without the reservation of its granule gives 1. -/
theorem TcmSpan.storeConditional_lost {va : Word} {n : Nat} (h : TcmSpan va n) (s : State) (aq rl : Bool)
    (rd : Reg) (v : Word) (sent : rl = true → s.sendsOut .part = false)
    (lost : s.resv.any (fun r => r.core == s.cur.core && r.slot == s.cur.slot.val &&
      r.granule == (Place.tcm s.cur.core).key va.toNat / 8) = false) :
    s.storeConditional aq rl rd va n v = ((s.released rl).clearResv s.cur.core s.cur.slot).done rd 1 := by
  have first := s.released_hidden rl
  simp only [State.storeConditional, if_neg (not_waits sent), s.released_eq rl, h.prepareAmo_released, first.cur, first.resv, h.granuleAt, lost,
    Bool.false_eq_true, if_false]

/-- Settles O11: on TCM `lr` leaves its slot the reservation of its granule, and `sc` writes under it alone. -/
theorem reservationsPairLrWithSc : Obligations.ReservationsPairLrWithSc := by
  intro s aq rl rd rt rs n va c key mine ks first lr sc width aligned fits soundR soundW sent
  have hn : n ≠ 0 := by omega
  have tcm : TcmSpan va n := ⟨hn, aligned, fits⟩
  have sent : isSet rl = true → s.sendsOut .part = false := fun e => sent (beq_iff_eq.1 e)
  have firstEq : s.released (isSet rl) = first := by simp only [State.released, isSet, beq_iff_eq]; rfl
  have mineEq : (fun r : Reservation => r.core == c && r.slot == s.cur.slot.val) = mine := by
    funext r
    simp only [mine, Bool.decide_and, beq_eq_decide]
  have runLr : exec lr s = .next (s.loadReserve (isSet aq) (isSet rl) rd va n) := by
    rcases width with rfl | rfl <;> rfl
  have runSc : exec sc s = .next (s.storeConditional (isSet aq) (isSet rl) rd va n (s.rx rt)) := by
    rcases width with rfl | rfl <;> rfl
  refine ⟨?_, ?_⟩
  · obtain ⟨t, alone, ht⟩ := tcm.loadReserve s (isSet aq) (isSet rl) rd sent soundR
    rw [extend_signed hn (State.tcmAtom_lt _ _ _ _ _ _), firstEq] at ht
    refine ⟨_, runLr.trans (congrArg _ ht), .done (by exact alone.cores) (by exact alone.cur), ?_, ?_⟩
    · exact congrArg _ (alone.resv.trans (by rw [← mineEq]; rfl))
    · exact (congrArg (fun u : State => { u with cores := s.cores, resv := s.resv }) alone.rest :)
  · have heldEq : (s.resv.any fun r => mine r && r.granule == key / 8) = s.resv.any fun r =>
        r.core == s.cur.core && r.slot == s.cur.slot.val && r.granule == (Place.tcm s.cur.core).key va.toNat / 8 := by
      rw [← mineEq]
    split
    · rename_i held
      obtain ⟨t, ht, wrote, resv⟩ := tcm.storeConditional_held (by rcases width with rfl | rfl <;> decide) s (isSet aq) (isSet rl) rd
        (s.rx rt) sent soundW (heldEq.symm.trans held)
      refine ⟨_, runSc.trans (congrArg _ ht), (wrote.done rd 0).1, wrote.bytes, wrote.others, resv.trans ?_⟩
      rw [← mineEq]
    · rename_i lost
      have ht := tcm.storeConditional_lost s (isSet aq) (isSet rl) rd (s.rx rt) sent (heldEq.symm.trans (Bool.not_eq_true _ ▸ lost))
      have alone := s.released_hidden (isSet rl)
      refine ⟨_, runSc.trans (congrArg _ ht), .done (by exact alone.cores) (by exact alone.cur), alone.byte, ?_⟩
      rw [← mineEq, ← alone.resv]
      rfl

end Sys2Proof.Machine
end

section
/-!
PROOFS. The Zicsr forms: what each CSR reads as, and what a write of it changes (R76, R77, Tables 4-3 to 5-11).
-/
namespace Sys2Proof.Machine

/-! ### A word of fields -/

/-- The number of two fields side by side. -/
theorem toNat_append_add {m n : Nat} (x : BitVec m) (y : BitVec n) : (x ++ y).toNat = x.toNat * 2 ^ n + y.toNat := by
  rw [BitVec.toNat_append, ← Nat.shiftLeft_add_eq_or_of_lt y.isLt, Nat.shiftLeft_eq]

/-- A truth value as a number of one bit. -/
def bitOf (b : Bool) : Nat := if b then 1 else 0

theorem toNat_ofBool (b : Bool) : (BitVec.ofBool b).toNat = bitOf b := by cases b <;> rfl

theorem bitOf_le (b : Bool) : bitOf b ≤ 1 := by cases b <;> decide

/-! ### The status words -/

/-- The rel bit of a channel, 0 for one without a record (Table 4-3). -/
def Chan.relOf (q : Chan) : Bool :=
  match q.hrec with
  | some r => r.rel
  | none => false

theorem chStateWord_eq (s : State) (c : Nat) {ch : BitVec 6} (h : ch ≠ 63) :
    chStateWord s c ch.toNat = BitVec.ofNat 64 (bitOf (s.chan c ch.toNat).en + 2 * bitOf (s.chan c ch.toNat).pend +
      4 * bitOf (s.chan c ch.toNat).relOf + 8 * bitOf (s.chan c ch.toNat).hrec.isSome + 16 * bitOf (s.chan c ch.toNat).busy +
      2 ^ 8 * ((s.chan c ch.toNat).queue.length % 256) + 2 ^ 16 * ch.toNat) := by
  have ne : ch.toNat ≠ 63 := fun e => h (BitVec.eq_of_toNat_eq e)
  have word : chStateWord s c ch.toNat = 0#42 ++ BitVec.ofNat 6 ch.toNat ++ BitVec.ofNat 8 (s.chan c ch.toNat).queue.length ++ 0#3 ++
      BitVec.ofBool (s.chan c ch.toNat).busy ++ BitVec.ofBool (s.chan c ch.toNat).hrec.isSome ++ BitVec.ofBool (s.chan c ch.toNat).relOf ++
      BitVec.ofBool (s.chan c ch.toNat).pend ++ BitVec.ofBool (s.chan c ch.toNat).en := if_neg ne
  refine BitVec.eq_of_toNat_eq ?_
  rw [word]
  simp only [toNat_append_add, toNat_ofBool, BitVec.toNat_ofNat]
  have en := bitOf_le (s.chan c ch.toNat).en
  have pend := bitOf_le (s.chan c ch.toNat).pend
  have rel := bitOf_le (s.chan c ch.toNat).relOf
  have bound := bitOf_le (s.chan c ch.toNat).hrec.isSome
  have busy := bitOf_le (s.chan c ch.toNat).busy
  omega

theorem chStateWord_rewards (s : State) (c : Nat) :
    chStateWord s c 63 = BitVec.ofNat 64 (4 + 2 ^ 8 * ((s.core c).rewards.length % 256) + 2 ^ 16 * 63) := by
  refine BitVec.eq_of_toNat_eq ?_
  simp only [chStateWord, if_true, toNat_append_add, BitVec.toNat_ofNat]
  omega

theorem jobstatWord_eq (co : CoreSt) :
    jobstatWord co = BitVec.ofNat 64 (bitOf co.badc + 2 * co.fsticky.toNat + 2 ^ 36 * co.fclass.toNat + 2 ^ 40 * co.fcause.toNat +
      2 ^ 48 * co.fjob.toNat) := by
  refine BitVec.eq_of_toNat_eq ?_
  have badc := bitOf_le co.badc
  simp only [jobstatWord, toNat_append_add, toNat_ofBool, BitVec.toNat_ofNat]
  omega

theorem cstatWord_eq (sl : Slot) (k : Fin 4) :
    cstatWord sl k = BitVec.ofNat 64 (2 ^ 4 * bitOf sl.pfx.isSome + 2 ^ 8 * bitOf sl.crit + 2 ^ 10 * k.val + 2 ^ 15 * bitOf sl.compat) := by
  refine BitVec.eq_of_toNat_eq ?_
  have prefixed := bitOf_le sl.pfx.isSome
  have crit := bitOf_le sl.crit
  have compat := bitOf_le sl.compat
  simp only [cstatWord, toNat_append_add, toNat_ofBool, BitVec.toNat_ofNat]
  omega

theorem coreidWord_eq (s : State) {c : Nat} (hc : c < 2 ^ 17) (hp : posOf s (sgOf c) < 1008) :
    coreidWord s c = BitVec.ofNat 64 (c + 2 ^ 32 * (posOf s (sgOf c) / 24) + 2 ^ 40 * (posOf s (sgOf c) % 24) + 2 ^ 48 * coreField s c) := by
  have field : coreField s c = 6 * (posOf s (sgOf c) / 24 / 6) + posOf s (sgOf c) % 24 / 4 := rfl
  have row : posOf s (sgOf c) / 24 < 42 := by omega
  have col : posOf s (sgOf c) % 24 < 24 := Nat.mod_lt _ (by decide)
  refine BitVec.eq_of_toNat_eq ?_
  rw [field]
  simp only [coreidWord, fieldOfPos, rowOf, colOf, toNat_append_add, BitVec.toNat_ofNat]
  generalize posOf s (sgOf c) / 24 = r at row ⊢
  generalize posOf s (sgOf c) % 24 = k at col ⊢
  have few : 6 * (r / 6) + k / 4 < 2 ^ 8 := by omega
  rw [Nat.mod_eq_of_lt few, Nat.mod_eq_of_lt (show k < 2 ^ 5 by omega), Nat.mod_eq_of_lt (show r < 2 ^ 6 by omega), Nat.mod_eq_of_lt hc,
    Nat.mod_eq_of_lt (by omega)]
  omega

theorem portstWord_eq (sl : Slot) :
    portstWord sl = BitVec.ofNat 64 (min sl.lq.length 255 + 2 ^ 8 * min sl.sq.length 255 + 2 ^ 16 * min sl.bq.length 255 +
      2 ^ 24 * min sl.aq.length 255) := by
  refine BitVec.eq_of_toNat_eq ?_
  simp only [portstWord, sat255, toNat_append_add, BitVec.toNat_ofNat]
  omega

theorem append_left_eq (x y : BitVec 32) : x ++ y = BitVec.ofNat 64 (y.toNat + 2 ^ 32 * x.toNat) := by
  refine BitVec.eq_of_toNat_eq ?_
  simp only [toNat_append_add, BitVec.toNat_ofNat]
  omega

theorem tabdatWord_beyond (s : State) (c : Nat) {sel : BitVec 11} (h : 320 < sel.toNat % 512) : tabdatWord s c sel = 0 := by
  have index := toNat_extractLsb'_zero sel 9
  exact if_pos (by omega)

theorem tabdatWord_eq (s : State) (c : Nat) {sel : BitVec 11} (h : sel.toNat % 512 ≤ 320) :
    tabdatWord s c sel = BitVec.ofNat 64 (natOfBytes ((List.range 4).map fun b =>
      s.byte ((Place.table (c * 4 + sel.toNat / 512)).key (4 * (sel.toNat % 512) + b)))) := by
  have index := toNat_extractLsb'_zero sel 9
  have table : (sel.extractLsb' 9 2).toNat = sel.toNat / 512 := by
    rw [toNat_extractLsb']
    omega
  rw [tabdatWord, if_neg (by omega), index, table]
  rfl

/-! ### A Zicsr form that reads -/

theorem State.csr_read (s : State) (rd : Reg) (n : BitVec 12) {new : Word → Option Word} (h : new (csrRead s n) = none) :
    s.csr rd n new = s.done rd (csrRead s n) := by
  rw [State.csr, h]

theorem gives_csr {s : State} {rd : Reg} {n : BitVec 12} {v : Word} (h : csrRead s n = v) :
    ∀ i ∈ [Instr.csrrs rd n 0, .csrrc rd n 0, .csrrsi rd n 0, .csrrci rd n 0], Gives i s rd v := by
  simp only [List.forall_mem_cons, List.not_mem_nil, false_implies, implies_true, and_true]
  have read {i : Instr} {new : Word → Option Word} (run : exec i s = .next (s.csr rd n new)) (none : new (csrRead s n) = none) :
      Gives i s rd v := gives_of_done (run.trans (congrArg _ (s.csr_read rd n none))) h
  exact ⟨read rfl rfl, read rfl rfl, read rfl rfl, read rfl rfl⟩

/-! ### A Zicsr form that writes -/

theorem State.csr_write (s : State) (rd : Reg) (n : BitVec 12) {new : Word → Option Word} {v : Word} (h : new (csrRead s n) = some v) :
    s.csr rd n new = (s.csrWrite n v).done rd (csrRead s n) := by
  rw [State.csr, h]

/-- A write of a field of the current slot. -/
theorem leaves_modSlot {s : State} {i : Instr} {f : Slot → Slot} {rd : Reg} {v : Word} (run : exec i s = .next ((s.modSlot f).done rd v)) :
    Leaves i s ((f s.slot).after rd v) := by
  have changed := s.onlySlot_modSlot f
  rw [← Slot.wx_retire]
  exact ⟨_, run, changed.toSlotIs.modSlot rfl fun sl => (sl.wx rd v).retire, rfl⟩

/-- A write of a field that a core holds beside its slots. -/
theorem modCore_done {s : State} {i : Instr} {f : CoreSt → CoreSt} (hf : ∀ co, (f co).slots = co.slots) {rd : Reg} {v : Word}
    (run : exec i s = .next ((s.modCore s.cur.core f).done rd v)) : ∃ t, exec i s = .next t ∧
      t.slotOf s.cur.core s.cur.slot = s.slot.after rd v ∧ (∀ d k, d ≠ s.cur.core ∨ k ≠ s.cur.slot → t.slotOf d k = s.slotOf d k) ∧
      (∀ d, { t.core d with slots := (s.core d).slots } = if d = s.cur.core then f (s.core s.cur.core) else s.core d) ∧
      { t with cores := s.cores } = s := by
  have h := (s.modCore s.cur.core f).onlySlot_done rd v
  have slots (d : Nat) (k : Fin 4) : (s.modCore s.cur.core f).slotOf d k = s.slotOf d k := s.slotOf_modCore s.cur.core hf d k
  refine ⟨_, run, h.here.trans (congrArg (Slot.after · rd v) (slots _ _)), fun d k other => (h.slots d k other).trans (slots d k),
    fun d => ?_, rfl⟩
  have core := h.cores d
  have same : ((s.modCore s.cur.core f).core d).slots = (s.core d).slots := by
    rw [State.core_modCore]
    split
    · subst d; exact hf _
    · rfl
  rw [same, State.core_modCore] at core
  exact core

theorem setWidth_eq_extract {n k : Nat} (x : BitVec n) : x.setWidth k = x.extractLsb' 0 k :=
  BitVec.eq_of_toNat_eq (by rw [BitVec.toNat_setWidth, toNat_extractLsb'_zero])

/-- The lap limit and the patience that a write of `rgpat` stores (Table 11-2). -/
theorem rgpatOf_eq (v : Word) : rgpatOf v = BitVec.ofNat 20 ((if v.toNat / 2 ^ 16 % 16 = 0 then 4 else v.toNat / 2 ^ 16 % 16) * 2 ^ 16 +
    if v.toNat % 2 ^ 16 = 0 then 1 else v.toNat % 2 ^ 16) := by
  have laps : v.extractLsb' 16 4 = 0 ↔ v.toNat / 2 ^ 16 % 16 = 0 := by rw [← BitVec.toNat_inj, toNat_extractLsb']; rfl
  have pat : v.extractLsb' 0 16 = 0 ↔ v.toNat % 2 ^ 16 = 0 := by rw [← BitVec.toNat_inj, toNat_extractLsb'_zero]; rfl
  refine BitVec.eq_of_toNat_eq ?_
  simp only [rgpatOf, toNat_append_add, BitVec.toNat_ofNat, apply_ite BitVec.toNat, laps, pat, toNat_extractLsb']
  split <;> split <;> omega

/-- Settles O12: the forms read and write through `csrRead` and `csrWrite`, CSR by CSR. -/
theorem csrFormsReadAndWriteTheirFields : Obligations.CsrFormsReadAndWriteTheirFields := by
  refine ⟨?_, ?_⟩
  · intro s rd c co sl bit reads q rel
    have reads_of {n : BitVec 12} {v : Word} (h : csrRead s n = v) : reads n v := gives_csr h
    refine ⟨fun ne => reads_of (chStateWord_eq s c ne), reads_of rfl, reads_of (append_left_eq _ _), reads_of rfl, reads_of (jobstatWord_eq co),
      reads_of rfl, reads_of rfl, reads_of rfl, reads_of rfl, reads_of rfl, reads_of rfl, reads_of rfl, reads_of rfl, reads_of rfl,
      fun whole => reads_of ?_, fun b behind => reads_of ?_, reads_of (cstatWord_eq sl _), reads_of rfl, reads_of rfl,
      fun hc hp => reads_of (coreidWord_eq s hc hp), reads_of rfl, reads_of (portstWord_eq sl), fun rewards => reads_of ?_,
      fun beyond => reads_of (tabdatWord_beyond s c beyond), fun within => reads_of (tabdatWord_eq s c within),
      fun p st hp hst => reads_of ?_, reads_of rfl⟩
    · show sl.retired = _
      simp only [Slot.retired, whole]
    · show sl.retired = _
      simp only [Slot.retired, behind]
    · show chStateWord s c sl.sel.toNat = _
      rw [rewards]
      exact chStateWord_rewards s c
    · show capOf s c = _
      simp only [capOf, hp, hst]
  · intro s rd rs z csr c old x y forms p mem v laps pat slotIs coreIs desc
    have run : exec p.1 s = .next ((s.csrWrite csr v).done rd old) := by
      have written {i : Instr} {new : Word → Option Word} {w : Word} (run : exec i s = .next (s.csr rd csr new)) (h : new old = some w) :
          exec i s = .next ((s.csrWrite csr w).done rd old) := run.trans (congrArg _ (s.csr_write rd csr h))
      obtain h | h := List.mem_append.1 mem
      · obtain h | h := List.mem_append.1 h
        · simp only [List.mem_cons, List.not_mem_nil, or_false] at h
          obtain h | h := h <;> rw [show v = p.2 from rfl, h]
          · exact written rfl rfl
          · exact written rfl rfl
        · split at h
          · cases h
          · rename_i ne
            simp only [List.mem_cons, List.not_mem_nil, or_false] at h
            obtain h | h := h <;> rw [show v = p.2 from rfl, h]
            · exact written rfl (if_neg ne)
            · exact written rfl (if_neg ne)
      · split at h
        · cases h
        · rename_i ne
          simp only [List.mem_cons, List.not_mem_nil, or_false] at h
          obtain h | h := h <;> rw [show v = p.2 from rfl, h]
          · exact written rfl (if_neg ne)
          · exact written rfl (if_neg ne)
    have slot {f : Slot → Slot} (h : s.csrWrite csr v = s.modSlot f) : slotIs ((f s.slot).after rd old) :=
      leaves_modSlot (run.trans (by rw [h]))
    have core {f : CoreSt → CoreSt} (h : s.csrWrite csr v = s.modCore c f) (hf : ∀ co, (f co).slots = co.slots) : coreIs (f (s.core c)) :=
      modCore_done hf (run.trans (by rw [h]))
    refine ⟨?_, ?_, ?_, ?_, ?_, ?_, ?_, ?_, ?_, ?_, ?_, ?_⟩
    · rintro rfl
      exact slot (f := fun sl => { sl with sel := v.extractLsb' 16 6 }) rfl
    · rintro rfl
      obtain ⟨here, others, chans, cores, rest⟩ := s.modChan_done s.slot.sel.toNat (fun q => { q with drops := v.setWidth 32 }) rd old
      refine ⟨_, run, here, fun ch => (chans ch).trans ?_, others, cores, rest⟩
      split
      · subst ch; rfl
      · rfl
    · rintro rfl
      exact slot (f := fun sl => { sl with spawnb := v.extractLsb' 32 32 }) rfl
    · rintro rfl
      rw [← setWidth_eq_extract]
      exact slot (f := fun sl => { sl with amoscope := amoscopeOf (v.setWidth 3) }) rfl
    · rintro rfl
      exact core (f := fun co => { co with
        fsticky := co.fsticky &&& ~~~v.extractLsb' 1 5, badc := co.badc && !v.getLsbD 0 }) rfl fun _ => rfl
    · rintro rfl
      rw [← setWidth_eq_extract]
      exact slot (f := fun sl => { sl with tabsel := v.setWidth 11 }) rfl
    · rintro rfl
      exact core (f := fun co => { co with tdesc := co.tdesc.set 0 (v &&& tdescMask) }) rfl fun _ => rfl
    · rintro rfl
      exact core (f := fun co => { co with tdesc := co.tdesc.set 1 (v &&& tdescMask) }) rfl fun _ => rfl
    · rintro rfl
      exact core (f := fun co => { co with tdesc := co.tdesc.set 2 (v &&& tdescMask) }) rfl fun _ => rfl
    · rintro rfl
      exact core (f := fun co => { co with tdesc := co.tdesc.set 3 (v &&& tdescMask) }) rfl fun _ => rfl
    · rintro rfl
      rw [← setWidth_eq_extract]
      exact core (f := fun co => { co with engwt := v.setWidth 12 }) rfl fun _ => rfl
    · rintro rfl
      rw [← rgpatOf_eq]
      exact core (f := fun co => { co with rgpat := rgpatOf v }) rfl fun _ => rfl

end Sys2Proof.Machine
end

section
/-!
PROOFS. Walks and invalidations of the TLBs, and the errors that the scrubber finds (R91, R95, R101, R156, R190, R287).
-/
namespace Sys2Proof.Machine

/-! ### A walk -/

theorem tlbAdd_of_miss {size pn : Nat} {t : List (Nat × Leaf)} {l : Leaf} (miss : tlbFind t pn = none) :
    tlbAdd size t pn l = ((pageKey l pn, l) :: t).take size := by
  rw [tlbAdd, miss]
  rfl

theorem l2Add_of_miss {pn : Nat} {t : List (Nat × Leaf)} {l : Leaf} (miss : tlbFind t pn = none) :
    l2Add t pn l = ((pageKey l pn, l) :: t.filter fun f => tlbSet f == tlbSet (pageKey l pn, l)).take 8 ++
      t.filter fun f => tlbSet f != tlbSet (pageKey l pn, l) := by
  rw [l2Add, miss]
  rfl

/-- A core's TLB for data or for instructions. -/
def CoreSt.tlb (co : CoreSt) (fetch : Bool) : List (Nat × Leaf) := if fetch then co.itlb else co.dtlb

/-- Where both TLBs miss, the leaf of an access is that of the page table. -/
theorem State.leafFor_of_misses {s : State} {c pn : Nat} {fetch : Bool} (own : tlbFind ((s.core c).tlb fetch) pn = none)
    (l2 : tlbFind (s.cluster (clusterOf c)).l2tlb pn = none) : s.leafFor c fetch pn = leafOf (s.pageTable (corePart s c)) pn := by
  rw [CoreSt.tlb] at own
  simp only [State.leafFor, own, l2]

/-- The state in which a walk has filled the TLBs of its core and of its cluster. -/
def State.filled (s : State) (c : Nat) (fetch : Bool) (pn : Nat) (l : Leaf) : State :=
  (s.modCore c fun co =>
    if fetch then { co with itlb := tlbAdd 16 co.itlb pn l } else { co with dtlb := tlbAdd 32 co.dtlb pn l }).modCluster (clusterOf c)
      fun cl => { cl with l2tlb := l2Add cl.l2tlb pn l }

/-- A walk that both TLBs miss is counted, and fills them where its leaf is present. -/
theorem State.touchPage_of_misses {s : State} {c pn : Nat} {fetch : Bool} {l : Leaf} (own : tlbFind ((s.core c).tlb fetch) pn = none)
    (l2 : tlbFind (s.cluster (clusterOf c)).l2tlb pn = none) (leaf : leafOf (s.pageTable (corePart s c)) pn = some l) :
    s.touchPage c fetch pn = if l.state = .present then (s.countWalk c pn l).filled c fetch pn l else s.countWalk c pn l := by
  have found := (s.leafFor_of_misses own l2).trans leaf
  rw [CoreSt.tlb] at own
  simp only [State.touchPage, own, found, l2, Option.isSome_none, Bool.false_eq_true, if_false, beq_iff_eq]
  rfl

theorem State.hot_countWalk (s : State) (c pn : Nat) (l : Leaf) :
    (((s.countWalk c pn l).hot.getD l.home []).getD (pageKey l pn) []) =
      bumpHot ((s.hot.getD l.home []).getD (pageKey l pn) []) (posOf s (sgOf c)) (posOf s l.home) := by
  simp only [State.countWalk, AMap.getD_put_self]

theorem State.countWalk_hot (s : State) (c pn : Nat) (l : Leaf) : { s.countWalk c pn l with hot := s.hot } = s := rfl

theorem State.slotOf_filled (s : State) (c : Nat) (fetch : Bool) (pn : Nat) (l : Leaf) (d : Nat) (k : Fin 4) :
    (s.filled c fetch pn l).slotOf d k = s.slotOf d k :=
  s.slotOf_modCore c (f := fun co => if fetch then { co with itlb := tlbAdd 16 co.itlb pn l } else { co with dtlb := tlbAdd 32 co.dtlb pn l })
    (fun _ => by split <;> rfl) d k

theorem State.core_filled (s : State) (c : Nat) (fetch : Bool) (pn : Nat) (l : Leaf) :
    (s.filled c fetch pn l).core c =
      if fetch then { s.core c with itlb := tlbAdd 16 (s.core c).itlb pn l } else { s.core c with dtlb := tlbAdd 32 (s.core c).dtlb pn l } :=
  s.core_modCore_self c fun co => if fetch then { co with itlb := tlbAdd 16 co.itlb pn l } else { co with dtlb := tlbAdd 32 co.dtlb pn l }

theorem State.cluster_filled (s : State) (c : Nat) (fetch : Bool) (pn : Nat) (l : Leaf) :
    (s.filled c fetch pn l).cluster (clusterOf c) =
      { s.cluster (clusterOf c) with l2tlb := l2Add (s.cluster (clusterOf c)).l2tlb pn l } := by
  simp only [State.filled, State.cluster, State.modCluster, AMap.getD_put_self]
  rfl

/-! ### Errors that the scrubber finds -/

theorem State.ring_modRing (s : State) (g h : Nat) (f : RingSt → RingSt) :
    (s.modRing g f).ring h = if h = g then f (s.ring g) else s.ring h := by
  simp only [State.ring, State.modRing, AMap.getD_put]

/-- A slot with a granule of its register file in error. -/
def Slot.hurt (sl : Slot) (off : Nat) : Slot := if sl.bad.contains off then sl else { sl with bad := off :: sl.bad }

theorem Slot.mem_bad_hurt (sl : Slot) (off : Nat) : off ∈ (sl.hurt off).bad := by
  unfold Slot.hurt
  split
  · rename_i h
    exact List.contains_iff_mem.1 h
  · exact List.mem_cons_self

theorem Slot.hurt_bad (sl : Slot) (off : Nat) : { sl.hurt off with bad := sl.bad } = sl := by
  unfold Slot.hurt
  split <;> rfl

/-- An error that the scrubber finds in memory stands there. -/
theorem exists_bad_of_scrub {l : List BadGranule} {va : Nat} {t : List BadGranule}
    (h : t = if l.any fun b => decide (b.key ≤ va) && decide (va < b.key + b.size) then l else ⟨va / 8 * 8, 8, .any, false⟩ :: l) :
    ∃ b ∈ t, b.key ≤ va ∧ va < b.key + b.size := by
  subst h
  split
  · rename_i h
    obtain ⟨b, hb, within⟩ := List.any_eq_true.1 h
    rw [Bool.and_eq_true, decide_eq_true_eq, decide_eq_true_eq] at within
    exact ⟨b, hb, within⟩
  · refine ⟨_, List.mem_cons_self, ?_⟩
    dsimp only
    omega

/-- Settles O33: a walk counts and fills, an invalidation empties, and the scrubber's error is reported and stands. -/
theorem translationsAreFilledAndDropped : Obligations.TranslationsAreFilledAndDropped := by
  intro s c va fetch l pn key set l2 own n off
  refine ⟨fun paged missOwn missL2 leaf => ?_, ?_, ?_⟩
  · have walk : exec (.tlbWalkComplete c va fetch) s = .next (s.touchPage c fetch pn) := by
      show Host.Outcome.next (if winOf va == .paged then s.touchPage c fetch pn else s) = _
      rw [paged]
      rfl
    rw [State.touchPage_of_misses missOwn missL2 leaf] at walk
    refine ⟨_, walk, ?_⟩
    by_cases present : l.state = .present
    · rw [if_pos present, if_pos present]
      refine ⟨s.hot_countWalk c pn l, ⟨?_, ?_⟩, rfl, fun d k => State.slotOf_filled _ _ _ _ _ d k⟩
      · rw [State.core_filled]
        cases fetch
        · exact ⟨tlbAdd_of_miss missOwn, rfl⟩
        · exact ⟨tlbAdd_of_miss missOwn, rfl⟩
      · rw [State.cluster_filled]
        exact l2Add_of_miss missL2
    · rw [if_neg present, if_neg present]
      exact ⟨s.hot_countWalk c pn l, s.countWalk_hot c pn l, rfl, fun _ _ => rfl⟩
  · have core := s.core_modCore_self c fun co => { co with itlb := [], dtlb := [] }
    refine ⟨_, rfl, (congrArg CoreSt.itlb core :), (congrArg CoreSt.dtlb core :), ?_, rfl, fun d k => ?_⟩
    · simp only [State.cluster, State.modCluster, AMap.getD_put_self]
    · exact s.slotOf_modCore c (f := fun co => { co with itlb := [], dtlb := [] }) (fun _ => rfl) d k
  · let told := s.tell (.uncorrectable va)
    have run : exec (.scrubError va) s = .next (if va / 2 ^ 64 % 16 = 10 then told.modSlotOf (n / 4) (slotIx (n % 4)) (Slot.hurt · off)
        else if va / 2 ^ 64 % 16 = 11 then told.modRing (n / 32) fun r => r.hurt (n % 32) off
        else if told.bad.any fun b => decide (b.key ≤ va) && decide (va < b.key + b.size) then told
        else { told with bad := ⟨va / 8 * 8, 8, .any, false⟩ :: told.bad }) := rfl
    by_cases regs : va / 2 ^ 64 % 16 = 10
    · rw [if_pos regs] at run
      refine ⟨_, run, rfl, ?_⟩
      rw [if_pos regs]
      refine ⟨⟨?_, fun d k => ?_⟩, rfl⟩
      · exact (State.slotOf_modSlotOf_self told _ _ _).symm ▸ Slot.mem_bad_hurt _ _
      · rw [State.slotOf_modSlotOf]
        split
        · rename_i e
          obtain ⟨rfl, rfl⟩ := e
          exact Slot.hurt_bad _ _
        · rfl
    · rw [if_neg regs] at run
      by_cases tile : va / 2 ^ 64 % 16 = 11
      · rw [if_pos tile] at run
        refine ⟨_, run, rfl, ?_⟩
        rw [if_neg regs, if_pos tile]
        refine ⟨fun g => (told.ring_modRing (n / 32) g fun r => r.hurt (n % 32) off).trans ?_, rfl⟩
        split
        · subst g; rfl
        · rfl
      · rw [if_neg tile] at run
        refine ⟨_, run, ?_⟩
        rw [if_neg regs, if_neg tile]
        refine ⟨?_, exists_bad_of_scrub (l := s.bad) (apply_ite State.bad _ _ _), ?_⟩
        · split <;> rfl
        · split <;> rfl

end Sys2Proof.Machine
end

section
/-!
PROOFS. Vector loads and stores of TCM (R88, R101, R102, R106, R107).
-/
namespace Sys2Proof.Machine

/-! ### The elements of an access -/

/-- Every element of a vector access is whole in TCM and aligned. -/
def InTcmAll (n : Nat) (es : List Elem) : Prop := ∀ e ∈ es, TcmSpan e.va n

theorem elemTrap_tcm (s : State) (a : Acc) {n : Nat} {es : List Elem} (h : InTcmAll n es) : elemTrap s a n es = none := by
  induction es with
  | nil => rfl
  | cons e es ih =>
    obtain ⟨nonzero, aligned, fits⟩ := h e List.mem_cons_self
    rw [elemTrap, if_neg (not_not_intro aligned), resolve_tcm s s.cur.core a nonzero fits]
    exact ih fun e he => h e (List.mem_cons_of_mem _ he)

theorem elemKeys_tcm (s : State) (a : Acc) {n : Nat} {e : Elem} (h : TcmSpan e.va n) :
    elemKeys s a n e = (tcmSpan s.cur.core e.va n).map some := by
  rw [elemKeys, resolve_tcm s s.cur.core a h.nonzero h.fits]
  rfl

/-- A vector access of TCM, where no error stands, passes its checks and changes nothing by them. -/
theorem State.vaccess_tcm {s : State} (a : Acc) {n : Nat} {es : List Elem} (sound : s.bad = []) (h : InTcmAll n es) :
    s.vaccess a n es = .go s (es.map fun e => (e.idx, (tcmSpan s.cur.core e.va n).map some)) := by
  have pages : (es.flatMap fun e => pagesOf e.va.toNat n) = [] := by
    rw [List.flatMap_eq_nil_iff]
    intro e he
    rw [pagesOf, (h e he).win]
    rfl
  have faults : elemFault s a n es = none := by
    rw [elemFault, List.findSome?_eq_none_iff]
    intro e he
    rw [resolve_tcm s s.cur.core a (h e he).nonzero (h e he).fits]
  have interlocks : (es.findSome? fun e => firstInterlock s s.cur.core e.va.toNat n) = none := by
    rw [List.findSome?_eq_none_iff]
    exact fun e he => (h e he).noInterlock s _
  have errors : (es.findSome? fun e => (s.badRead s.agent (realKeys (elemKeys s a n e))).map fun b => (b, e.va)) = none := by
    rw [List.findSome?_eq_none_iff]
    intro e _
    rw [State.badRead_none sound]
    rfl
  have keys : es.map (fun e => (e.idx, elemKeys s a n e)) = es.map fun e => (e.idx, (tcmSpan s.cur.core e.va n).map some) :=
    List.map_congr_left fun e he => by rw [elemKeys_tcm s a (h e he)]
  simp only [State.vaccess, elemTrap_tcm s a h, pages, List.dedup_nil, State.touchPages, List.foldl_nil, faults, interlocks, errors, keys]

theorem mem_laneElems {w : Nat} {p : BitVec 32} {addr : Nat → Word} {e : Elem} :
    e ∈ laneElems w p addr ↔ ∃ j, j < 256 / w ∧ p.getLsbD (w / 8 * j) = true ∧ e = ⟨j, addr j⟩ := by
  simp only [laneElems, activeLanes, active, List.mem_map, List.mem_filter, List.mem_range, and_assoc, eq_comm]

/-- The bytes of `vld` and `vst` are lanes of 8 bits. -/
theorem byteElems_eq (p : BitVec 32) (base : Word) : byteElems p base = laneElems 8 p fun j => base + BitVec.ofNat 64 j := by
  have act : (fun i => active 8 i p) = fun i => p.getLsbD i := by
    funext i
    rw [active, Nat.div_self (by decide), Nat.one_mul]
  rw [byteElems, laneElems, activeLanes, act]

/-! ### Loads -/

theorem State.noteReads_hidden (s : State) (ag : Agent) (reads : List (List Nat)) : HiddenAlone s (s.noteReads ag reads) := by
  have spans (l : List (List Nat)) (t : State) : HiddenAlone t (l.foldl (fun t keys => t.noteSpan ag keys (returnedIds s ag keys)) t) := by
    induction l generalizing t with
    | nil => exact .refl t
    | cons keys l ih => exact HiddenAlone.trans ⟨t.noteSpan_hidden ag keys _⟩ (ih _)
  exact (spans reads s).trans ⟨State.noteIds_hidden _ ag _⟩

/-- A form that ends with a slot where the cores stand as they did. -/
theorem SlotIs.vdone {s t : State} (cores : t.cores = s.cores) (cur : t.cur = s.cur) (sl : Slot) :
    SlotIs s (t.vdone sl) { sl.next with pfx := none } :=
  ((SlotIs.refl s).of_cores cores).modSlot cur fun _ => ({ sl with pfx := none } : Slot).retire

/-- The active lanes of a load are found by their number. -/
theorem find?_activeLanes (w : Nat) (p : BitVec 32) (f : Nat → Nat) {j : Nat} (hj : j < 256 / w) :
    ((activeLanes w p).map fun i => (i, f i)).find? (fun q => q.1 == j) = if p.getLsbD (w / 8 * j) then some (j, f j) else none := by
  have mem : j ∈ activeLanes w p ↔ p.getLsbD (w / 8 * j) = true := by
    rw [activeLanes, List.mem_filter, List.mem_range, active]
    exact ⟨fun h => h.2, fun h => ⟨hj, h⟩⟩
  cases found : ((activeLanes w p).map fun i => (i, f i)).find? fun q => q.1 == j with
  | none =>
    rw [if_neg]
    intro act
    exact List.find?_eq_none.1 found _ (List.mem_map.2 ⟨j, mem.2 act, rfl⟩) (beq_self_eq_true j)
  | some q =>
    obtain ⟨i, hi, rfl⟩ := List.mem_map.1 (List.mem_of_find?_eq_some found)
    obtain rfl : i = j := beq_iff_eq.1 (List.find?_some (p := fun q : Nat × Nat => q.1 == j) found)
    rw [if_pos (mem.1 hi)]

theorem lane_fillLanes {w j : Nat} (p : BitVec 32) (old : Vec) (f : Nat → Nat) (hj : j < 256 / w) :
    lane w j (fillLanes w old ((activeLanes w p).map fun i => (i, f i))) =
      if p.getLsbD (w / 8 * j) then f j % 2 ^ w else lane w j old := by
  rw [fillLanes, lane_ofLanes _ hj, find?_activeLanes w p f hj]
  by_cases act : p.getLsbD (w / 8 * j) = true
  · rw [if_pos act, if_pos act]
  · rw [if_neg act, if_neg act]
    exact Nat.mod_eq_of_lt (lane_lt w j old)

/-- The number that an element of a vector load reads. -/
def State.elemRead (s : State) (n : Nat) (va : Word) : Nat := natOfBytes ((tcmSpan s.cur.core va n).map (s.readByte s.agent))

theorem State.vload_tcm {s : State} {i : Instr} {vd : Reg} {regs : List Reg} {w : Nat} {sl : Slot} {es : Slot → List Elem} {p : BitVec 32}
    {addr : Nat → Word} (sound : s.bad = []) (go : s.vready i [] regs (some vd) = .go 0 0 sl) (lanes : es sl = laneElems w p addr)
    (inside : InTcmAll (w / 8) (laneElems w p addr)) :
    ∃ t, HiddenAlone s t ∧ s.vload i vd regs w es = t.vdone (putLoad sl vd
      (fillLanes w (oldDst sl vd) ((activeLanes w p).map fun j => (j, s.elemRead (w / 8) (addr j))))) := by
  have vals : ((laneElems w p addr).map fun e => (e.idx, (tcmSpan s.cur.core e.va (w / 8)).map some)).map
      (fun e => (e.1, natOfBytes (s.readRes s.agent e.2))) = (activeLanes w p).map fun j => (j, s.elemRead (w / 8) (addr j)) := by
    rw [laneElems, List.map_map, List.map_map]
    exact List.map_congr_left fun j _ => congrArg (fun bs => (j, natOfBytes bs)) (s.readRes_some s.agent _)
  refine ⟨_, s.noteReads_hidden s.agent (((laneElems w p addr).map fun e => (e.idx, (tcmSpan s.cur.core e.va (w / 8)).map some)).map
    fun e => realKeys e.2), ?_⟩
  simp only [State.vload, go, lanes, State.vaccess_tcm .vload sound inside, vals]

/-! ### Stores -/

theorem State.storeUnits_cons (s : State) (u : List (Nat × Byte)) (us : List (List (Nat × Byte))) :
    s.storeUnits (u :: us) = (s.writeCells s.agent u).storeUnits us := rfl

theorem State.storeUnits_rest (s : State) (us : List (List (Nat × Byte))) :
    { s.storeUnits us with mem := s.mem, hidden := s.hidden, nextId := s.nextId, resv := s.resv, bad := s.bad } = s := by
  induction us generalizing s with
  | nil => rfl
  | cons u us ih =>
    have e := congrArg (fun t : State => { t with mem := s.mem, hidden := s.hidden, nextId := s.nextId, resv := s.resv, bad := s.bad })
      (ih (s.writeCells s.agent u))
    exact e.trans (s.writeCells_rest s.agent u)

/-- Where no error stands none stands after a write. -/
theorem State.bad_storeUnits {s : State} (us : List (List (Nat × Byte))) (h : s.bad = []) : (s.storeUnits us).bad = [] := by
  induction us generalizing s with
  | nil => exact h
  | cons u us ih =>
    refine ih ?_
    show (s.writeCells s.agent u).bad = []
    unfold State.writeCells
    split
    · exact h
    · show s.bad.filter _ = []
      rw [h]
      rfl

theorem State.byte_storeUnits_ne (s : State) {us : List (List (Nat × Byte))} {a : Nat} (h : ∀ u ∈ us, a ∉ u.map Prod.fst) :
    (s.storeUnits us).byte a = s.byte a := by
  induction us generalizing s with
  | nil => rfl
  | cons u us ih =>
    rw [State.storeUnits_cons, ih _ fun v hv => h v (List.mem_cons_of_mem _ hv), s.byte_writeCells_ne s.agent u a (h u List.mem_cons_self)]

/-- A byte reads as the last unit that names it has written it. -/
theorem State.byte_storeUnits_last (s : State) {pre post : List (List (Nat × Byte))} {u : List (Nat × Byte)} {a : Nat} {b : Byte}
    (named : a ∈ u.map Prod.fst) (only : ∀ c ∈ u, c.1 = a → c.2 = b) (last : ∀ v ∈ post, a ∉ v.map Prod.fst) :
    (s.storeUnits (pre ++ u :: post)).byte a = b := by
  have split : s.storeUnits (pre ++ u :: post) = ((s.storeUnits pre).writeCells (s.storeUnits pre).agent u).storeUnits post := by
    rw [State.storeUnits, List.foldl_append]
    rfl
  rw [split, State.byte_storeUnits_ne _ last, State.byte_writeCells_of_unique _ _ named only]

/-- A byte that units name always with one value reads as that value. -/
theorem State.byte_storeUnits_of_unique (s : State) {us : List (List (Nat × Byte))} {a : Nat} {b : Byte}
    (named : ∃ u ∈ us, a ∈ u.map Prod.fst) (only : ∀ u ∈ us, ∀ c ∈ u, c.1 = a → c.2 = b) : (s.storeUnits us).byte a = b := by
  induction us generalizing s with
  | nil =>
    obtain ⟨u, hu, -⟩ := named
    cases hu
  | cons u us ih =>
    by_cases later : ∃ v ∈ us, a ∈ v.map Prod.fst
    · exact ih (s.writeCells s.agent u) later fun v hv => only v (List.mem_cons_of_mem _ hv)
    · obtain ⟨v, hv, mem⟩ := named
      have here : v = u := (List.mem_cons.1 hv).resolve_right fun h => later ⟨v, h, mem⟩
      exact s.byte_storeUnits_last (pre := []) (here ▸ mem) (only u List.mem_cons_self) fun v hv h => later ⟨v, hv, h⟩

/-- The bytes of an element of TCM. -/
def Touches (c w : Nat) (p : BitVec 32) (addr : Nat → Word) (j a : Nat) : Prop :=
  j < 256 / w ∧ p.getLsbD (w / 8 * j) = true ∧ (Place.tcm c).key (addr j).toNat ≤ a ∧ a < (Place.tcm c).key (addr j).toNat + w / 8

/-- What a store of lanes has written: each active element's bytes, a later one over an earlier one, and no other byte. -/
structure StoredLanes (c w : Nat) (p : BitVec 32) (addr : Nat → Word) (data : Vec) (s t : State) : Prop where
  others : ∀ a, (∀ j, ¬Touches c w p addr j a) → t.byte a = s.byte a
  elems : ∀ a j, Touches c w p addr j a → (∀ i, j < i → ¬Touches c w p addr i a) →
    t.byte a = BitVec.ofNat 8 (lane w j data / 256 ^ (a - (Place.tcm c).key (addr j).toNat))

/-- The cells of a lane of a store. -/
def laneCells (c w : Nat) (addr : Nat → Word) (data : Vec) (j : Nat) : List (Nat × Byte) := tcmCells c (addr j) (w / 8) (lane w j data)

theorem mem_keys_laneCells {c w : Nat} {p : BitVec 32} {addr : Nat → Word} {data : Vec} {j a : Nat} (hj : j ∈ activeLanes w p) :
    a ∈ (laneCells c w addr data j).map Prod.fst ↔ Touches c w p addr j a := by
  obtain ⟨lt, act⟩ := List.mem_filter.1 hj
  rw [laneCells, mem_keys_tcmCells]
  exact ⟨fun h => ⟨List.mem_range.1 lt, act, h⟩, fun h => h.2.2⟩

theorem activeLanes_sorted (w : Nat) (p : BitVec 32) : (activeLanes w p).Pairwise (· < ·) := List.pairwise_lt_range.filter _

/-- The elements of a store of lanes are written in ascending order. -/
theorem State.storedLanes (s : State) (c w : Nat) (p : BitVec 32) (addr : Nat → Word) (data : Vec) :
    StoredLanes c w p addr data s (s.storeUnits ((activeLanes w p).map (laneCells c w addr data))) := by
  constructor
  · intro a other
    refine s.byte_storeUnits_ne fun u hu named => ?_
    obtain ⟨j, hj, rfl⟩ := List.mem_map.1 hu
    exact other j ((mem_keys_laneCells hj).1 named)
  · intro a j touch last
    have mem : j ∈ activeLanes w p := List.mem_filter.2 ⟨List.mem_range.2 touch.1, touch.2.1⟩
    obtain ⟨pre, post, split⟩ := List.append_of_mem mem
    have after : ∀ i ∈ post, j < i := by
      have sorted := activeLanes_sorted w p
      rw [split, List.pairwise_append, List.pairwise_cons] at sorted
      exact sorted.2.1.1
    have member : ∀ i ∈ post, i ∈ activeLanes w p := fun i hi => by
      rw [split]
      exact List.mem_append_right _ (List.mem_cons_of_mem _ hi)
    rw [split, List.map_append, List.map_cons]
    refine s.byte_storeUnits_last ((mem_keys_laneCells mem).2 touch) (fun d hd e => ?_) fun v hv named => ?_
    · obtain ⟨n, -, rfl⟩ := mem_gridRow.1 hd
      rw [← e, Nat.add_sub_cancel_left]
    · obtain ⟨i, hi, rfl⟩ := List.mem_map.1 hv
      exact last i (after i hi) ((mem_keys_laneCells (member i hi)).1 named)

theorem State.vstore_tcm {s : State} {i : Instr} {vd : Reg} {regs : List Reg} {w : Nat} {sl : Slot} {es : Slot → List Elem} {p : BitVec 32}
    {addr : Nat → Word} {data : Vec} (sound : s.bad = []) (go : s.storeReady i vd regs = .go data 0 sl)
    (lanes : es s.slot = laneElems w p addr) (inside : InTcmAll (w / 8) (laneElems w p addr)) :
    s.vstore i vd regs w es = (s.storeUnits ((activeLanes w p).map (laneCells s.cur.core w addr data))).vdone sl := by
  have units : ((laneElems w p addr).map fun e => (e.idx, (tcmSpan s.cur.core e.va (w / 8)).map some)).map
      (fun e => (realKeys e.2).zip (bytesOf (w / 8) (lane w e.1 data))) = (activeLanes w p).map (laneCells s.cur.core w addr data) := by
    rw [laneElems, List.map_map, List.map_map]
    refine List.map_congr_left fun j _ => ?_
    simp only [Function.comp_apply, realKeys_some, zip_tcmSpan, laneCells]
  simp only [State.vstore, go, lanes, State.vaccess_tcm .vstore sound inside, units]

/-- The units of a `vst`: its words hold the cells of the active bytes. -/
theorem mem_wordUnits {c : Nat} {p : BitVec 32} {addr : Nat → Word} {data : Vec} {d : Nat × Byte} :
    (∃ u ∈ wordUnits ((laneElems 8 p addr).map fun e => (e.idx, (tcmSpan c e.va 1).map some)) data, d ∈ u) ↔
      ∃ j, j < 32 ∧ p.getLsbD j = true ∧ d = ((Place.tcm c).key (addr j).toNat, BitVec.ofNat 8 (lane 8 j data)) := by
  have one (va : Word) : tcmSpan c va 1 = [(Place.tcm c).key va.toNat] := by
    rw [tcmSpan, span, List.range_one, List.map_singleton, Nat.add_zero]
  simp only [wordUnits, laneElems, List.mem_map, List.mem_range, List.map_map, one]
  constructor
  · rintro ⟨u, ⟨q, -, rfl⟩, hd⟩
    obtain ⟨e, he, hd⟩ := List.mem_flatMap.1 hd
    obtain ⟨j, hj, rfl⟩ := List.mem_map.1 (List.mem_filter.1 he).1
    obtain ⟨lt, act⟩ := List.mem_filter.1 hj
    obtain rfl := List.mem_singleton.1 hd
    exact ⟨j, List.mem_range.1 lt, by rwa [active, Nat.div_self (by decide), Nat.one_mul] at act, rfl⟩
  · rintro ⟨j, lt, act, rfl⟩
    have mem : j ∈ activeLanes 8 p := List.mem_filter.2 ⟨List.mem_range.2 lt, by rwa [active, Nat.div_self (by decide), Nat.one_mul]⟩
    exact ⟨_, ⟨j / 4, by omega, rfl⟩, List.mem_flatMap.2 ⟨_, List.mem_filter.2 ⟨List.mem_map.2 ⟨j, mem, rfl⟩, beq_self_eq_true _⟩,
      List.mem_singleton.2 rfl⟩⟩

/-- A `vst` writes each active byte, whose addresses differ. -/
theorem State.storedBytes (s : State) (c : Nat) (p : BitVec 32) (base : Word) (data : Vec) :
    StoredLanes c 8 p (fun j => base + BitVec.ofNat 64 j) data s
      (s.storeUnits (wordUnits ((laneElems 8 p fun j => base + BitVec.ofNat 64 j).map fun e => (e.idx, (tcmSpan c e.va 1).map some)) data)) := by
  have touches {j a : Nat} : Touches c 8 p (fun j => base + BitVec.ofNat 64 j) j a ↔
      j < 32 ∧ p.getLsbD j = true ∧ a = (Place.tcm c).key (base + BitVec.ofNat 64 j).toNat := by
    rw [Touches, Nat.div_self (by decide), Nat.one_mul, show 256 / 8 = 32 by rfl]
    exact and_congr_right fun _ => and_congr_right fun _ => by omega
  constructor
  · intro a other
    refine s.byte_storeUnits_ne fun u hu named => ?_
    obtain ⟨d, hd, rfl⟩ := List.mem_map.1 named
    obtain ⟨j, lt, act, rfl⟩ := mem_wordUnits.1 ⟨u, hu, hd⟩
    exact other j (touches.2 ⟨lt, act, rfl⟩)
  · intro a j touch _
    obtain ⟨lt, act, rfl⟩ := touches.1 touch
    rw [Nat.sub_self, Nat.pow_zero, Nat.div_one]
    refine s.byte_storeUnits_of_unique ?_ fun u hu d hd e => ?_
    · obtain ⟨u, hu, hd⟩ := mem_wordUnits.2 ⟨j, lt, act, rfl⟩
      exact ⟨u, hu, List.mem_map.2 ⟨_, hd, rfl⟩⟩
    · obtain ⟨i, lt', -, rfl⟩ := mem_wordUnits.1 ⟨u, hu, hd⟩
      have same : (base + BitVec.ofNat 64 i).toNat = (base + BitVec.ofNat 64 j).toNat := Nat.add_left_cancel e
      have : i = j := by
        rw [BitVec.toNat_add, BitVec.toNat_add, BitVec.toNat_ofNat, BitVec.toNat_ofNat] at same
        omega
      rw [this]

/-! ### The forms -/

/-- An offset in words, doubled twice and sign-extended. -/
theorem vmBase_eq (s : State) (rs : Reg) (off : BitVec 9) : vmBase s rs off = s.rx rs + BitVec.ofInt 64 (off.toInt * 4) := by
  have h : (off ++ 0#2).toInt = off.toInt * 4 := by
    rw [BitVec.toInt_append]
    simp [mul_comm]
  rw [vmBase, BitVec.signExtend, h]

theorem strideAddr_eq (s : State) (rs rt : Reg) (j : Nat) :
    strideAddr s rs rt j = BitVec.ofInt 64 ((s.rx rs).toInt + j * (s.rx rt).toInt) := by
  rw [strideAddr, BitVec.ofInt_add, BitVec.ofInt_mul, BitVec.ofInt_toInt, BitVec.ofInt_toInt, BitVec.ofInt_natCast]

theorem indexAddr_eq (s : State) (rs vi : Reg) (ew : BitVec 2) (j : Nat) :
    indexAddr s rs vi (widthOf ew) j = BitVec.ofInt 64 ((s.rx rs).toInt +
      (BitVec.ofNat (widthOf ew) (lane (widthOf ew) j (s.slot.rv vi.toNat))).toInt) := by
  rw [indexAddr, laneS_eq, BitVec.ofInt_add, BitVec.ofInt_toInt]

theorem inAlias_range {va : Word} (h : inAlias va = true) : 0x100000000000 ≤ va.toNat ∧ va.toNat < 2 ^ 48 := by
  rw [inAlias] at h
  split at h
  · rename_i win
    rw [winOf] at win
    dsimp only at win
    split_ifs at win with _ _ _ _ _ inside
    obtain ⟨low, high, -⟩ := inside
    omega
  · cases h

/-- A base from which an active byte lies in TCM is in no window of another core. -/
theorem not_inAlias_of_byte {base : Word} {j : Nat} (hj : j < 32) (h : TcmSpan (base + BitVec.ofNat 64 j) 1) : inAlias base = false := by
  rw [← Bool.not_eq_true]
  intro aliased
  have range := inAlias_range aliased
  have fits := h.fits
  rw [BitVec.toNat_add, BitVec.toNat_ofNat] at fits
  omega

theorem exists_active {p : BitVec 32} (h : p ≠ 0) : ∃ j, j < 32 ∧ p.getLsbD j = true := by
  by_contra none
  push Not at none
  exact h (BitVec.eq_of_getLsbD_eq fun i hi => by simpa using none i hi)

theorem not_alias_of_bytes {p : BitVec 32} {base : Word} (h : InTcmAll 1 (laneElems 8 p fun j => base + BitVec.ofNat 64 j)) :
    ¬(p ≠ 0 ∧ inAlias base = true) := by
  rintro ⟨nonzero, aliased⟩
  obtain ⟨j, hj, act⟩ := exists_active nonzero
  have inside := h ⟨j, base + BitVec.ofNat 64 j⟩ (mem_laneElems.2 ⟨j, hj, by rwa [Nat.div_self (by decide), Nat.one_mul], rfl⟩)
  rw [not_inAlias_of_byte hj inside] at aliased
  cases aliased

theorem exec_vld_plain {s : State} {pg : PReg} {vd rs : Reg} {off : BitVec 9} {sl : Slot} (aligned : (vmBase s rs off).toNat % 4 = 0)
    (plain : ¬(s.slot.rp pg ≠ 0 ∧ inAlias (vmBase s rs off) = true)) (go : s.vready (.vld pg vd rs off) [] [] (some vd) = .go 0 0 sl) :
    exec (.vld pg vd rs off) s =
      .next (s.vload (.vld pg vd rs off) vd [] 8 fun sl => laneElems 8 (sl.rp pg) fun j => vmBase s rs off + BitVec.ofNat 64 j) := by
  show execVld pg vd rs off s = _
  simp only [execVld, if_neg plain, go, if_neg fun h : s.slot.rp pg ≠ 0 ∧ (vmBase s rs off).toNat % 4 ≠ 0 => h.2 aligned, byteElems_eq]

theorem exec_vst_plain {s : State} {pg : PReg} {vd rs : Reg} {off : BitVec 9} {sl : Slot} {data : Vec} (sound : s.bad = [])
    (aligned : (vmBase s rs off).toNat % 4 = 0) (go : s.storeReady (.vst pg vd rs off) vd [] = .go data 0 sl)
    (inside : InTcmAll 1 (laneElems 8 (s.slot.rp pg) fun j => vmBase s rs off + BitVec.ofNat 64 j)) :
    exec (.vst pg vd rs off) s = .next ((s.storeUnits (wordUnits ((laneElems 8 (s.slot.rp pg) fun j =>
      vmBase s rs off + BitVec.ofNat 64 j).map fun e => (e.idx, (tcmSpan s.cur.core e.va 1).map some)) data)).vdone sl) := by
  show execVst pg vd rs off s = _
  simp only [execVst, go, if_neg (not_alias_of_bytes inside), byteElems_eq, State.vaccess_tcm .vstore sound inside,
    if_neg fun h : s.slot.rp pg ≠ 0 ∧ (vmBase s rs off).toNat % 4 ≠ 0 => h.2 aligned]

theorem exec_vld_misaligned {s : State} {pg : PReg} {vd rs : Reg} {off : BitVec 9} {sl : Slot} (nonzero : s.slot.rp pg ≠ 0)
    (odd : (vmBase s rs off).toNat % 4 ≠ 0) (go : s.vready (.vld pg vd rs off) [] [] (some vd) = .go 0 0 sl) :
    exec (.vld pg vd rs off) s = .next (s.trap causeMisalign (vmBase s rs off)) := by
  show execVld pg vd rs off s = _
  simp only [execVld, go, if_pos odd, if_pos (show s.slot.rp pg ≠ 0 ∧ (vmBase s rs off).toNat % 4 ≠ 0 from ⟨nonzero, odd⟩), ite_self]

theorem exec_vst_misaligned {s : State} {pg : PReg} {vd rs : Reg} {off : BitVec 9} {sl : Slot} {data : Vec} (nonzero : s.slot.rp pg ≠ 0)
    (odd : (vmBase s rs off).toNat % 4 ≠ 0) (go : s.storeReady (.vst pg vd rs off) vd [] = .go data 0 sl) :
    exec (.vst pg vd rs off) s = .next (s.trap causeMisalign (vmBase s rs off)) := by
  show execVst pg vd rs off s = _
  simp only [execVst, go, if_pos (show s.slot.rp pg ≠ 0 ∧ (vmBase s rs off).toNat % 4 ≠ 0 from ⟨nonzero, odd⟩)]

/-- Settles O40: a load gives each active lane the number at its address, and a store writes its elements one after another. -/
theorem vectorMemoryFormsMoveTcm : Obligations.VectorMemoryFormsMoveTcm := by
  intro s pg ew vd rs rt off sl data p base w key loads stores
  have baseEq : vmBase s rs off = base := vmBase_eq s rs off
  have hw : w ≠ 0 := widthOf_ne_zero ew
  have bytes : 2 ^ w = 2 ^ (8 * (w / 8)) ∧ w / 8 ≠ 0 := by
    rcases widthOf_cases ew with h | h | h <;> rw [show w = _ from h] <;> decide
  have elems {w : Nat} {addr : Nat → Word} (size : w / 8 ≠ 0) (h : ∀ j, j < 256 / w → p.getLsbD (w / 8 * j) = true →
      (addr j).toNat % (w / 8) = 0 ∧ (addr j).toNat + w / 8 ≤ 0x10000) : InTcmAll (w / 8) (laneElems w p addr) := by
    intro e he
    obtain ⟨j, hj, act, rfl⟩ := mem_laneElems.1 he
    exact ⟨size, (h j hj act).1, (h j hj act).2⟩
  have load {i : Instr} {regs : List Reg} {w : Nat} {addr : Nat → Word} (size : 2 ^ w = 2 ^ (8 * (w / 8)) ∧ w / 8 ≠ 0)
      (run : s.vready i [] regs (some vd) = .go 0 0 sl → InTcmAll (w / 8) (laneElems w p addr) →
        exec i s = .next (s.vload i vd regs w fun sl => laneElems w (sl.rp pg) addr)) : loads i regs w addr := by
    intro sound go inside
    have inside := elems size.2 inside
    obtain ⟨lq, aq, frame⟩ := State.vready_go_frame go
    have same : sl.rp pg = p ∧ oldDst sl vd = oldDst s.slot vd := by rw [frame]; exact ⟨rfl, rfl⟩
    obtain ⟨t, alone, ht⟩ := State.vload_tcm (es := fun sl => laneElems w (sl.rp pg) addr) sound go (by rw [same.1]) inside
    refine ⟨_, _, (run go inside).trans (congrArg _ ht), .vdone alone.cores alone.cur _,
      (congrArg (fun u : State => { u with cores := s.cores }) alone.rest :), fun j hj => ?_⟩
    have lt : s.elemRead (w / 8) (addr j) < 2 ^ w := by
      rw [size.1]
      exact natOfBytes_map_lt (w / 8) _ _ (by rw [tcmSpan, span, List.length_map, List.length_range])
    have read : s.elemRead (w / 8) (addr j) = natOfBytes ((List.range (w / 8)).map fun n => s.readByte s.agent (key (addr j) + n)) := by
      rw [State.elemRead, tcmSpan, span, List.map_map]
      rfl
    rw [lane_fillLanes _ _ _ hj, Nat.mod_eq_of_lt lt, read, same.2]
  have store {i : Instr} {regs : List Reg} {w : Nat} {addr : Nat → Word} {us : List (List (Nat × Byte))} (size : w / 8 ≠ 0)
      (run : s.bad = [] → s.storeReady i vd regs = .go data 0 sl → InTcmAll (w / 8) (laneElems w p addr) →
        exec i s = .next ((s.storeUnits us).vdone sl))
      (stored : StoredLanes s.cur.core w p addr data s (s.storeUnits us)) : stores i regs w addr := by
    intro sound go inside touches
    have rest := s.storeUnits_rest us
    have cores : (s.storeUnits us).cores = s.cores := (congrArg State.cores rest :)
    have cur : (s.storeUnits us).cur = s.cur := (congrArg State.cur rest :)
    have clean := (State.bad_storeUnits us sound).trans sound.symm
    refine ⟨_, run sound go (elems size inside), .vdone cores cur _, stored.others,
      stored.elems, ?_⟩
    rw [← clean] at rest
    exact (congrArg (fun u : State => { u with cores := s.cores }) rest :)
  have strideEq : strideAddr s rs rt = fun j : Nat => BitVec.ofInt 64 ((s.rx rs).toInt + j * (s.rx rt).toInt) :=
    funext (strideAddr_eq s rs rt)
  have indexEq : indexAddr s rs rt w = fun j => BitVec.ofInt 64 ((s.rx rs).toInt + (BitVec.ofNat w (lane w j (s.slot.rv rt.toNat))).toInt) :=
    funext (indexAddr_eq s rs rt ew)
  refine ⟨fun aligned => ?_, fun aligned => ?_, ?_, ?_, ?_, ?_, fun nonzero odd go => ?_, fun nonzero odd go => ?_⟩
  · rw [← baseEq] at aligned ⊢
    exact load (by decide) fun go inside => exec_vld_plain aligned (not_alias_of_bytes inside) go
  · rw [← baseEq] at aligned ⊢
    exact store (by decide) (fun sound go inside => exec_vst_plain sound aligned go inside) (s.storedBytes _ _ _ _)
  · rw [← strideEq]
    exact load bytes fun _ _ => rfl
  · rw [← strideEq]
    exact store bytes.2 (fun sound go inside => congrArg _ (State.vstore_tcm sound go rfl inside)) (s.storedLanes _ _ _ _ _)
  · rw [← indexEq]
    exact load bytes fun _ _ => rfl
  · rw [← indexEq]
    exact store bytes.2 (fun sound go inside => congrArg _ (State.vstore_tcm sound go rfl inside)) (s.storedLanes _ _ _ _ _)
  · rw [← baseEq] at odd ⊢
    exact exec_vld_misaligned nonzero odd go
  · rw [← baseEq] at odd ⊢
    exact exec_vst_misaligned nonzero odd go

end Sys2Proof.Machine
end

section
/-!
PROOFS. Jobs: sealing, `jwait`, `jpoll`, the completion of a job, and `xfence` (O44).
-/
namespace Sys2Proof.Machine

/-! ### Sealing the open job of a class -/

theorem unfinished_sealOpen (q : ClassQ) : unfinished q.sealOpen = (unfinished q).map fun j => { j with sealed := true } := by
  simp only [unfinished, ClassQ.sealOpen, List.filter_filter, Bool.and_self, List.filter_map]
  rfl

theorem ids_sealOpen (q : ClassQ) : (unfinished q.sealOpen).map Job.id = (unfinished q).map Job.id := by
  rw [unfinished_sealOpen, List.map_map]
  rfl

theorem openJob_sealOpen (q : ClassQ) : openJob q.sealOpen = none := by
  refine Option.eq_none_iff_forall_ne_some.2 fun j hj => ?_
  obtain ⟨last, unsealed⟩ := openJob_eq_some hj
  obtain ⟨k, -, rfl⟩ := List.mem_map.1 (List.mem_filter.1 (List.mem_of_getLast? last)).1
  exact Bool.noConfusion unsealed

/-- `t` is `s` but that jobs of classes of a core have been sealed. -/
structure SealedIn (s t : State) (c : Nat) : Prop where
  rest : { t with cores := s.cores } = s
  slots : ∀ d k, t.slotOf d k = s.slotOf d k
  queue : ∀ o, (t.classQ c o).queue = (s.classQ c o).queue
  nextid : ∀ o, (t.classQ c o).nextid = (s.classQ c o).nextid
  ids : ∀ o, (unfinished (t.classQ c o)).map Job.id = (unfinished (s.classQ c o)).map Job.id
  closed : ∀ o, openJob (s.classQ c o) = none → openJob (t.classQ c o) = none

theorem SealedIn.refl (s : State) (c : Nat) : SealedIn s s c :=
  ⟨rfl, fun _ _ => rfl, fun _ => rfl, fun _ => rfl, fun _ => rfl, fun _ h => h⟩

theorem SealedIn.trans {s t u : State} {c : Nat} (h : SealedIn s t c) (k : SealedIn t u c) : SealedIn s u c where
  rest := (congrArg (fun v : State => { v with cores := s.cores }) k.rest).trans h.rest
  slots := fun d j => (k.slots d j).trans (h.slots d j)
  queue := fun o => (k.queue o).trans (h.queue o)
  nextid := fun o => (k.nextid o).trans (h.nextid o)
  ids := fun o => (k.ids o).trans (h.ids o)
  closed := fun o shut => k.closed o (h.closed o shut)

theorem SealedIn.cur {s t : State} {c : Nat} (h : SealedIn s t c) : t.cur = s.cur := (congrArg State.cur h.rest :)

theorem SealedIn.slot {s t : State} {c : Nat} (h : SealedIn s t c) : t.slot = s.slot := by
  rw [State.slot, State.slot, h.cur, h.slots]

theorem SealedIn.count {s t : State} {c : Nat} (h : SealedIn s t c) (o : Nat) :
    (unfinished (t.classQ c o)).length = (unfinished (s.classQ c o)).length := by
  simpa only [List.length_map] using congrArg List.length (h.ids o)

/-- What one class of a core holds once a class of it is sealed. -/
theorem State.classQ_sealed (s : State) (c k o : Nat) :
    (s.modClassQ c k ClassQ.sealOpen).classQ c o = if clsIx o = clsIx k then (s.classQ c o).sealOpen else s.classQ c o := by
  split
  · next same =>
    have other (t : State) : t.classQ c o = t.classQ c k := by rw [State.classQ, same, State.classQ]
    rw [other, other, State.classQ_modClassQ_self]
  · next ne => exact (s.onlyClassQ_modClassQ c k _).classes o ne

theorem State.sealedIn (s : State) (c k : Nat) : SealedIn s (s.modClassQ c k ClassQ.sealOpen) c where
  rest := rfl
  slots := (s.onlyClassQ_modClassQ c k _).slotOf
  queue := fun o => by rw [s.classQ_sealed]; split <;> rfl
  nextid := fun o => by rw [s.classQ_sealed]; split <;> rfl
  ids := fun o => by
    rw [s.classQ_sealed]
    split
    · exact ids_sealOpen _
    · rfl
  closed := fun o shut => by
    rw [s.classQ_sealed]
    split
    · exact openJob_sealOpen _
    · exact shut

/-- The open job of each of some classes of a core is sealed. -/
def State.sealAll (s : State) (c : Nat) (ks : List Nat) : State := ks.foldl (fun s k => s.modClassQ c k ClassQ.sealOpen) s

theorem State.sealAll_sealedIn (s : State) (c : Nat) (ks : List Nat) : SealedIn s (s.sealAll c ks) c := by
  induction ks generalizing s with
  | nil => exact .refl s c
  | cons k ks ih => exact (s.sealedIn c k).trans (ih _)

theorem State.sealAll_closed (s : State) (c : Nat) {ks : List Nat} {k : Nat} (h : k ∈ ks) : openJob ((s.sealAll c ks).classQ c k) = none := by
  induction ks generalizing s with
  | nil => exact absurd h List.not_mem_nil
  | cons j ks ih =>
    rcases List.mem_cons.1 h with rfl | h
    · refine ((s.modClassQ c k ClassQ.sealOpen).sealAll_sealedIn c ks).closed k ?_
      rw [State.classQ_modClassQ_self]
      exact openJob_sealOpen _
    · exact ih _ h

theorem SlotIs.classQ {s t : State} {sl : Slot} (h : SlotIs s t sl) (c o : Nat) : t.classQ c o = s.classQ c o :=
  (congrArg (fun co : CoreSt => co.jobs.get (clsIx o)) (h.cores c) :)

/-! ### `jwait` and `jpoll` -/

/-- What `jwait` leaves as it begins (R99). -/
theorem exec_jwait_begins {s : State} {n : BitVec 7} {eng : BitVec 4} (fresh : s.slot.begun = none) :
    let u := s.modClassQ s.cur.core eng.toNat ClassQ.sealOpen
    let few := (unfinished (s.classQ s.cur.core eng.toNat)).length ≤ n.toNat
    ∃ t, exec (.jwait n eng) s = .next t ∧ { t with cores := s.cores } = s ∧
      SlotIs u t { (if few then s.slot.next else s.slot) with begun := if few then none else some [] } := by
  intro u few
  have sealed : SealedIn s u s.cur.core := s.sealedIn _ _
  let begins : Slot → Slot := fun sl => { sl with begun := some [] }
  have begun : SlotIs u (u.modSlot begins) { s.slot with begun := some [] } := by
    have e := (SlotIs.refl u).modSlot rfl begins
    rwa [sealed.slot] at e
  have count : (unfinished ((u.modSlot begins).classQ s.cur.core eng.toNat)).length =
      (unfinished (s.classQ s.cur.core eng.toNat)).length := by rw [begun.classQ, sealed.count]
  have run : exec (.jwait n eng) s = .next (if few then (u.modSlot begins).modSlot (fun sl => { sl with begun := none }.retire)
      else u.modSlot begins) := by
    show execJwait n eng s = _
    simp only [execJwait, fresh, Option.isSome_none, Bool.false_eq_true, if_false]
    exact congrArg (fun m => Host.Outcome.next (if m ≤ n.toNat then _ else _)) count
  refine ⟨_, run, ?_, ?_⟩
  · split <;> rfl
  · by_cases h : few
    · rw [if_pos h, if_pos h, if_pos h]
      exact begun.modSlot rfl _
    · rw [if_neg h, if_neg h, if_neg h]
      exact begun

/-- What `jwait` does once it has begun (R99). -/
theorem exec_jwait_begun {s : State} {n : BitVec 7} {eng : BitVec 4} (begun : s.slot.begun ≠ none) :
    exec (.jwait n eng) s = .next (if (unfinished (s.classQ s.cur.core eng.toNat)).length ≤ n.toNat
      then s.modSlot (fun sl => { sl with begun := none }.retire) else s) := by
  show execJwait n eng s = _
  simp only [execJwait, Option.isSome_iff_ne_none.2 begun, if_true]

theorem jobStatus_eq (q : ClassQ) (id : BitVec 16) :
    jobStatus q id = if 4096 ≤ (q.nextid - 1 - id).toNat then 3
      else if q.jobs.any (fun j => j.id == id && !j.faulted) then 0
      else match q.faults.find? fun f => f.1 == id with
        | some f => 2 ||| (f.2.setWidth 64 <<< 8)
        | none => 1 := by
  have word (x : BitVec 8) : BitVec.ofNat 64 (2 + x.toNat * 256) = 2 ||| (x.setWidth 64 <<< 8) := by
    revert x
    decide
  have lives : (unfinished q).any (fun k => k.id == id) = q.jobs.any fun j => j.id == id && !j.faulted := by
    simp only [unfinished, List.any_filter, Bool.and_comm]
  unfold jobStatus
  rw [lives]
  split
  · rfl
  split
  · rfl
  split <;> next found => simp only [found, word]

/-! ### The completion of a job -/

/-- A hidden write that is performed to some view is one of those that were hidden, but for who sees it. -/
theorem hidden_of_performIds (v : View) (hs : List Hidden) (ids : List Nat) {g : Hidden} (hg : g ∈ performIds v ids hs) :
    ∃ h ∈ hs, { g with seen := h.seen } = h := by
  induction hs generalizing ids with
  | nil => cases hg
  | cons h hs ih =>
    have older (ids : List Nat) (hg : g ∈ performIds v ids hs) : ∃ k ∈ h :: hs, { g with seen := k.seen } = k := by
      obtain ⟨k, hk, same⟩ := ih ids hg
      exact ⟨k, List.mem_cons_of_mem _ hk, same⟩
    rw [performIds] at hg
    split at hg
    · dsimp only at hg
      split at hg
      · exact older _ hg
      · obtain rfl | hg := List.mem_cons.1 hg
        · exact ⟨h, List.mem_cons_self, rfl⟩
        · exact older _ hg
    · obtain rfl | hg := List.mem_cons.1 hg
      · exact ⟨g, List.mem_cons_self, rfl⟩
      · exact older _ hg

theorem State.hidden_of_perform (s : State) (ids : List Nat) (v : View) {g : Hidden} (hg : g ∈ (s.perform ids v).hidden) :
    ∃ h ∈ s.hidden, { g with seen := h.seen } = h := by
  unfold State.perform at hg
  split at hg
  · exact ⟨g, hg, rfl⟩
  dsimp only at hg
  split at hg
  · exact hidden_of_performIds _ _ _ hg
  · obtain ⟨k, hk, same⟩ := hidden_of_performIds _ _ _ hg
    obtain ⟨h, hh, same'⟩ := hidden_of_performIds _ _ _ hk
    exact ⟨h, hh, by rw [← same', ← same]⟩

/-- Once the writes of a job are performed to a view, each that is still hidden has it. -/
theorem State.jobWrites_seen (s : State) (c cls : Nat) (id : BitVec 16) (v : View) {g : Hidden}
    (mem : g ∈ (s.perform (s.jobWrites c cls id) v).hidden) (made : (c, cls, id) ∈ g.jobs) : v ∈ g.seen := by
  obtain ⟨h, hh, same⟩ := s.hidden_of_perform _ v mem
  have jobs : g.jobs = h.jobs := (congrArg Hidden.jobs same :)
  have ident : g.id = h.id := (congrArg Hidden.id same :)
  refine s.perform_allSeen _ v g mem ?_
  rw [ident]
  exact List.mem_map_of_mem (List.mem_filter.2 ⟨hh, List.contains_iff_mem.2 (jobs ▸ made)⟩)

/-- A job that is complete leaves its class. -/
def State.jobGone (s : State) (c cls : Nat) (j : Job) : State :=
  s.modClassQ c cls fun q => { q with jobs := q.jobs.filter fun k => k.id ≠ j.id }

/-- What is performed before a job that is complete sends its tokens (R162, R308). -/
def State.jobPerformed (s : State) (c cls : Nat) (j : Job) : State :=
  if (jobTokens c cls j).isEmpty && cls ≠ 5 then s
  else s.perform (s.jobWrites c cls j.id) (.within (classScope cls) (classAgent s c cls))

theorem State.jobPerformed_hidden (s : State) (c cls : Nat) (j : Job) : HiddenAlone s (s.jobPerformed c cls j) := by
  unfold State.jobPerformed
  split
  · exact .refl s
  · exact ⟨s.perform_hidden _ _⟩

theorem exec_jobComplete {s : State} {c cls : Nat} {j : Job} {js : List Job} (oldest : unfinished (s.classQ c cls) = j :: js)
    (sealed : j.sealed = true) (left : j.left = 0) (idle : (s.classQ c cls).waiting = []) :
    exec (.jobComplete c cls j.id.toNat) s =
      .next (((s.jobGone c cls j).jobPerformed c cls j).postAll (.engine c cls) (jobTokens c cls j)) := by
  have waiting : (((s.jobGone c cls j).jobPerformed c cls j).classQ c cls).waiting = [] := by
    rw [State.classQ, State.core, ((s.jobGone c cls j).jobPerformed_hidden c cls j).cores]
    exact (congrArg ClassQ.waiting (s.classQ_modClassQ_self c cls _)).trans idle
  show execJobComplete c cls j.id.toNat s = _
  simp only [execJobComplete, oldest, sealed, left, and_self, if_true]
  exact congrArg (fun t : State => Host.Outcome.next (t.postAll (.engine c cls) (jobTokens c cls j)))
    (State.admitUpTo_none _ c cls waiting _)

/-- Before a job sends a token its writes are visible at the scope of its class. -/
theorem State.jobPerformed_sees {s : State} {c cls : Nat} {j : Job} (sends : jobTokens c cls j ≠ [] ∨ cls = 5) {h : Hidden}
    (mem : h ∈ (s.jobPerformed c cls j).hidden) (made : (c, cls, j.id) ∈ h.jobs) :
    View.within (classScope cls) (classAgent s c cls) ∈ h.seen := by
  have performs : ¬((jobTokens c cls j).isEmpty && cls ≠ 5) = true := by
    rw [Bool.and_eq_true, List.isEmpty_iff, decide_eq_true_eq]
    exact fun ⟨silent, other⟩ => sends.elim (· silent) other
  rw [State.jobPerformed, if_neg performs] at mem
  exact s.jobWrites_seen c cls j.id _ mem made

/-! ### `xfence` -/

/-- The next job of each class that an `xfence` fences, as it began (R154). -/
def State.fenceIds (s : State) (p : BitVec 8) : List (Nat × BitVec 16) :=
  s.slot.begun.getD ((maskClasses p).map fun k => (k, (s.classQ s.cur.core k).nextid))

/-- The open jobs that an `xfence` has sealed. -/
def State.fenceSealed (s : State) (p : BitVec 8) : State :=
  if s.slot.begun.isSome then s else s.sealAll s.cur.core (maskClasses p)

/-- An `xfence` that has begun. -/
def State.fenceBegun (s : State) (p : BitVec 8) : State :=
  if s.slot.begun.isSome then s
  else (s.fenceSealed p).modSlot fun sl => { sl with begun := some (s.fenceIds p) }

theorem State.fenceSealed_sealedIn (s : State) (p : BitVec 8) : SealedIn s (s.fenceSealed p) s.cur.core := by
  unfold State.fenceSealed
  split
  · exact .refl s _
  · exact s.sealAll_sealedIn _ _

theorem State.slotIs_fenceBegun (s : State) (p : BitVec 8) :
    SlotIs (s.fenceSealed p) (s.fenceBegun p) { s.slot with begun := some (s.fenceIds p) } := by
  cases begun : s.slot.begun with
  | some b =>
    have same : { s.slot with begun := some (s.fenceIds p) } = s.slot := by
      rw [State.fenceIds, begun, Option.getD_some, ← begun]
    rw [same, State.fenceBegun, State.fenceSealed, begun, Option.isSome_some, if_pos rfl, if_pos rfl]
    exact .refl s
  | none =>
    have sealed := s.fenceSealed_sealedIn p
    have e := (SlotIs.refl (s.fenceSealed p)).modSlot rfl fun sl => { sl with begun := some (s.fenceIds p) }
    rw [State.fenceBegun, begun, if_neg (by decide)]
    rwa [sealed.slot] at e

theorem State.fenceBegun_rest (s : State) (p : BitVec 8) : { s.fenceBegun p with cores := s.cores } = s := by
  unfold State.fenceBegun
  split
  · rfl
  · exact (s.fenceSealed_sealedIn p).rest

theorem State.fenceBegun_cur (s : State) (p : BitVec 8) : (s.fenceBegun p).cur = s.cur := (congrArg State.cur (s.fenceBegun_rest p) :)

theorem State.fenceBegun_slot (s : State) (p : BitVec 8) : (s.fenceBegun p).slot = { s.slot with begun := some (s.fenceIds p) } :=
  (s.slotIs_fenceBegun p).slot ((s.fenceBegun_cur p).trans (s.fenceSealed_sealedIn p).cur.symm)

theorem State.fenceBegun_classQ (s : State) (p : BitVec 8) (o : Nat) :
    (s.fenceBegun p).classQ s.cur.core o = (s.fenceSealed p).classQ s.cur.core o := (s.slotIs_fenceBegun p).classQ _ o

theorem State.fenceBegun_sendsOut (s : State) (p : BitVec 8) (sc : Scope) : (s.fenceBegun p).sendsOut sc = s.sendsOut sc := by
  have sent : (s.fenceBegun p).slot.sent = s.slot.sent := by rw [s.fenceBegun_slot]
  have net : (s.fenceBegun p).net = s.net := (congrArg State.net (s.fenceBegun_rest p) :)
  have within (m : Msg) : msgIn (s.fenceBegun p) sc m = msgIn s sc m :=
    (congrArg (fun u : State => msgIn u sc m) (s.fenceBegun_rest p) :)
  simp only [State.sendsOut, sent, net, within]

theorem State.since_fenceBegun (s : State) (p : BitVec 8) (o : Nat) (n j : BitVec 16) :
    ((s.fenceBegun p).classQ s.cur.core o).since n j = decide ((j - n).toNat < ((s.classQ s.cur.core o).nextid - n).toNat) := by
  rw [ClassQ.since, s.fenceBegun_classQ, (s.fenceSealed_sealedIn p).nextid]

/-- A job issued before an `xfence` is not complete. -/
def State.fenceBusy (s : State) (p : BitVec 8) : Bool :=
  (s.fenceIds p).any fun e => (unfinished ((s.fenceBegun p).classQ s.cur.core e.1)).any fun j =>
    !((s.fenceBegun p).classQ s.cur.core e.1).since e.2 j.id

theorem State.fenceBusy_iff (s : State) (p : BitVec 8) :
    s.fenceBusy p = true ↔ ∃ e ∈ s.fenceIds p, ∃ j ∈ (unfinished (s.classQ s.cur.core e.1)).map Job.id,
      ¬(j - e.2).toNat < ((s.classQ s.cur.core e.1).nextid - e.2).toNat := by
  rw [State.fenceBusy, List.any_eq_true]
  refine exists_congr fun e => and_congr_right fun _ => ?_
  rw [← (s.fenceSealed_sealedIn p).ids, ← s.fenceBegun_classQ, List.any_eq_true]
  simp only [s.since_fenceBegun, List.mem_map, exists_exists_and_eq_and, Bool.not_eq_true', decide_eq_false_iff_not]

/-- What an `xfence` of a core does once it has begun (R154). -/
def State.fenceGoesOn (s : State) (c : Nat) (p q : BitVec 8) : State :=
  let begun := (s.slot.begun).getD []
  if begun.any fun e => (unfinished (s.classQ c e.1)).any fun j => !(s.classQ c e.1).since e.2 j.id then s
  else if p.getLsbD 6 && s.sendsOut .part then s
  else (s.owe (crossOwed s p q begun)).modSlot fun sl => { sl with begun := none }.retire

theorem exec_xfence_goesOn (s : State) (p q : BitVec 8) :
    exec (.xfence p q) s = .next ((s.fenceBegun p).fenceGoesOn s.cur.core p q) := by
  show execXfence p q s = _
  cases begun : s.slot.begun with
  | some b =>
    rw [State.fenceBegun, begun, Option.isSome_some, if_pos rfl]
    simp only [execXfence, begun]
    rw [State.fenceGoesOn, begun]
  | none =>
    let u := s.sealAll s.cur.core (maskClasses p)
    have next (o : Nat) : (u.classQ s.cur.core o).nextid = (s.classQ s.cur.core o).nextid :=
      (s.sealAll_sealedIn s.cur.core (maskClasses p)).nextid o
    have begins : s.fenceBegun p = u.modSlot fun sl => { sl with
        begun := some ((maskClasses p).map fun k => (k, (u.classQ s.cur.core k).nextid)) } := by
      simp only [State.fenceBegun, State.fenceSealed, State.fenceIds, begun, Option.isSome_none, Bool.false_eq_true, if_false,
        Option.getD_none, next]
      rfl
    rw [begins]
    simp only [execXfence, begun]
    rfl

theorem exec_xfence (s : State) (p q : BitVec 8) :
    exec (.xfence p q) s = .next (if s.fenceBusy p then s.fenceBegun p
      else if p.getLsbD 6 && s.sendsOut .part then s.fenceBegun p
      else ((s.fenceBegun p).owe (crossOwed (s.fenceBegun p) p q (s.fenceIds p))).modSlot fun sl => { sl with begun := none }.retire) := by
  have ids : ((s.fenceBegun p).slot.begun).getD [] = s.fenceIds p := by rw [s.fenceBegun_slot]; rfl
  rw [exec_xfence_goesOn]
  simp only [State.fenceGoesOn, ids, s.fenceBegun_sendsOut, State.fenceBusy]
  rfl

/-! ### What an `xfence` owes -/

/-- The writes in the first set of an `xfence` (R154). -/
theorem mem_fenceWrites (s : State) (p : BitVec 8) (begun : List (Nat × BitVec 16)) (i : Nat) :
    i ∈ fenceWrites s p begun ↔ ∃ h ∈ s.hidden, h.id = i ∧ (
      (p.getLsbD 0 = true ∧ (h.writer = s.agent ∨ s.agent ∈ h.readers)) ∨
      (s.agent ∈ h.readers ∧ p.getLsbD (pathBit h.writer) = true) ∨
      ∃ j ∈ h.jobs ++ h.users, issuedBefore s s.cur.core begun j = true) := by
  have own : i ∈ (if p.getLsbD 0 then s.ownWrites s.agent else []) ↔
      ∃ h ∈ s.hidden, h.id = i ∧ p.getLsbD 0 = true ∧ h.writer = s.agent := by
    split
    · next l => rw [State.ownWrites, mem_map_filter]; simp only [l, beq_iff_eq, true_and]
    · next l => simp only [Bool.eq_false_of_not_eq_true l, Bool.false_eq_true, false_and, and_false, exists_false, List.not_mem_nil]
  have read : i ∈ (if p.getLsbD 0 then s.readWrites s.agent else []) ↔
      ∃ h ∈ s.hidden, h.id = i ∧ p.getLsbD 0 = true ∧ s.agent ∈ h.readers := by
    split
    · next l => rw [State.readWrites, mem_map_filter]; simp only [l, List.contains_iff_mem, true_and]
    · next l => simp only [Bool.eq_false_of_not_eq_true l, Bool.false_eq_true, false_and, and_false, exists_false, List.not_mem_nil]
  simp only [fenceWrites, List.mem_append, own, read, mem_map_filter, List.any_eq_true, Bool.and_eq_true, List.contains_iff_mem]
  constructor
  · rintro (((⟨h, hh, e, l, w⟩ | ⟨h, hh, e, j⟩) | ⟨h, hh, e, r⟩) | ⟨h, hh, e, l, r⟩)
    · exact ⟨h, hh, e, .inl ⟨l, .inl w⟩⟩
    · exact ⟨h, hh, e, .inr (.inr j)⟩
    · exact ⟨h, hh, e, .inr (.inl r)⟩
    · exact ⟨h, hh, e, .inl ⟨l, .inr r⟩⟩
  · rintro ⟨h, hh, e, ⟨l, w | r⟩ | r | j⟩
    · exact .inl (.inl (.inl ⟨h, hh, e, l, w⟩))
    · exact .inr ⟨h, hh, e, l, r⟩
    · exact .inl (.inr ⟨h, hh, e, r⟩)
    · exact .inl (.inl (.inr ⟨h, hh, e, j⟩))

/-- The jobs of a core issued before an `xfence` of a slot of it began (R154). -/
theorem State.issuedBefore_iff (s : State) (p : BitVec 8) (begun : List (Nat × BitVec 16)) (d k : Nat) (j : BitVec 16) :
    issuedBefore (s.fenceBegun p) s.cur.core begun (d, k, j) = true ↔ d = s.cur.core ∧ ∃ e ∈ begun, e.1 = k ∧
      ¬(j - e.2).toNat < ((s.classQ s.cur.core k).nextid - e.2).toNat := by
  rw [issuedBefore, Bool.and_eq_true, beq_iff_eq, List.any_eq_true]
  refine and_congr_right fun here => exists_congr fun e => and_congr_right fun _ => ?_
  subst here
  rw [s.since_fenceBegun, Bool.and_eq_true, beq_iff_eq, Bool.not_eq_true', decide_eq_false_iff_not]

/-- What the `xfence` of a slot owes (R154). -/
def State.fenceOwes (s : State) (p q : BitVec 8) : Owed := crossOwed (s.fenceBegun p) p q (s.fenceIds p)

theorem State.mem_fenceOwes (s : State) (p q : BitVec 8) (i : Nat) :
    i ∈ (s.fenceOwes p q).ids ↔ ∃ h ∈ s.hidden, h.id = i ∧ (
      (p.getLsbD 0 = true ∧ (h.writer = s.agent ∨ s.agent ∈ h.readers)) ∨
      (s.agent ∈ h.readers ∧ p.getLsbD (pathBit h.writer) = true) ∨
      ∃ e ∈ s.fenceIds p, ∃ j, (s.cur.core, e.1, j) ∈ h.jobs ++ h.users ∧
        ¬(j - e.2).toNat < ((s.classQ s.cur.core e.1).nextid - e.2).toNat) := by
  have hidden : (s.fenceBegun p).hidden = s.hidden := (congrArg State.hidden (s.fenceBegun_rest p) :)
  have agent : (s.fenceBegun p).agent = s.agent := by rw [State.agent, State.agent, s.fenceBegun_cur]
  show i ∈ fenceWrites (s.fenceBegun p) p (s.fenceIds p) ↔ _
  rw [mem_fenceWrites, hidden, agent, s.fenceBegun_cur]
  refine exists_congr fun h => and_congr_right fun _ => and_congr_right fun _ => or_congr_right (or_congr_right ?_)
  constructor
  · rintro ⟨⟨d, k, j⟩, mem, issued⟩
    obtain ⟨rfl, e, he, rfl, before⟩ := (s.issuedBefore_iff p _ d k j).1 issued
    exact ⟨e, he, j, mem, before⟩
  · rintro ⟨e, he, j, mem, before⟩
    exact ⟨_, mem, (s.issuedBefore_iff p _ _ _ _).2 ⟨rfl, e, he, rfl, before⟩⟩

/-- What an `xfence` leaves that waits no more (R154). -/
theorem State.fence_retires (s : State) (p q : BitVec 8) :
    let o := s.fenceOwes p q
    let t := ((s.fenceBegun p).owe o).modSlot fun sl => { sl with begun := none }.retire
    { t with cores := s.cores, nextId := s.nextId } = s ∧
    SlotIs (s.fenceSealed p) t { s.slot.next with
      begun := none, early := if q.getLsbD 0 then [] else s.slot.early
      owed := if o.ids = [] ∧ o.flights = [] ∧ o.msgs = [] then s.slot.owed else s.slot.owed ++ [o] } := by
  intro o t
  refine ⟨?_, ?_⟩
  · exact (congrArg (fun u : State => { u with cores := s.cores, nextId := s.nextId }) ((s.fenceBegun p).owe_rest o)).trans
      (congrArg (fun u : State => { u with nextId := s.nextId }) (s.fenceBegun_rest p))
  · have cur : (s.fenceBegun p).cur = (s.fenceSealed p).cur := (s.fenceBegun_cur p).trans (s.fenceSealed_sealedIn p).cur.symm
    have owes := (s.fenceBegun p).slotIs_owe o
    rw [s.fenceBegun_slot] at owes
    exact ((s.slotIs_fenceBegun p).trans cur owes).modSlot (((s.fenceBegun p).owe_cur o).trans cur) fun sl => { sl with begun := none }.retire

/-- What the writes that an `xfence` owes are visible to before what it holds back (R154). -/
theorem State.crossOwed_before (s : State) {o : Owed} (ho : o ∈ s.slot.owed) (i : Instr) (holds : o.holds s.slot i = true) {q : BitVec 8}
    (view : o.view = .classes s.agent q) {h : Hidden} (mem : h ∈ (s.before i).hidden) (named : h.id ∈ o.ids) {ag : Agent}
    (within : inScope s .part s.agent ag = true) (path : q.getLsbD (pathBit ag) = true) : sees (s.before i) ag h = true := by
  have seen := s.before_allSeen i ho holds h mem named
  rw [view] at seen
  have same : inScope (s.before i) .part s.agent ag = inScope s .part s.agent ag :=
    inScope_of_parts (congrArg (fun u : State => { u with cur := s.cur, clusters := s.clusters }) (s.before_rest i)) .part s.agent ag
  have has : viewHas (s.before i) ag (.classes s.agent q) = true := by
    show (inScope (s.before i) .part s.agent ag && q.getLsbD (pathBit ag)) = true
    rw [same, within, path]
    rfl
  rw [sees, Bool.or_eq_true]
  exact .inr (List.any_eq_true.2 ⟨_, seen, has⟩)

/-- What is left once a job of a class has completed (R160, R162). -/
structure JobDone (s t : State) (c cls : Nat) (j : Job) (new : List Msg) : Prop where
  jobs : (t.classQ c cls).jobs = (s.classQ c cls).jobs.filter (fun k => k.id ≠ j.id)
  net : t.net = s.net ++ new
  bodies : new.map Msg.body = jobTokens c cls j
  srcs : ∀ m ∈ new, m.src = .engine c cls
  slots : ∀ d i, t.slotOf d i = s.slotOf d i
  rest : { t with cores := s.cores, hidden := s.hidden, net := s.net, nextId := s.nextId } = s
  kept : new = [] → cls ≠ 5 → t.hidden = s.hidden
  seen : new ≠ [] ∨ cls = 5 → ∀ h ∈ t.hidden, (c, cls, j.id) ∈ h.jobs → View.within (classScope cls) (classAgent s c cls) ∈ h.seen

theorem State.jobDone (s : State) (c cls : Nat) (j : Job) :
    ∃ new, JobDone s (((s.jobGone c cls j).jobPerformed c cls j).postAll (.engine c cls) (jobTokens c cls j)) c cls j new := by
  have alone := (s.jobGone c cls j).jobPerformed_hidden c cls j
  have gone := s.onlyClassQ_modClassQ c cls fun q => { q with jobs := q.jobs.filter fun k => k.id ≠ j.id }
  obtain ⟨sent, new, net, srcs, bodies⟩ := ((s.jobGone c cls j).jobPerformed c cls j).postAll_spec (.engine c cls) (jobTokens c cls j)
  generalize ((s.jobGone c cls j).jobPerformed c cls j).postAll (.engine c cls) (jobTokens c cls j) = t at sent net
  have cores : t.cores = (s.jobGone c cls j).cores := (congrArg State.cores sent :).trans alone.cores
  have hidden : t.hidden = ((s.jobGone c cls j).jobPerformed c cls j).hidden := (congrArg State.hidden sent :)
  have silent : new = [] ↔ jobTokens c cls j = [] := by rw [← bodies, List.map_eq_nil_iff]
  refine ⟨new, ?_, net.trans (congrArg (· ++ new) (congrArg State.net alone.rest :)), bodies, srcs,
    fun d i => (State.slotOf_of_cores cores d i).trans (gone.slotOf d i), ?_, fun none other => ?_, fun sends h mem made => ?_⟩
  · rw [State.classQ, State.core, cores]
    exact congrArg ClassQ.jobs (s.classQ_modClassQ_self c cls _)
  · have performed := (congrArg (fun u : State => { u with cores := s.cores, hidden := s.hidden }) sent :).trans
      (congrArg (fun u : State => { u with cores := s.cores }) alone.rest)
    exact (congrArg (fun u : State => { u with net := s.net, nextId := s.nextId }) performed :)
  · rw [hidden, State.jobPerformed, silent.1 none, if_pos (by simp [other])]
    rfl
  · exact State.jobPerformed_sees (s := s.jobGone c cls j) (sends.imp_left (mt silent.2)) (hidden ▸ mem) made

/-- Settles O44: what sealing keeps of a class, what a completing job performs and sends, and what an `xfence` waits for and owes. -/
theorem jobsSealCompleteAndHoldCrossPathFences : Obligations.JobsSealCompleteAndHoldCrossPathFences := by
  unfold Obligations.JobsSealCompleteAndHoldCrossPathFences
  refine ⟨?_, ?_⟩
  · intro s rd rs n eng c cls j js k q count id waits
    refine ⟨fun fresh => ?_, fun begun => ⟨fun few => ?_, fun many => ?_⟩, ?_, fun oldest sealed left idle => ?_⟩
    · obtain ⟨t, run, rest, slot⟩ := exec_jwait_begins (n := n) (eng := eng) fresh
      have seals := s.sealedIn s.cur.core k
      refine ⟨t, run, ⟨slot.here, fun d i h => (slot.slots d i h).trans (seals.slots d i), rest⟩, ?_, ?_, ?_⟩
      · rw [slot.classQ, State.classQ_modClassQ_self]
        exact openJob_sealOpen _
      · rw [slot.classQ, seals.queue]
      · rw [slot.classQ, seals.ids]
    · exact ⟨_, (exec_jwait_begun begun).trans (congrArg Host.Outcome.next (if_pos few)), (SlotIs.refl s).modSlot rfl _, rfl⟩
    · exact (exec_jwait_begun begun).trans (congrArg Host.Outcome.next (if_neg (Nat.not_le.2 many)))
    · refine gives_of_done (show exec (.jpoll rd rs eng) s = .next (s.done rd _) from rfl) ?_
      rw [jobStatus_eq]
      rfl
    · intro tokens
      obtain ⟨new, done⟩ := s.jobDone c cls j
      refine ⟨_, new, exec_jobComplete oldest sealed left idle, done.jobs, done.net, done.bodies, done.srcs, done.slots,
        (congrArg State.mem done.rest :), (congrArg State.lost done.rest :), done.kept, fun sends h mem made ag within => ?_⟩
      exact sees_of_within (done.seen sends h mem made) ((inScope_of_rest done.rest _ _ _).trans within)
  · intro s p q c classes pendingOf ids before
    dsimp only
    refine ⟨?_, fun i o ho view holds h mem named ag within path => s.crossOwed_before ho i holds view mem named within path⟩
    have seals := s.fenceSealed_sealedIn p
    have busy : s.fenceBusy p = true ↔ ∃ e ∈ ids, ∃ j ∈ pendingOf e.1, before e j := s.fenceBusy_iff p
    have held : (p.getLsbD 6 && s.sendsOut .part) = true ↔ p.getLsbD 6 = true ∧ s.sendsOut .part = true := Bool.and_eq_true_iff
    have shut {t : State} {sl : Slot} (slot : SlotIs (s.fenceSealed p) t sl) (fresh : s.slot.begun = none) :
        ∀ k ∈ classes, openJob (t.classQ c k) = none ∧ (t.classQ c k).queue = (s.classQ c k).queue := by
      intro k hk
      rw [slot.classQ, seals.queue]
      refine ⟨?_, rfl⟩
      rw [State.fenceSealed, fresh, if_neg (by decide)]
      exact s.sealAll_closed c hk
    have others {t : State} {sl : Slot} (slot : SlotIs (s.fenceSealed p) t sl) (d : Nat) (k : Fin 4) (h : d ≠ c ∨ k ≠ s.cur.slot) :
        t.slotOf d k = s.slotOf d k := (slot.slots d k (by rwa [seals.cur])).trans (seals.slots d k)
    have here {t : State} {sl : Slot} (slot : SlotIs (s.fenceSealed p) t sl) : t.slotOf c s.cur.slot = sl := by
      have e := slot.here
      rwa [seals.cur] at e
    by_cases waits : s.fenceBusy p = true ∨ (p.getLsbD 6 && s.sendsOut .part) = true
    · have run : exec (.xfence p q) s = .next (s.fenceBegun p) := by
        rw [exec_xfence]
        rcases waits with b | h
        · rw [if_pos b]
        · rw [if_pos h, ite_self]
      have slot := s.slotIs_fenceBegun p
      refine ⟨_, run, (congrArg (fun u : State => { u with nextId := s.nextId }) (s.fenceBegun_rest p) :), others slot, shut slot,
        fun _ => here slot, fun idle free => ?_⟩
      exact (waits.elim (fun b => idle (busy.1 b)) fun h => free (held.1 h)).elim
    · obtain ⟨idle, free⟩ := not_or.1 waits
      obtain ⟨rest, slot⟩ := s.fence_retires p q
      have run := (exec_xfence s p q).trans (congrArg Host.Outcome.next ((if_neg idle).trans (if_neg free)))
      refine ⟨_, run, rest, others slot, shut slot, fun w => ?_, fun _ _ => ⟨s.fenceOwes p q, here slot, ?_, rfl, ?_, ?_, ?_, ?_, ?_⟩⟩
      · exact (w.elim (fun b => idle (busy.2 b)) fun h => free (held.2 h)).elim
      · show View.classes (s.fenceBegun p).agent q = _
        rw [State.agent, s.fenceBegun_cur]
        rfl
      · intro l f hf moves
        show f.id ∈ if p.getLsbD 0 then (((s.fenceBegun p).slot.flights.filter fun f => f.reads || f.writes).map Flight.id) else []
        rw [if_pos l, s.fenceBegun_slot]
        exact (mem_map_filter _ _ _ _).2 ⟨f, hf, rfl, moves⟩
      · exact fun l h hh mine => (s.mem_fenceOwes p q _).2 ⟨h, hh, rfl, .inl ⟨l, mine⟩⟩
      · exact fun h hh r path => (s.mem_fenceOwes p q _).2 ⟨h, hh, rfl, .inr (.inl ⟨r, path⟩)⟩
      · exact fun e he h hh j mem b => (s.mem_fenceOwes p q _).2 ⟨h, hh, rfl, .inr (.inr ⟨e, he, j, mem, b⟩)⟩
      · intro i hi
        obtain ⟨h, hh, e, ⟨-, mine⟩ | ⟨r, -⟩ | ⟨e', -, j, mem, -⟩⟩ := (s.mem_fenceOwes p q i).1 hi
        · exact ⟨h, hh, e, mine.elim .inl fun r => .inr (.inl r)⟩
        · exact ⟨h, hh, e, .inr (.inl r)⟩
        · exact ⟨h, hh, e, .inr (.inr ⟨e'.1, j, mem⟩)⟩

end Sys2Proof.Machine
end

section
/-!
PROOFS. Page tables: what a leaf that is set or dropped leaves of a walk, and that the table stays tidy (R286).
-/
namespace Sys2Proof.Machine

/-! ### Sparse tables -/

theorem AMap.get?_filter {α : Type} (m : AMap α) (p : Nat → Bool) (n : Nat) :
    AMap.get? (m.filter fun e => p e.1) n = if p n then m.get? n else none := by
  induction m with
  | nil => simp [AMap.get?]
  | cons e m ih =>
    obtain ⟨k, v⟩ := e
    by_cases hk : k = n
    · subst hk
      by_cases hp : p k = true
      · simp [hp, AMap.get?]
      · simp [hp, ih]
    · by_cases hp : p k = true
      · simp [hp, AMap.get?, hk, ih]
      · simp [hp, AMap.get?, hk, ih]

theorem AMap.getD_filter {α : Type} (m : AMap α) (p : Nat → Bool) (n : Nat) (d : α) :
    AMap.getD (m.filter fun e => p e.1) n d = if p n then m.getD n d else d := by
  rw [AMap.getD, AMap.get?_filter, AMap.getD]
  split <;> rfl

theorem AMap.get?_del {α : Type} (m : AMap α) (n k : Nat) : (m.del n).get? k = if k = n then none else m.get? k := by
  induction m with
  | nil => simp [AMap.del, AMap.get?]
  | cons e m ih =>
    obtain ⟨j, v⟩ := e
    rw [AMap.del]
    split
    · next h =>
      subst h
      rw [ih]
      split
      · rfl
      · next ne => rw [AMap.get?, if_neg fun e => ne e.symm]
    · next h =>
      rw [AMap.get?, ih, AMap.get?]
      by_cases hk : j = k
      · subst hk; rw [if_pos rfl, if_neg h, if_pos rfl]
      · rw [if_neg hk, if_neg hk]

theorem AMap.getD_del {α : Type} (m : AMap α) (n k : Nat) (d : α) : (m.del n).getD k d = if k = n then d else m.getD k d := by
  rw [AMap.getD, AMap.get?_del, AMap.getD]
  split <;> rfl

theorem AMap.getD_putRange {α : Type} (m : AMap α) (first n : Nat) (g : Nat → α) (k : Nat) (d : α) :
    AMap.getD ((List.range n).foldl (fun t i => AMap.put t (first + i) (g i)) m) k d =
      if first ≤ k ∧ k < first + n then g (k - first) else m.getD k d := by
  induction n with
  | zero => rw [if_neg (by omega)]; rfl
  | succ n ih =>
    rw [List.range_succ, List.foldl_append, List.foldl_cons, List.foldl_nil, AMap.getD_put, ih]
    by_cases hk : k = first + n
    · subst hk
      rw [if_pos rfl, if_pos (by omega), Nat.add_sub_cancel_left]
    · rw [if_neg hk]
      exact if_congr (by omega) rfl rfl

/-! ### Entries -/

/-- What a walk finds in an entry that holds a leaf: an entry that is zero is none. -/
def seenLeaf (l : Leaf) : Option Leaf := if l = ⟨.notPresent, .silo, 0, 0, false, false, false, false, false⟩ then none else some l

theorem notPresent_of_code {st : PageState} (h : 0 = BitVec.ofNat 2 (stateCode st)) : st = .notPresent := by
  cases st with
  | notPresent => rfl
  | present | discarded | moving => exact absurd h (by decide)

theorem silo_of_code {t : Tier} (h : 0 = BitVec.ofNat 2 (tierCode t)) : t = .silo := by
  cases t with
  | silo => rfl
  | second | granary => exact absurd h (by decide)

/-- A small leaf that fits its entry and makes it zero has nothing in it. -/
theorem wordOfLeaf_eq_zero {l : Leaf} (fits : leafFits l = true) (small : l.big = false) (zero : wordOfLeaf l = 0) (lost : l.lost = false) :
    l = ⟨.notPresent, .silo, 0, 0, false, false, false, false, false⟩ := by
  rw [leafFits, Bool.and_eq_true, decide_eq_true_eq, decide_eq_true_eq] at fits
  have field (lo n : Nat) : (0 : Word).extractLsb' lo n = 0 := by simp
  have state := wordOfLeaf_state l
  have tier := wordOfLeaf_tier l
  have home := congrArg BitVec.toNat (wordOfLeaf_home l)
  have frame := congrArg BitVec.toNat (wordOfLeaf_frame l)
  have x : false = l.x := by rw [← wordOfLeaf_x l, zero]; rfl
  have w : false = l.w := by rw [← wordOfLeaf_w l, zero]; rfl
  have r : false = l.r := by rw [← wordOfLeaf_r l, zero]; rfl
  rw [zero, field] at state tier home frame
  rw [small, if_neg Bool.false_ne_true, BitVec.toNat_ofNat, Nat.mod_eq_of_lt fits.2] at frame
  rw [BitVec.toNat_ofNat, Nat.mod_eq_of_lt fits.1] at home
  have noState := notPresent_of_code state
  have noTier := silo_of_code tier
  obtain ⟨st, ti, ho, fr, b, lx, lw, lr, lo⟩ := l
  simp only at noState noTier home frame small x w r lost
  subst noState noTier small x w r lost
  rw [← home, ← frame]
  rfl

theorem leafOfWord_seen {l : Leaf} (fits : leafFits l = true) (small : l.big = false) :
    leafOfWord (wordOfLeaf l) l.lost = seenLeaf l := by
  unfold seenLeaf
  split
  · next h => subst h; decide
  · next h =>
    refine leafOfWord_wordOfLeaf l fits (fun b => absurd b (by rw [small]; decide)) ?_
    by_contra zero
    obtain ⟨zero, lost⟩ := not_or.1 zero
    exact h (wordOfLeaf_eq_zero fits small (not_not.1 zero) (Bool.eq_false_of_not_eq_true lost))

/-- The leaf that an entry holds fits its fields, and is marked as its page is. -/
theorem leafOfWord_fits {e : Word} {lost : Bool} {l : Leaf} (h : leafOfWord e lost = some l) : leafFits l = true ∧ l.lost = lost := by
  unfold leafOfWord at h
  dsimp only at h
  split at h
  · cases h
  · obtain ⟨t, -, rfl⟩ := Option.map_eq_some_iff.1 h
    refine ⟨?_, rfl⟩
    rw [leafFits, Bool.and_eq_true, decide_eq_true_eq, decide_eq_true_eq]
    exact ⟨BitVec.isLt _, BitVec.isLt _⟩

theorem leafOfWord_zero : leafOfWord 0 false = none := rfl

/-! ### The walk -/

section
variable {pt : PageTable} {m : Nat}

theorem leafOf_small (p1 : isPointer (pt.entry1 m) = true) (p2 : isPointer (pt.entry2 m) = true) (p3 : isPointer (pt.entry3 m) = true) :
    leafOf pt m = (leafOfWord (pt.entry4 m) (pt.isLost m)).filter fun l => !l.big := by
  simp [leafOf, p1, p2, p3]

theorem leafOf_over (p1 : isPointer (pt.entry1 m) = true) (p2 : isPointer (pt.entry2 m) = true) (p3 : isPointer (pt.entry3 m) = false) :
    leafOf pt m = (leafOfWord (pt.entry3 m) (pt.isLost (m - m % 32))).filter Leaf.big := by
  simp [leafOf, p1, p2, p3]

theorem leafOf_nowhere (h : ¬(isPointer (pt.entry1 m) = true ∧ isPointer (pt.entry2 m) = true)) : leafOf pt m = none := by
  unfold leafOf
  rw [if_pos]
  simpa [Bool.or_eq_true, Bool.and_eq_true, imp_iff_not_or] using h

/-- A leaf that a walk finds stands under pointers. -/
theorem pointers_of_leafOf {l : Leaf} (h : leafOf pt m = some l) : isPointer (pt.entry1 m) = true ∧ isPointer (pt.entry2 m) = true := by
  by_contra no
  rw [leafOf_nowhere no] at h
  cases h

/-- A leaf that a walk finds fits its entry, and is big where its level 3 entry is no pointer. -/
theorem leafOf_fits {l : Leaf} (h : leafOf pt m = some l) : leafFits l = true ∧ l.big = !isPointer (pt.entry3 m) ∧
    l.lost = pt.isLost (if l.big then m - m % 32 else m) := by
  obtain ⟨p1, p2⟩ := pointers_of_leafOf h
  cases p3 : isPointer (pt.entry3 m) with
  | true =>
    rw [leafOf_small p1 p2 p3, Option.filter_eq_some_iff] at h
    obtain ⟨h, small⟩ := h
    rw [Bool.not_eq_true'] at small
    obtain ⟨fits, lost⟩ := leafOfWord_fits h
    exact ⟨fits, small, by rw [small, if_neg Bool.false_ne_true, lost]⟩
  | false =>
    rw [leafOf_over p1 p2 p3, Option.filter_eq_some_iff] at h
    obtain ⟨h, big⟩ := h
    obtain ⟨fits, lost⟩ := leafOfWord_fits h
    exact ⟨fits, big, by rw [big, if_pos rfl, lost]⟩

theorem TidyTable.upper (tidy : TidyTable pt) (h : pt.entry3 m ≠ 0) : isPointer (pt.entry1 m) = true ∧ isPointer (pt.entry2 m) = true := by
  have p2 := tidy.level3 m h
  refine ⟨tidy.level2 m fun zero => ?_, p2⟩
  rw [zero] at p2
  cases p2

theorem ne_zero_of_isPointer {e : Word} (h : isPointer e = true) : e ≠ 0 := by
  rintro rfl
  cases h

/-- A page without a leaf is not marked as lost. -/
theorem TidyTable.not_lost (tidy : TidyTable pt) (h : leafOf pt m = none) : pt.isLost m = false := by
  rw [PageTable.isLost, List.contains_eq_mem, decide_eq_false_iff_not]
  intro mem
  obtain ⟨l, found, -⟩ := tidy.lost m mem
  rw [h] at found
  cases found

/-- The entries above two pages of one 2 MiB. -/
theorem entries_block {n : Nat} (h : m / 32 = n / 32) : pt.entry1 m = pt.entry1 n ∧ pt.entry2 m = pt.entry2 n ∧ pt.entry3 m = pt.entry3 n := by
  refine ⟨?_, ?_, congrArg (fun k => pt.l3.getD k 0) h⟩
  · exact congrArg (fun k => pt.l1.getD k 0) (by omega)
  · exact congrArg (fun k => pt.l2.getD k 0) (by omega)

/-- The pages of one 2 MiB find one leaf, where no table of small ones is. -/
theorem leafOf_block {n : Nat} (h : m / 32 = n / 32) (p3 : isPointer (pt.entry3 n) = false) : leafOf pt m = leafOf pt n := by
  obtain ⟨e1, e2, e3⟩ := entries_block (pt := pt) h
  have first : m - m % 32 = n - n % 32 := by omega
  simp [leafOf, e1, e2, e3, p3, first]

end

/-! ### New tables on the way to a page -/

theorem withPointer_self (t : AMap Word) (n a : Nat) : isPointer ((withPointer t n a).getD n 0) = true := by
  unfold withPointer
  split
  · next h => exact h
  · rw [AMap.getD_put_self]
    exact isPointer_pointerTo a

theorem withPointer_ne (t : AMap Word) {n k : Nat} (a : Nat) (h : k ≠ n) : (withPointer t n a).getD k 0 = t.getD k 0 := by
  unfold withPointer
  split
  · rfl
  · exact AMap.getD_put_ne t _ _ h

theorem withPointer_of_pointer (t : AMap Word) (n a : Nat) {k : Nat} (h : isPointer (t.getD k 0) = true) :
    (withPointer t n a).getD k 0 = t.getD k 0 := by
  by_cases hk : k = n
  · subst hk
    rw [withPointer, if_pos h]
  · exact withPointer_ne t a hk

/-- `nt` is `pt` with tables on the way to a page, where there were none. -/
structure WayTo (pt nt : PageTable) (pn : Nat) : Prop where
  kept1 : ∀ m, isPointer (pt.entry1 m) = true → isPointer (nt.entry1 m) = true
  kept2 : ∀ m, isPointer (pt.entry2 m) = true → isPointer (nt.entry2 m) = true
  here1 : ∀ m, m / 32 = pn / 32 → isPointer (nt.entry1 m) = true
  here2 : ∀ m, m / 32 = pn / 32 → isPointer (nt.entry2 m) = true
  new2 : ∀ m, nt.entry2 m ≠ 0 → pt.entry2 m ≠ 0 ∨ isPointer (nt.entry1 m) = true

theorem wayTo_of_withPointer {pt nt : PageTable} {pn a b : Nat} (l1 : nt.l1 = withPointer pt.l1 (pn / 2 ^ 23) a)
    (l2 : nt.l2 = withPointer pt.l2 (pn / 2 ^ 14) b) : WayTo pt nt pn := by
  have own1 (m : Nat) (h : m / 2 ^ 23 = pn / 2 ^ 23) : isPointer (nt.entry1 m) = true := by
    rw [PageTable.entry1, l1, h]
    exact withPointer_self _ _ _
  refine ⟨fun m h => ?_, fun m h => ?_, fun m h => own1 m (by omega), fun m h => ?_, fun m h => ?_⟩
  · rw [PageTable.entry1, l1, withPointer_of_pointer _ _ _ h]
    exact h
  · rw [PageTable.entry2, l2, withPointer_of_pointer _ _ _ h]
    exact h
  · rw [PageTable.entry2, l2, show m / 2 ^ 14 = pn / 2 ^ 14 by omega]
    exact withPointer_self _ _ _
  · by_cases hm : m / 2 ^ 14 = pn / 2 ^ 14
    · exact .inr (own1 m (by omega))
    · rw [PageTable.entry2, l2, withPointer_ne _ _ hm] at h
      exact .inl h

section
variable {pt nt : PageTable} {pn : Nat} (tidy : TidyTable pt) (way : WayTo pt nt pn)
include tidy way

/-- The entries of the first levels stand under pointers. -/
theorem WayTo.level2 (m : Nat) (h : nt.entry2 m ≠ 0) : isPointer (nt.entry1 m) = true :=
  (way.new2 m h).elim (fun old => way.kept1 m (tidy.level2 m old)) id

theorem WayTo.level3 (same : ∀ m, m / 32 ≠ pn / 32 → nt.entry3 m = pt.entry3 m) (m : Nat) (h : nt.entry3 m ≠ 0) :
    isPointer (nt.entry2 m) = true := by
  by_cases block : m / 32 = pn / 32
  · exact way.here2 m block
  · rw [same m block] at h
    exact way.kept2 m (tidy.level3 m h)

/-- A page whose own entries are as before has its leaf as before: the new tables above it are empty. -/
theorem WayTo.leafOf_same {m : Nat} (e3 : nt.entry3 m = pt.entry3 m) (e4 : nt.entry4 m = pt.entry4 m) (lost : nt.isLost m = pt.isLost m)
    (first : isPointer (pt.entry3 m) = false → nt.isLost (m - m % 32) = pt.isLost (m - m % 32)) : leafOf nt m = leafOf pt m := by
  by_cases up : isPointer (pt.entry1 m) = true ∧ isPointer (pt.entry2 m) = true
  · obtain ⟨p1, p2⟩ := up
    cases p3 : isPointer (pt.entry3 m) with
    | true => rw [leafOf_small (way.kept1 m p1) (way.kept2 m p2) (e3 ▸ p3), leafOf_small p1 p2 p3, e4, lost]
    | false => rw [leafOf_over (way.kept1 m p1) (way.kept2 m p2) (e3 ▸ p3), leafOf_over p1 p2 p3, e3, first p3]
  · have zero : pt.entry3 m = 0 := by
      by_contra h
      exact up (tidy.upper h)
    have p3 : isPointer (pt.entry3 m) = false := by rw [zero]; rfl
    rw [leafOf_nowhere up]
    by_cases new : isPointer (nt.entry1 m) = true ∧ isPointer (nt.entry2 m) = true
    · have block : (m - m % 32) / 32 = m / 32 := by omega
      have unmarked : pt.isLost (m - m % 32) = false := tidy.not_lost ((leafOf_block block p3).trans (leafOf_nowhere up))
      rw [leafOf_over new.1 new.2 (e3 ▸ p3), e3, zero, first p3, unmarked, leafOfWord_zero]
      rfl
    · exact leafOf_nowhere new

end

/-- What a page finds once a page's leaf has been set (R286): a 2 MiB leaf is found by each page under it, and a small one splits the 2 MiB
leaf over it. -/
def leafPut (pt : PageTable) (pn : Nat) (l : Leaf) (m : Nat) : Option Leaf :=
  if m / 32 ≠ pn / 32 then leafOf pt m
  else if l.big then some { l with frame := l.frame - l.frame % 32 }
  else if m = pn then seenLeaf l
  else (leafOf pt m).bind fun b => if b.big then seenLeaf { b with big := false, frame := b.frame + m % 32 } else some b

/-- A page table that a page's leaf has been set in: it is tidy, and each page finds what it is to find. -/
def PutIn (pt nt : PageTable) (pn : Nat) (l : Leaf) : Prop := TidyTable nt ∧ ∀ m, leafOf nt m = leafPut pt pn l m

theorem leafPut_elsewhere (pt : PageTable) {pn m : Nat} (l : Leaf) (h : m / 32 ≠ pn / 32) : leafPut pt pn l m = leafOf pt m := by
  rw [leafPut, if_pos h]

theorem leafPut_big (pt : PageTable) {pn m : Nat} {l : Leaf} (h : m / 32 = pn / 32) (big : l.big = true) :
    leafPut pt pn l m = some { l with frame := l.frame - l.frame % 32 } := by
  rw [leafPut, if_neg (not_not.2 h), if_pos big]

theorem leafPut_self (pt : PageTable) {pn : Nat} {l : Leaf} (small : l.big = false) : leafPut pt pn l pn = seenLeaf l := by
  rw [leafPut, if_neg (not_not.2 rfl), small, if_neg Bool.false_ne_true, if_pos rfl]

theorem leafPut_beside (pt : PageTable) {pn m : Nat} {l : Leaf} (h : m / 32 = pn / 32) (small : l.big = false) (ne : m ≠ pn) :
    leafPut pt pn l m =
      (leafOf pt m).bind fun b => if b.big then seenLeaf { b with big := false, frame := b.frame + m % 32 } else some b := by
  rw [leafPut, if_neg (not_not.2 h), small, if_neg Bool.false_ne_true, if_neg ne]

/-- A small leaf beside is as it was. -/
theorem leafPut_kept {pt : PageTable} {pn m : Nat} {l : Leaf} (h : m / 32 = pn / 32) (small : l.big = false) (ne : m ≠ pn)
    (part : ∀ x, leafOf pt m = some x → x.big = false) : leafPut pt pn l m = leafOf pt m := by
  rw [leafPut_beside pt h small ne]
  cases found : leafOf pt m with
  | none => rfl
  | some b => rw [Option.bind_some, if_neg (by rw [part b found]; decide)]

theorem seenLeaf_eq_some {l x : Leaf} (h : seenLeaf l = some x) : x = l := by
  unfold seenLeaf at h
  split at h
  · cases h
  · exact (Option.some.inj h).symm

theorem seenLeaf_of_lost {l : Leaf} (lost : l.lost = true) : seenLeaf l = some l := by
  rw [seenLeaf, if_neg]
  rintro rfl
  cases lost

/-- A 2 MiB leaf that is found names a frame of 2 MiB, where those before it did. -/
theorem TidyTable.leafPut_aligned {pt : PageTable} (tidy : TidyTable pt) {pn m : Nat} {l x : Leaf} (h : leafPut pt pn l m = some x)
    (big : x.big = true) : x.frame % 32 = 0 := by
  by_cases block : m / 32 = pn / 32
  · cases lb : l.big with
    | true =>
      rw [leafPut_big pt block lb] at h
      obtain rfl := Option.some.inj h
      show (l.frame - l.frame % 32) % 32 = 0
      omega
    | false =>
      by_cases hm : m = pn
      · subst hm
        rw [leafPut_self pt lb] at h
        rw [seenLeaf_eq_some h, lb] at big
        cases big
      · rw [leafPut_beside pt block lb hm, Option.bind_eq_some_iff] at h
        obtain ⟨b, found, h⟩ := h
        split at h
        · rw [seenLeaf_eq_some h] at big
          cases big
        · next small =>
          obtain rfl := Option.some.inj h
          exact absurd big small
  · rw [leafPut_elsewhere pt l block] at h
    exact tidy.big m x h big

theorem mem_lost_iff {pt : PageTable} {m : Nat} : m ∈ pt.lost ↔ pt.isLost m = true := by
  rw [PageTable.isLost, List.contains_iff_mem]

/-- The entry of a 2 MiB leaf gives it back with the frame of 2 MiB in which it begins. -/
theorem leafOfWord_big {l : Leaf} (fits : leafFits l = true) (big : l.big = true) :
    leafOfWord (wordOfLeaf l) l.lost = some { l with frame := l.frame - l.frame % 32 } := by
  have aligned : (l.frame - l.frame % 32) % 32 = 0 := by omega
  have word : wordOfLeaf l = wordOfLeaf { l with frame := l.frame - l.frame % 32 } := by
    simp only [wordOfLeaf, big, if_true, aligned, Nat.sub_zero]
  rw [leafFits, Bool.and_eq_true, decide_eq_true_eq, decide_eq_true_eq] at fits
  rw [word]
  refine leafOfWord_wordOfLeaf _ ?_ (fun _ => aligned) (.inl fun zero => ?_)
  · rw [leafFits, Bool.and_eq_true, decide_eq_true_eq, decide_eq_true_eq]
    exact ⟨fits.1, Nat.lt_of_le_of_lt (Nat.sub_le _ _) fits.2⟩
  · have bit := wordOfLeaf_big { l with frame := l.frame - l.frame % 32 }
    rw [zero, big] at bit
    cases bit

/-! ### A 2 MiB leaf is set -/

section
variable {pt : PageTable} {pn : Nat} {l : Leaf} (tidy : TidyTable pt) (fits : leafFits l = true) (big : l.big = true)
include tidy fits big

theorem putLeaf_big (fresh : List Nat) : PutIn pt (putLeaf fresh pt pn l) pn l := by
  obtain ⟨nt, hnt⟩ : ∃ nt, nt = putLeaf fresh pt pn l := ⟨_, rfl⟩
  rw [← hnt]
  rw [putLeaf, if_pos big] at hnt
  have way : WayTo pt nt pn := wayTo_of_withPointer (by rw [hnt]) (by rw [hnt])
  have e3 (m : Nat) : nt.entry3 m = if m / 32 = pn / 32 then wordOfLeaf l else pt.entry3 m := by
    rw [hnt]; exact AMap.getD_put _ _ _ _ _
  have e4 (m : Nat) : nt.entry4 m = if m / 32 ≠ pn / 32 then pt.entry4 m else 0 := by
    rw [hnt]
    exact (AMap.getD_filter pt.l4 (fun k => decide (k / 32 ≠ pn / 32)) m 0).trans (if_congr decide_eq_true_iff rfl rfl)
  have marked (m : Nat) : nt.isLost m = true ↔ (pt.isLost m = true ∧ m / 32 ≠ pn / 32) ∨ (l.lost = true ∧ m = pn - pn % 32) := by
    rw [hnt, ← mem_lost_iff, ← mem_lost_iff]
    cases l.lost <;> simp
  have elsewhere (m : Nat) (h : m / 32 ≠ pn / 32) : nt.isLost m = pt.isLost m := by
    rw [Bool.eq_iff_iff, marked]
    exact ⟨fun k => k.elim And.left fun k => absurd (k.2 ▸ (by omega)) h, fun k => .inl ⟨k, h⟩⟩
  have found (m : Nat) : leafOf nt m = leafPut pt pn l m := by
    by_cases block : m / 32 = pn / 32
    · have entry : nt.entry3 m = wordOfLeaf l := by rw [e3, if_pos block]
      have lost : nt.isLost (m - m % 32) = l.lost := by
        rw [Bool.eq_iff_iff, marked]
        exact ⟨fun k => k.elim (fun k => absurd k.2 (by omega)) And.left, fun k => .inr ⟨k, by omega⟩⟩
      rw [leafPut_big pt block big, leafOf_over (way.here1 m block) (way.here2 m block) (entry ▸ isPointer_wordOfLeaf l), entry, lost,
        leafOfWord_big fits big, Option.filter_some, if_pos big]
    · rw [leafPut_elsewhere pt l block]
      exact way.leafOf_same tidy (by rw [e3, if_neg block]) (by rw [e4, if_pos block]) (elsewhere m block)
        fun _ => elsewhere _ (by omega)
  refine ⟨⟨way.level2 tidy, way.level3 tidy fun m h => by rw [e3, if_neg h], fun m h => ?_, fun m h => ?_, fun m x h b => ?_⟩, found⟩
  · rw [e4] at h
    split at h
    · next block =>
      rw [e3, if_neg block]
      exact tidy.level4 m h
    · exact absurd rfl h
  · rw [found]
    rcases (marked m).1 (mem_lost_iff.1 h) with ⟨old, block⟩ | ⟨lost, rfl⟩
    · rw [leafPut_elsewhere pt l block]
      exact tidy.lost m (mem_lost_iff.2 old)
    · rw [leafPut_big pt (by omega) big]
      exact ⟨_, rfl, lost, fun _ => by omega⟩
  · rw [found] at h
    exact tidy.leafPut_aligned h b

end

/-! ### A leaf of 64 KiB is set -/

theorem seenLeaf_filter {l : Leaf} (small : l.big = false) : (seenLeaf l).filter (fun l => !l.big) = seenLeaf l := by
  unfold seenLeaf
  split
  · rfl
  · rw [Option.filter_some, small]
    rfl

/-- `nt` is `pt` with a small leaf at its page; of the other pages of the same 2 MiB only the way to them is as told. -/
structure SmallPut (pt nt : PageTable) (pn : Nat) (l : Leaf) : Prop where
  way : WayTo pt nt pn
  table : ∀ m, m / 32 = pn / 32 → isPointer (nt.entry3 m) = true
  entry3 : ∀ m, m / 32 ≠ pn / 32 → nt.entry3 m = pt.entry3 m
  entry4 : ∀ m, m / 32 ≠ pn / 32 → nt.entry4 m = pt.entry4 m
  marks : ∀ m, m / 32 ≠ pn / 32 → nt.isLost m = pt.isLost m
  own : nt.entry4 pn = wordOfLeaf l
  lost : nt.isLost pn = l.lost

section
variable {pt nt : PageTable} {pn : Nat} {l : Leaf}

theorem SmallPut.leafOf_own (put : SmallPut pt nt pn l) (fits : leafFits l = true) (small : l.big = false) : leafOf nt pn = seenLeaf l := by
  rw [leafOf_small (put.way.here1 pn rfl) (put.way.here2 pn rfl) (put.table pn rfl), put.own, put.lost, leafOfWord_seen fits small,
    seenLeaf_filter small]

theorem SmallPut.leafOf_elsewhere (put : SmallPut pt nt pn l) (tidy : TidyTable pt) {m : Nat} (h : m / 32 ≠ pn / 32) :
    leafOf nt m = leafOf pt m :=
  put.way.leafOf_same tidy (put.entry3 m h) (put.entry4 m h) (put.marks m h) fun _ => put.marks _ (by omega)

/-- What holds of the pages beside the one that is set makes up for the whole table. -/
theorem SmallPut.putIn (put : SmallPut pt nt pn l) (tidy : TidyTable pt) (fits : leafFits l = true) (small : l.big = false)
    (beside : ∀ m, m / 32 = pn / 32 → m ≠ pn → leafOf nt m = leafPut pt pn l m)
    (lost : ∀ m, m / 32 = pn / 32 → m ≠ pn → nt.isLost m = true → ∃ x, leafPut pt pn l m = some x ∧ x.lost = true ∧ x.big = false) :
    PutIn pt nt pn l := by
  have found (m : Nat) : leafOf nt m = leafPut pt pn l m := by
    by_cases block : m / 32 = pn / 32
    · by_cases hm : m = pn
      · subst hm
        rw [leafPut_self pt small, put.leafOf_own fits small]
      · exact beside m block hm
    · rw [leafPut_elsewhere pt l block]
      exact put.leafOf_elsewhere tidy block
  refine ⟨⟨put.way.level2 tidy, put.way.level3 tidy put.entry3, fun m h => ?_, fun m h => ?_, fun m x h b => ?_⟩, found⟩
  · by_cases block : m / 32 = pn / 32
    · exact put.table m block
    · rw [put.entry4 m block] at h
      rw [put.entry3 m block]
      exact tidy.level4 m h
  · rw [found]
    have h := mem_lost_iff.1 h
    by_cases block : m / 32 = pn / 32
    · by_cases hm : m = pn
      · subst hm
        rw [put.lost] at h
        rw [leafPut_self pt small, seenLeaf_of_lost h]
        exact ⟨l, rfl, h, fun b => absurd b (by rw [small]; decide)⟩
      · obtain ⟨x, leaf, mark, part⟩ := lost m block hm h
        exact ⟨x, leaf, mark, fun b => absurd b (by rw [part]; decide)⟩
    · rw [put.marks m block] at h
      rw [leafPut_elsewhere pt l block]
      exact tidy.lost m (mem_lost_iff.2 h)
  · rw [found] at h
    exact tidy.leafPut_aligned h b

end

section
variable {pt : PageTable} {pn : Nat} {l : Leaf} (small : l.big = false)
include small

/-- What `putLeaf` makes of a small leaf over no 2 MiB leaf. -/
theorem putLeaf_plain (fresh : List Nat) (plain : isPointer (pt.entry3 pn) = true ∨ leafOf pt pn = none) :
    putLeaf fresh pt pn l = { pt with
      l1 := withPointer pt.l1 (pn / 2 ^ 23) (fresh.getD 0 0), l2 := withPointer pt.l2 (pn / 2 ^ 14) (fresh.getD 1 0)
      l3 := withPointer pt.l3 (pn / 32) (fresh.getD 2 0), l4 := pt.l4.put pn (wordOfLeaf l)
      lost := (pt.lost.filter (· ≠ pn)) ++ if l.lost then [pn] else [] } := by
  have none : (if isPointer (pt.entry3 pn) then none else leafOf pt pn) = none := by
    rcases plain with p | n
    · rw [if_pos p]
    · rw [n, ite_self]
  simp only [putLeaf, small, Bool.false_eq_true, if_false, none]

/-- What `putLeaf` makes of a small leaf over a 2 MiB leaf. -/
theorem putLeaf_split (fresh : List Nat) {b : Leaf} (wide : isPointer (pt.entry3 pn) = false) (leaf : leafOf pt pn = some b) :
    putLeaf fresh pt pn l = { pt with
      l1 := withPointer pt.l1 (pn / 2 ^ 23) (fresh.getD 0 0), l2 := withPointer pt.l2 (pn / 2 ^ 14) (fresh.getD 1 0)
      l3 := withPointer pt.l3 (pn / 32) (fresh.getD 2 0)
      l4 := ((List.range 32).foldl (fun t i => AMap.put t (pn - pn % 32 + i) (wordOfLeaf { b with big := false, frame := b.frame + i }))
        pt.l4).put pn (wordOfLeaf l)
      lost := ((if b.lost then (List.range 32).map (pn - pn % 32 + ·) ++ pt.lost else pt.lost).filter (· ≠ pn)) ++
        if l.lost then [pn] else [] } := by
  simp only [putLeaf, small, Bool.false_eq_true, if_false, wide, leaf]

variable (tidy : TidyTable pt) (fits : leafFits l = true)
include tidy fits

theorem putLeaf_small_plain (fresh : List Nat) (plain : isPointer (pt.entry3 pn) = true ∨ leafOf pt pn = none) :
    PutIn pt (putLeaf fresh pt pn l) pn l := by
  obtain ⟨nt, hnt⟩ : ∃ nt, nt = putLeaf fresh pt pn l := ⟨_, rfl⟩
  rw [← hnt]
  rw [putLeaf_plain small fresh plain] at hnt
  have e4 (m : Nat) : nt.entry4 m = if m = pn then wordOfLeaf l else pt.entry4 m := by rw [hnt]; exact AMap.getD_put _ _ _ _ _
  have marked (m : Nat) : nt.isLost m = true ↔ (pt.isLost m = true ∧ m ≠ pn) ∨ (l.lost = true ∧ m = pn) := by
    rw [hnt, ← mem_lost_iff, ← mem_lost_iff]
    cases l.lost <;> simp
  have marks (m : Nat) (ne : m ≠ pn) : nt.isLost m = pt.isLost m := by
    rw [Bool.eq_iff_iff, marked]
    exact ⟨fun k => k.elim And.left fun k => absurd k.2 ne, fun k => .inl ⟨k, ne⟩⟩
  have e3 (m : Nat) (p : isPointer (pt.entry3 m) = true) : nt.entry3 m = pt.entry3 m := by
    rw [hnt]; exact withPointer_of_pointer _ _ _ p
  have put : SmallPut pt nt pn l := by
    refine ⟨wayTo_of_withPointer (by rw [hnt]) (by rw [hnt]), fun m h => ?_, fun m h => ?_, fun m h => ?_, fun m h => marks m ?_, ?_, ?_⟩
    · rw [PageTable.entry3, h, hnt]
      exact withPointer_self _ _ _
    · rw [PageTable.entry3, hnt]
      exact withPointer_ne _ _ h
    · rw [e4, if_neg (by rintro rfl; exact h rfl)]
    · rintro rfl; exact h rfl
    · rw [e4, if_pos rfl]
    · rw [Bool.eq_iff_iff, marked]
      exact ⟨fun k => k.elim (fun k => absurd rfl k.2) And.left, fun k => .inr ⟨k, rfl⟩⟩
  have beside (m : Nat) (block : m / 32 = pn / 32) (ne : m ≠ pn) : leafOf nt m = leafOf pt m ∧
      ∀ x, leafOf pt m = some x → x.big = false := by
    have p3 := (entries_block (pt := pt) block).2.2
    cases p : isPointer (pt.entry3 pn) with
    | true =>
      rw [← p3] at p
      refine ⟨put.way.leafOf_same tidy (e3 m p) (by rw [e4, if_neg ne]) (marks m ne) fun n => ?_, fun x h => ?_⟩
      · rw [p] at n
        cases n
      · rw [(leafOf_fits h).2.1, p]
        rfl
    | false =>
      have none : leafOf pt m = none := (leafOf_block block p).trans (plain.resolve_left (by rw [p]; decide))
      have zero : pt.entry4 m = 0 := by
        by_contra h
        have q := tidy.level4 m h
        rw [p3, p] at q
        cases q
      refine ⟨?_, fun x h => by rw [none] at h; cases h⟩
      rw [leafOf_small (put.way.here1 m block) (put.way.here2 m block) (put.table m block), e4, if_neg ne, zero, marks m ne,
        tidy.not_lost none, leafOfWord_zero, none]
      rfl
  refine put.putIn tidy fits small (fun m block ne => ?_) fun m block ne mark => ?_
  · rw [leafPut_kept block small ne (beside m block ne).2, (beside m block ne).1]
  · rw [marks m ne] at mark
    obtain ⟨x, leaf, lost, -⟩ := tidy.lost m (mem_lost_iff.2 mark)
    exact ⟨x, by rw [leafPut_kept block small ne (beside m block ne).2, leaf], lost, (beside m block ne).2 x leaf⟩

theorem putLeaf_small_split (fresh : List Nat) {b : Leaf} (wide : isPointer (pt.entry3 pn) = false) (leaf : leafOf pt pn = some b) :
    PutIn pt (putLeaf fresh pt pn l) pn l := by
  obtain ⟨nt, hnt⟩ : ∃ nt, nt = putLeaf fresh pt pn l := ⟨_, rfl⟩
  rw [← hnt]
  rw [putLeaf_split small fresh wide leaf] at hnt
  obtain ⟨bfits, bbig, -⟩ := leafOf_fits leaf
  rw [wide, Bool.not_false] at bbig
  have e4 (m : Nat) : nt.entry4 m = if m = pn then wordOfLeaf l
      else if pn - pn % 32 ≤ m ∧ m < pn - pn % 32 + 32 then
        wordOfLeaf { b with big := false, frame := b.frame + (m - (pn - pn % 32)) } else pt.entry4 m := by
    rw [hnt]
    unfold PageTable.entry4
    rw [AMap.getD_put, AMap.getD_putRange]
  have marked (m : Nat) : nt.isLost m = true ↔
      ((b.lost = true ∧ m / 32 = pn / 32 ∨ pt.isLost m = true) ∧ m ≠ pn) ∨ (l.lost = true ∧ m = pn) := by
    have range : (∃ a < 32, pn - pn % 32 + a = m) ↔ m / 32 = pn / 32 :=
      ⟨fun ⟨a, ha, e⟩ => by omega, fun h => ⟨m % 32, by omega, by omega⟩⟩
    rw [hnt, ← mem_lost_iff, ← mem_lost_iff]
    cases l.lost <;> cases b.lost <;> simp [range, or_and_right, or_assoc]
  have put : SmallPut pt nt pn l := by
    refine ⟨wayTo_of_withPointer (by rw [hnt]) (by rw [hnt]), fun m h => ?_, fun m h => ?_, fun m h => ?_, fun m h => ?_, ?_, ?_⟩
    · rw [PageTable.entry3, h, hnt]
      exact withPointer_self _ _ _
    · rw [PageTable.entry3, hnt]
      exact withPointer_ne _ _ h
    · rw [e4, if_neg (by rintro rfl; exact h rfl), if_neg (by omega)]
    · rw [Bool.eq_iff_iff, marked]
      exact ⟨fun k => k.elim (fun k => k.1.resolve_left fun k => h k.2) fun k => absurd (k.2 ▸ rfl) h,
        fun k => .inl ⟨.inr k, by rintro rfl; exact h rfl⟩⟩
    · rw [e4, if_pos rfl]
    · rw [Bool.eq_iff_iff, marked]
      exact ⟨fun k => k.elim (fun k => absurd rfl k.2) And.left, fun k => .inr ⟨k, rfl⟩⟩
  have part (m : Nat) (block : m / 32 = pn / 32) (ne : m ≠ pn) :
      leafPut pt pn l m = seenLeaf { b with big := false, frame := b.frame + m % 32 } := by
    rw [leafPut_beside pt block small ne, leafOf_block block wide, leaf, Option.bind_some, if_pos bbig]
  have marks (m : Nat) (block : m / 32 = pn / 32) (ne : m ≠ pn) : nt.isLost m = b.lost := by
    rw [Bool.eq_iff_iff, marked]
    refine ⟨fun k => ?_, fun k => .inl ⟨.inl ⟨k, block⟩, ne⟩⟩
    rcases k with ⟨⟨k, -⟩ | k, -⟩ | ⟨-, k⟩
    · exact k
    · obtain ⟨x, found, lost, -⟩ := tidy.lost m (mem_lost_iff.2 k)
      rw [leafOf_block block wide, leaf] at found
      rw [Option.some.inj found]
      exact lost
    · exact absurd k ne
  have fitsPart (m : Nat) : leafFits { b with big := false, frame := b.frame + m % 32 } = true := by
    have aligned := tidy.big pn b leaf bbig
    rw [leafFits, Bool.and_eq_true, decide_eq_true_eq, decide_eq_true_eq] at bfits ⊢
    refine ⟨bfits.1, ?_⟩
    show b.frame + m % 32 < 2 ^ 36
    omega
  refine put.putIn tidy fits small (fun m block ne => ?_) fun m block ne mark => ?_
  · have off : m - (pn - pn % 32) = m % 32 := by omega
    rw [part m block ne, leafOf_small (put.way.here1 m block) (put.way.here2 m block) (put.table m block), e4, if_neg ne,
      if_pos (by omega), off, marks m block ne]
    exact (congrArg (Option.filter fun l => !l.big) (leafOfWord_seen (fitsPart m) rfl)).trans (seenLeaf_filter rfl)
  · rw [marks m block ne] at mark
    rw [part m block ne]
    exact ⟨_, seenLeaf_of_lost mark, mark, rfl⟩

end

/-- A leaf that fits is set in a tidy table, which stays tidy (R286). -/
theorem putLeaf_putIn {pt : PageTable} (tidy : TidyTable pt) (fresh : List Nat) (pn : Nat) {l : Leaf} (fits : leafFits l = true) :
    PutIn pt (putLeaf fresh pt pn l) pn l := by
  cases size : l.big with
  | true => exact putLeaf_big tidy fits size fresh
  | false =>
    cases wide : isPointer (pt.entry3 pn) with
    | true => exact putLeaf_small_plain size tidy fits fresh (.inl wide)
    | false =>
      cases leaf : leafOf pt pn with
      | none => exact putLeaf_small_plain size tidy fits fresh (.inr leaf)
      | some b => exact putLeaf_small_split size tidy fits fresh wide leaf

/-! ### A leaf is dropped -/

theorem leafOf_congr {pt nt : PageTable} {m : Nat} (e1 : nt.entry1 m = pt.entry1 m) (e2 : nt.entry2 m = pt.entry2 m)
    (e3 : nt.entry3 m = pt.entry3 m)
    (part : isPointer (pt.entry3 m) = true → nt.entry4 m = pt.entry4 m ∧ nt.isLost m = pt.isLost m)
    (whole : isPointer (pt.entry3 m) = false → nt.isLost (m - m % 32) = pt.isLost (m - m % 32)) : leafOf nt m = leafOf pt m := by
  unfold leafOf
  rw [e1, e2, e3]
  cases p : isPointer (pt.entry3 m) with
  | true => rw [if_pos rfl, if_pos rfl, (part p).1, (part p).2]
  | false => rw [if_neg Bool.false_ne_true, if_neg Bool.false_ne_true, whole p]

theorem contains_filter_ne (ns : List Nat) (n m : Nat) : (ns.filter (· ≠ n)).contains m = (ns.contains m && decide (m ≠ n)) := by
  rw [Bool.eq_iff_iff]
  simp

/-- What `dropLeaf` makes of a table, and which page it no longer marks as lost. -/
theorem dropLeaf_eq (pt : PageTable) (pn : Nat) :
    (isPointer (pt.entry3 pn) = true → dropLeaf pt pn = { pt with l4 := pt.l4.del pn, lost := pt.lost.filter (· ≠ pn) }) ∧
    (isPointer (pt.entry3 pn) = false →
      dropLeaf pt pn = { pt with l3 := pt.l3.del (pn / 32), lost := pt.lost.filter (· ≠ pn - pn % 32) }) := by
  unfold dropLeaf
  exact ⟨fun p => if_pos p, fun p => if_neg (by rw [p]; decide)⟩

theorem leafOf_dropLeaf_self (pt : PageTable) (pn : Nat) : leafOf (dropLeaf pt pn) pn = none := by
  cases p : isPointer (pt.entry3 pn) with
  | true =>
    have e := (dropLeaf_eq pt pn).1 p
    have e4 : (dropLeaf pt pn).entry4 pn = 0 := by rw [e]; exact (AMap.getD_del _ _ _ _).trans (if_pos rfl)
    have e3 : isPointer ((dropLeaf pt pn).entry3 pn) = true := by rw [e]; exact p
    have lost : (dropLeaf pt pn).isLost pn = false := by
      rw [e, PageTable.isLost, contains_filter_ne, decide_eq_false (not_not.2 rfl), Bool.and_false]
    unfold leafOf
    rw [e4, lost, leafOfWord_zero, if_pos e3, Option.filter_none, ite_self]
  | false =>
    have e := (dropLeaf_eq pt pn).2 p
    have e3 : (dropLeaf pt pn).entry3 pn = 0 := by rw [e]; exact (AMap.getD_del _ _ _ _).trans (if_pos rfl)
    have lost : (dropLeaf pt pn).isLost (pn - pn % 32) = false := by
      rw [e, PageTable.isLost, contains_filter_ne, decide_eq_false (not_not.2 rfl), Bool.and_false]
    unfold leafOf
    rw [e3, lost, leafOfWord_zero, isPointer_zero, if_neg Bool.false_ne_true, Option.filter_none, ite_self]

/-- A page keeps its leaf, unless it is the one that is dropped or stands under the same 2 MiB leaf. -/
theorem leafOf_dropLeaf_ne (pt : PageTable) {pn m : Nat}
    (h : m / 32 ≠ pn / 32 ∨ (m ≠ pn ∧ ∀ b, leafOf pt pn = some b → b.big = false)) : leafOf (dropLeaf pt pn) m = leafOf pt m := by
  cases p : isPointer (pt.entry3 pn) with
  | true =>
    have ne : m ≠ pn := h.elim (fun k e => k (by rw [e])) And.left
    rw [(dropLeaf_eq pt pn).1 p]
    refine leafOf_congr rfl rfl rfl (fun _ => ⟨(AMap.getD_del _ _ _ _).trans (if_neg ne), ?_⟩) fun q => ?_
    · rw [PageTable.isLost, contains_filter_ne, decide_eq_true ne, Bool.and_true, PageTable.isLost]
    · have other : m - m % 32 ≠ pn := fun e => by
        have same : pt.entry3 m = pt.entry3 pn := (entries_block (by omega)).2.2
        rw [same, p] at q
        cases q
      rw [PageTable.isLost, contains_filter_ne, decide_eq_true other, Bool.and_true, PageTable.isLost]
  | false =>
    by_cases block : m / 32 = pn / 32
    · have none : leafOf pt pn = none := by
        cases leaf : leafOf pt pn with
        | none => rfl
        | some b =>
          have small := (h.resolve_left (not_not.2 block)).2 b leaf
          rw [(leafOf_fits leaf).2.1, p] at small
          cases small
      have wide : isPointer ((dropLeaf pt pn).entry3 pn) = false := by
        rw [(dropLeaf_eq pt pn).2 p]
        exact (congrArg isPointer ((AMap.getD_del _ _ _ _).trans (if_pos rfl))).trans isPointer_zero
      rw [leafOf_block block wide, leafOf_dropLeaf_self, leafOf_block block p, none]
    · rw [(dropLeaf_eq pt pn).2 p]
      have marks (n : Nat) (ne : n ≠ pn - pn % 32) : (pt.lost.filter (· ≠ pn - pn % 32)).contains n = pt.lost.contains n := by
        rw [contains_filter_ne, decide_eq_true ne, Bool.and_true]
      exact leafOf_congr rfl rfl ((AMap.getD_del _ _ _ _).trans (if_neg block)) (fun _ => ⟨rfl, marks m (by omega)⟩)
        fun _ => marks _ (by omega)

end Sys2Proof.Machine
end

section
/-!
PROOFS. The controller: cold boot, keys, quotes, policy and alarms, the owner's page tables, and the answers to page faults (O59).
-/
namespace Sys2Proof.Machine

/-! ### Cold boot -/

/-- The phases in which a cold boot ends (R280, R281). -/
theorem bootPhase_eq (digest : List Byte) (rep : BootReport) :
    let signed : SignedImage → Bool := fun m => sha512 rep.rootKey == digest && verify rep.rootKey m.bytes m.sig
    bootPhase digest rep = if signed rep.firmware = false then 1 else if (harvest rep).1.length < 960 then 3
      else if signed rep.loftFw && signed rep.service then 7 else 5 := by
  intro signed
  show (if !signed rep.firmware then 1 else if (harvest rep).1.length < 960 then 3
    else if !(signed rep.loftFw && signed rep.service) then 5 else 7) = _
  generalize signed rep.firmware = first
  generalize (signed rep.loftFw && signed rep.service) = others
  cases first <;> cases others <;> rfl

theorem bootPhase_cases (digest : List Byte) (rep : BootReport) :
    bootPhase digest rep = 1 ∨ bootPhase digest rep = 3 ∨ bootPhase digest rep = 5 ∨ bootPhase digest rep = 7 := by
  unfold bootPhase
  split
  · exact .inl rfl
  split
  · exact .inr (.inl rfl)
  split
  · exact .inr (.inr (.inl rfl))
  · exact .inr (.inr (.inr rfl))

/-- The controller as a cold boot that ends in a phase leaves it (R280). -/
def bootedCtl (c : Ctl) (rep : BootReport) (n : Nat) : Ctl := { Ctl.reset with
  phase := n
  holes := if 3 < n then (harvest rep).2 else c.holes
  silo := if 4 < n then rep.silo.foldl (fun m p => m.put p.1 p.2) [] else c.silo
  badPorts := if 6 < n then rep.cxlDown else c.badPorts
  deadElevators := if 3 < n then rep.deadElevators else c.deadElevators
  failed := c.failed, keys := c.keys, policy := c.policy
  rootDigest := c.rootDigest, images := bootImages c.images rep n
  identity := c.identity, attestation := c.attestation
  repair := if 2 < n then [] else c.repair }

/-- The machine after a cold boot, before it reports (R279). -/
def State.booted (s : State) (rep : BootReport) (n : Nat) : State :=
  let l := lostAll s.nextId
  let t := s.newContents l.has (l :: s.lost) []
  { State.reset with
    cur := s.cur, mem := t.mem, lost := t.lost, ctl := bootedCtl s.ctl rep n, sched := s.sched, nextId := s.nextId + 1, free := s.free }

/-- The report of a boot that has failed (R280), and the alarm where an image was refused (R283). -/
def State.bootReported (s : State) (n : Nat) : State :=
  if n = 7 then s else if n = 1 ∨ n = 5 then (s.tell (.bootFailed n)).alarm 0 else s.tell (.bootFailed n)

theorem exec_coldBoot (s : State) (rep : BootReport) :
    let n := bootPhase s.ctl.rootDigest (bootFinds s rep)
    exec (.coldBoot rep) s = .next ((s.booted (bootFinds s rep) n).bootReported n) := rfl

/-! ### Alarms -/

/-- The keys are erased where the policy has an alarm do so (R283). -/
def Ctl.erasedBy (c : Ctl) (src : Nat) : Ctl :=
  { c with identity := if c.policy.getLsbD src then none else c.identity
           attestation := if c.policy.getLsbD src then none else c.attestation }

theorem State.alarmed_eq (s : State) (src : Nat) :
    s.alarm src = { s with ctl := { s.ctl.erasedBy src with reports := s.ctl.reports ++ [.alarm src] } } := by
  have policy : (s.tell (.alarm src)).ctl.policy = s.ctl.policy := rfl
  unfold State.alarm Ctl.erasedBy
  dsimp only
  rw [policy]
  cases s.ctl.policy.getLsbD src <;> rfl

/-! ### A partition's reset -/

theorem State.tellAll_eq (s : State) (rs : List Report) :
    rs.foldl State.tell s = { s with ctl := { s.ctl with reports := s.ctl.reports ++ rs } } := by
  induction rs generalizing s with
  | nil => rw [List.append_nil]; rfl
  | cons r rs ih =>
    rw [List.foldl_cons, ih, State.tell]
    simp only [List.append_assoc, List.singleton_append]

theorem State.resetFields_rest (s : State) (part : Nat) : { s.resetFields part with fields := s.fields } = s := by
  have fold (fs : List Nat) (g : FieldSt → FieldSt) (s : State) :
      { fs.foldl (fun s f => s.modField f g) s with fields := s.fields } = s := by
    induction fs generalizing s with
    | nil => rfl
    | cons f fs ih => exact (congrArg (fun u : State => { u with fields := s.fields }) (ih (s.modField f g)) :)
  exact fold _ _ s

theorem State.chansAlone_loadService (s : State) (part : Nat) : ChansAlone s (s.loadService part) := by
  have fold (sgs : List Nat) (g : Chan → Chan) (s : State) :
      ChansAlone s (sgs.foldl (fun s sg => s.modChan (serviceCore sg) 62 g) s) := by
    induction sgs generalizing s with
    | nil => exact .refl s
    | cons sg sgs ih => exact (s.chansAlone_modChan _ _ _).trans (ih _)
  exact fold _ _ s

theorem State.modPart_rest (s : State) (p : Nat) (f : PartSt → PartSt) : { s.modPart p f with parts := s.parts } = s := by
  unfold State.modPart
  split <;> rfl

/-- `t` is what a reset leaves of a partition's cores, and of the controller (R301). -/
structure ResetOf (s t : State) (part : Nat) : Prop where
  ctl : { t.ctl with reports := s.ctl.reports, faults := s.ctl.faults } = s.ctl
  reports : s.ctl.reports <+: t.ctl.reports
  cleared : ∀ c, sgIn s part (sgOf c) = true → { t.core c with chans := [] } = CoreSt.reset

/-- A partition whose work, memory and queues have gone in a reset (R301, R293). -/
def State.resetWork (s : State) (part : Nat) : State :=
  let l := lostOf s part
  let t := (((resetAnswers s part).foldl State.tell s).emptied part).newContents l.has
    (l :: ((resetAnswers s part).foldl State.tell s).lost) (windowsOf s part)
  { t with nextId := t.nextId + 1 }.modQueuesOf part fun _ q => q.afterReset

theorem State.resetPart_eq (s : State) {part : Nat} {q : PartSt} (here : s.parts.get? part = some q) :
    s.resetPart part = (((((s.resetWork part).resetFields part).modPart part fun p =>
      { p with images := [], out := false }).loadService part).tell (.resetAnswer part)) := by
  rw [State.resetPart, here]
  rfl

theorem State.resetWork_ctl (s : State) (part : Nat) : (s.resetWork part).ctl = { s.ctl with
    reports := s.ctl.reports ++ resetAnswers s part, faults := s.ctl.faults.filter fun f => !coreOf s part f.2.core } := by
  have e : (s.resetWork part).ctl = (((resetAnswers s part).foldl State.tell s).emptied part).ctl := rfl
  rw [e, State.tellAll_eq]
  rfl

theorem State.core_resetWork (s : State) {part c : Nat} (mine : sgIn s part (sgOf c) = true) : (s.resetWork part).core c = .reset := by
  have e : (s.resetWork part).cores = (((resetAnswers s part).foldl State.tell s).emptied part).cores := rfl
  rw [State.core, e, State.tellAll_eq]
  refine (AMap.getD_filter s.cores (fun k => !coreOf s part k) c .reset).trans (if_neg ?_)
  rw [coreOf, mine]
  decide

theorem State.resetOf (s : State) {part : Nat} {q : PartSt} (here : s.parts.get? part = some q) : ResetOf s (s.resetPart part) part := by
  rw [s.resetPart_eq here]
  generalize hu : s.resetWork part = u
  have parts := (u.resetFields part).modPart_rest part fun p => { p with images := [], out := false }
  have fields := u.resetFields_rest part
  generalize (u.resetFields part).modPart part (fun p => { p with images := [], out := false }) = v at parts
  have cores : v.cores = u.cores := (congrArg State.cores parts :).trans (congrArg State.cores fields :)
  have load := v.chansAlone_loadService part
  generalize v.loadService part = w at load
  have ctl : w.ctl = u.ctl := (congrArg State.ctl load.rest :).trans
    ((congrArg State.ctl parts :).trans (congrArg State.ctl fields :))
  have was : u.ctl = _ := hu ▸ s.resetWork_ctl part
  refine ⟨?_, ?_, fun c mine => ?_⟩
  · show { w.ctl with reports := s.ctl.reports, faults := s.ctl.faults } = s.ctl
    rw [ctl, was]
  · show s.ctl.reports <+: w.ctl.reports ++ [.resetAnswer part]
    rw [ctl, was, List.append_assoc]
    exact List.prefix_append _ _
  · have core : v.core c = CoreSt.reset := by
      rw [State.core, cores, ← hu]
      exact s.core_resetWork mine
    have e := congrArg (fun co : CoreSt => { co with chans := [] }) (load.cores c)
    rw [core] at e
    exact e

theorem State.resetAll_one (s : State) {part : Nat} {q : PartSt} (alone : s.parts = [(part, q)]) : s.resetAll = s.resetPart part := by
  rw [State.resetAll, alone]
  rfl

/-- An alarm of a source has been told, and has erased the keys where the policy says so (R283). -/
def Alarmed (s t : State) (src : Nat) : Prop :=
  (t.ctl.identity = (if s.ctl.policy.getLsbD src then none else s.ctl.identity) ∧
    t.ctl.attestation = (if s.ctl.policy.getLsbD src then none else s.ctl.attestation)) ∧
  .alarm src ∈ t.ctl.reports.drop s.ctl.reports.length

theorem State.alarmed (s : State) (src : Nat) : Alarmed s (s.alarm src) src := by
  rw [s.alarmed_eq]
  refine ⟨⟨rfl, rfl⟩, ?_⟩
  show Report.alarm src ∈ (s.ctl.reports ++ [Report.alarm src]).drop s.ctl.reports.length
  rw [List.drop_left]
  exact List.mem_singleton.2 rfl

/-- What comes after an alarm, and keeps the keys and what has been reported, leaves it told. -/
theorem Alarmed.kept {s t u : State} {src : Nat} (h : Alarmed s t src) (identity : u.ctl.identity = t.ctl.identity)
    (attestation : u.ctl.attestation = t.ctl.attestation) (reports : t.ctl.reports <+: u.ctl.reports) : Alarmed s u src := by
  obtain ⟨⟨i, a⟩, told⟩ := h
  refine ⟨⟨identity.trans i, attestation.trans a⟩, ?_⟩
  obtain ⟨more, e⟩ := reports
  rw [← e]
  rw [List.drop_append]
  exact List.mem_append_left _ told

theorem State.alarmed_reset (s : State) (src : Nat) {part : Nat} {q : PartSt} (here : s.parts.get? part = some q) :
    Alarmed s ((s.alarm src).resetPart part) src ∧
    ∀ c, sgIn s part (sgOf c) = true → { ((s.alarm src).resetPart part).core c with chans := [] } = CoreSt.reset := by
  have parts : (s.alarm src).parts = s.parts := by rw [s.alarmed_eq]
  have sgs (sg : Nat) : sgIn (s.alarm src) part sg = sgIn s part sg := by rw [s.alarmed_eq]; rfl
  have reset := (s.alarm src).resetOf (parts ▸ here)
  refine ⟨(s.alarmed src).kept (congrArg Ctl.identity reset.ctl :) (congrArg Ctl.attestation reset.ctl :) reset.reports, fun c mine => ?_⟩
  exact reset.cleared c ((sgs _).trans mine)

/-! ### The answer to a fault -/

/-- A field of the upper half of a word. -/
theorem extractLsb'_high {x : Word} {lo : Nat} (h : lo + 16 ≤ 32) :
    (x.extractLsb' 32 32).extractLsb' lo 16 = x.extractLsb' (32 + lo) 16 := by
  apply BitVec.eq_of_getLsbD_eq
  intro i hi
  have inside : lo + i < 32 := by omega
  simp only [BitVec.getLsbD_extractLsb', hi, inside, decide_true, Bool.true_and, Nat.add_assoc]

/-- The header of a fault reply (R93, R172). -/
def replyHdr (mark slot sender : Nat) : Word := delivered (BitVec.ofNat 64 (mark * 2 ^ 48 + slot * 2 ^ 32 + 62 * 512 + 256)) sender 0 1

theorem replyHdr_fields {mark slot : Nat} (sender : Nat) (hm : mark < 2 ^ 16) (hs : slot < 4) :
    (replyHdr mark slot sender).extractLsb' 32 16 = BitVec.ofNat 16 slot ∧
    ((replyHdr mark slot sender).extractLsb' 48 16).toNat = mark ∧ hdrPrio (replyHdr mark slot sender) = true ∧
    (replyHdr mark slot sender).getLsbD 5 = false := by
  obtain ⟨label, -, dest, -⟩ := delivered_fields (BitVec.ofNat 64 (mark * 2 ^ 48 + slot * 2 ^ 32 + 62 * 512 + 256)) sender 0 1
  have part (lo : Nat) (h : lo + 16 ≤ 32) : (replyHdr mark slot sender).extractLsb' (32 + lo) 16 =
      (BitVec.ofNat 64 (mark * 2 ^ 48 + slot * 2 ^ 32 + 62 * 512 + 256)).extractLsb' (32 + lo) 16 := by
    have e := congrArg (BitVec.extractLsb' lo 16) label
    rwa [extractLsb'_high h, extractLsb'_high h] at e
  refine ⟨(part 0 (by decide)).trans ?_, ?_, ?_, ?_⟩
  · apply BitVec.eq_of_toNat_eq
    rw [BitVec.extractLsb'_toNat, BitVec.toNat_ofNat, BitVec.toNat_ofNat, Nat.shiftRight_eq_div_pow]
    omega
  · rw [part 16 (by decide), BitVec.extractLsb'_toNat, BitVec.toNat_ofNat, Nat.shiftRight_eq_div_pow]
    omega
  · rw [hdrPrio_eq, replyHdr, dest, ← hdrPrio_eq, hdrPrio, BitVec.getLsbD_ofNat, Nat.testBit_eq_decide_div_mod_eq,
      Bool.and_eq_true, decide_eq_true_eq, decide_eq_true_eq]
    omega
  · simp only [replyHdr, delivered, BitVec.getLsbD_append]
    rfl
/-- A fault has been answered (R335): the reply is under way, the fault is settled, and no slot has changed. -/
def FaultAnswered (s t : State) (k : Nat) (f : HeldFault) (v : Nat) : Prop :=
  ∃ y, t.net = s.net ++ [y] ∧ y.src = .controller ∧ isReply y (if f.copy then 0xFFFE else 0xFFFF) = true ∧
    (∃ h, y.body = .chan f.core 62 h [BitVec.ofNat 64 v] none ∧ h.extractLsb' 32 16 = BitVec.ofNat 16 f.slot) ∧
    t.ctl.faults = s.ctl.faults.del k ∧ ∀ d j, t.slotOf d j = s.slotOf d j

theorem State.faultAnswered {s u : State} (net : u.net = s.net) (ctl : u.ctl = s.ctl) (cores : u.cores = s.cores) (k : Nat) {f : HeldFault}
    (slot : f.slot < 4) (v : Nat) : FaultAnswered s (u.answerFault k f v) k f v := by
  have mark : (if f.copy then markCopy else markSlot) < 2 ^ 16 := by split <;> decide
  obtain ⟨label, at_, prio, short⟩ := replyHdr_fields (serviceCore (sgOf f.core)) mark slot
  refine ⟨⟨u.nextId, .controller, false, false, .chan f.core 62 (replyHdr (if f.copy then markCopy else markSlot) f.slot
    (serviceCore (sgOf f.core))) [BitVec.ofNat 64 v] none⟩, ?_, rfl, ?_, ⟨_, rfl, label⟩, ?_, ?_⟩
  · rw [← net]; rfl
  · simp only [isReply, prio, short, at_]
    cases f.copy <;> rfl
  · rw [← ctl]; rfl
  · exact fun d j => State.slotOf_of_cores cores d j

theorem accOfNum_fetch (n : Nat) : (accOfNum n == .fetch) = decide (n = 2) := by
  match n with
  | 0 | 1 | 2 | 3 | 4 | _ + 5 => rfl

/-- The answer to a fault whose page is there (R335, R286). -/
def faultVerdict (f : HeldFault) (l : Leaf) : Nat :=
  if f.moved || leafAllows l (accOfNum f.kind) then 0 else if f.kind = 2 then 2 else 1

theorem presentAnswer_eq {f : HeldFault} (l : Leaf) (still : f.moved = false) : presentAnswer l (accOfNum f.kind) = faultVerdict f l := by
  simp only [presentAnswer, faultVerdict, still, Bool.false_or, accOfNum_fetch, decide_eq_true_eq]

theorem State.answerLeaf_direct (s : State) (k : Nat) (f : HeldFault) (part pn : Nat) (l : Leaf)
    (plain : f.moved = true ∨ (l.state == .discarded && ((accOfNum f.kind).writes || accOfNum f.kind == .fetch)) = false) :
    s.answerLeaf k f part pn l = s.answerFault k f (faultVerdict f l) := by
  unfold State.answerLeaf
  cases moved : f.moved with
  | true =>
    rw [faultVerdict, moved]
    rfl
  | false =>
    rw [moved] at plain
    simp only [plain.resolve_left Bool.false_ne_true, Bool.false_eq_true, if_false, presentAnswer_eq l moved]

theorem State.answerLeaf_zeroes (s : State) (k : Nat) (f : HeldFault) (part pn : Nat) (l : Leaf) (still : f.moved = false)
    (discarded : l.state = .discarded) (writes : accOfNum f.kind ≠ .load) (wide : accOfNum f.kind ≠ .vload) :
    s.answerLeaf k f part pn l = (s.zeroPage part pn).answerFault k f (faultVerdict f l) := by
  have takes : ((accOfNum f.kind).writes || accOfNum f.kind == .fetch) = true := by
    revert writes wide
    cases accOfNum f.kind <;> decide
  unfold State.answerLeaf
  simp only [still, discarded, takes, beq_self_eq_true, Bool.and_self, Bool.false_eq_true, if_false, if_true, presentAnswer_eq l still]

/-! ### A page that is zero-filled -/

theorem memGet_filter_of (base : Nat → Byte) (m : List Host.Cell) {has : Nat → Bool} {x : Nat} (h : has x = true) :
    memGet base (m.filter fun c => !has c.1) x = base x := by
  induction m with
  | nil => rfl
  | cons c m ih =>
    obtain ⟨k, b⟩ := c
    cases hk : has k with
    | true => rwa [List.filter_cons_of_neg (by simp [hk])]
    | false =>
      rw [List.filter_cons_of_pos (by simp [hk]), memGet, if_neg (by rintro rfl; rw [h] at hk; cases hk)]
      exact ih

/-- Memory with a range of zeros (R94). -/
def State.zeroed (s : State) (key n : Nat) : State :=
  let has := fun k => decide (key ≤ k) && decide (k < key + n)
  (s.newContents has s.lost (if s.lost.isEmpty then [] else (span key n).map fun k => (k, 0))).clearBads has

theorem State.byte_zeroed (s : State) {key n k : Nat} (low : key ≤ k) (high : k < key + n) : (s.zeroed key n).byte k = 0 := by
  have inside : (decide (key ≤ k) && decide (k < key + n)) = true := by rw [decide_eq_true low, decide_eq_true high]; rfl
  have rest : memGet (baseOf s.lost) (s.mem.filter fun c => !(decide (key ≤ c.1) && decide (c.1 < key + n))) k = baseOf s.lost k :=
    memGet_filter_of _ _ (has := fun k => decide (key ≤ k) && decide (k < key + n)) inside
  show memGet (baseOf s.lost) (memWrite (baseOf s.lost) (s.mem.filter fun c => !(decide (key ≤ c.1) && decide (c.1 < key + n)))
    (if s.lost.isEmpty then [] else (span key n).map fun k => (k, 0))) k = 0
  split
  · next none =>
    rw [List.isEmpty_iff] at none
    refine rest.trans ?_
    rw [none]
    rfl
  · refine memGet_memWrite_of_unique _ _ _ ?_ ?_
    · rw [List.map_map, List.mem_map]
      exact ⟨k, mem_span.2 ⟨k - key, by omega, by omega⟩, rfl⟩
    · intro c hc _
      obtain ⟨i, -, rfl⟩ := List.mem_map.1 hc
      rfl

theorem State.zeroPage_eq {s : State} {part pn : Nat} {l : Leaf} (leaf : leafOf (s.pageTable (some part)) pn = some l) :
    s.zeroPage part pn = (s.zeroed (leafKey s l ((if l.big then pn - pn % 32 else pn) * 0x10000)) (if l.big then 0x200000 else 0x10000)).setLeaf
      part (if l.big then pn - pn % 32 else pn) { l with state := .present } := by
  rw [State.zeroPage, leaf]
  rfl

theorem State.setLeaf_rest (s : State) (part pn : Nat) (l : Leaf) : { s.setLeaf part pn l with parts := s.parts } = s :=
  s.modPart_rest part _

theorem State.setLeaf_parts {s : State} {part : Nat} {q : PartSt} (here : s.parts.get? part = some q) (pn : Nat) (l : Leaf) :
    (s.setLeaf part pn l).parts = s.parts.put part { q with pages := putLeaf (freshTables s 3) q.pages pn l } := by
  rw [State.setLeaf, State.modPart, here]

theorem State.setLeaf_pageTable {s : State} {part : Nat} {q : PartSt} (here : s.parts.get? part = some q) (pn : Nat) (l : Leaf) :
    (s.setLeaf part pn l).pageTable (some part) = putLeaf (freshTables s 3) q.pages pn l := by
  rw [State.pageTable, s.setLeaf_parts here, AMap.get?_put_self]

/-! ### The owner's page table -/

/-- A partition may be given a leaf (R285, R286). -/
def maySee (s : State) (q : PartSt) (l : Leaf) : Prop := (l.tier = .second → q.cap.getLsbD 9 = true) ∧ mayMap s l = true

theorem maySee_iff (s : State) (q : PartSt) (l : Leaf) : (tierOk q l && mayMap s l) = true ↔ maySee s q l := by
  rw [Bool.and_eq_true, maySee, tierOk, Bool.or_eq_true, Bool.not_eq_true', beq_eq_false_iff_ne, ne_eq, imp_iff_not_or]

theorem maySee.fits {s : State} {q : PartSt} {l : Leaf} (h : maySee s q l) : leafFits l = true := (Bool.and_eq_true_iff.1 h.2).1

/-- The page table of a partition holds a leaf (R286). -/
def Maps (s t : State) (part : Nat) (q : PartSt) (pn : Nat) (l : Leaf) : Prop :=
  ∃ pt, t.parts = s.parts.put part { q with pages := pt } ∧ PutIn q.pages pt pn l

theorem State.setLeaf_maps {s : State} {part : Nat} {q : PartSt} (here : s.parts.get? part = some q) (tidy : TidyTable q.pages) (pn : Nat)
    {l : Leaf} (fits : leafFits l = true) : Maps s (s.setLeaf part pn l) part q pn l :=
  ⟨_, State.setLeaf_parts here pn l, putLeaf_putIn tidy _ pn fits⟩

section
variable {s : State} {part : Nat} {q : PartSt} (here : s.parts.get? part = some q)
include here

theorem exec_translationChange_none (pn : Nat) :
    exec (.translationChange part pn none) s = .next (s.modPart part fun p => { p with pages := dropLeaf p.pages pn }) := by
  show execTranslationChange part pn none s = _
  simp only [execTranslationChange, here]

theorem exec_translationChange_some (pn : Nat) (l : Leaf) :
    exec (.translationChange part pn (some l)) s = .next (if tierOk q l && mayMap s l then s.setLeaf part pn l else s) := by
  show execTranslationChange part pn (some l) s = _
  simp only [execTranslationChange, here]

/-- What the removal of a page's leaf leaves (R286). -/
theorem State.dropped (pn : Nat) :
    let t := s.modPart part fun p => { p with pages := dropLeaf p.pages pn }
    { t with parts := s.parts } = s ∧ (t.parts.get? part).map PartSt.pages = some (dropLeaf q.pages pn) := by
  refine ⟨s.modPart_rest part _, ?_⟩
  rw [State.modPart, here]
  exact congrArg (Option.map PartSt.pages) (AMap.get?_put_self _ _ _)

end

/-! ### What answers a fault -/

/-- What the controller does with a fault that has come before it, by the leaf of its page (R335). -/
def State.faultStep (s : State) (k : Nat) (f : HeldFault) (part : Nat) : Option Leaf → State
  | none => if f.asked then s else s.absent k f false
  | some l => match l.state with
    | .present | .discarded => s.answerLeaf k f part (f.va.toNat / 0x10000) l
    | .moving => { s with ctl := { s.ctl with faults := s.ctl.faults.put k { f with moved := true } } }
    | .notPresent => if f.asked && !l.lost then s else s.absent k f l.lost

theorem exec_ownerDeclines {s : State} {k : Nat} {f : HeldFault} (held : s.ctl.faults.get? k = some f) (asked : f.asked = true) :
    exec (.ownerMapDecision k none) s = .next (s.answerFault k f 1) := by
  show execOwnerMapDecision k none s = _
  simp only [execOwnerMapDecision, held, asked, Bool.not_true, Bool.false_eq_true, if_false]

section
variable {s : State} {f : HeldFault} {part : Nat} {q : PartSt} (owner : corePart s f.core = some part) (here : s.parts.get? part = some q)
include owner here

theorem exec_controllerFaultAnswer {k : Nat} (held : s.ctl.faults.get? k = some f) (seen : f.seen = true) {leaf : Option Leaf}
    (found : leafOf q.pages (f.va.toNat / 0x10000) = leaf) :
    exec (.controllerFaultAnswer k) s = .next (s.faultStep k f part leaf) := by
  have pages : s.pageTable (corePart s f.core) = q.pages := by rw [owner, State.pageTable, here]
  show execControllerFaultAnswer k s = _
  rw [execControllerFaultAnswer, held]
  dsimp only
  rw [if_neg (by rw [seen]; decide), pages, found, owner]
  cases leaf with
  | none => rfl
  | some l =>
    dsimp only [State.faultStep]
    cases l.state <;> rfl

theorem exec_ownerMaps {k : Nat} (held : s.ctl.faults.get? k = some f) (asked : f.asked = true) (l : Leaf) :
    exec (.ownerMapDecision k (some l)) s = .next (if tierOk q l && mayMap s l then
      if l.state == .present then (s.setLeaf part (f.va.toNat / 0x10000) l).answerLeaf k f part (f.va.toNat / 0x10000) l
      else s.setLeaf part (f.va.toNat / 0x10000) l
    else s) := by
  show execOwnerMapDecision k (some l) s = _
  rw [execOwnerMapDecision, held]
  dsimp only
  rw [if_neg (by rw [asked]; decide), owner, Option.bind_some, here, Option.map_some]
  dsimp only
  cases tierOk q l && mayMap s l <;> rfl

theorem State.absent_asks (k : Nat) (asks : q.askFaults = true) : s.absent k f false = { s with ctl := { s.ctl with
    faults := s.ctl.faults.put k { f with asked := true }, reports := s.ctl.reports ++ [.pageFault part f.va.toNat] } } := by
  simp only [State.absent, owner, here, asks, Option.getD_some, Option.map_some, Bool.not_false, Bool.and_self, if_true]
  rfl

theorem State.absent_answers (k : Nat) {lost : Bool} (silent : q.askFaults = false ∨ lost = true) :
    s.absent k f lost = s.answerFault k f 1 := by
  have no : (q.askFaults && !lost) = false := by
    rcases silent with h | h
    · rw [h, Bool.false_and]
    · rw [h, Bool.not_true, Bool.and_false]
  simp only [State.absent, owner, here, Option.getD_some, Option.map_some, no, Bool.false_eq_true, if_false]

end

/-- A page that is away, and not lost: the owner is asked where it wishes to be, and once. -/
theorem State.faultStep_away (s : State) (k : Nat) (f : HeldFault) (part : Nat) {leaf : Option Leaf}
    (away : leaf = none ∨ ∃ l, leaf = some l ∧ l.state = .notPresent ∧ l.lost = false) :
    s.faultStep k f part leaf = if f.asked then s else s.absent k f false := by
  rcases away with rfl | ⟨l, rfl, state, lost⟩
  · rfl
  · simp only [State.faultStep, state, lost, Bool.not_false, Bool.and_true]

/-- A page of a tidy table that becomes present, at its place, is found as it was else (R94). -/
theorem leafOf_putPresent {pt : PageTable} (tidy : TidyTable pt) (fresh : List Nat) {pn : Nat} {l : Leaf} (leaf : leafOf pt pn = some l) :
    leafOf (putLeaf fresh pt (if l.big then pn - pn % 32 else pn) { l with state := .present }) pn = some { l with state := .present } := by
  obtain ⟨fits, -, -⟩ := leafOf_fits leaf
  have fits' : leafFits { l with state := .present } = true := fits
  rw [(putLeaf_putIn tidy fresh _ fits').2]
  cases big : l.big with
  | true =>
    have aligned := tidy.big pn l leaf big
    rw [leafPut_big pt (by rw [if_pos rfl]; omega) rfl, aligned, Nat.sub_zero]
  | false =>
    rw [if_neg Bool.false_ne_true, leafPut_self pt rfl, seenLeaf, if_neg fun e => PageState.noConfusion (congrArg Leaf.state e)]

/-- What the access to a discarded page that needs its bytes leaves (R94, R335). -/
theorem State.answerLeaf_discarded {s : State} {f : HeldFault} {part : Nat} {q : PartSt} (here : s.parts.get? part = some q)
    (tidy : TidyTable q.pages) (k : Nat) {pn : Nat} {l : Leaf} (slot : f.slot < 4)
    (leaf : leafOf q.pages pn = some l) (state : l.state = .discarded) (load : accOfNum f.kind ≠ .load) (wide : accOfNum f.kind ≠ .vload)
    (still : f.moved = false) :
    let t := s.answerLeaf k f part pn l
    FaultAnswered s t k f (faultVerdict f l) ∧
    (∀ o, o < 0x10000 → l.big = false → t.byte (leafKey s l (pn * 0x10000) + o) = 0) ∧
    leafOf (t.pageTable (some part)) pn = some { l with state := .present } := by
  intro t
  have found : leafOf (s.pageTable (some part)) pn = some l := by rw [State.pageTable, here, leaf]
  have run : t = _ := s.answerLeaf_zeroes k f part pn l still state load wide
  rw [State.zeroPage_eq found] at run
  obtain ⟨key, hkey⟩ : ∃ key, key = leafKey s l ((if l.big then pn - pn % 32 else pn) * 0x10000) := ⟨_, rfl⟩
  obtain ⟨n, hn⟩ : ∃ n, n = if l.big then 0x200000 else 0x10000 := ⟨_, rfl⟩
  rw [← hkey, ← hn] at run
  have rest := (s.zeroed key n).setLeaf_rest part (if l.big then pn - pn % 32 else pn) { l with state := .present }
  have table := State.setLeaf_pageTable (s := s.zeroed key n) here (if l.big then pn - pn % 32 else pn) { l with state := .present }
  generalize (s.zeroed key n).setLeaf part (if l.big then pn - pn % 32 else pn) { l with state := .present } = u at run rest table
  clear_value t
  subst run
  refine ⟨State.faultAnswered (congrArg State.net rest :) (congrArg State.ctl rest :) (congrArg State.cores rest :) k slot _,
    fun o low small => ?_, ?_⟩
  · have byte : u.byte (leafKey s l (pn * 0x10000) + o) = (s.zeroed key n).byte (leafKey s l (pn * 0x10000) + o) :=
      (congrArg (fun v : State => v.byte (leafKey s l (pn * 0x10000) + o)) rest :)
    rw [small, if_neg Bool.false_ne_true] at hkey hn
    refine byte.trans (State.byte_zeroed s ?_ ?_)
    · rw [hkey]; exact Nat.le_add_right _ _
    · rw [hkey, hn]; exact Nat.add_lt_add_left low _
  · show leafOf (u.pageTable (some part)) pn = _
    rw [table]
    exact leafOf_putPresent tidy _ leaf

/-! ### What the controller does -/

theorem ite_swap {α : Type} {p r : Prop} [Decidable p] [Decidable r] (h : p ↔ ¬r) (a b : α) : (if p then a else b) = if r then b else a := by
  by_cases hr : r
  · rw [if_pos hr, if_neg fun hp => h.1 hp hr]
  · rw [if_neg hr, if_pos (h.2 hr)]

/-- What a cold boot that ends in a phase leaves (R279 to R281): the controller has only reported, and erased keys. -/
structure Booted (s t : State) (rep : BootReport) (n : Nat) : Prop where
  rest : { t with ctl := bootedCtl s.ctl rep n } = s.booted rep n
  ctl : { t.ctl with reports := [], identity := s.ctl.identity, attestation := s.ctl.attestation } = bootedCtl s.ctl rep n
  silent : n = 7 → t.ctl.reports = []
  failed : n ≠ 7 → t.ctl.reports.head? = some (.bootFailed n)
  kept : n = 3 ∨ n = 7 → t.ctl.identity = s.ctl.identity ∧ t.ctl.attestation = s.ctl.attestation
  erased : n = 1 ∨ n = 5 → t.ctl.identity = (if s.ctl.policy.getLsbD 0 then none else s.ctl.identity) ∧
    t.ctl.attestation = (if s.ctl.policy.getLsbD 0 then none else s.ctl.attestation)

theorem State.booted_reported (s : State) (rep : BootReport) (n : Nat) : Booted s ((s.booted rep n).bootReported n) rep n := by
  unfold State.bootReported
  split
  · next whole => exact ⟨rfl, rfl, fun _ => rfl, fun h => absurd whole h, fun _ => ⟨rfl, rfl⟩, fun h => by omega⟩
  · next part =>
    split
    · rw [State.alarmed_eq]
      exact ⟨rfl, rfl, fun h => absurd h part, fun _ => rfl, fun h => by omega, fun _ => ⟨rfl, rfl⟩⟩
    · next other => exact ⟨rfl, rfl, fun h => absurd h part, fun _ => rfl, fun _ => ⟨rfl, rfl⟩, fun h => absurd h other⟩

theorem exec_attestationRequest {s : State} {i a : PrivKey} (identity : s.ctl.identity = some i) (attestation : s.ctl.attestation = some a)
    (part : Nat) (nonce : List Byte) :
    let quoted := nonce64 nonce ++ measurements s part
    exec (.attestationRequest part nonce) s = .next ({ s with free := s.free + 128 }.tell
      (.quote part quoted (signWith a quoted (saltAt s.free)) (certChain i a (saltAt (s.free + 64))))) := by
  show execAttestationRequest part nonce s = _
  simp only [execAttestationRequest, identity, attestation]

theorem exec_attestationRequest_keyless {s : State} (erased : s.ctl.identity = none ∨ s.ctl.attestation = none) (part : Nat)
    (nonce : List Byte) : exec (.attestationRequest part nonce) s = .next (s.tell .keyless) := by
  show execAttestationRequest part nonce s = _
  rcases erased with h | h
  · simp only [execAttestationRequest, h]
  · cases identity : s.ctl.identity <;> simp only [execAttestationRequest, h, identity]

theorem length_saltAt (n : Nat) : (saltAt n).length = 64 := by rw [saltAt, List.length_map, List.length_range]

theorem exec_policyWrite_unsigned {s : State} (none : s.ctl.keys.get? 0 = none) (bits : BitVec 6) (sig : List Byte) :
    exec (.policyWrite bits sig) s = .next (s.tell (.policy false)) := by
  show execPolicyWrite bits sig s = _
  simp only [execPolicyWrite, none]

/-- A policy is taken where its request is signed with the key in slot 0 (R283). -/
theorem exec_policyWrite {s : State} {key : List Byte} (held : s.ctl.keys.get? 0 = some key) (bits : BitVec 6) (sig : List Byte) :
    let good := verify key [bits.setWidth 8] sig
    exec (.policyWrite bits sig) s = .next { s with ctl := { s.ctl with
      policy := if good then bits else s.ctl.policy, reports := s.ctl.reports ++ [.policy good] } } := by
  have byte : bytesOf 1 bits.toNat = [bits.setWidth 8] := by
    show [BitVec.ofNat 8 bits.toNat] = _
    rw [BitVec.ofNat_toNat]
  show execPolicyWrite bits sig s = _
  simp only [execPolicyWrite, held, byte]
  cases verify key [bits.setWidth 8] sig <;> rfl

/-- Settles O59: the cold boot by its phases, keys and quotes field by field, each alarm and its reset, the page table by what each page
finds after a leaf is set or dropped, and the answers to faults by the state of the page. -/
theorem theControllerBootsAttestsAndAnswersFaults : Obligations.TheControllerBootsAttestsAndAnswersFaults := by
  unfold Obligations.TheControllerBootsAttestsAndAnswersFaults
  intro s rep slot part pn k pos fl key nonce sig bits f l q tells erased alarmed cleared seen mapped maps visible found answers acc verdict
  refine ⟨?_, rfl, fun erased => ?_, fun i a identity attestation => ?_, fun good signed => ?_,
    fun alone => ?_, fun none => ?_, ?_, fun here => ?_, fun held owner here _ low tidy => ?_⟩
  · obtain ⟨t, run, boot⟩ : ∃ t, exec (.coldBoot rep) s = .next t ∧ Booted s t found (bootPhase s.ctl.rootDigest found) :=
      ⟨_, exec_coldBoot s rep, s.booted_reported _ _⟩
    refine ⟨t, run, (congrArg State.parts boot.rest :), (congrArg State.cores boot.rest :),
      (congrArg State.clusters boot.rest :), (congrArg State.rings boot.rest :), (congrArg State.fields boot.rest :),
      (congrArg State.queues boot.rest :), (congrArg State.net boot.rest :), (congrArg State.hidden boot.rest :),
      (congrArg Ctl.keys boot.ctl :), (congrArg Ctl.policy boot.ctl :), (congrArg Ctl.failed boot.ctl :), ?_⟩
    intro good signed n
    have phase : bootPhase s.ctl.rootDigest found = n := bootPhase_eq s.ctl.rootDigest found
    rw [phase] at boot
    have phases := bootPhase_cases s.ctl.rootDigest found
    rw [phase] at phases
    clear_value n
    refine ⟨(congrArg Ctl.phase boot.ctl :), (congrArg Ctl.repair boot.ctl :).trans ?_, (congrArg Ctl.holes boot.ctl :).trans ?_,
      (congrArg Ctl.badPorts boot.ctl :).trans ?_, fun low => (congrArg Ctl.silo boot.ctl :).trans (if_neg (by omega)),
      boot.silent, boot.failed, (congrArg Ctl.rootDigest boot.ctl :), (congrArg Ctl.deadElevators boot.ctl :).trans ?_,
      fun first => (congrArg Ctl.images boot.ctl :).trans ?_, fun whole => (congrArg Ctl.images boot.ctl :).trans ?_,
      boot.kept, boot.erased⟩
    · exact ite_swap (by omega) _ _
    · exact ite_swap (by omega) _ _
    · exact if_congr (by omega) rfl rfl
    · exact ite_swap (by omega) _ _
    · rw [first]
      rfl
    · rw [whole]
      rfl
  · exact exec_attestationRequest_keyless erased part nonce
  · intro quoted
    refine ⟨saltAt s.free, saltAt (s.free + 64), s.free + 128, length_saltAt _, length_saltAt _, ?_⟩
    have same : nonce64 nonce ++ measurements s part = quoted := by
      simp only [measurements, nonce64, quoted, List.flatMap_def]
    exact same ▸ exec_attestationRequest identity attestation part nonce
  · cases held : s.ctl.keys.get? 0 with
    | none =>
      rw [held] at signed
      subst signed
      exact exec_policyWrite_unsigned held bits sig
    | some key =>
      rw [held] at signed
      subst signed
      exact exec_policyWrite held bits sig
  · have here : s.parts.get? part = some q := by rw [alone, AMap.get?, if_pos rfl]
    have all (src : Nat) : (s.alarm src).resetAll = (s.alarm src).resetPart part :=
      (s.alarm src).resetAll_one (q := q) (by rw [s.alarmed_eq]; exact alone)
    refine ⟨⟨_, congrArg Host.Outcome.next (all 2), s.alarmed_reset 2 here⟩, ⟨_, congrArg Host.Outcome.next (all 5), s.alarmed_reset 5 here⟩,
      fun mine => ⟨_, ?_, s.alarmed_reset 3 here⟩⟩
    show execClockGlitch fl s = _
    rw [execClockGlitch, mine]
  · refine ⟨s.alarm 3, ?_, s.alarmed 3, by rw [s.alarmed_eq]⟩
    show execClockGlitch fl s = _
    rw [execClockGlitch, none]
  · refine ⟨_, rfl, (s.alarmed 4).kept rfl rfl ⟨[.canary pos], rfl⟩, ?_, ?_, ?_⟩
    · exact List.mem_append_right _ (List.mem_singleton.2 rfl)
    · show (s.alarm 4).ctl.repair ++ [pos] = _
      rw [s.alarmed_eq]
      rfl
    · have rest : { s.alarm 4 with ctl := s.ctl } = s := by rw [s.alarmed_eq]
      exact rest
  · refine ⟨?_, fun hides => ?_, fun sees tidy => ?_⟩
    · obtain ⟨rest, pages⟩ := State.dropped here pn
      exact ⟨_, _, exec_translationChange_none here pn, rest, pages, leafOf_dropLeaf_self q.pages pn,
        fun m other => leafOf_dropLeaf_ne q.pages other⟩
    · exact (exec_translationChange_some here pn l).trans (congrArg Host.Outcome.next (if_neg (mt (maySee_iff s q l).1 hides)))
    · exact ⟨_, (exec_translationChange_some here pn l).trans (congrArg Host.Outcome.next (if_pos ((maySee_iff s q l).2 sees))),
        State.setLeaf_maps here tidy pn (maySee.fits sees), s.setLeaf_rest part pn l⟩
  · intro pg away
    have answered (u : State) (rest : { u with parts := s.parts } = s) (v : Nat) : FaultAnswered s (u.answerFault k f v) k f v :=
      State.faultAnswered (congrArg State.net rest :) (congrArg State.ctl rest :) (congrArg State.cores rest :) k low v
    have gone (h : away) : leafOf q.pages pg = none ∨ ∃ l, leafOf q.pages pg = some l ∧ l.state = .notPresent ∧ l.lost = false :=
      h.imp_right fun h => ⟨l, h⟩
    have step (seen : f.seen = true) := exec_controllerFaultAnswer owner here held seen (leaf := leafOf q.pages pg) rfl
    refine ⟨fun seen => ⟨fun leaf state => ?_, fun leaf state => ?_, fun leaf state reads => ?_, fun leaf state load wide still => ?_,
      fun leaf state lost => ?_, fun h asked => ?_, fun h asked silent => ?_, fun h asked asks => ?_⟩,
      fun asked => ⟨?_, fun hides => ?_, fun sees state => ?_, fun sees state => ?_⟩⟩
    · have run := step seen
      rw [leaf, State.faultStep, state] at run
      have direct := s.answerLeaf_direct k f part pg l (.inr (by rw [state]; rfl))
      exact ⟨_, ⟨run.trans (congrArg Host.Outcome.next direct), answered s rfl _⟩, rfl⟩
    · have run := step seen
      rw [leaf, State.faultStep, state] at run
      exact run
    · have run := step seen
      rw [leaf, State.faultStep, state] at run
      have plain : f.moved = true ∨ (l.state == .discarded && ((accOfNum f.kind).writes || accOfNum f.kind == .fetch)) = false := by
        rcases reads with read | read | moved
        · exact .inr (by rw [show accOfNum f.kind = .load from read, state]; rfl)
        · exact .inr (by rw [show accOfNum f.kind = .vload from read, state]; rfl)
        · exact .inl moved
      exact ⟨_, ⟨run.trans (congrArg Host.Outcome.next (s.answerLeaf_direct k f part pg l plain)), answered s rfl _⟩, rfl⟩
    · have run := step seen
      rw [leaf, State.faultStep, state] at run
      obtain ⟨told, zeros, there⟩ := State.answerLeaf_discarded here tidy k low leaf state load wide still
      exact ⟨_, ⟨run, told⟩, zeros, there⟩
    · have run := step seen
      rw [leaf, State.faultStep, state, lost] at run
      have run := run.trans (congrArg Host.Outcome.next (if_neg (by rw [Bool.not_true, Bool.and_false]; decide)))
      exact ⟨_, ⟨run.trans (congrArg Host.Outcome.next (State.absent_answers owner here k (.inr rfl))), answered s rfl _⟩, rfl⟩
    · have run := step seen
      rw [s.faultStep_away k f part (gone h), if_pos asked] at run
      exact run
    · have run := step seen
      rw [s.faultStep_away k f part (gone h), if_neg (by rw [asked]; decide), State.absent_answers owner here k (.inl silent)] at run
      exact ⟨_, ⟨run, answered s rfl _⟩, rfl⟩
    · have run := step seen
      rw [s.faultStep_away k f part (gone h), if_neg (by rw [asked]; decide), State.absent_asks owner here k asks] at run
      exact run
    · exact ⟨_, ⟨exec_ownerDeclines held asked, answered s rfl _⟩, rfl⟩
    · exact (exec_ownerMaps owner here held asked l).trans (congrArg Host.Outcome.next (if_neg (mt (maySee_iff s q l).1 hides)))
    · have run := exec_ownerMaps owner here held asked l
      rw [if_pos ((maySee_iff s q l).2 sees), state, beq_self_eq_true, if_pos rfl,
        State.answerLeaf_direct _ k f part pg l (.inr (by rw [state]; rfl))] at run
      exact ⟨_, ⟨run, answered _ (s.setLeaf_rest part pg l) _⟩, State.setLeaf_maps here tidy pg (maySee.fits sees)⟩
    · have run := exec_ownerMaps owner here held asked l
      rw [if_pos ((maySee_iff s q l).2 sees), if_neg (by rw [beq_iff_eq]; exact state)] at run
      exact ⟨_, run, State.setLeaf_maps here tidy pg (maySee.fits sees), s.setLeaf_rest part pg l⟩

end Sys2Proof.Machine
end
